-- ==== Sys2Proof/Word.lean ====
section
/-! DEFINITION. Words, bytes, coordinates and the sparse table type. -/

namespace Sys2Proof

abbrev Byte := BitVec 8
abbrev W32 := BitVec 32
abbrev W64 := BitVec 64

/-- A sparse table: key and value pairs, keys strictly rising, no entry equal to the table's default
(the default is an argument of every operation, `Tab.get` and `Tab.set` in Machine/Ops.lean). -/
abbrev Tab (α : Type) := List (Nat × α)

/-- A torus coordinate (Table 16-2, DEST and SRC). -/
structure Coord where
  x : Nat
  y : Nat
  z : Nat
  deriving DecidableEq, Repr

end Sys2Proof
end

