-- ==== Sys2Proof/Syntax.lean ====
section
/-! DEFINITION. The commands of the block: one constructor of `Instr` per row of spec/opcode_table.json, with the
operands that the row's rules name. A mailbox command's row names the TAG of the taken slot (R76); an operator's row
names the SEQ of a started descriptor and its pass (R49); a vector row names the span and the fields of Table 11-2;
a message row carries the message. -/

namespace Sys2Proof

/-- An SRAM that the march-test engines cover (R124), by physical span; a slice by quadrant and 4 MiB sub-array (R127). -/
inductive Sram where
  | bank (phys bank : Nat) | acc (phys : Nat) | queue (phys : Nat) | slice (quadrant array : Nat)
  deriving DecidableEq, Repr

/-- A cell that fails. -/
structure Cell where
  sram   : Sram
  row    : Nat
  col    : Nat
  set    : Nat       -- the set of the slice whose line it holds a bit of; 0 elsewhere
  spared : Bool      -- the spare row or column that would replace it fails too: a retest finds it (R127)
  lost   : Bool      -- its word reads as uncorrectable (R125, R131)
  deriving DecidableEq, Repr

/-- A posted write of the host to BAR 0: its bytes or value, and whether its packet is poisoned (R70). -/
structure Posted (α : Type) where
  data     : α
  poisoned : Bool
  deriving DecidableEq, Repr

/-- What the hardware meets while it starts or restarts (R418, R419): outcomes of physical tests. -/
structure StartEnv where
  railsOk        : Bool        -- every rail regulates in step 2
  keystoneSramOk : Bool        -- Keystone SRAM passes its march test (R124, R128)
  weakLanes      : List (Nat × Nat)  -- DRAM lanes below the training limit: channel, lane (R309)
  cells          : List Cell   -- SRAM cells found failing (R124)
  deriving DecidableEq, Repr

/-- The rates and widths to which the link trains (Table 4-1). -/
inductive PcieRate where
  | gt32 | gt64 | gt128
  deriving DecidableEq, Repr

inductive PcieWidth where
  | x4 | x8 | x16
  deriving DecidableEq, Repr

/-- The device power states of Table 4-2. -/
inductive PmState where
  | d0 | d3hot
  deriving DecidableEq, Repr

/-- What the host has set in configuration space (Table 4-2, R74, R85) once it has enumerated the function. -/
structure PcieConfig where
  msixEn   : Bool
  bar2Bits : Nat       -- log2 of the BAR 2 size, 30 to 41
  mps      : Nat       -- Max_Payload_Size
  mrrs     : Nat       -- Max_Read_Request_Size
  tagBits  : Nat       -- width of the request tags enabled: 8, 10 or 14
  pm       : PmState
  deriving DecidableEq, Repr

/-- The errors that an endpoint may log by Advanced Error Reporting (Table 4-2; the base specification's names). -/
inductive AerError where
  -- uncorrectable
  | dataLinkProtocol | poisonedTlp | flowControlProtocol | completionTimeout | completerAbort | unexpectedCompletion
  | receiverOverflow | malformedTlp | ecrc | unsupportedRequest | uncorrectableInternal
  -- correctable
  | receiver | badTlp | badDllp | replayNumRollover | replayTimerTimeout | advisoryNonFatal | correctedInternal
  | headerLogOverflow
  deriving DecidableEq, Repr

/-- How the host answers a Trestle request (R371): with data, with a completion that fails it, or not at all; or the link
reports that a write failed. -/
inductive Completion where
  | data | unsupportedRequest | completerAbort | poisoned | timeout | writeFailed
  deriving DecidableEq, Repr

inductive TollCause where
  | lockstep | sramWord | watchdog
  deriving DecidableEq, Repr

/-- A bearing of Table 2-5. -/
inductive Bearing where
  | dram (channel : Nat) | viaduct (port : Nat) | pcie | keystone (quadrant : Nat) | tollhouse (bay : Nat) | refclk
  deriving DecidableEq, Repr

/-- A configurable block (R56). -/
inductive Block where
  | router (bay : Nat) | channel (c : Nat) | port (p : Nat) | regulator (bay : Nat) | bankTable (span : Nat)
  deriving DecidableEq, Repr

/-- A Reed-Solomon decoding result other than clean, met on a sector (R307). -/
structure SectorErr where
  addr  : Nat      -- device address of the sector
  fatal : Bool     -- uncorrectable
  group : Nat      -- the symbol corrected, 0 to 35
  deriving DecidableEq, Repr

/-- What happened in the beat that ends and what the hardware met in it: the bays with busy time in it, one bit each (R29),
single-bit corrections in banks by span (R100), lines of the weight cache that a slice cannot correct, by slice and line
(R119), SRAM cells that have come to fail (R124), DRAM sectors that have come to hold errors (R307) and lanes that have lost
their margin (R309), errors that the PCIe controller met (Table 4-2), and whether the host accepts what the device writes to
it (R83). All of it is observed, not decided. -/
structure BeatActivity where
  busy     : BitVec 32
  secded   : List Nat
  badLines : List (Nat × Nat)
  cells    : List Cell
  sectors  : List SectorErr
  weakLanes : List (Nat × Nat)
  pcie     : List AerError
  accepts  : Bool
  deriving DecidableEq, Repr

/-- A beat marker's payload (Table 16-6). -/
structure Marker where
  beat     : W64
  txOffset : Nat
  hops     : Nat
  locked   : Bool
  echoReq  : Bool
  echo     : Bool
  rootId   : W64
  echoBeat : W64
  echoHold : Nat
  deriving DecidableEq, Repr

/-- A flit as it leaves the receiver's FEC (Table 16-2). -/
structure Flit where
  kind     : Nat
  cls      : Nat
  last     : Bool
  dateline : Bool
  around   : Bool
  index    : Nat
  msgSeq   : W32
  lseq     : Nat
  acks     : List Nat     -- ring, reduction, bulk, control
  dest     : Coord
  src      : Coord
  payload  : List Byte    -- 232 bytes
  deriving DecidableEq, Repr

/-- A DATA message (Table 16-3) with its class, sequence number and source coordinate. -/
structure DataMsg where
  port   : Nat
  src    : Coord
  cls    : Nat
  msgSeq : Nat
  epoch  : W32
  tag    : W32
  step   : W32
  bytes  : List Byte
  deriving DecidableEq, Repr

/-- The LINK IDENT fields (Table 16-5). -/
structure Ident where
  port       : Nat
  version    : Nat
  stepping   : Byte
  coordValid : Bool
  formed     : Bool
  deviceId   : W64
  resultVer  : W32
  coord      : Coord
  dims       : Coord
  tag        : W32
  deriving DecidableEq, Repr

/-- What every control message opens with (R336), and the port it came in by. -/
structure Ctl where
  port   : Nat
  src    : Coord
  tag    : W32
  status : Byte
  deriving DecidableEq, Repr

/-- What every journal message opens with (R377). -/
structure JMsg where
  port   : Nat
  tag    : W32
  sender : Nat
  count  : Nat
  deriving DecidableEq, Repr

/-- STEP, GENERATION and ATTEMPT, which every commit message carries (R293). -/
structure Attempt where
  step : W64
  gen  : W32
  att  : Nat
  deriving DecidableEq, Repr

/-- One sample of the sensors of Table 20-4, in the units of Tables 20-6 and 20-7. -/
structure Sample where
  bayTemp  : List Int     -- 1/8 degree C, 32
  hotSpot  : List Int     -- 4
  dramTemp : List Int     -- 1/8 degree C, 32
  serdes   : List Int     -- 8
  preFec   : List Nat     -- worst-lane pre-FEC errors by port, 8 (Table 20-6)
  bayMv    : List Nat     -- 32
  bayCur   : List Nat     -- 50 mA units, 32
  pace     : List Nat     -- M ops/s, by physical span, 528
  p12Mv    : Nat
  p12Ma    : Nat
  auxMv    : Nat
  p12Runs  : List (Nat × Nat) := []  -- P12V voltage and current over the sample period, mV and mA (R397)
  deriving DecidableEq, Repr

/-- A comparator of Table 20-3. -/
inductive Comparator where
  | bay (b : Nat) | hotSpot (q : Nat) | dram (stack : Nat) | current
  deriving DecidableEq, Repr

/-- The sensor that trips the device (R400). -/
inductive TripSensor where
  | bay (b : Nat) | hotSpot (q : Nat) | dram (stack : Nat) | serdes (p : Nat)
  deriving DecidableEq, Repr

/-- An event delivered to the Tollhouse (Table 20-5, without the fields that the Tollhouse assigns). -/
structure Event where
  status   : Byte
  source   : Nat
  severity : Nat
  unit     : Nat
  code     : Nat
  detail0  : W32
  detail1  : W64
  deriving DecidableEq, Repr

/-- The fields of a vector instruction word (Table 11-2) and the span whose engine runs it. -/
structure VecArgs where
  span : Nat
  vd   : Nat
  va   : Nat
  vb   : Nat
  fmt  : Nat
  rnd  : Nat
  opd  : W32
  deriving DecidableEq, Repr

/-- A PLDM type 0 request: its command, and the PLDM type that it asks about. -/
structure Type0Request where
  cmd : Byte
  ty  : Byte
  deriving DecidableEq, Repr

inductive OobChannel where
  | mctp | doe
  deriving DecidableEq, Repr

/-- The commands. Rows stand in the table's order. -/
inductive Instr where
  -- supplies and resets (21, 22)
  | p3v3AuxRise (straps : Byte)
  | p3v3AuxLoss
  | powerGood (env : StartEnv)
  | railRetry (env : StartEnv)
  | readiness
  | p12vLoss
  | perstNAssert
  | perstNRelease (env : StartEnv)
  | hotReset
  | functionLevelReset
  | tollhouseReset (cause : TollCause) (env : StartEnv)
  -- the beat (02)
  | beatBoundary (act : BeatActivity)
  | beatMarkerSend (txOffset : Nat)
  | beatMarker (port : Nat) (m : Marker) (arrival : Int)
  | bearingTimeout (b : Bearing) (waiting : Option Nat)
  -- host interface (04)
  | mailboxSlotWrite (off : Nat) (write : Posted (List Byte))
  | mailboxTake
  | cqEnable (write : Posted W32)
  | registerWrite (off : Nat) (write : Posted (List Byte))
  | hcBeatLoRead
  | bar2Read (off len : Nat) (ecc : List SectorErr)
  | bar2Write (off : Nat) (data : List Byte) (poisoned : Bool)
  | coalesceTimerExpiry (src : Nat)
  -- mailbox commands (04), by tag
  | getInfo (tag : Nat)
  | getStatus (tag : Nat)
  | loadPlan (tag : Nat)
  | unloadPlan (tag : Nat)
  | start (tag : Nat)
  | pauseAtPier (tag : Nat)
  | resume (tag : Nat)
  | abort (tag : Nat)
  | bindHostRegion (tag : Nat)
  | copyToDevice (tag : Nat)
  | copyToHost (tag : Nat)
  | reshard (tag : Nat)
  | commitPolicy (tag : Nat)
  | replayControl (tag : Nat)
  | telemetryRead (tag : Nat)
  | normRecordsRead (tag : Nat)
  | linkControl (tag : Nat)
  | ringForm (tag : Nat)
  | marchTest (tag : Nat)
  | memoryScrub (tag : Nat) (ecc : List SectorErr)
  | pacePolicy (tag : Nat)
  | prefixTable (tag : Nat)
  | fwStage (tag : Nat)
  | fwActivate (tag : Nat) (env : StartEnv)
  | nop (tag : Nat)
  -- plan execution (03)
  | setupShadowWrite
  | blockArm (b : Block)
  | descriptorIssue
  | descriptorStart (unit : Option Nat)
  | descriptorComplete (unit : Option Nat) (seq : Nat) (status : Byte)
  -- operators, by SEQ and pass
  | matmul (seq pass : Nat)
  | matmulDgrad (seq pass : Nat)
  | matmulWgrad (seq pass : Nat)
  | matvecBatch (seq pass : Nat)
  | attnFwd (seq pass : Nat)
  | attnBwd (seq pass : Nat)
  | attnDecode (seq pass : Nat)
  | vecProgram (seq pass : Nat)
  | scan (seq pass : Nat)
  | segScan (seq pass : Nat)
  | affineScan (seq pass : Nat)
  | convTaps (seq pass : Nat)
  | pool (seq pass : Nat)
  | reduce (seq pass : Nat)
  | globalNorm (seq pass : Nat)
  | normProbe (seq pass : Nat)
  | updateElem (seq pass : Nat)
  | updateMatrix (seq pass : Nat)
  | commit (seq : Nat)
  | copyConvert (seq pass : Nat)
  | ringPass (seq : Nat)
  | collective (seq : Nat)
  | reshardPermute (seq : Nat)
  | offload (seq pass : Nat)
  | prefetch (seq pass : Nat)
  | weightChain (seq : Nat)
  | prefixLookup (seq : Nat)
  | prefixInsert (seq : Nat)
  | bankHandover (seq : Nat)
  | pier (seq : Nat)
  | paceMatchDecision
  | trestleChunk (toHost : Bool)
  | trestleCompletion (how : Completion) (pcieStatus : Nat) (data : List Byte)
  | addDone (channel span seq : Nat)
  | memorySideAdd (channel : Nat)
  | dramRefresh (channel bank : Nat)
  | backgroundScrub (channel : Nat) (ecc : List SectorErr)
  -- Viaduct link layer (16)
  | flitReceive (port : Nat) (fecOk : Bool) (f : Flit) (crc : W32)
  | flitForward (port cls lane : Nat)
  | dataMessageReceive (m : DataMsg)
  | classResendTimeout (port cls : Nat)
  | portRetrain (port : Nat)
  | portTrainingComplete (port : Nat) (failedLanes : List Nat) (roundTripNs : Nat)
  | ident (port : Nat) (i : Ident)
  | nack (port cls expected : Nat)
  | xoff (port cls lane : Nat)
  | xon (port cls lane : Nat)
  | retrainRequest (port : Nat)
  -- control messages (16, 17)
  | receiveReady (c : Ctl) (msgSeq cls len : Nat)
  | segmentTime (c : Ctl) (pier origin time : Nat)
  | groupDigest (c : Ctl) (rank : Nat) (digest : List Byte)
  | groupDigestTimeout
  | rank (c : Ctl) (rank : Nat) (epoch : W32) (coord : Coord)
  | rankFloodTimeout
  | vote (c : Ctl) (a : Attempt) (count : Nat) (agree : Bool) (digest : List Byte)
  | voteTimeout
  | decision (c : Ctl) (a : Attempt) (commit : Bool)
  | recoveryStart
  | recoveryQuery (c : Ctl) (a : Attempt) (asker : Nat)
  | recoveryReply (c : Ctl) (a : Attempt) (outcome rank : Nat)
  | recoveryWindowEnd
  | form (c : Ctl) (ringLength ringPosition : Nat) (resultVer : W32) (stepping : Byte) (bypass : Bool) (deviceId : W64)
  | formTimeout
  | reshardToken (c : Ctl) (epoch : W32) (phase : Nat) (agree : Bool) (count : Nat) (digest : List Byte)
  | reshardTokenTimeout
  | reshardDecision (c : Ctl) (epoch : W32) (phase : Nat) (go : Bool)
  -- journal messages and timers (19)
  | mirrorWrite (j : JMsg) (off : Nat) (data : List Byte)
  | mirrorAck (j : JMsg) (off len : Nat)
  | mirrorRead (j : JMsg) (off len : Nat)
  | mirrorData (j : JMsg) (off : Nat) (data : List Byte)
  | pierDone (j : JMsg) (pier : Nat) (step : W64)
  | watermark (j : JMsg) (pier : Nat) (step : W64)
  | rewind (j : JMsg) (pier : Nat) (cause : Byte) (need coord replaces : Nat)
  | quiesce
  | quiesced (j : JMsg) (pier need : Nat) (step : W64)
  | quietPeriodEnd
  | coordinatorLossTimeout
  | coordinatorTakeover
  | restart (j : JMsg) (pier target : Nat) (step : W64)
  | fetch (j : JMsg) (handle off len : Nat)
  | fetchData (j : JMsg) (handle : Nat) (status : Byte) (off : Nat) (data : List Byte)
  | aliveSend
  | alive (j : JMsg) (pier planState : Nat) (beat : W64)
  | silentMember (rank : Nat)
  | admitUnit (j : JMsg) (step : W64) (gen : W32)
  | admitted (j : JMsg) (step : W64)
  -- Tollhouse (20)
  | sensorSample (s : Sample)
  | hardwareFloor (c : Comparator)
  | hardwareFloorRelease (c : Comparator)
  | prochotNAssert
  | prochotNDeassert
  | trip (s : TripSensor) (reading : Int)
  | eventRecord (e : Event)
  | coalesceWindowEnd (source code unit : Nat)
  | logPersist
  -- out-of-band management (20)
  | setEndpointId (eid : Byte)
  | getEndpointId
  | getEndpointUuid
  | getMctpVersionSupport (msgType : Byte)
  | getMessageTypeSupport
  | dynamicAddressAssignment (addr : BitVec 7)
  | pldmDiscovery (cmd : Type0Request)
  | getPdrRepositoryInfo
  | getPdr (handle : Nat)
  | getSensorReading (id : Nat)
  | getNumericEffecterValue (id : Nat)
  | setNumericEffecterValue (id value : Nat)
  | setEventReceiver (eid : Byte)
  | requestUpdate
  | requestFirmwareData (component : Nat) (data : List Byte)
  | activateFirmware (env : StartEnv)
  | getVersion (ch : OobChannel)
  | getCapabilities (ch : OobChannel)
  | negotiateAlgorithms (ch : OobChannel) (brainpool : Bool)
  | getDigests (ch : OobChannel)
  | getCertificate (ch : OobChannel) (slot off len : Nat)
  | challenge (ch : OobChannel) (slot : Nat) (nonce : List Byte)
  | getMeasurements (ch : OobChannel) (index : Nat) (signed : Bool) (nonce : List Byte)
  -- JTAG (22)
  | bypass (tdi : List Bool)
  | idcode (tdi : List Bool)
  | samplePreload (tdi : List Bool)
  | extest (tdi : List Bool)
  | clamp (tdi : List Bool)
  | highz (tdi : List Bool)
  -- vector instructions (11)
  | vecNop (a : VecArgs)
  | setvl (a : VecArgs)
  | iota (a : VecArgs)
  | movi (a : VecArgs)
  | ld (a : VecArgs)
  | st (a : VecArgs)
  | rand (a : VecArgs)
  | add (a : VecArgs)
  | sub (a : VecArgs)
  | mul (a : VecArgs)
  | fma (a : VecArgs)
  | min (a : VecArgs)
  | max (a : VecArgs)
  | abs (a : VecArgs)
  | neg (a : VecArgs)
  | addi (a : VecArgs)
  | muli (a : VecArgs)
  | exp2 (a : VecArgs)
  | log2 (a : VecArgs)
  | rsqrt (a : VecArgs)
  | rcp (a : VecArgs)
  | and (a : VecArgs)
  | or (a : VecArgs)
  | xor (a : VecArgs)
  | xori (a : VecArgs)
  | shl (a : VecArgs)
  | ashr (a : VecArgs)
  | cmpeq (a : VecArgs)
  | cmplt (a : VecArgs)
  | cmple (a : VecArgs)
  | sel (a : VecArgs)
  | cvt (a : VecArgs)
  | perm (a : VecArgs)
  | bcast (a : VecArgs)
  | slideup (a : VecArgs)
  | slidedn (a : VecArgs)
  | rsum (a : VecArgs)
  | rmax (a : VecArgs)
  | rmin (a : VecArgs)
  | psum (a : VecArgs)
  | pmax (a : VecArgs)
  | segpsum (a : VecArgs)
  -- ends of long work
  | validationEnd
  | marchTestEnd (banks accs others : List Cell)
  | fwStageDone (image : List Byte)
  | thermtripNRelease
  | pcieLinkTrained (rate : PcieRate) (width : PcieWidth) (partnerFlit : Bool) (cfg : PcieConfig)
  | fetchNoAnswer
  deriving DecidableEq, Repr

end Sys2Proof
end

