-- ==== Sys2Proof/WellFormed.lean ====
section
/-! DEFINITION. Well-formed commands: the operands that a sender can form, from the widths of the fields that carry
them. The meanings are total on all operands; this says which of them a message, register write or pin can carry. -/

namespace Sys2Proof

/-- A port, a class, a lane of a link (R320, R325, R329). -/
def portOk (p : Nat) : Bool := decide (p < 8)
def classOk (c : Nat) : Bool := decide (c < 4)
def laneOk (l : Nat) : Bool := decide (l < 2)
def coordOk (c : Coord) : Bool := decide (c.x < 64) && decide (c.y < 16) && decide (c.z < 16)
def fits (bits n : Nat) : Bool := decide (n < 2 ^ bits)

def blockOk : Block → Bool
  | .router b => decide (b < 32)
  | .channel c => decide (c < 1024)
  | .port p => portOk p
  | .regulator b => decide (b < 32)
  | .bankTable x => decide (x < 512)

def bearingOk : Bearing → Bool
  | .dram c => decide (c < 1024)
  | .viaduct p => portOk p
  | .pcie => true
  | .keystone q => decide (q < 4)
  | .tollhouse b => decide (b < 32)
  | .refclk => true

/-- A flit as a receiver can read it (Table 16-2). -/
def flitOk (f : Flit) : Bool :=
  fits 3 f.kind && classOk f.cls && fits 24 f.index && fits 12 f.lseq && decide (f.acks.length = 4)
    && f.acks.all (fits 12) && coordOk f.dest && coordOk f.src && decide (f.payload.length = 232)

def identOk (i : Ident) : Bool := fits 8 i.port && fits 8 i.version && coordOk i.coord

def markerOk (m : Marker) : Bool := fits 16 m.txOffset && fits 16 m.hops && fits 32 m.echoHold

/-- The status codes of Table 4-17; no other is ever written (R96). -/
def statusOk (b : Byte) : Bool :=
  [0x00, 0x01, 0x10, 0x11, 0x12, 0x20, 0x21, 0x30, 0x31, 0x40, 0x41, 0x50, 0x60, 0x61, 0x70, 0x80, 0xFF].contains b.toNat

def ctlOk (c : Ctl) : Bool := portOk c.port && coordOk c.src && statusOk c.status
def jmsgOk (j : JMsg) : Bool := portOk j.port && fits 32 j.sender && fits 32 j.count
def attOk (a : Attempt) : Bool := fits 8 a.att
def digestOk (d : List Byte) : Bool := decide (d.length = 48)

/-- Vector fields of Table 11-2. -/
def vecOk (a : VecArgs) : Bool :=
  decide (a.span < 512) && fits 5 a.vd && fits 5 a.va && fits 5 a.vb && fits 4 a.fmt && fits 2 a.rnd

def sampleOk (s : Sample) : Bool :=
  decide (s.bayTemp.length = 32) && decide (s.hotSpot.length = 4) && decide (s.dramTemp.length = 32)
    && decide (s.serdes.length = 8) && decide (s.preFec.length = 8) && decide (s.bayMv.length = 32) && decide (s.bayCur.length = 32)
    && decide (s.pace.length = 528)

def comparatorOk : Comparator → Bool
  | .bay b => decide (b < 32)
  | .hotSpot q => decide (q < 4)
  | .dram k => decide (k < 16)
  | .current => true

def tripOk : TripSensor → Bool
  | .bay b => decide (b < 32)
  | .hotSpot q => decide (q < 4)
  | .dram k => decide (k < 16)
  | .serdes p => portOk p

def tagOk (t : Nat) : Bool := decide (t < 512)

/-- A cell of an SRAM that the device has (R99, R117, R127, R130). -/
def cellOk (c : Cell) : Bool :=
  match c.sram with
  | .bank p b => decide (p < 528) && decide (b < 4)
  | .acc p | .queue p => decide (p < 528)
  | .slice q a => decide (q < 4) && decide (a < 16) && decide (c.set < 16384)

/-- A DRAM channel and one of its data, check and command lanes (Table 15-1). -/
def dramLaneOk (x : Nat × Nat) : Bool := decide (x.1 < 1024) && decide (x.2 < 154)

/-- A decoding result lies in memory and names one of 36 symbols (R307). -/
def sectorOk (e : SectorErr) : Bool := decide (e.addr < 0x14000000000) && decide (e.group < 36)

def startOk (e : StartEnv) : Bool := e.weakLanes.all dramLaneOk && e.cells.all cellOk

def activityOk (a : BeatActivity) : Bool :=
  a.secded.all (fun x => decide (x < 512)) && a.badLines.all (fun l => decide (l.1 < 4)) && a.cells.all cellOk
    && a.sectors.all sectorOk && a.weakLanes.all dramLaneOk

/-- The operands of a command fit the fields that carry them. -/
def Instr.wf : Instr → Bool
  | .p3v3AuxRise _ | .p3v3AuxLoss | .readiness | .p12vLoss | .perstNAssert | .hotReset | .functionLevelReset => true
  | .powerGood e | .railRetry e | .perstNRelease e | .tollhouseReset _ e => startOk e
  | .beatBoundary a => activityOk a
  | .beatMarkerSend t => fits 16 t
  | .beatMarker p m _ => portOk p && markerOk m
  | .bearingTimeout b w => bearingOk b && w.all (fun x => decide (x < 512))
  | .mailboxSlotWrite off w => decide (off + w.data.length ≤ 0x8020)
  | .mailboxTake | .cqEnable _ | .hcBeatLoRead => true
  | .registerWrite off w => decide (off + w.data.length ≤ 0x4000000)
  | .bar2Read off len e => fits 64 off && fits 64 len && e.all sectorOk
  | .bar2Write off _ _ => fits 64 off
  | .coalesceTimerExpiry src => decide (src < 2)
  | .fwActivate t e => tagOk t && startOk e
  | .getInfo t | .getStatus t | .loadPlan t | .unloadPlan t | .start t | .pauseAtPier t | .resume t | .abort t
  | .bindHostRegion t | .copyToDevice t | .copyToHost t | .reshard t | .commitPolicy t | .replayControl t
  | .telemetryRead t | .normRecordsRead t | .linkControl t | .ringForm t | .marchTest t
  | .pacePolicy t | .prefixTable t | .fwStage t | .nop t => tagOk t
  | .memoryScrub t e => tagOk t && e.all sectorOk
  | .setupShadowWrite => true
  | .blockArm b => blockOk b
  | .descriptorIssue => true
  | .descriptorStart u => u.all fun x => decide (x < 512)
  | .descriptorComplete u seq code => u.all (fun x => decide (x < 512)) && fits 32 seq && statusOk code
  | .matmul q k | .matmulDgrad q k | .matmulWgrad q k | .matvecBatch q k | .attnFwd q k | .attnBwd q k
  | .attnDecode q k | .vecProgram q k | .scan q k | .segScan q k | .affineScan q k | .convTaps q k | .pool q k
  | .reduce q k | .globalNorm q k | .normProbe q k | .updateElem q k | .updateMatrix q k | .copyConvert q k
  | .offload q k | .prefetch q k => fits 32 q && fits 16 k
  | .commit q | .ringPass q | .collective q | .reshardPermute q | .weightChain q | .prefixLookup q | .prefixInsert q
  | .bankHandover q | .pier q => fits 32 q
  | .paceMatchDecision | .trestleChunk _ => true
  | .trestleCompletion _ code _ => fits 3 code
  | .addDone c x q => decide (c < 1024) && decide (x < 512) && fits 32 q
  | .memorySideAdd c => decide (c < 1024)
  | .dramRefresh c b => decide (c < 1024) && decide (b < 32)
  | .backgroundScrub c e => decide (c < 1024) && e.all sectorOk
  | .flitReceive p _ f _ => portOk p && flitOk f
  | .flitForward p c l => portOk p && classOk c && laneOk l
  | .dataMessageReceive m => portOk m.port && coordOk m.src && classOk m.cls && fits 32 m.msgSeq
  | .classResendTimeout p c => portOk p && classOk c
  | .portRetrain p => portOk p
  | .portTrainingComplete p _ _ => portOk p
  | .ident p i => portOk p && identOk i
  | .nack p c e => portOk p && classOk c && fits 12 e
  | .xoff p c l | .xon p c l => portOk p && classOk c && laneOk l
  | .retrainRequest p => portOk p
  | .receiveReady c q k n => ctlOk c && fits 32 q && classOk k && fits 64 n
  | .segmentTime c p o t => ctlOk c && fits 16 p && fits 16 o && fits 32 t
  | .groupDigest c r d => ctlOk c && fits 32 r && digestOk d
  | .groupDigestTimeout => true
  | .rank c r _ x => ctlOk c && fits 32 r && coordOk x
  | .rankFloodTimeout => true
  | .vote c a n _ d => ctlOk c && attOk a && fits 32 n && digestOk d
  | .voteTimeout => true
  | .decision c a _ => ctlOk c && attOk a
  | .recoveryStart => true
  | .recoveryQuery c a k => ctlOk c && attOk a && fits 32 k
  | .recoveryReply c a o r => ctlOk c && attOk a && fits 8 o && fits 32 r
  | .recoveryWindowEnd => true
  | .form c n p _ _ _ _ => ctlOk c && fits 16 n && fits 16 p
  | .formTimeout => true
  | .reshardToken c _ p _ n d => ctlOk c && fits 8 p && fits 32 n && digestOk d
  | .reshardTokenTimeout => true
  | .reshardDecision c _ p _ => ctlOk c && fits 8 p
  | .mirrorWrite j o _ => jmsgOk j && fits 32 o
  | .mirrorAck j o n | .mirrorRead j o n => jmsgOk j && fits 32 o && fits 32 n
  | .mirrorData j o _ => jmsgOk j && fits 32 o
  | .pierDone j p _ | .watermark j p _ => jmsgOk j && fits 16 p
  | .rewind j p c n k r => statusOk c && jmsgOk j && fits 16 p && fits 8 n && fits 32 k && fits 32 r
  | .quiesce => true
  | .quiesced j p n _ => jmsgOk j && fits 16 p && fits 8 n
  | .quietPeriodEnd | .coordinatorLossTimeout | .coordinatorTakeover => true
  | .restart j p t _ => jmsgOk j && fits 16 p && fits 8 t
  | .fetch j h o n => jmsgOk j && fits 16 h && fits 64 o && fits 32 n
  | .fetchData j h code o _ => statusOk code && jmsgOk j && fits 16 h && fits 64 o
  | .aliveSend => true
  | .alive j p ps _ => jmsgOk j && fits 16 p && fits 8 ps
  | .silentMember r => fits 32 r
  | .admitUnit j _ _ => jmsgOk j
  | .admitted j _ => jmsgOk j
  | .sensorSample s => sampleOk s
  | .hardwareFloor c | .hardwareFloorRelease c => comparatorOk c
  | .prochotNAssert | .prochotNDeassert => true
  | .trip s _ => tripOk s
  | .eventRecord e => statusOk e.status && fits 8 e.source && fits 8 e.severity && fits 16 e.unit && fits 16 e.code
  | .coalesceWindowEnd a b c => fits 8 a && fits 16 b && fits 16 c
  | .logPersist | .setEndpointId _ | .getEndpointId | .getEndpointUuid | .getMctpVersionSupport _
  | .getMessageTypeSupport | .dynamicAddressAssignment _ | .pldmDiscovery _ | .getPdrRepositoryInfo => true
  | .getPdr h => fits 32 h
  | .getSensorReading n | .getNumericEffecterValue n => fits 16 n
  | .setNumericEffecterValue n v => fits 16 n && fits 32 v
  | .setEventReceiver _ | .requestUpdate => true
  | .requestFirmwareData c _ => decide (1 ≤ c ∧ c ≤ 3)
  | .activateFirmware e => startOk e
  | .getVersion _ | .getCapabilities _ | .negotiateAlgorithms _ _ | .getDigests _ => true
  | .getCertificate _ k o n => fits 4 k && fits 16 o && fits 16 n
  | .challenge _ k n => fits 4 k && decide (n.length = 32)
  | .getMeasurements _ i _ n => fits 8 i && decide (n.length = 32)
  | .bypass _ | .idcode _ | .samplePreload _ | .extest _ | .clamp _ | .highz _ => true
  | .vecNop a | .setvl a | .iota a | .movi a | .ld a | .st a | .rand a | .add a | .sub a | .mul a | .fma a | .min a
  | .max a | .abs a | .neg a | .addi a | .muli a | .exp2 a | .log2 a | .rsqrt a | .rcp a | .and a | .or a | .xor a
  | .xori a | .shl a | .ashr a | .cmpeq a | .cmplt a | .cmple a | .sel a | .cvt a | .perm a | .bcast a | .slideup a
  | .slidedn a | .rsum a | .rmax a | .rmin a | .psum a | .pmax a | .segpsum a => vecOk a
  | .validationEnd => true
  | .marchTestEnd banks accs others => (banks ++ accs ++ others).all cellOk
  | .fwStageDone _ | .thermtripNRelease => true
  | .pcieLinkTrained _ _ _ c =>
    decide (30 ≤ c.bar2Bits ∧ c.bar2Bits ≤ 41) && [128, 256, 512].contains c.mps
      && [128, 256, 512, 1024, 2048, 4096].contains c.mrrs && [8, 10, 14].contains c.tagBits
  | .fetchNoAnswer => true

end Sys2Proof
end

