-- ==== Sys2Proof/Decode.lean ====
section
/-! DEFINITION. The words of the command table. No row of the table gives bits: the commands reach the block over its
links, its registers and its pins, each by the layout that its own chapter gives. So no word spells a command. -/

namespace Sys2Proof

/-- The command that a word spells by the table's bits: none, for no row gives any. -/
def decodeTableWord (_nbits _w : Nat) : Option Instr := none

end Sys2Proof
end

