-- ==== Sys2Proof/Config.lean ====
section
/-! DEFINITION. The values that the manual leaves open: constants without a body, so that nothing can be proved of their
values. Each is named by a row of notes/assumptions. -/

namespace Sys2Proof.Config

/-- Lane `lane` of register `reg` read as INT32 where the register holds no such lane (lane 64 and above). -/
opaque laneBeyond : Nat → Nat → BitVec 32

/-- A block-scaled value beyond the range of FP32 (sign, mantissa, exponent) as LD widens it (R236 states no result). -/
opaque fp32Beyond : Bool → Nat → Int → BitVec 32

/-- A byte that the manual leaves undefined: the `k`th drawn, at an address (R92, R348). -/
opaque undefinedByte : Nat → Nat → BitVec 8

/-- The `k`th byte drawn from the Tollhouse random source (R394). -/
opaque randomByte : Nat → BitVec 8

/-- The MCTP endpoint UUID of a device identity (R408 names the request and no value), by byte. -/
opaque uuidByte : BitVec 64 → Nat → BitVec 8

/-- A byte of the public DeviceID key that the UDS gives (R415 names the derivation and no function). -/
opaque deviceKeyByte : BitVec 256 → Nat → BitVec 8

/-- A byte of the public Alias key that a CDI gives (R415). -/
opaque aliasKeyByte : BitVec 384 → Nat → BitVec 8

/-- A byte of the root, intermediate and DeviceID certificates (R415), by the DeviceID key and the position: issued at
manufacture, the same for the life of the device. -/
opaque certByte : List (BitVec 8) → Nat → BitVec 8

/-- The length of those certificates. -/
opaque certLength : List (BitVec 8) → Nat

/-- A byte of the Alias certificate (R415), by the DeviceID key that signs it, the Alias key and the manifest of the firmware
that it describes. -/
opaque aliasCertByte : List (BitVec 8) → List (BitVec 8) → List (BitVec 8) → Nat → BitVec 8

/-- The length of that certificate. -/
opaque aliasCertLength : List (BitVec 8) → List (BitVec 8) → List (BitVec 8) → Nat

/-- A byte of the Alias key's signature (R415): by the CDI, the digest signed, the nonce draw and the position. -/
opaque signByte : BitVec 384 → Nat → Nat → Nat → BitVec 8

/-- Lamnan's JEP106 manufacturer code (R440). -/
opaque jep106 : BitVec 11

/-- Whether a signed Tollhouse firmware image clears the repair table's entry of a physical span (R132 says that one can,
and Table 20-11 gives no field for it). -/
opaque clearsSpan : List (BitVec 8) → Nat → Bool

/-- Lamnan's PCI-SIG vendor identifier (R68 names it and gives no number). -/
opaque vendorId : BitVec 16

/-- The component whose slot an in-band FW_STAGE was writing when a reset met it (R411, R426: the slot is left unstaged), at the
`k`th such reset. -/
opaque stagedComponent : Nat → BitVec 2

/-- The level of a land that no field of the state gives, at the `k`th capture (R440). -/
opaque landLevel : Nat → Nat → Bool

/-- The code that the report area gives the split axis of an opcode (Table 3-17 names the field and no codes). -/
opaque splitAxis : Nat → BitVec 8

/-- Field `i` of a sequence context that a re-shard moves from another member (R360 names no message that carries it), at
the `k`th such context. -/
opaque movedContext : Nat → Nat → BitVec 64

/-- The start positions of the earlier pieces of such a context. -/
opaque movedPieces : Nat → List Nat

/-- Field `i` of a sequence context as a segment that names it leaves it (R65, R207 and Table 19-2 name the fields and give no
rule by which a run changes them), at the `k`th such change. -/
opaque contextField : Nat → Nat → BitVec 64

/-- The CODE of the event record of kind `k` (Table 20-5 names the field and no codes). -/
opaque eventCode : Nat → BitVec 16

/-- The index of the last pier written, as a result word shows it where none is written (Table 4-14 gives no value). -/
opaque noPier : BitVec 32

/-- The SEQ of the oldest incomplete descriptor, as GET_STATUS shows it where no plan is loaded (Table 4-14 gives no
value). -/
opaque noDescriptor : BitVec 32

end Sys2Proof.Config
end

