-- ==== Sys2Proof/Machine/State.lean ====
section
/-! DEFINITION. The state of one device, as plain data, and its value at reset: supplies off, before the first
P3V3_AUX_RISE, every register at the reset value of its table (or at the value that a row of notes/assumptions names). -/

namespace Sys2Proof.Machine

/-- Why the block stops. No meaning raises it: every row has an effect. Kept closed and safe: a stop proves nothing
false. -/
inductive Fault where
  /-- Raised by no command of this model (safe). -/
  | stopped
  deriving DecidableEq, Repr

/-- Why a command is refused. -/
inductive Refusal where
  /-- The command has no meaning yet; raised by Dispatch only (safe). -/
  | notModelled (mnemonic : String)
  deriving DecidableEq, Repr

-- ---------------------------------------------------------------- supplies and start

/-- How far the start sequence of Table 21-1 has come, and the outcomes of Table 21-2. -/
inductive Stage where
  | off            -- P3V3_AUX absent
  | romOnly        -- no Tollhouse firmware slot verifies (R419)
  | firmware       -- step C done; waiting for power good
  | railFailed     -- a rail missed regulation once; retry due (R419)
  | railsDead      -- a second miss: rails stay off
  | keystoneHeld   -- no Runal or microcode slot verifies
  | sramFailed     -- Keystone SRAM failed its march test
  | booted         -- MBOX_LIVE set, readiness pending
  | ready          -- NOT_READY cleared
  | warmHeld       -- PERST_N holds the core in warm reset (R423)
  deriving DecidableEq, Repr

structure Power where
  p12v         : Bool    -- P12V in range, seen by the Tollhouse (R417)
  rails        : Bool    -- regulators supplied from P12V are on (R418, R430)
  stage        : Stage
  perst        : Bool    -- PERST_N asserted
  warmPending  : Bool    -- a warm reset follows at readiness (Table 21-5)
  warmEnv      : Option StartEnv  -- what that warm reset will meet, once PERST_N is released
  tripped      : Bool    -- trip latch (R442)
  thermtrip    : Bool    -- THERMTRIP_N asserted (R400, R442)
  faultN       : Bool    -- FAULT_N asserted (R438)
  prochot      : Bool    -- PROCHOT_N asserted (R399)
  straps       : Byte    -- STRAP[7:0] as sampled at step A (R439)
  uart         : List W32  -- SEQNO of every record written as a UART line (R439)
  restart      : Bool    -- a core restart is under way (R423, Table 21-5)
  deriving DecidableEq, Repr

-- ---------------------------------------------------------------- the beat

structure Beat where
  number     : W64     -- R13
  sinceCorr  : Nat     -- beats since the last correction (R14 rule 4)
  length     : Nat     -- REFCLK periods of the present beat: 160, 159 or 161 (R13)
  diff       : Int     -- own boundary minus upstream's, REFCLK periods, at the last marker (R14)
  lead       : Option W64  -- beat number of the upstream minus the own, as of the last marker compared; none before one
  upstream   : Option Nat  -- port of the upstream neighbour
  hops       : Nat     -- own hop count
  root       : W64     -- identity of the timing root followed
  locked     : Bool
  adopted    : Bool    -- the upstream's beat number has been adopted at first lock (R13)
  corrections : Nat
  portHops   : List (Nat × (Nat × W64))  -- per port: hop count and ROOT_ID last heard (R14, R335)
  delays     : Tab Nat   -- per port: one-way delay, REFCLK periods (R335)
  ticks      : Nat     -- REFCLK periods from power-up to the last beat boundary
  markerAt   : Option W64  -- beat number at which markers were last sent (R14 rule 2)
  asked      : List (Nat × (W64 × Nat))  -- ECHO_REQ outstanding: port, BEAT of the marker, tick at which it left
  echoDue    : List (Nat × (W64 × Nat))  -- markers to be echoed: port, BEAT, tick of arrival
  deriving DecidableEq, Repr

-- ---------------------------------------------------------------- host interface

/-- A mailbox slot as copied into Keystone SRAM (R76). -/
structure Taken where
  tag     : Nat
  prio    : Nat
  cmd     : Nat
  payload : List Byte    -- bytes 0x04 to 0x7F of the slot
  deriving DecidableEq, Repr

/-- What the device sends on the PCI Express link. Trestle's requests have No Snoop and Relaxed Ordering clear (R364), and
completion records Relaxed Ordering (R83); so has every other request of the model (DESIGN CHOICE, assumption 213). -/
inductive PcieOut where
  /-- A posted write to host memory. -/
  | write (addr : Nat) (data : List Byte) (noSnoop relaxed : Bool := false)
  /-- A memory read request. -/
  | read (addr len : Nat) (noSnoop relaxed : Bool := false)
  | msix (vector : Nat)                       -- MSI-X message
  | readData (data : List Byte)               -- successful completion to the host
  | completerAbort                            -- R70, R313
  | unsupported                               -- Unsupported Request
  deriving DecidableEq, Repr

structure Region where
  id   : Nat
  addr : Nat
  len  : Nat
  deriving DecidableEq, Repr

structure HostIf where
  linkUp    : Bool    -- the PCIe link is trained (R420)
  rate      : PcieRate   -- as last trained (Table 4-1)
  width     : PcieWidth
  flitMode  : Bool       -- negotiated by the Data Link Feature capability (R67)
  accepts   : Bool       -- the host accepts what the device writes to it, as last observed (R83)
  pm        : PmState    -- power state of the function (Table 4-2)
  tagBits   : Nat        -- width of the request tags enabled (Table 4-2)
  msixEn    : Bool    -- MSI-X enabled in configuration space (R85)
  bar2Bits  : Nat     -- log2 of the BAR 2 size (R74)
  mps       : Nat     -- Max_Payload_Size (Table 4-2)
  mrrs      : Nat     -- Max_Read_Request_Size
  msixTable : Tab Byte  -- Table 4-3, offset 0x0010_0000
  pba       : BitVec 16
  runalVer  : W32
  resultVer : W32
  tollVer   : W32
  ucodeVer  : W32
  ctrl      : W32     -- HC_CTRL
  status    : W32     -- HC_STATUS
  err       : W32     -- HC_ERR
  cqBaseLo  : W32
  cqBaseHi  : W32
  coal      : W32
  msixMap   : W32
  bar2Lo    : W32
  bar2Hi    : W32
  beatHi    : W32
  slots     : Tab Byte  -- mailbox slots, by offset from 0x0001_0000 (Table 4-10)
  inUse     : List Nat  -- tags outstanding from their dword-0 write, rising (R78)
  collided  : List Nat  -- slots whose dword-0 write carried an outstanding tag, rising (R78)
  flipped   : List Nat  -- tags whose next final record carries PHASE 0 (R82)
  taken     : List Taken  -- commands copied and not yet served
  long      : List Taken  -- long commands accepted, final record due (R84)
  coalCount : Tab Nat   -- records not yet signalled, sources 0 and 1 (R86)
  regions   : List Region  -- R93
  out       : List PcieOut  -- everything sent on the link, oldest first
  aer       : List AerError   -- errors logged by AER, oldest first (R70)
  deriving DecidableEq, Repr

-- ---------------------------------------------------------------- the plan

/-- An operand reference (Table 3-7). -/
structure Operand where
  handle : Nat
  fmt    : Nat
  bank   : Nat
  stream : Nat
  offset : Nat
  skip   : Nat         -- the model's own: elements passed over, 0 in a plan (R273)
  deriving DecidableEq, Repr

/-- A descriptor: the header of Table 3-6 and its body. -/
structure Desc where
  opcode    : Nat
  flags     : Nat
  seq       : Nat
  spanFirst : Nat
  spanCount : Nat
  spanStride : Nat
  context   : Nat
  round     : Nat
  deps      : List Nat
  rngStream : Nat
  tensorId  : Nat
  body      : List Byte
  base      : Nat      -- the model's own: first token or element of the part of a split run, 0 in a plan (R273)
  skips     : List Nat -- the model's own: elements that each operand of the body passes over in that part
  deriving DecidableEq, Repr

structure Buf where     -- Table 3-4
  addr      : Nat
  size      : Nat
  tensorId  : Nat
  kind      : Nat
  placement : Nat
  flags     : Nat
  deriving DecidableEq, Repr

structure Phase where   -- R55
  firstSeq   : Nat
  setupFirst : Nat
  setupCount : Nat
  deriving DecidableEq, Repr

structure Setup where   -- R54
  kind   : Nat
  target : Nat
  body   : List Byte
  deriving DecidableEq, Repr

structure PierEntry where  -- Table 3-11
  seq   : Nat
  index : Nat
  flags : Nat
  deriving DecidableEq, Repr

structure Xfer where    -- Table 3-12
  seq    : Nat
  kind   : Nat
  port   : Nat
  cls    : Nat
  peer   : Nat
  msgSeq : Nat
  len    : Nat
  deriving DecidableEq, Repr

/-- A split that Runal made (Table 3-17). -/
structure Split where
  seq    : Nat
  kind   : Nat
  parts  : Nat
  axis   : Nat
  detail : Nat
  deriving DecidableEq, Repr

/-- A loaded or validated plan (Tables 3-2 and 3-3). -/
structure Plan where
  base       : Nat     -- image address
  seed       : W64
  ringLength : Nat
  ringPos    : Nat
  ringGroups : Nat
  groupIndex : Nat
  headGroup  : Nat
  contexts   : Nat
  epoch      : Nat
  groupTag   : Nat
  loopPhase  : Nat
  digest     : List Byte
  bufs       : List Buf
  phases     : List Phase
  setups     : List Setup
  descs      : List Desc
  piers      : List PierEntry
  xfers      : List Xfer
  param      : List Byte
  splits     : List Split
  stepLocal  : Bool    -- R385
  deriving DecidableEq, Repr

/-- A descriptor issued and not complete (R50, R51). -/
structure Issued where
  seq     : Nat
  order   : Nat        -- ordinal of its phase since START
  waiting : List Nat   -- target units that have not started it; 512 is the Keystone
  running : List Nat   -- target units that have started it and not reported
  passesRun : List Nat -- passes whose operator has run
  handed  : List (Nat × Nat)  -- BANK_HANDOVER: span and bank of the entries that have taken effect in this pass (R105)
  status  : Nat        -- what the operator met: 0, LANE_RANGE, or a failing status (R51, R106, R238)
  detail  : Nat × Nat  -- LANE_RANGE: instruction index and strip (R238)
  deriving DecidableEq, Repr

/-- Bytes of a buffer that a descriptor of the running segment wrote (R43, R446). -/
structure Wrote where
  seq    : Nat
  handle : Nat
  off    : Nat
  len    : Nat
  deriving DecidableEq, Repr

/-- The configuration of the blocks (R56), shadow or armed. -/
structure BlockCfg where
  routers : Tab (List (Nat × (Nat × Nat)))  -- per bay: circuit, IN, OUT
  chans   : Tab Nat     -- per channel: DRAM preset code (Table 2-2)
  ports   : Tab Nat     -- per port: port preset code (Table 2-4)
  regs    : Tab Nat     -- per bay: fixed voltage in mV, 0 inherit
  owners  : Tab Nat     -- per span x 4 + bank: owner code (R54)
  deriving DecidableEq, Repr

structure Ctx where     -- R65, Table 19-2
  ctx     : Nat
  slot    : Nat
  nextPos : Nat       -- start position of the next piece (R207)
  pieces  : List Nat  -- start positions of the earlier pieces (R207)
  cursor  : W64
  rngBase : W64
  carry   : W64
  deriving DecidableEq, Repr

/-- Where the writing of a pier stands (Table 19-3). -/
inductive PierStage where
  | mirroring     -- step 3: MIRROR_ACK awaited
  | holding       -- step 6: WATERMARK awaited
  deriving DecidableEq, Repr

structure PierWork where
  seq   : Nat
  index : Nat
  stage : PierStage
  deriving DecidableEq, Repr

/-- A transfer entry that has started (R53, R201). -/
structure XferRun where
  idx   : Nat          -- index in the transfer table
  x     : Xfer
  ready : Bool         -- send: RECEIVE_READY held
  sent  : Bool
  data  : Option (List Byte)  -- receive: the message delivered
  dropped : Bool := false     -- send: dropped, with no way out left (R330)
  deriving DecidableEq, Repr

/-- A norm record (Table 14-7). -/
structure NormRec where
  seq      : Nat       -- its descriptor; not part of the 32 bytes
  tensorId : Nat
  step     : W32
  elements : Nat
  wNorm    : W32
  gNorm    : W32
  uNorm    : W32
  opcode   : Nat
  flags    : Nat
  deriving DecidableEq, Repr

/-- A COMMIT under way on this member (Table 14-9). -/
structure CommitWork where
  seq      : Nat
  a        : Attempt
  digest   : List Byte
  prepared : Bool         -- the prepare entry is written, and mirrored where there is a mirror holder
  deciding : Option Bool  -- outcome being written to the journal
  lead     : Option Bool  -- this member broadcasts it: true to every rank (acting leader), false down the tree
  begun    : Bool         -- the own COMMIT has begun; else only a decision is being recorded (R293, R295)
  join     : Option Nat   -- the later attempt that is joined once ABORT of this one stands recorded (R293)
  deriving DecidableEq, Repr

/-- A vote token held until the own step 1 has ended (Table 14-9 step 3). -/
structure VoteToken where
  a      : Attempt
  count  : Nat
  agree  : Bool
  digest : List Byte
  deriving DecidableEq, Repr

inductive RewindStage where
  | stopping | quiet | restarting
  deriving DecidableEq, Repr

/-- A coordinated rewind under way (Table 19-6). -/
structure RewindWork where
  count   : Nat
  cause   : Byte
  coord   : Nat
  need    : Nat
  stage   : RewindStage
  replaced : Option Nat  -- the coordinator that a takeover replaced (R382)
  reports : List (Nat × (Nat × (Nat × Nat)))  -- coordinator: rank, step index and pier of its watermark, need
  deriving DecidableEq, Repr

/-- A formation (Table 16-8), with position and hop ports. -/
structure Formation where
  tag      : Nat
  dims     : Coord
  coord    : Coord
  length   : Nat
  groups   : Nat
  groupIdx : Nat
  head     : Nat
  shape    : Nat
  snakeW   : Nat
  origin   : Coord
  epoch    : Nat
  exclude  : W64
  pos      : Nat
  plusPort : Nat
  minusPort : Nat
  deriving DecidableEq, Repr

/-- A re-shard under way (Table 17-5). -/
structure ReshardWork where
  tag     : Nat
  epoch   : Nat
  mapAddr : Nat
  form    : Formation      -- the ring of the new epoch (Table 17-4), position and hop ports filled in
  plan    : Option Plan    -- the new plan, once validated
  phase   : Nat            -- 0 before its pier, 1 holding there, 2 flood and FORM, 3 moving, 4 moved
  pier    : Nat            -- INDEX of the pier at which it holds
  joined  : Bool           -- the token of the phase has been sent on (step 3 or 7)
  ranks   : List (Nat × Coord)  -- coordinates of the new ranks (R344)
  seen    : List Nat       -- ports whose FORM agreed
  early   : List (Coord × (Nat × (Nat × Nat)))  -- RECEIVE_READY of the new epoch before step 6: class, MSG_SEQ, length
  ports   : Tab Nat        -- armed port presets before step 6
  moved   : Nat            -- RESHARD_PERMUTE descriptors done
  bytes   : Nat            -- their LENGTHs summed
  retried : Bool           -- R359: a fault has been met once
  deriving DecidableEq, Repr

/-- A RESHARD_TOKEN held until the own step 1 or step 6 has ended (R358). -/
structure ReshardToken where
  epoch  : Nat
  phase  : Nat
  agree  : Bool
  count  : Nat
  digest : List Byte
  deriving DecidableEq, Repr

/-- A START in progress before the first descriptor (R41, R344). -/
inductive StartStage where
  | flood | compare | journal
  deriving DecidableEq, Repr

/-- A setting that takes effect at the next pier (R95). -/
inductive Setting where
  | pace (mode mv : Nat) | commit (retries flags : Nat) | replay (action limit : Nat)
  deriving DecidableEq, Repr

structure Keystone where
  loading    : Option Nat      -- LOAD_PLAN under validation: image address
  plan       : Option Plan
  gens       : Tab Nat         -- current generation number by handle (R43)
  written    : List Wrote      -- this segment's writes to protected buffers (R43, R446)
  nextSeq    : Nat
  order      : Nat             -- ordinal of the phase whose records stand in the shadows
  issueOrder : Nat             -- ordinal of the phase of the next descriptor to issue
  phase      : Nat             -- index of the phase whose records stand in the shadows
  shadowed   : Bool            -- its records have been written (R57)
  toArm      : List Nat        -- blocks named by them and not yet armed
  rearm      : List (Nat × Nat)  -- port presets to arm once their ports hold no unacknowledged flit (R327)
  issued     : List Issued
  queues     : Tab (List Nat)  -- per span: queue of SEQ (R50)
  shadow     : BlockCfg
  armed      : BlockCfg
  lastPier   : Option Nat      -- INDEX of the last pier written
  pierWork   : Option PierWork
  stepIndex  : Nat             -- R106
  segPier    : Nat             -- INDEX of the pier that closes the running segment (R106)
  stepsWanted : Nat            -- START's STEPS
  stepsClosed : Nat
  startTag   : Option Taken    -- pending START
  startStage : Option StartStage
  pauseReq   : Option (Taken × Nat)  -- pending PAUSE_AT_PIER and its PIER
  haltIssue  : Bool            -- issue stopped by a fault, an ABORT or a rewind
  xfers      : List XferRun
  collWork   : Tab (List W32)  -- per SEQ: running partials of a COLLECTIVE, as element bits
  squares    : Tab (Option W32)  -- per SEQ of a reducing COLLECTIVE: the sum of its owned elements' squares (R278)
  readies    : List (Nat × (Nat × (Nat × Nat)))  -- RECEIVE_READY that came before its send entry: rank, class, MSG_SEQ, length
  resident   : List Ctx
  saved      : List Ctx
  segmentOf  : Nat             -- first SEQ of the running segment
  tCounter   : W64             -- T of R146
  updates    : W64             -- UPDATES of the pending record (R292)
  updMap     : List Nat        -- update-phase descriptors journaled as complete (R276)
  updSent    : List (Option Nat)  -- their bits that wait for a MIRROR_ACK, oldest first; none for one discarded (R376)
  norms      : List NormRec    -- norm records of the running step
  normHist   : List (Nat × List NormRec)  -- last 16 steps: step counter and records (R289)
  commitW    : Option CommitWork
  token      : Option VoteToken
  recovery   : Option (Attempt × List (Nat × Nat))  -- a recovery heard of: replies as rank and outcome (R295)
  aborts     : Nat             -- consecutive aborts of one GENERATION (R298)
  attempt    : Nat             -- R293
  pace       : Nat × Nat       -- PACE_POLICY mode and voltage
  policy     : Nat × Nat       -- COMMIT_POLICY RETRIES and FLAGS
  replay     : Nat × Nat       -- REPLAY_CONTROL ACTION and LIMIT
  due        : List Setting    -- settings that wait for the next pier
  prefixKey  : BitVec 128      -- R224
  prefixEpoch : W32
  prefixCap  : Nat
  replays    : Nat             -- RESULT0 of REPLAY_CONTROL
  rewinds    : Nat
  lastReplay : Nat
  heldRestart : Option Nat     -- a replay held under ACTION 1: its pier, 0xFFFF the start record
  reach      : Nat × Nat       -- step index and SEQ of the furthest descriptor started
  replayTo   : Nat × Nat       -- as far as this, segments run again (FLAGS.REPLAYED of Table 19-2, R388)
  limitPier  : Nat             -- the pier that limitCount counts for, 0xFFFF the start record
  limitCount : Nat             -- rewinds to one pier before the next watermark (R386)
  unmirrored : Bool            -- running unmirrored has been logged since START (R373)
  stepPier   : Option Nat      -- last written pier with STEP_PIER
  accLost    : Bool            -- a substitution met an uncorrectable accumulator word: the segment fails (R131)
  marchTag   : Option Taken    -- MARCH_TEST running
  reshardW   : Option ReshardWork
  reshardTok : Option ReshardToken
  reshardBad : Option Nat      -- NEW_EPOCH of a RESHARD whose validation failed here (Table 17-5 step 3)
  deriving DecidableEq, Repr

-- ---------------------------------------------------------------- spans

/-- A vector engine (R231, R233). -/
structure VecEngine where
  regs    : Tab Byte   -- by register x 256 + byte
  vl      : Nat
  stripVl : Nat
  strip   : Nat        -- index k of the present strip
  index   : Nat        -- index of the next instruction
  seq     : Nat        -- the VEC_PROGRAM it runs, 0 none
  first   : Nat        -- first strip of the span's run
  lane    : Bool       -- LANE_RANGE (R238)
  laneAt  : Option (Nat × Nat)  -- instruction and strip of the first out-of-range lane
  deriving DecidableEq, Repr

/-- A line of the shared weight cache (R117, R118). -/
structure WLine where
  slice : Nat
  line  : Nat          -- device address ÷ 256
  handle : Nat
  gen   : Nat
  deriving DecidableEq, Repr

structure Spans where
  banks    : Tab Byte      -- by (span x 4 + bank) x 0x18_0000 + offset (R100)
  accs     : Tab Byte      -- by span x 0x8_0000 + 4 x entry (R99)
  tags     : Tab (BitVec 32)  -- by span x 4 + bank (Table 5-3)
  owners   : Tab Nat       -- present owner by span x 4 + bank (R103)
  resid    : Tab Nat       -- by span x 2 + half: SEQ that keeps it resident, 0 none (R161)
  vec      : Tab VecEngine
  shadows  : Tab (W64 × W64)  -- step shadow: STEP and UPDATES (R292)
  cache    : List WLine
  cacheOff : List (Nat × Nat)  -- disabled sets: slice, set (R128)
  phys     : Tab Nat       -- logical span to physical, as p + 1; 0 the span's own position (R130)
  retired  : List Nat      -- physical spans retired
  spares   : List Nat      -- bay pairs whose spare is used or unusable
  missing  : List Nat      -- logical spans with no physical span (R132)
  faults   : Tab Nat       -- own faults of a span in this step (Table 19-5)
  secded   : Tab Nat       -- corrections by bay (R100)
  defects  : List Cell     -- SRAM cells known to fail, repaired or not (R124 to R128)
  cacheEcc : Nat           -- lines of the weight cache dropped for an uncorrectable error (R119)
  volts    : Tab Nat       -- pace-matching or policy voltage by bay, mV; default 700
  busy     : Tab Nat       -- busy time of the running segment by bay (R29)
  lastBusy : Tab Nat       -- of the last segment
  counters : Tab W32       -- by bay x 5 + k: QFULL, QEMPTY, HANDOVER, DEFER, RUNGAP (R271)
  seen     : List (Nat × Nat)  -- counters that the present beat counts toward, as k and bay (R271)
  segTimes : List (Nat × (Nat × Nat))  -- pier, origin, time (R29)
  lag      : Nat           -- consecutive piers that met R34
  powerHeld : List Nat     -- bays held by power in the last decision (R31)
  moves    : List Nat      -- laggard spans whose work moves to a spare at the next pier (R35)
  paceLimit : Nat      -- package power limit as of the last pier, W (R402)
  slow     : Tab Nat       -- consecutive piers a span's pace met R35
  deriving DecidableEq, Repr

-- ---------------------------------------------------------------- DRAM

/-- A memory-side add (R315). -/
structure Add where
  channel : Nat
  addr    : Nat        -- device address of the element in the half written
  pos     : Nat        -- its byte offset in the buffer's generation half
  wide    : Bool       -- INT64
  fmt     : Nat
  key     : Nat        -- order key
  handle  : Nat
  value   : W64
  deriving DecidableEq, Repr

structure Dram where
  mem      : Tab Byte      -- device address; unlisted bytes read zero (R418 step 4, R421)
  bad      : List Nat      -- addresses ÷ 32 of uncorrectable sectors (R307)
  rowCorr  : Tab Nat       -- corrections per row since mapped (R310)
  failing  : List Nat      -- rows found failing, not yet remapped
  scrubBad : List Nat      -- uncorrectable sectors that scrubbing found (R310)
  flaws    : List SectorErr  -- what ails sectors that nothing has read since (R307)
  remaps   : Tab Nat       -- remaps per logical row (R310)
  spareRows : Tab Nat      -- spare rows used per channel x 32 + bank
  reserve  : Tab Nat       -- reserve regions used per channel (R311)
  retired  : List Nat      -- retired regions, channel x 1280 + region
  failedCh : List Nat      -- failed channels (R309)
  spared   : Tab (List Nat)  -- lanes that spares replace, by channel (R309)
  weak     : List (Nat × Nat)  -- lanes below the training limit since the last training: channel, lane
  laneCorr : Tab Nat       -- corrections by lane group, channel x 36 + symbol (R307)
  laneHits : List (Nat × Nat)  -- of the last 2^20 beats: lane group, beats ago (R309)
  trainTemp : Tab Int      -- temperature at the last training, by stack (R309)
  gone     : List Nat      -- regions to retire with no free reserve region, channel x 1280 + region (R313)
  lost     : List Nat      -- the lost list: sector addresses ÷ 32 (R310)
  corrected : Tab Nat      -- per channel since power-up (R319)
  uncorr   : Tab Nat
  scrubOn  : Bool          -- background scrubbing (R318)
  scrubPos : Tab Nat       -- per channel: next channel address, in KiB
  scrubRes : Nat × (Nat × Nat)  -- corrected, uncorrectable, remapped since the last MEMORY_SCRUB
  fast     : Tab Bool      -- per stack: refresh every 16 ms (R308)
  refRow   : Tab Nat       -- per channel x 32 + bank: next row to refresh
  selfRef  : Bool          -- stacks in self-refresh (R423)
  adds     : List Add      -- emitted adds not yet at their channel, oldest first
  window   : List Add      -- reorder windows (R315)
  markers  : List (Nat × (Nat × Nat))  -- add-done markers: channel, span, SEQ
  deriving DecidableEq, Repr

-- ---------------------------------------------------------------- Viaduct

inductive PortState where
  | down | training | trained | disabled | miswired
  deriving DecidableEq, Repr

structure Port where
  st       : PortState
  retrain  : Bool        -- the training under way is a retraining (R328)
  peer     : Option Ident
  spare    : Bool        -- spare lane in use
  rtt      : Nat         -- round trip, ns (R332)
  tx       : List Nat    -- next LSEQ to send, by class (R325)
  rx       : List Nat    -- next LSEQ expected, by class
  acked    : List Nat    -- last LSEQ acknowledged by the peer, by class; 4,095 none
  retry    : List Flit   -- unacknowledged flits, oldest first (R327)
  resent   : Tab Nat     -- resends of a flit, by class x 4096 + LSEQ (R328)
  again    : List Flit   -- flits to send again that an XOFF holds back, oldest first (R326, R329)
  stopped  : List (Nat × Nat)  -- class and lane stopped by the peer's XOFF (R329)
  xoffSent : List (Nat × Nat)
  queue    : List Flit   -- flits that this device originates, waiting for room in the retry buffer (R327)
  suspect  : List Nat    -- classes of which no good flit has come since a flit was discarded (R326)
  lanes    : List Flit   -- forwarding lanes: flits accepted and waiting to leave (R329)
  served   : List Nat    -- the input port whose flit was last forwarded out of this port, by class (R331)
  parts    : List Flit   -- flits of messages addressed to this device, not yet whole
  wire     : List Flit   -- everything sent, oldest first
  resends  : Nat
  retrains : Nat
  deriving DecidableEq, Repr

/-- RING_FORM in progress (R341). -/
structure FormWork where
  cmd   : Taken
  f     : Formation
  seen  : List Nat     -- ports whose FORM agreed
  deriving DecidableEq, Repr

structure Viaduct where
  ports   : Tab Port
  coord   : Option Coord
  dims    : Option Coord
  formed  : Option Formation     -- the ring that stands
  given   : Option Formation     -- what the last successful RING_FORM was given (R9)
  bypass  : Bool          -- bypass link recorded (R340)
  formW   : Option FormWork
  forms   : List (Nat × Instr)   -- FORMs that came before this device's RING_FORM, by port (R341)
  bypassSeen : List Nat          -- bypass ports whose FORM agreed (R340)
  ranks   : List (Nat × Coord)   -- coordinate of every rank (R344)
  ranksEpoch : W32
  digests : List (Nat × List Byte)
  sent    : List (Nat × Instr)   -- messages sent, by port (8 own device), oldest first
  routed  : List (Coord × Instr) -- messages addressed by coordinate and routed (R330)
  linkTag : Option Taken         -- LINK_CONTROL waiting for training
  linkLeft : List Nat
  deriving DecidableEq, Repr

/-- Group-wide replay state (19). -/
structure Group where
  watermark : Option Nat      -- highest watermark held
  wmStep    : Nat             -- its step index
  dones     : List (Nat × Nat)  -- coordinator: rank and pier of PIER_DONE
  coord     : Nat             -- rank of the coordinator followed
  count     : Nat             -- highest rewind COUNT seen
  rewindW   : Option RewindWork
  flooded   : List (Nat × (Nat × Nat))  -- floods forwarded: JTYPE, COUNT, PIER
  lostRanks : List Nat        -- members found silent or declared lost and not yet admitted (R382, R383)
  alive     : List (Nat × (Nat × W64))  -- adjacent rank, PLAN_STATE and BEAT of its last ALIVE
  holdAdmit : Bool            -- holding for admission (R389)
  admitting : Bool            -- this device is the unit under admission
  rerun     : Option (Nat × Nat) -- the unit runs a missed update again: the STEP and GENERATION of its mirror holder (R297)
  mirrored  : List Nat        -- ports whose device has mirrored its journal here since START (R389)
  fetches   : List (Nat × (Nat × Nat))  -- FETCH outstanding: handle, offset, length
  refresh   : Bool            -- step 7 of Table 19-9 is under way
  deriving DecidableEq, Repr

-- ---------------------------------------------------------------- Trestle

structure Copy where
  cmd     : Taken
  toHost  : Bool
  host    : Nat
  dev     : Nat
  len     : Nat
  done    : Nat
  deriving DecidableEq, Repr

structure TEntry where
  key    : Nat          -- order key of its descriptor
  seq    : Nat
  toHost : Bool
  host   : Nat
  pos    : Nat          -- byte of LOCAL's buffer at which the transfer begins
  len    : Nat
  done   : Nat
  deriving DecidableEq, Repr

/-- A host-memory read whose completion is outstanding. -/
structure TRead where
  copy : Bool
  seq  : Nat
  host : Nat
  dev  : Nat            -- device address of a copy's bytes; byte of LOCAL's buffer of an entry's
  len  : Nat
  last : Bool           -- the zero-length read that ends an OFFLOAD (R364)
  deriving DecidableEq, Repr

/-- The write last sent to host memory for a transfer: of the copy with a tag, or of a descriptor's entry (R371). -/
structure TWrite where
  copy : Bool
  id   : Nat            -- TAG of the copy, SEQ of the descriptor
  host : Nat            -- first host address of the chunk
  deriving DecidableEq, Repr

structure Trestle where
  copies   : List Copy
  entries  : List TEntry
  reads    : List TRead
  turnTo   : Nat        -- chunks served to plan entries since the copy's last, to host (R368)
  turnFrom : Nat
  latePref : W32
  latePrefBeats : W32
  lateOffBeats : W32
  toHostBytes : W64
  fromHostBytes : W64
  sharedBeats : W32
  lateSeen : List Nat   -- PREFETCH descriptors already counted late
  lateNow  : List Nat   -- OFFLOAD and PREFETCH descriptors late in the present beat (R370)
  sharedNow : Bool      -- a copy and a plan entry shared a direction in the present beat
  lastWrite : Option TWrite
  deriving DecidableEq, Repr

-- ---------------------------------------------------------------- Tollhouse

structure Hold where
  code  : Nat           -- Table 20-7 HOLD code: 1 thermal, 3 DRAM, 5 power, 6 current
  unit  : Nat           -- the sensor: bay 0-31, 32+q hot-spot q, stack k, 0
  bays  : BitVec 32
  ceil  : Nat           -- mV
  calm  : Nat           -- samples the release condition has held
  releasing : Bool
  deriving DecidableEq, Repr

structure Floor where
  code : Nat            -- 2 thermal, 4 DRAM, 6 PROCHOT_N or current
  unit : Nat            -- as Hold; 100 PROCHOT_N, 101 current
  bays : BitVec 32
  deriving DecidableEq, Repr

structure EventRec where  -- Table 20-5
  beat  : W64
  seqno : W32
  ev    : Event
  flags : Byte
  deriving DecidableEq, Repr

structure Window where    -- R404
  source : Nat
  code   : Nat
  unit   : Nat
  opened : W64
  kept   : Nat
  extra  : Nat
  last   : Event
  deriving DecidableEq, Repr

/-- An entry of the repair table (R127, R312). -/
inductive Repair where
  | row (index : Nat) | region (index : Nat) | sramRow (sram : Sram) (row : Nat) | sramCol (sram : Sram) (col : Nat)
  | span (physical : Nat) | cacheSet (slice set : Nat)
  deriving DecidableEq, Repr

inductive Update where     -- R412
  | none
  | inBand (cmd : Taken)
  | oob
  deriving DecidableEq, Repr

structure ActivateWork where  -- Table 20-12
  cmd   : Option Taken     -- none: PLDM ActivateFirmware
  comps : BitVec 3
  prev  : BitVec 3
  deriving DecidableEq, Repr

structure Toll where
  uds      : BitVec 256    -- Table 20-1
  udsLocked : Bool         -- locked by the boot ROM (R395)
  cdi      : BitVec 384    -- R415
  deviceId : W64
  keyHash  : BitVec 384
  rollback : BitVec 128    -- 64 steps of two bits
  stepping : Byte
  spareMap : BitVec 528
  slots    : Tab (List Byte)  -- image slots: component x 2 + slot (Table 20-2)
  active   : BitVec 3
  staged   : BitVec 3
  limitW   : Nat           -- package power limit (R402)
  repair   : List Repair
  flashLog : List EventRec
  sramLog  : List EventRec
  unsaved  : List W32      -- SEQNO of records not yet persisted
  seqno    : W32
  persistLost : Bool       -- the next record carries PERSIST_LOST
  windows  : List Window
  sample   : Sample        -- readings of the last sample
  warm     : List Nat      -- bays, and 32 + q for hot-spots, above 95 degrees C at the last sample (Table 20-3)
  oor      : List Nat      -- sensors out of range: PLDM sensor ID, 1000 + p for a pace counter
  stale    : Bool
  corrAt   : Tab Nat       -- corrections per channel at the last sample (Table 20-6)
  lastCorr : Tab Nat       -- corrections per channel in the last sample period
  sampleBeat : W64
  holds    : List Hold
  floors   : List Floor
  snapSeq  : W32
  snap     : Tab Byte      -- telemetry snapshot by offset (Table 20-6)
  update   : Update
  staging  : List Byte     -- image bytes pulled so far
  stageComp : Nat
  actW     : Option ActivateWork
  drbg     : Nat           -- draws made from the random source
  eid      : Byte
  dynAddr  : Option (BitVec 7)
  receiver : Option Byte   -- event receiver (R409)
  negotiated : Bool        -- SPDM algorithms negotiated (R414)
  replies  : List (List Byte)  -- everything sent out of band or over DOE, oldest first
  deriving DecidableEq, Repr

structure Jtag where
  ir      : Nat            -- instruction in force: 0 BYPASS, 1 IDCODE, 2 SAMPLE/PRELOAD, 3 EXTEST, 4 CLAMP, 5 HIGHZ
  bsr     : List Bool      -- boundary-scan register
  pinsOut : List Bool      -- levels driven on the lands under EXTEST and CLAMP
  driving : Bool           -- boundary scan drives the lands
  floating : Bool          -- HIGHZ in force
  tdo     : List Bool
  deriving DecidableEq, Repr

structure State where
  pending : List Instr
  free    : Nat        -- the model's own: how many values have been drawn from undefinedByte, landLevel and movedContext
  pw      : Power
  beat    : Beat
  host    : HostIf
  ks      : Keystone
  sp      : Spans
  dram    : Dram
  via     : Viaduct
  grp     : Group
  tre     : Trestle
  toll    : Toll
  jtag    : Jtag
  deriving DecidableEq, Repr

-- ---------------------------------------------------------------- reset values

def Port.reset : Port :=
  { st := .down, retrain := false, peer := none, spare := false, rtt := 0, tx := [0, 0, 0, 0], rx := [0, 0, 0, 0],
    acked := [4095, 4095, 4095, 4095], retry := [], resent := [], again := [], stopped := [],
    xoffSent := [], queue := [], suspect := [], lanes := [], served := [7, 7, 7, 7], parts := [], wire := [], resends := 0, retrains := 0 }

def VecEngine.reset : VecEngine :=
  { regs := [], vl := 0, stripVl := 0, strip := 0, index := 0, seq := 0, first := 0, lane := false, laneAt := none }

/-- The reset configuration of R55: no circuits, P-BAL, V-DEF, stream engine owners, voltage inherited. -/
def BlockCfg.reset : BlockCfg := { routers := [], chans := [], ports := [], regs := [], owners := [] }

def Power.reset : Power :=
  { p12v := false, rails := false, stage := .off, perst := false, warmPending := false, warmEnv := none, tripped := false,
    thermtrip := false, faultN := false, prochot := false, straps := 0, uart := [], restart := false }

def Beat.reset : Beat :=
  { number := 0, sinceCorr := 16, length := 160, diff := 0, lead := none, upstream := none, hops := 0, root := 0, locked := false,
    adopted := false, corrections := 0, portHops := [], delays := [], ticks := 0, markerAt := none, asked := [],
    echoDue := [] }

def HostIf.reset : HostIf :=
  { linkUp := false, rate := .gt32, width := .x16, flitMode := false, accepts := true, pm := .d0, tagBits := 8, msixEn := false, bar2Bits := 41, mps := 128,
    mrrs := 512, msixTable := (List.range 16).map fun v => (16 * v + 12, 1),
    pba := 0, runalVer := 0, resultVer := 0, tollVer := 0, ucodeVer := 0, ctrl := 0,
    status := 0x21, err := 0, cqBaseLo := 0, cqBaseHi := 0, coal := 1, msixMap := 0x76543210, bar2Lo := 0,
    bar2Hi := 0, beatHi := 0, slots := [], inUse := [], collided := [], flipped := [], taken := [], long := [],
    coalCount := [], regions := [], out := [], aer := [] }

def Keystone.reset : Keystone :=
  { loading := none, plan := none, gens := [], written := [], nextSeq := 1, order := 0, issueOrder := 1, phase := 0,
    shadowed := false, toArm := [], rearm := [], issued := [], queues := [], shadow := .reset, armed := .reset, lastPier := none,
    pierWork := none, stepIndex := 0, segPier := 0, stepsWanted := 0, stepsClosed := 0, startTag := none,
    startStage := none, pauseReq := none, haltIssue := false, xfers := [], collWork := [], squares := [], readies := [],
    resident := [], saved := [], segmentOf := 1, tCounter := 0, updates := 0, updMap := [], updSent := [], norms := [],
    normHist := [], commitW := none, token := none, recovery := none, aborts := 0, attempt := 0, pace := (0, 0), policy := (3, 0),
    replay := (0, 3), due := [], prefixKey := 0, prefixEpoch := 0, prefixCap := 1048576, replays := 0, rewinds := 0,
    lastReplay := 0, heldRestart := none, reach := (0, 0), replayTo := (0, 0), limitPier := 0xFFFF, limitCount := 0,
    unmirrored := false, stepPier := none, accLost := false, marchTag := none,
    reshardW := none, reshardTok := none, reshardBad := none }

def Spans.reset : Spans :=
  { banks := [], accs := [], tags := [], owners := [], resid := [], vec := [], shadows := [], cache := [],
    cacheOff := [], phys := [], retired := [], spares := [], missing := [], faults := [], secded := [], defects := [], cacheEcc := 0, volts := [],
    busy := [], lastBusy := [], counters := [], seen := [], segTimes := [], lag := 0, powerHeld := [], moves := [], paceLimit := 3000, slow := [] }

def Dram.reset : Dram :=
  { mem := [], bad := [], rowCorr := [], failing := [], remaps := [], spareRows := [], reserve := [], retired := [],
    failedCh := [], scrubBad := [], flaws := [], spared := [], weak := [], laneCorr := [], laneHits := [],
    trainTemp := [], gone := [], lost := [], corrected := [], uncorr := [], scrubOn := false, scrubPos := [],
    scrubRes := (0, (0, 0)), fast := [], refRow := [], selfRef := false, adds := [], window := [], markers := [] }

def Viaduct.reset : Viaduct :=
  { ports := [], coord := none, dims := none, formed := none, given := none, bypass := false, formW := none, forms := [], bypassSeen := [], ranks := [],
    ranksEpoch := 0, digests := [], sent := [], routed := [], linkTag := none, linkLeft := [] }

def Group.reset : Group :=
  { watermark := none, wmStep := 0, dones := [], coord := 0, count := 0, rewindW := none, flooded := [], lostRanks := [],
    alive := [], holdAdmit := false, admitting := false, rerun := none, mirrored := [], fetches := [], refresh := false }

def Trestle.reset : Trestle :=
  { copies := [], entries := [], reads := [], turnTo := 0, turnFrom := 0, latePref := 0, latePrefBeats := 0,
    lateOffBeats := 0, toHostBytes := 0, fromHostBytes := 0, sharedBeats := 0, lateSeen := [],
    lateNow := [], sharedNow := false, lastWrite := none }

def Sample.zero : Sample :=
  { bayTemp := List.replicate 32 0, hotSpot := List.replicate 4 0, dramTemp := List.replicate 32 0,
    serdes := List.replicate 8 0, preFec := List.replicate 8 0, bayMv := List.replicate 32 0, bayCur := List.replicate 32 0, pace := [],
    p12Mv := 0, p12Ma := 0, auxMv := 0 }

def Toll.reset : Toll :=
  { uds := 0, udsLocked := false, cdi := 0, deviceId := 0, keyHash := 0, rollback := 0, stepping := 0xB0, spareMap := 0, slots := [], active := 0,
    staged := 0, limitW := 3000, repair := [], flashLog := [], sramLog := [], unsaved := [], seqno := 0,
    persistLost := false, windows := [], sample := Sample.zero, warm := [], oor := [], stale := true, corrAt := [], lastCorr := [], sampleBeat := 0, holds := [],
    floors := [], snapSeq := 0, snap := [], update := .none, staging := [], stageComp := 0, actW := none, drbg := 0,
    eid := 0, dynAddr := none, receiver := none, negotiated := false, replies := [] }

def Jtag.reset : Jtag :=
  { ir := 1, bsr := List.replicate 28 false, pinsOut := [], driving := false, floating := false, tdo := [] }

/-- The device before its first start: the Cold column of Table 21-4 and the reset values of Tables 4-4 to 4-9. -/
def State.reset : State :=
  { pending := [], free := 0, pw := .reset, beat := .reset, host := .reset, ks := .reset, sp := .reset, dram := .reset,
    via := .reset, grp := .reset, tre := .reset, toll := .reset, jtag := .reset }

end Sys2Proof.Machine
end

