-- ==== Sys2Proof/Machine/Table.lean ====
section
/-! DEFINITION. The operations on sparse tables, on little-endian byte strings and on ranges of bytes. -/

namespace Sys2Proof.Machine

/-- The entry at a key; the default where the table lists none. -/
def tabGet {α : Type} (d : α) : Tab α → Nat → α
  | [], _ => d
  | (k, v) :: t, a => if a = k then v else if a < k then d else tabGet d t a

/-- Write one entry, keeping the form: keys rising, no entry equal to the default. -/
def tabSet {α : Type} [DecidableEq α] (d : α) : Tab α → Nat → α → Tab α
  | [], a, x => if x = d then [] else [(a, x)]
  | (k, v) :: t, a, x =>
    if a < k then (if x = d then (k, v) :: t else (a, x) :: (k, v) :: t)
    else if a = k then (if x = d then t else (a, x) :: t)
    else (k, v) :: tabSet d t a x

/-- Write the entry that a function of the old one gives. -/
def tabUpd {α : Type} [DecidableEq α] (d : α) (t : Tab α) (a : Nat) (f : α → α) : Tab α := tabSet d t a (f (tabGet d t a))

/-- Every key is at least `lo`, keys rise strictly, and no entry is the default. -/
def tabWfFrom {α : Type} [DecidableEq α] (d : α) : Nat → Tab α → Bool
  | _, [] => true
  | lo, (k, v) :: t => decide (lo ≤ k) && decide (v ≠ d) && tabWfFrom d (k + 1) t

/-- The canonical form of a table. -/
def tabWf {α : Type} [DecidableEq α] (d : α) (t : Tab α) : Bool := tabWfFrom d 0 t

/-- Drop every entry whose key the predicate refuses. -/
def tabKeep {α : Type} (p : Nat → Bool) (t : Tab α) : Tab α := t.filter (fun e => p e.1)

/-- `n` bytes from an address on. -/
def tabBytes (t : Tab Byte) (a : Nat) : Nat → List Byte
  | 0 => []
  | n + 1 => tabGet 0 t a :: tabBytes t (a + 1) n

/-- Write a string of bytes from an address on. -/
def tabPut (t : Tab Byte) (a : Nat) : List Byte → Tab Byte
  | [] => t
  | b :: bs => tabPut (tabSet 0 t a b) (a + 1) bs

/-- The little-endian number that bytes spell. -/
def leNat : List Byte → Nat
  | [] => 0
  | b :: bs => b.toNat + 256 * leNat bs

/-- `n` little-endian bytes of a number. -/
def leBytes : Nat → Nat → List Byte
  | 0, _ => []
  | n + 1, v => BitVec.ofNat 8 v :: leBytes n (v / 256)

/-- The number in `n` bytes at offset `o` of a byte string; bytes past its end are zero. -/
def fieldAt (b : List Byte) (o n : Nat) : Nat := leNat ((b.drop o).take n)

/-- The two's complement value of a number of `w` bits. -/
def signedOf (w v : Nat) : Int := if v % 2 ^ w < 2 ^ (w - 1) then (v % 2 ^ w : Nat) else ((v % 2 ^ w : Nat) : Int) - 2 ^ w

/-- The `w`-bit two's complement of an integer. -/
def unsignedOf (w : Nat) (z : Int) : Nat := (z % (2 ^ w : Int)).toNat

/-- Bits [hi:lo] of a number. -/
def bitsOf (v hi lo : Nat) : Nat := v / 2 ^ lo % 2 ^ (hi + 1 - lo)

/-- The number with bit `k` set or cleared. -/
def setBit (v k : Nat) (b : Bool) : Nat :=
  if v.testBit k = b then v else if b then v + 2 ^ k else v - 2 ^ k

/-- ⌈a ÷ b⌉. -/
def ceilDiv (a b : Nat) : Nat := (a + b - 1) / b

/-- Replace element i of a list. -/
def listSet {α : Type} : List α → Nat → α → List α
  | [], _, _ => []
  | _ :: t, 0, x => x :: t
  | h :: t, i + 1, x => h :: listSet t i x

def listGet {α : Type} (d : α) (l : List α) (i : Nat) : α := l.getD i d

/-- Insert into a strictly rising list. -/
def insertNat (x : Nat) : List Nat → List Nat
  | [] => [x]
  | h :: t => if x < h then x :: h :: t else if x = h then h :: t else h :: insertNat x t

/-- The cut of R64: part j of n elements cut into P parts, as its first element and its length. -/
def cutPart (n P j : Nat) : Nat × Nat :=
  let q := n / P
  let r := n % P
  if j < r then (j * (q + 1), q + 1) else (r * (q + 1) + (j - r) * q, q)

/-- The value of bytes given as a list of Nat, for constants. -/
def bytesOf (l : List Nat) : List Byte := l.map (BitVec.ofNat 8)

/-- `n` zero bytes. -/
def zeros (n : Nat) : List Byte := List.replicate n 0

end Sys2Proof.Machine
end

