-- ==== Sys2Proof/Machine/PlanImage.lean ====
section
/-! DEFINITION. Reading a plan image (spec 03): the header and its sections, and the records of each section, as Tables
3-2 to 3-12 lay them out, from the bytes of device memory. -/

namespace Sys2Proof.Machine

/-- The little-endian number of `n` bytes of device memory. -/
def memNat (m : Tab Byte) (a n : Nat) : Nat := leNat (tabBytes m a n)

/-- Offset, count and entry size of section `i` (R40). -/
def secOffset (m : Tab Byte) (base i : Nat) : Nat := memNat m (base + 0x40 + 16 * i) 8
def secCount (m : Tab Byte) (base i : Nat) : Nat := memNat m (base + 0x48 + 16 * i) 4
def secEntry (m : Tab Byte) (base i : Nat) : Nat := memNat m (base + 0x4C + 16 * i) 4

/-- Operand reference of Table 3-7, in 16 bytes of a body. -/
def operandAt (b : List Byte) (o : Nat) : Operand :=
  { handle := fieldAt b o 2
    fmt := fieldAt b (o + 2) 1 % 16
    bank := fieldAt b (o + 3) 1 % 4
    stream := fieldAt b (o + 4) 4
    offset := fieldAt b (o + 8) 8
    skip := 0 }

/-- Table 3-6 and the body behind it. -/
def descOf (b : List Byte) : Desc :=
  { opcode := fieldAt b 0 2
    flags := fieldAt b 2 2
    seq := fieldAt b 4 4
    spanFirst := fieldAt b 8 2
    spanCount := fieldAt b 0xA 2
    spanStride := fieldAt b 0xC 1
    context := fieldAt b 0xD 1
    round := fieldAt b 0xE 1
    deps := [fieldAt b 0x10 2, fieldAt b 0x12 2, fieldAt b 0x14 2, fieldAt b 0x16 2]
    rngStream := fieldAt b 0x18 2
    tensorId := fieldAt b 0x1C 4
    body := (b.drop 0x20).take 96
    base := 0
    skips := [] }

/-- Table 3-4. -/
def bufOf (b : List Byte) : Buf :=
  { addr := fieldAt b 0 8, size := fieldAt b 8 8, tensorId := fieldAt b 0x10 4, kind := fieldAt b 0x14 1,
    placement := fieldAt b 0x15 1, flags := fieldAt b 0x16 2 }

/-- R55. -/
def phaseOf (b : List Byte) : Phase :=
  { firstSeq := fieldAt b 0 4, setupFirst := fieldAt b 4 4, setupCount := fieldAt b 8 2 }

/-- R54. -/
def setupOf (b : List Byte) : Setup :=
  { kind := fieldAt b 0 1, target := fieldAt b 2 2, body := (b.drop 8).take (fieldAt b 4 2) }

/-- Table 3-11. -/
def pierOf (b : List Byte) : PierEntry :=
  { seq := fieldAt b 0 4, index := fieldAt b 4 2, flags := fieldAt b 6 2 }

/-- Table 3-12. -/
def xferOf (b : List Byte) : Xfer :=
  { seq := fieldAt b 0 4, kind := fieldAt b 4 1, port := fieldAt b 5 1, cls := fieldAt b 6 1, peer := fieldAt b 8 4,
    msgSeq := fieldAt b 0xC 4, len := fieldAt b 0x10 8 }

/-- The entries of section `i`, of `size` bytes each, each read by `f`. -/
def sectionOf {α : Type} (m : Tab Byte) (base i size : Nat) (f : List Byte → α) : List α :=
  (List.range (secCount m base i)).map fun k => f (tabBytes m (base + secOffset m base i + size * k) size)

/-- The plan that an image holds (Tables 3-2 and 3-3), before any split. -/
def planOf (m : Tab Byte) (base : Nat) : Plan :=
  { base := base
    seed := BitVec.ofNat 64 (memNat m (base + 0x18) 8)
    ringLength := memNat m (base + 0x20) 2
    ringPos := memNat m (base + 0x22) 2
    ringGroups := memNat m (base + 0x24) 2
    groupIndex := memNat m (base + 0x26) 2
    headGroup := memNat m (base + 0x28) 2
    contexts := memNat m (base + 0x2A) 2
    epoch := memNat m (base + 0x2C) 4
    groupTag := memNat m (base + 0x30) 4
    loopPhase := memNat m (base + 0x34) 4
    digest := tabBytes m (base + 0xC0) 48
    bufs := sectionOf m base 0 32 bufOf
    phases := sectionOf m base 1 16 phaseOf
    setups := sectionOf m base 2 256 setupOf
    descs := sectionOf m base 3 128 descOf
    piers := sectionOf m base 4 16 pierOf
    xfers := sectionOf m base 5 32 xferOf
    param := tabBytes m (base + secOffset m base 6) (secCount m base 6)
    splits := []
    stepLocal := false }

/-- The descriptor of a SEQ (R49: SEQ 1 stands first). -/
def descAt (p : Plan) (seq : Nat) : Option Desc := if seq = 0 then none else p.descs[seq - 1]?

/-- The target spans, in target-position order (R44). -/
def targets (d : Desc) : List Nat := (List.range d.spanCount).map fun i => d.spanFirst + i * d.spanStride

/-- Rounding codes of Table 3-6. -/
def outRound (d : Desc) : Nat := d.round % 4
def accRound (d : Desc) : Nat := d.round / 4 % 4

/-- FLAGS of Table 3-6. -/
def isDeferrable (d : Desc) : Bool := d.flags.testBit 0
def isBarrier (d : Desc) : Bool := d.flags.testBit 1
def isReport (d : Desc) : Bool := d.flags.testBit 2

/-- Fields of a body. -/
def b8 (d : Desc) (o : Nat) : Nat := fieldAt d.body o 1
def b16 (d : Desc) (o : Nat) : Nat := fieldAt d.body o 2
def b32 (d : Desc) (o : Nat) : Nat := fieldAt d.body o 4
def b64 (d : Desc) (o : Nat) : Nat := fieldAt d.body o 8
def opAt (d : Desc) (o : Nat) : Operand := { operandAt d.body o with skip := d.skips.getD (o / 16) 0 }

def noOperand : Nat := 0xFFFE
def bankOperand : Nat := 0xFFFF
def isNone (o : Operand) : Bool := o.handle == noOperand
def isBank (o : Operand) : Bool := o.handle == bankOperand
def isBuffer (o : Operand) : Bool := decide (o.handle < noOperand)

def opMatmul : Nat := 0x0101
def opDgrad : Nat := 0x0102
def opWgrad : Nat := 0x0103
def opMatvec : Nat := 0x0104
def opAttnFwd : Nat := 0x0201
def opAttnBwd : Nat := 0x0202
def opAttnDecode : Nat := 0x0203
def opVecProgram : Nat := 0x0301
def opScan : Nat := 0x0302
def opSegScan : Nat := 0x0303
def opAffineScan : Nat := 0x0304
def opConvTaps : Nat := 0x0401
def opPool : Nat := 0x0402
def opReduce : Nat := 0x0501
def opGlobalNorm : Nat := 0x0502
def opNormProbe : Nat := 0x0503
def opUpdateElem : Nat := 0x0601
def opUpdateMatrix : Nat := 0x0602
def opCommit : Nat := 0x0603
def opCopyConvert : Nat := 0x0701
def opRingPass : Nat := 0x0702
def opCollective : Nat := 0x0703
def opReshardPermute : Nat := 0x0704
def opOffload : Nat := 0x0705
def opPrefetch : Nat := 0x0706
def opWeightChain : Nat := 0x0707
def opPrefixLookup : Nat := 0x0801
def opPrefixInsert : Nat := 0x0802
def opBankHandover : Nat := 0x0F01
def opPier : Nat := 0x0F02

/-- Table 3-8. -/
def opcodes : List Nat :=
  [opMatmul, opDgrad, opWgrad, opMatvec, opAttnFwd, opAttnBwd, opAttnDecode, opVecProgram, opScan, opSegScan,
   opAffineScan, opConvTaps, opPool, opReduce, opGlobalNorm, opNormProbe, opUpdateElem, opUpdateMatrix, opCommit,
   opCopyConvert, opRingPass, opCollective, opReshardPermute, opOffload, opPrefetch, opWeightChain, opPrefixLookup,
   opPrefixInsert, opBankHandover, opPier]

/-- The MATMUL family of R154. -/
def isMatmul (op : Nat) : Bool := op == opMatmul || op == opDgrad || op == opWgrad

/-- The phase index of a SEQ (R55): the last phase that begins at or before it. -/
def phaseIndex (p : Plan) (seq : Nat) : Nat := (p.phases.filter (fun f => decide (f.firstSeq ≤ seq))).length - 1

/-- The records of a phase. -/
def phaseRecords (p : Plan) (i : Nat) : List Setup :=
  match p.phases[i]? with
  | none => []
  | some f => (p.setups.drop f.setupFirst).take f.setupCount

/-- The pier that closes the segment of a SEQ (R106): the first pier at or after it. -/
def closingPier (p : Plan) (seq : Nat) : Option PierEntry := p.piers.find? (fun e => decide (seq ≤ e.seq))

/-- The last SEQ of the plan, its step-closing pier (R52). -/
def lastSeq (p : Plan) : Nat := p.descs.length

/-- The first SEQ of a step after the first (R52). -/
def loopSeq (p : Plan) : Nat :=
  match p.phases[p.loopPhase]? with
  | none => 1
  | some f => f.firstSeq

/-- Transfer entries of a descriptor, with their indices in the transfer table. -/
def xfersOf (p : Plan) (seq : Nat) : List (Nat × Xfer) :=
  p.xfers.zipIdx.filterMap fun e => if e.1.seq = seq then some (e.2, e.1) else none

def mib : Nat := 1048576

/-- The device address of byte 0 of a buffer's half `h` (R43: SIZE rounded up to 1 MiB apart). -/
def halfAddr (b : Buf) (h : Nat) : Nat := b.addr + h * (ceilDiv b.size mib * mib)

/-- Kinds 1 and 2 hold two generations (R43). -/
def twoHalves (b : Buf) : Bool := b.kind == 1 || b.kind == 2

/-- FLAGS.WEIGHT of Table 3-4. -/
def isWeight (b : Buf) : Bool := b.flags.testBit 0

end Sys2Proof.Machine
end

