-- ==== Sys2Proof/Machine/Number.lean ====
section
/-! DEFINITION. Number formats and rounding (spec 06): the values that the formats of Table 6-1 hold, the rounding codes
of Table 3-10, narrowing, widening, and block scales. Values are exact: a sign, a magnitude and a power of two. -/

namespace Sys2Proof.Machine

/-- The element formats of Table 6-1 and their codes (Table 3-9). -/
inductive Fmt where
  | fp32 | bf16 | fp16 | e4m3 | e5m2 | mxfp4 | int8 | int4 | int32 | mxfp8
  deriving DecidableEq, Repr

/-- Table 3-9. -/
def fmtOf (code : Nat) : Option Fmt :=
  match code with
  | 0 => some .fp32 | 1 => some .bf16 | 2 => some .fp16 | 3 => some .e4m3 | 4 => some .e5m2
  | 5 => some .mxfp4 | 6 => some .int8 | 7 => some .int4 | 8 => some .int32 | 9 => some .mxfp8
  | _ => none

/-- Bits of one element (Table 6-1). -/
def fmtBits : Fmt → Nat
  | .fp32 | .int32 => 32
  | .bf16 | .fp16 => 16
  | .e4m3 | .e5m2 | .int8 | .mxfp8 => 8
  | .mxfp4 | .int4 => 4

/-- R136: the two block-scaled formats. -/
def fmtScaled (f : Fmt) : Bool := f == .mxfp4 || f == .mxfp8

/-- Formats of two's complement integers (R133). -/
def fmtInt (f : Fmt) : Bool := f == .int8 || f == .int4 || f == .int32

/-- Exponent bits, mantissa bits and bias of a floating-point format (Table 6-1). -/
def fmtLayout : Fmt → Nat × (Nat × Nat)
  | .fp32 => (8, (23, 127))
  | .bf16 => (8, (7, 127))
  | .fp16 => (5, (10, 15))
  | .e4m3 | .mxfp8 => (4, (3, 7))
  | .e5m2 => (5, (2, 15))
  | .mxfp4 => (2, (1, 1))
  | _ => (0, (0, 0))

/-- A value: NaN, an infinity, or (−1)^neg × mag × 2^exp (R133, R134). A zero keeps its sign. -/
inductive Num where
  | nan
  | inf (neg : Bool)
  | fin (neg : Bool) (mag : Nat) (exp : Int)
  deriving DecidableEq, Repr

def numZero : Num := .fin false 0 0
def numOne : Num := .fin false 1 0
def numOfNat (n : Nat) : Num := .fin false n 0
def numOfInt (z : Int) : Num := .fin (decide (z < 0)) z.natAbs 0

def numIsNan (x : Num) : Bool := match x with | .nan => true | _ => false
def numIsZero (x : Num) : Bool := match x with | .fin _ m _ => m == 0 | _ => false
def numIsInf (x : Num) : Bool := match x with | .inf _ => true | _ => false
def numIsFinite (x : Num) : Bool := match x with | .fin _ _ _ => true | _ => false
def numSign (x : Num) : Bool := match x with | .nan => false | .inf s => s | .fin s _ _ => s

def numNeg (x : Num) : Num :=
  match x with | .nan => .nan | .inf s => .inf (!s) | .fin s m e => .fin (!s) m e

def numAbs (x : Num) : Num :=
  match x with | .nan => .nan | .inf _ => .inf false | .fin _ m e => .fin false m e

/-- The value times 2^k. -/
def numScale (x : Num) (k : Int) : Num :=
  match x with | .fin s m e => .fin s m (e + k) | y => y

/-- Exact product (R134). -/
def numMul (x y : Num) : Num :=
  match x, y with
  | .nan, _ => .nan
  | _, .nan => .nan
  | .inf s, .inf t => .inf (xor s t)
  | .inf s, .fin t m _ => if m = 0 then .nan else .inf (xor s t)
  | .fin s m _, .inf t => if m = 0 then .nan else .inf (xor s t)
  | .fin s m e, .fin t n f => .fin (xor s t) (m * n) (e + f)

/-- The integer v of value v × 2^e, for e not above the exponent of the value. -/
def numAlign (s : Bool) (m : Nat) (e₀ e : Int) : Int :=
  let v : Int := (m <<< (e₀ - e).toNat : Nat)
  if s then -v else v

/-- Exact sum (R134): a zero sum of opposite signs is +0. -/
def numAdd (x y : Num) : Num :=
  match x, y with
  | .nan, _ => .nan
  | _, .nan => .nan
  | .inf s, .inf t => if s = t then .inf s else .nan
  | .inf s, _ => .inf s
  | _, .inf t => .inf t
  | .fin s m e, .fin t n f =>
    if m = 0 ∧ n = 0 then .fin (s && t) 0 0
    else if m = 0 then .fin t n f
    else if n = 0 then .fin s m e
    else
      let g := min e f
      let z := numAlign s m e g + numAlign t n f g
      .fin (decide (z < 0)) z.natAbs g

def numSub (x y : Num) : Num := numAdd x (numNeg y)

/-- x < y over non-NaN values; +0 and −0 are equal (R134). -/
def numLt (x y : Num) : Bool :=
  match x, y with
  | .nan, _ => false
  | _, .nan => false
  | .inf s, .inf t => s && !t
  | .inf s, _ => s
  | _, .inf t => !t
  | .fin s m e, .fin t n f =>
    let g := min e f
    decide (numAlign s m e g < numAlign t n f g)

def numEq (x y : Num) : Bool :=
  !numIsNan x && !numIsNan y && !numLt x y && !numLt y x

def numLe (x y : Num) : Bool := numLt x y || numEq x y

/-- ⌊log₂ (n ÷ d)⌋ for n and d not 0. -/
def log2Frac (n d : Nat) : Int :=
  let t : Int := (Nat.log2 n : Int) - (Nat.log2 d : Int)
  let ge : Bool := if t ≥ 0 then decide (d <<< t.toNat ≤ n) else decide (d ≤ n <<< (-t).toNat)
  if ge then t else t - 1

/-- ⌊log₂⌋ of a nonzero magnitude m × 2^e. -/
def log2Num (m : Nat) (e : Int) : Int := (Nat.log2 m : Int) + e

/-- The exponent of the spacing u of R144 at a magnitude of the given ⌊log₂⌋: one unit for integers; for FP32, 2⁻¹²⁶
below 2⁻¹²⁶ (R138). -/
def spacing (f : Fmt) (lg : Int) : Int :=
  match f with
  | .int8 | .int4 | .int32 => 0
  | .fp32 => if lg < -126 then -126 else lg - 23
  | g =>
    let l := fmtLayout g
    let emin : Int := 1 - (l.2.2 : Int)
    max lg emin - (l.2.1 : Int)

/-- Whether the magnitude a + r rounds up, where the part below a unit is rem ÷ den (R143, R144). `bits` are the 16
random bits of R148. -/
def roundsUp (code bits a rem den : Nat) : Bool :=
  match code with
  | 0 => decide (den < 2 * rem) || (2 * rem == den && a % 2 == 1)
  | 2 => decide (bits < rem * 65536 / den)
  | _ => false

/-- The magnitude n ÷ d × 2^e rounded to the grid of the format: a count of units and the exponent of the unit. -/
def roundMag (f : Fmt) (code bits n d : Nat) (e : Int) : Nat × Int :=
  if n = 0 then (0, 0)
  else
    let ue := spacing f (log2Frac n d + e)
    let num := if e ≥ ue then n <<< (e - ue).toNat else n
    let den := if e ≥ ue then d else d <<< (ue - e).toNat
    let a := num / den
    let rem := num % den
    (if rem ≠ 0 && roundsUp code bits a rem den then a + 1 else a, ue)

/-- The canonical NaN of a format (R134); formats without one take 0. -/
def nanBits : Fmt → Nat
  | .fp32 => 0x7FC00000
  | .bf16 => 0x7FC0
  | .fp16 => 0x7E00
  | .e4m3 | .mxfp8 => 0x7F
  | .e5m2 => 0x7E
  | _ => 0

/-- The largest finite magnitude, as bits without the sign (Table 6-1). -/
def maxBits : Fmt → Nat
  | .fp32 => 0x7F7FFFFF
  | .bf16 => 0x7F7F
  | .fp16 => 0x7BFF
  | .e4m3 | .mxfp8 => 0x7E
  | .e5m2 => 0x7B
  | .mxfp4 => 7
  | .int8 => 127
  | .int4 => 7
  | .int32 => 0x7FFFFFFF

/-- Infinity, as bits without the sign, where the format has one. -/
def infBits : Fmt → Option Nat
  | .fp32 => some 0x7F800000
  | .bf16 => some 0x7F80
  | .fp16 => some 0x7C00
  | .e5m2 => some 0x7C
  | _ => none

def signBits (f : Fmt) (neg : Bool) (b : Nat) : Nat := if neg then b + 2 ^ (fmtBits f - 1) else b

/-- The bits, without sign, of a magnitude k × 2^ue that lies on the grid of a floating-point format. -/
def encodeMag (f : Fmt) (k : Nat) (ue : Int) : Nat :=
  if k = 0 then 0
  else
    let l := fmtLayout f
    let m := l.2.1
    let emin : Int := 1 - (l.2.2 : Int)
    let lg := log2Num k ue
    if lg < emin then k <<< (ue - (emin - (m : Int))).toNat
    else
      let sh := ue - (lg - (m : Int))
      let frac := if sh ≥ 0 then k <<< sh.toNat else k >>> (-sh).toNat
      (lg - emin + 1).toNat <<< m + (frac - 2 ^ m)

/-- The value that an element's bits hold (R133, R135, R138: an FP32 subnormal reads as a zero of its sign). -/
def decodeNum (f : Fmt) (bits : Nat) : Num :=
  if fmtInt f then
    let w := fmtBits f
    let b := bits % 2 ^ w
    if b < 2 ^ (w - 1) then .fin false b 0 else .fin true (2 ^ w - b) 0
  else
    let l := fmtLayout f
    let m := l.2.1
    let w := fmtBits f
    let neg := bits.testBit (w - 1)
    let mag := bits % 2 ^ (w - 1)
    let ex := mag >>> m
    let man := mag % 2 ^ m
    let top := 2 ^ l.1 - 1
    if ex = top ∧ (f = .fp32 ∨ f = .bf16 ∨ f = .fp16 ∨ f = .e5m2) then
      if man = 0 then .inf neg else .nan
    else if mag = 0x7F ∧ (f = .e4m3 ∨ f = .mxfp8) then .nan
    else if ex = 0 then
      if f = .fp32 then .fin neg 0 0 else .fin neg man (1 - (l.2.2 : Int) - (m : Int))
    else .fin neg (2 ^ m + man) ((ex : Int) - (l.2.2 : Int) - (m : Int))

/-- A finite magnitude n ÷ d × 2^e of a given sign narrowed to a format's bits (R140, R141, Table 6-3). -/
def narrowMag (f : Fmt) (code bits : Nat) (nonsat : Bool) (neg : Bool) (n d : Nat) (e : Int) : Nat :=
  let r := roundMag f code bits n d e
  if fmtInt f then
    let lim := if neg then maxBits f + 1 else maxBits f
    let v := min r.1 lim
    if neg then (2 ^ fmtBits f - v) % 2 ^ fmtBits f else v
  else
    let big := decodeNum f (maxBits f)
    let above := numLt big (.fin false r.1 r.2)
    if above then
      match f, infBits f with
      | .e5m2, some i => if nonsat && code != 1 then signBits f neg i else signBits f neg (maxBits f)
      | _, some i => if code = 1 then signBits f neg (maxBits f) else signBits f neg i
      | _, none => signBits f neg (maxBits f)
    else signBits f neg (encodeMag f r.1 r.2)

/-- A value narrowed to a format's bits (R139 to R141): NaN, infinities, then the finite rule. MXFP4 elements of a block
that holds NaN or an infinity are written 0 (R142). -/
def narrow (f : Fmt) (code bits : Nat) (nonsat : Bool) (x : Num) : Nat :=
  match x with
  | .nan => nanBits f
  | .inf s =>
    if fmtInt f then (if s then maxBits f + 1 else maxBits f)
    else
      match infBits f with
      | some i => signBits f s i
      | none => nanBits f
  | .fin s m e => narrowMag f code bits nonsat s m 1 e

/-- FP32 rounding of an exact value, answered as a value. -/
def roundFp32 (code bits : Nat) (x : Num) : Num := decodeNum .fp32 (narrow .fp32 code bits false x)

/-- A widening or an exact re-reading: the target holds the value, FP32 flushing apart (R138, R139). -/
def widen (f : Fmt) (x : Num) : Nat := narrow f 1 0 false x

/-- The pairs of Table 6-2. -/
def isWidening (src dst : Fmt) : Bool :=
  match src, dst with
  | .int4, .int8 | .int4, .int32 | .int4, .e4m3 | .int4, .fp16 | .int4, .bf16 | .int4, .fp32 => true
  | .int8, .int32 | .int8, .fp16 | .int8, .bf16 | .int8, .fp32 => true
  | .e4m3, .fp16 | .e4m3, .bf16 | .e4m3, .fp32 => true
  | .e5m2, .fp16 | .e5m2, .bf16 | .e5m2, .fp32 => true
  | .fp16, .fp32 => true
  | .bf16, .fp32 => true
  | _, _ => false

/-- The value of a block scale (R133): NaN for 0xFF. -/
def decodeScale (s : Nat) : Num := if s = 0xFF then .nan else .fin false 1 ((s : Int) - 127)

/-- The larger of two magnitudes. -/
def numMaxAbs (x y : Num) : Num := if numLt (numAbs x) (numAbs y) then numAbs y else numAbs x

/-- R142: the scale byte of a block of values, for FP4 (e_max 2) or E4M3 (e_max 8) elements. -/
def blockScale (f : Fmt) (xs : List Num) : Nat :=
  if xs.any (fun x => !numIsFinite x) then 0xFF
  else
    match xs.foldl numMaxAbs numZero with
    | .fin _ m e =>
      if m = 0 then 0
      else
        let emax : Int := if f = .mxfp4 then 2 else 8
        (min (max (log2Num m e - emax) (-127)) 127 + 127).toNat
    | _ => 0xFF

/-- R142: one element of a block whose scale byte is `scale`. -/
def blockElem (f : Fmt) (scale code bits : Nat) (x : Num) : Nat :=
  if scale = 0xFF then 0
  else narrow f code bits false (numScale x (127 - (scale : Int)))

-- ------------------------------------------------------------------------------------------------ random bits

def philoxM0 : Nat := 0xD2511F53
def philoxM1 : Nat := 0xCD9E8D57
def philoxW0 : Nat := 0x9E3779B9
def philoxW1 : Nat := 0xBB67AE85

/-- The rounds of Philox-4x32 (the published generator that R146 names), `n` of them. -/
def philoxRounds : Nat → Nat → Nat → Nat × Nat × Nat × Nat → Nat × Nat × Nat × Nat
  | 0, _, _, c => c
  | n + 1, k0, k1, (c0, c1, c2, c3) =>
    let p0 := philoxM0 * c0
    let p1 := philoxM1 * c2
    let hi0 := p0 / 4294967296
    let lo0 := p0 % 4294967296
    let hi1 := p1 / 4294967296
    let lo1 := p1 % 4294967296
    philoxRounds n ((k0 + philoxW0) % 4294967296) ((k1 + philoxW1) % 4294967296)
      (Nat.xor (Nat.xor hi1 c1) k0, lo1, Nat.xor (Nat.xor hi0 c3) k1, lo0)

/-- One evaluation of Philox-4x32-10 under a 64-bit key (R146). -/
def philox (key : Nat) (c : Nat × Nat × Nat × Nat) : Nat × Nat × Nat × Nat :=
  philoxRounds 10 (key % 4294967296) (key / 4294967296 % 4294967296) c

/-- What a rounding's random bits depend on (R146), the element index apart. -/
structure RngSite where
  seed    : Nat
  purpose : Nat
  stream  : Nat
  tensor  : Nat
  t       : Nat
  deriving DecidableEq, Repr

/-- The counter of Table 6-5 for element index e. -/
def rngCounter (r : RngSite) (e : Nat) : Nat × Nat × Nat × Nat :=
  let g := e / 8
  (g % 4294967296,
   (g / 4294967296) % 8192 + (r.purpose % 8) * 8192 + (r.stream % 65536) * 65536,
   r.tensor % 4294967296, r.t % 4294967296)

/-- The 16 bits of element e (R148). -/
def rngBits (r : RngSite) (e : Nat) : Nat :=
  let x := philox r.seed (rngCounter r e)
  let j := e % 8
  let w := match j / 2 with | 0 => x.1 | 1 => x.2.1 | 2 => x.2.2.1 | _ => x.2.2.2
  if j % 2 = 0 then w % 65536 else w / 65536 % 65536

/-- The bits of a rounding under a code: drawn for code 2 only (R148). -/
def bitsFor (r : RngSite) (code e : Nat) : Nat := if code = 2 then rngBits r e else 0

end Sys2Proof.Machine
end

