-- ==== Sys2Proof/Machine/Real.lean ====
section
/-! DEFINITION. The correctly rounded functions: division, square root, exp2_32, log2_32, tanh32 (R191, Table 8-8),
reciprocal and reciprocal root (Table 11-3), and the activations of Table 7-6 (R166). A value that is no dyadic number is
enclosed between two fixed-point numbers, at rising precision, until both ends round to the same FP32 bits; a quotient or
a root is held with enough bits and a sticky bit, so that every later rounding of it is exact. -/

namespace Sys2Proof.Machine

/-- Newton's iteration for the integer square root, from above. -/
def isqrtGo : Nat → Nat → Nat → Nat
  | 0, _, x => x
  | k + 1, n, x =>
    let y := (x + n / x) / 2
    if y < x then isqrtGo k n y else x

/-- ⌊√n⌋. -/
def isqrt (n : Nat) : Nat := if n = 0 then 0 else isqrtGo 128 n (2 ^ (Nat.log2 n / 2 + 1))

/-- A magnitude that lies strictly between n and n + 1 when `more` holds, as one dyadic number that rounds alike: n and a
bit below it. -/
def sticky (neg more : Bool) (n : Nat) (e : Int) : Num := .fin neg (2 * n + (if more then 1 else 0)) (e - 1)

/-- x ÷ y as IEEE 754 has it, kept to 64 bits and a sticky bit: every rounding to 48 bits or fewer is exact. -/
def numDiv (x y : Num) : Num :=
  match x, y with
  | .nan, _ => .nan
  | _, .nan => .nan
  | .inf _, .inf _ => .nan
  | .inf s, .fin t _ _ => .inf (xor s t)
  | .fin s _ _, .inf t => .fin (xor s t) 0 0
  | .fin s m e, .fin t n f =>
    if n = 0 then (if m = 0 then .nan else .inf (xor s t))
    else if m = 0 then .fin (xor s t) 0 0
    else
      let k := 66 + Nat.log2 n
      let a := m <<< k
      sticky (xor s t) (a % n != 0) (a / n) (e - f - k)

/-- √x, in the same form; −0 answers −0 and other negative values NaN (IEEE 754). -/
def numSqrt (x : Num) : Num :=
  match x with
  | .nan => .nan
  | .inf s => if s then .nan else .inf false
  | .fin s m e =>
    if m = 0 then .fin s 0 0
    else if s then .nan
    else
      let odd : Nat := (e % 2).toNat
      let a := m <<< (odd + 132)
      let r := isqrt a
      sticky false (r * r != a) r ((e - (odd : Int) - 132) / 2)

def div32 (x y : Num) : Num := roundFp32 0 0 (numDiv x y)
def sqrt32 (x : Num) : Num := roundFp32 0 0 (numSqrt x)
def add32 (x y : Num) : Num := roundFp32 0 0 (numAdd x y)
def mul32 (x y : Num) : Num := roundFp32 0 0 (numMul x y)
def fma32 (x y z : Num) : Num := roundFp32 0 0 (numAdd (numMul x y) z)

/-- 1 ÷ √x, correctly rounded; +0 gives +Inf, and a negative value NaN (Table 11-3). The root is taken of 1 ÷ x, which
is held exactly enough: x has at most 24 bits. -/
def rsqrt32 (x : Num) : Num :=
  match x with
  | .nan => .nan
  | .inf s => if s then .nan else .fin false 0 0
  | .fin s m e =>
    if m = 0 then .inf s
    else if s then .nan
    else
      let odd : Nat := (e % 2).toNat
      -- 1/√(m 2^e) = √(2^(2k) / (m 2^odd)) · 2^(−k − (e − odd)/2)
      let k := 100
      let d := m <<< odd
      let a := (1 <<< (2 * k)) / d
      let r := isqrt a
      roundFp32 0 0 (sticky false (r * r * d != 1 <<< (2 * k)) r (-(k : Int) - (e - (odd : Int)) / 2))

/-- 1 ÷ x, correctly rounded. -/
def rcp32 (x : Num) : Num := div32 numOne x

-- ------------------------------------------------------------------------------------------------ fixed-point bounds

/-- Σ p ÷ (2k + 1), where p is divided by q² from term to term: 2^P · atanh(1/q) for the first p = 2^P ÷ q. -/
def atanhRecip : Nat → Nat → Nat → Nat → Nat
  | 0, _, _, _ => 0
  | n + 1, q2, k, p => p / (2 * k + 1) + atanhRecip n q2 (k + 1) (p / q2)

/-- Bounds of 2^P ln 2 = 2^(P+1) atanh(1/3). -/
def ln2Bounds (P : Nat) : Nat × Nat :=
  let n := P / 3 + 2
  let s := 2 * atanhRecip n 9 0 (2 ^ P / 3)
  (s, s + 4 * n + 4)

/-- Σ ± p ÷ (2k + 1): 2^P · atan(1/q) for the first p = 2^P ÷ q. -/
def atanRecip : Nat → Nat → Nat → Int → Int
  | 0, _, _, _ => 0
  | n + 1, q2, k, p => p / (2 * (k : Int) + 1) - atanRecip n q2 (k + 1) (p / (q2 : Int))

/-- Bounds of 2^P π, by Machin's formula. -/
def piBounds (P : Nat) : Nat × Nat :=
  let n := P / 4 + 4
  let s : Int := 16 * atanRecip n 25 0 (2 ^ P / 5) - 4 * atanRecip n 57121 0 (2 ^ P / 239)
  let w : Int := 40 * (n : Int) + 40
  ((s - w).toNat, (s + w).toNat)

/-- The sum of the exponential series from term k on, each term the one before times r ÷ k, over 2^P. -/
def expSeries : Nat → Nat → Nat → Nat → Nat → Nat
  | 0, _, _, _, _ => 0
  | n + 1, P, r, k, t => t + expSeries n P r (k + 1) (((t * r) >>> P) / (k + 1))

/-- Bounds of 2^P e^(r ÷ 2^P) for r between rlo and rhi, both below 2 × 2^P. -/
def expBounds (P rlo rhi : Nat) : Nat × Nat :=
  let n := P / 2 + 16
  (expSeries n P rlo 0 (2 ^ P), expSeries n P rhi 0 (2 ^ P) + 16 * n)

/-- e^x for x ÷ 2^P between xlo and xhi: a lower and an upper bound over 2^P, and a power of two beside them. -/
def expI (P : Nat) (xlo xhi : Int) : Nat × Nat × Int :=
  let l := ln2Bounds P
  let k : Int := xlo / (l.1 : Int) - 1
  let rlo := if k ≥ 0 then xlo - k * (l.2 : Int) else xlo - k * (l.1 : Int)
  let rhi := if k ≥ 0 then xhi - k * (l.1 : Int) else xhi - k * (l.2 : Int)
  let b := expBounds P rlo.toNat rhi.toNat
  (b.1, b.2, k)

/-- Bounds of m × 2^e over 2^P. -/
def fixedBounds (P m : Nat) (e : Int) : Nat × Nat :=
  let s := e + (P : Int)
  if s ≥ 0 then (m <<< s.toNat, m <<< s.toNat)
  else
    let a := m >>> (-s).toNat
    (a, a + 1)

/-- The FP32 bits of a magnitude between two bounds, when both round to them. -/
def agree (neg : Bool) (lo hi : Nat) (e : Int) : Option Nat :=
  let a := narrowMag .fp32 0 0 false neg lo 1 e
  if a = narrowMag .fp32 0 0 false neg hi 1 e then some a else none

/-- The precisions tried. -/
def precisions : List Nat := [128, 256, 512, 1024]

/-- Bounds at rising precision until they round alike. -/
def settle (neg : Bool) (f : Nat → Nat × Nat × Int) : Num :=
  match precisions.findSome? (fun P => let b := f P; agree neg b.1 b.2.1 b.2.2) with
  | some b => decodeNum .fp32 b
  | none => let b := f 1024; decodeNum .fp32 (narrowMag .fp32 0 0 false neg b.1 1 b.2.2)

-- ------------------------------------------------------------------------------------------------ the functions

/-- exp2_32 (Table 8-8). -/
def exp2_32 (x : Num) : Num :=
  match x with
  | .nan => .nan
  | .inf s => if s then .fin false 0 0 else .inf false
  | .fin s m e =>
    if m = 0 then numOne
    else if log2Num m e ≥ 8 then (if s then .fin false 0 0 else .inf false)
    else
      -- x = i + f with 0 ≤ f < 1, f = g × 2^e when e < 0
      let z : Int := if s then -(m : Int) else m
      if e ≥ 0 then roundFp32 0 0 (.fin false 1 (z * 2 ^ e.toNat))
      else
        let d : Int := 2 ^ (-e).toNat
        let i := z / d
        let g := (z % d).toNat
        if g = 0 then roundFp32 0 0 (.fin false 1 i)
        else
          settle false fun P =>
            let l := ln2Bounds P
            let rlo := (l.1 * g) / d.toNat
            let rhi := (l.2 * g) / d.toNat + 1
            let b := expBounds P rlo rhi
            (b.1, b.2, i - P)

/-- The odd series of atanh from term k on, over 2^P. -/
def atanhSeries : Nat → Nat → Nat → Nat → Nat → Nat
  | 0, _, _, _, _ => 0
  | n + 1, P, y2, k, p => p / (2 * k + 1) + atanhSeries n P y2 (k + 1) ((p * y2) >>> P)

/-- log2_32 (Table 8-8): +0 and −0 give −∞, a negative value NaN. -/
def log2_32 (x : Num) : Num :=
  match x with
  | .nan => .nan
  | .inf s => if s then .nan else .inf false
  | .fin s m e =>
    if m = 0 then .inf true
    else if s then .nan
    else
      let k := Nat.log2 m
      let i : Int := e + (k : Int)
      if m = 2 ^ k then roundFp32 0 0 (numOfInt i)
      else
        let f : Nat → Nat × Nat := fun P =>
          let n := P / 3 + 2
          let y := ((m - 2 ^ k) <<< P) / (m + 2 ^ k)
          let a := atanhSeries n P ((y * y) >>> P) 0 y
          let l := ln2Bounds P
          (((2 * a) <<< P) / l.2, ((2 * (a + 8 * n + 8)) <<< P) / l.1 + 1)
        if i ≥ 0 then
          settle false fun P => let b := f P; ((i.toNat <<< P) + b.1, (i.toNat <<< P) + b.2, -(P : Int))
        else
          settle true fun P =>
            let b := f P
            (((-i).toNat <<< P) - b.2, ((-i).toNat <<< P) - b.1, -(P : Int))

/-- Bounds over 2^P of a value held over 2^(P − k). -/
def shiftBounds (lo hi : Nat) (k : Int) : Nat × Nat :=
  if k ≥ 0 then (lo <<< k.toNat, hi <<< k.toNat) else (lo >>> (-k).toNat, (hi >>> (-k).toNat) + 1)

/-- tanh32 (Table 8-8). A magnitude below 2⁻²⁰ rounds to itself, and one of 12 or more to 1. -/
def tanh32 (x : Num) : Num :=
  match x with
  | .nan => .nan
  | .inf s => .fin s 1 0
  | .fin s m e =>
    if m = 0 then x
    else if log2Num m e < -20 then x
    else if numLe (.fin false 12 0) (.fin false m e) then .fin s 1 0
    else
      settle s fun P =>
        let v := fixedBounds P (2 * m) e
        let b := expI P v.1 v.2
        let ee := shiftBounds b.1 b.2.1 b.2.2
        let one := 2 ^ P
        (((ee.1 - one) <<< P) / (ee.1 + one), ((ee.2 - one) <<< P) / (ee.2 + one) + 1, -(P : Int))

/-- t × σ(v) for v of t's sign and magnitude between bounds over 2^P (the logistic function σ). -/
def logisticTimes (s : Bool) (m : Nat) (e : Int) (v : Nat → Nat × Nat) : Num :=
  settle s fun P =>
    let w := v P
    let b := expI P (-(w.2 : Int)) (-(w.1 : Int))
    let ee := shiftBounds b.1 b.2.1 b.2.2
    let one := 2 ^ P
    if s then
      (m * ((b.1 <<< P) / (one + ee.2)), m * ((b.2.1 <<< P) / (one + ee.1) + 1), e + b.2.2 - P)
    else
      (m * ((one <<< P) / (one + ee.2)), m * ((one <<< P) / (one + ee.1) + 1), e - P)

/-- t × ½(1 ± δ) for a tiny t: a hair above t ÷ 2 in magnitude for t > 0, below it for t < 0. -/
def halfNudged (s : Bool) (m : Nat) (e : Int) : Num :=
  roundFp32 0 0 (.fin s (if s then (m <<< 64) - 1 else (m <<< 64) + 1) (e - 65))

/-- The frame of the smooth activations (R166): NaN, infinities, zeros, tiny values, and the ends at which y is t or −0. -/
def smooth (t : Num) (hi lo : Nat) (f : Bool → Nat → Int → Num) : Num :=
  match t with
  | .nan => .nan
  | .inf s => if s then .fin true 0 0 else .inf false
  | .fin s m e =>
    if m = 0 then t
    else if log2Num m e < -30 then halfNudged s m e
    else if !s && numLe (.fin false hi 0) t then t
    else if s && numLe (.fin false lo 0) (.fin false m e) then .fin true 0 0
    else f s m e

/-- SiLU, t ÷ (1 + e^−t). -/
def silu32 (t : Num) : Num :=
  smooth t 40 200 fun s m e => logisticTimes s m e (fun P => fixedBounds P m e)

/-- GELU, tanh form: t ÷ (1 + e^(−2u)) with u = √(2/π)(t + 0.044715 t³). -/
def geluTanh32 (t : Num) : Num :=
  smooth t 12 20 fun s m e =>
    logisticTimes s m e fun P =>
      let pi := piBounds P
      -- 2 √(2/π) over 2^P, from √(8/π)
      let clo := isqrt ((8 <<< (3 * P)) / pi.2)
      let chi := isqrt ((8 <<< (3 * P)) / pi.1) + 1
      let a := fixedBounds P m e
      let cube (x : Nat) : Nat := (x * x * x) >>> (2 * P)
      let ilo := a.1 + (cube a.1 * 8943) / 200000
      let ihi := a.2 + ((cube a.2 + 1) * 8943) / 200000 + 1
      ((clo * ilo) >>> P, ((chi * ihi) >>> P) + 1)

/-- The terms x, x³/3, x⁵/15, … of the normal distribution function, summed from the term `a` on. -/
def normalSeries : Nat → Nat → Nat → Nat → Nat → Nat
  | 0, _, _, _, _ => 0
  | n + 1, P, x2, k, a => a + normalSeries n P x2 (k + 1) (((a * x2) >>> P) / (2 * k + 3))

/-- GELU, erf form: t Φ(t), with Φ(t) = ½ ± e^(−t²/2) ÷ √(2π) × (t + t³/3 + t⁵/15 + …). -/
def geluErf32 (t : Num) : Num :=
  smooth t 8 15 fun s m e =>
    settle s fun P =>
      let x := fixedBounds P m e
      let xx := (x.2 * x.2) >>> P
      let n := P + 240
      let sm := normalSeries n P ((x.1 * x.1) >>> P) 0 x.1
      let g := sm / (x.1 + 1) + 2
      let smHi := sm + 16 * n * g
      let b := expI P (-((xx + 1) / 2 + 1 : Int)) (-(((x.1 * x.1) >>> P) / 2 : Int))
      let ee := shiftBounds b.1 b.2.1 b.2.2
      let pi := piBounds P
      let rlo := isqrt ((2 * pi.1) <<< P)
      let rhi := isqrt ((2 * pi.2) <<< P) + 1
      let plo := (ee.1 * sm) / rhi
      let phi := (ee.2 * smHi) / rlo + 1
      let half := 2 ^ (P - 1)
      if s then (m * (half - phi), m * (half - plo), e - P)
      else (m * (half + plo), m * (half + phi), e - P)

/-- The activation codes of Table 7-6; a reserved code never reaches a loaded plan (R166) and is the identity here. -/
def activate (act : Nat) (t : Num) : Num :=
  match act with
  | 1 => if numIsNan t then .nan else if numLt numZero t then t else .fin false 0 0
  | 2 => if numIsNan t then .nan else if numLt numZero t then mul32 t t else .fin false 0 0
  | 3 => geluErf32 t
  | 4 => geluTanh32 t
  | 5 => silu32 t
  | _ => t

end Sys2Proof.Machine
end

