-- ==== Sys2Proof/Machine/Operands.lean ====
section
/-! DEFINITION. Operand forms (R45): dense layouts, stream descriptions (R109, R110), block-scaled layouts (R137),
generations (R43), scratch banks and their tags (R100 to R106), element indices for random bits (R147). -/

namespace Sys2Proof.Machine

-- ------------------------------------------------------------------------------------------------ stream descriptions

/-- An entry of a stream description (Table 5-4). -/
structure StreamBlock where
  base   : Int
  fmt    : Nat
  rank   : Nat
  count  : Nat
  shape  : List Nat
  stride : List Int
  deriving DecidableEq, Repr

/-- A stream description (Table 5-4). -/
structure Stream where
  passes     : Nat
  passStride : Int
  blocks     : List StreamBlock
  deriving DecidableEq, Repr

def streamBlockOf (b : List Byte) : StreamBlock :=
  { base := signedOf 64 (fieldAt b 0 8)
    fmt := fieldAt b 8 1 % 16
    rank := fieldAt b 9 1
    count := fieldAt b 0xC 4
    shape := [fieldAt b 0x10 4, fieldAt b 0x14 4, fieldAt b 0x18 4, fieldAt b 0x1C 4]
    stride := [signedOf 32 (fieldAt b 0x20 4), signedOf 32 (fieldAt b 0x24 4), signedOf 32 (fieldAt b 0x28 4),
               signedOf 32 (fieldAt b 0x2C 4)] }

/-- The description at a parameter-area offset. -/
def streamOf (param : List Byte) (off : Nat) : Stream :=
  let b := param.drop off
  { passes := fieldAt b 4 4
    passStride := signedOf 64 (fieldAt b 8 8)
    blocks := (List.range (fieldAt b 0 4)).map fun i => streamBlockOf ((b.drop (16 + 48 * i)).take 48) }

/-- Elements that one pass of a description delivers, and all passes. -/
def passTotal (t : Stream) : Nat := (t.blocks.map (·.count)).sum
def streamTotal (t : Stream) : Nat := t.passes * passTotal t

/-- The element offset of position i of a block, index 0 varying fastest (R110). -/
def blockIndex : List Nat → List Int → Nat → Int
  | n :: ns, d :: ds, i => (i % n : Nat) * d + blockIndex ns ds (i / n)
  | _, _, _ => 0

/-- The block that holds position i of a pass, and the position in it. -/
def findBlock : List StreamBlock → Nat → Option (StreamBlock × Nat)
  | [], _ => none
  | b :: bs, i => if i < b.count then some (b, i) else findBlock bs (i - b.count)

def codeBits (c : Nat) : Nat := match fmtOf c with | some f => fmtBits f | none => 8

/-- Bytes of one block's elements in a block-scaled format (R137). -/
def blockBytes (f : Fmt) : Nat := if f = .mxfp4 then 16 else 32

/-- The element of the whole operand that element `i` of a part is (R273); a bank holds one part at a time, from OFFSET
on. -/
def placeIndex (o : Operand) (i : Nat) : Nat := if o.handle = 0xFFFF then i else i + o.skip

/-- Where element `i` of an operand's delivery order lies: its first bit, counted from the start of the generation half
or bank, and its format code in memory (R110, R137). -/
def elemBit (param : List Byte) (o : Operand) (i : Nat) : Int × Nat :=
  let i := placeIndex o i
  if o.stream ≠ 0 then
    let t := streamOf param o.stream
    let n := passTotal t
    match findBlock t.blocks (i % n) with
    | none => (0, o.fmt)
    | some (b, j) =>
      (((o.offset : Int) + (i / n : Nat) * t.passStride + b.base) * 8
        + blockIndex b.shape b.stride j * codeBits b.fmt, b.fmt)
  else
    match fmtOf o.fmt with
    | some f =>
      if fmtScaled f then
        let k := i / 32
        let bb := blockBytes f
        ((((o.offset + k / 64 * (64 + 64 * bb) + 64 + k % 64 * bb) * 8 + i % 32 * fmtBits f : Nat) : Int), o.fmt)
      else (((o.offset * 8 + i * fmtBits f : Nat) : Int), o.fmt)
    | none => (((o.offset * 8 : Nat) : Int), o.fmt)

/-- The byte that holds the scale of block `k` of a block-scaled operand (R137). -/
def scaleByte (o : Operand) (f : Fmt) (k : Nat) : Nat :=
  let k := placeIndex o (32 * k) / 32
  o.offset + k / 64 * (64 + 64 * blockBytes f) + k % 64

/-- Bytes that an operand of `n` elements in dense layout occupies from its OFFSET (R137 for block-scaled ones). -/
def denseBytes (fmt n : Nat) : Nat :=
  match fmtOf fmt with
  | some f =>
    if fmtScaled f then 64 * ceilDiv (ceilDiv n 32) 64 + ceilDiv n 32 * blockBytes f
    else ceilDiv (n * fmtBits f) 8
  | none => n

/-- The element index e of R147 for element `i` of an operand. A stream whose FMT is wider than its operand's is written in the
operand's format, whose bits give the index (DESIGN CHOICE, assumption 227). -/
def elemIndex (param : List Byte) (o : Operand) (i : Nat) : Nat :=
  if isBank o then i + o.skip
  else
    match fmtOf o.fmt with
    | some f =>
      if fmtScaled f then 32 * (o.offset / blockBytes f + (i + o.skip) / 32) + i % 32
      else ((elemBit param o i).1 / (fmtBits f : Int)).toNat
    | none => i

-- ------------------------------------------------------------------------------------------------ where bytes live

/-- Bytes of one bank (R100). -/
def bankSize : Nat := 0x180000

def bankKey (span bank pos : Nat) : Nat := (span * 4 + bank) * bankSize + pos

/-- Whether a descriptor before `seq` in the running segment wrote byte `pos` of a buffer (R43). -/
def wroteByte (s : State) (seq handle pos : Nat) : Bool :=
  s.ks.written.any fun w => w.handle == handle && decide (w.seq < seq) && decide (w.off ≤ pos ∧ pos < w.off + w.len)

/-- The half that holds the current generation of a buffer (R43: generation g lies in half g mod 2). -/
def currentHalf (s : State) (handle : Nat) : Nat := tabGet 0 s.ks.gens handle % 2
def workingHalf (s : State) (handle : Nat) : Nat := (tabGet 0 s.ks.gens handle + 1) % 2

/-- The device address that a read of byte `pos` of a buffer by descriptor `seq` goes to: byte by byte by R43; a
commit-protected buffer (kind 2) shows its previous generation until the flip of DECIDE, the update phase included (R10).
-/
def readAddr (s : State) (seq : Nat) (b : Buf) (handle pos : Nat) : Nat :=
  if twoHalves b then
    halfAddr b (if b.kind = 1 ∧ wroteByte s seq handle pos = true then workingHalf s handle else currentHalf s handle) + pos
  else b.addr + pos

/-- The device address that a write of byte `pos` of a buffer goes to (Table 3-5). -/
def writeAddr (s : State) (b : Buf) (handle pos : Nat) : Nat :=
  if twoHalves b then halfAddr b (workingHalf s handle) + pos else b.addr + pos

/-- A byte of an operand as descriptor `seq` reads it on a span. -/
def readByte (s : State) (p : Plan) (seq span : Nat) (o : Operand) (pos : Nat) : Byte :=
  if isBank o then tabGet 0 s.sp.banks (bankKey span o.bank pos)
  else
    match p.bufs[o.handle]? with
    | none => 0
    | some b => tabGet 0 s.dram.mem (readAddr s seq b o.handle pos)

/-- A byte that lies at a signed position; positions before the start read zero (no validated plan names one). -/
def readByteZ (s : State) (p : Plan) (seq span : Nat) (o : Operand) (pos : Int) : Byte :=
  if pos < 0 then 0 else readByte s p seq span o pos.toNat

/-- `n` bytes of an operand from a position on. -/
def readBytes (s : State) (p : Plan) (seq span : Nat) (o : Operand) (pos : Nat) : Nat → List Byte
  | 0 => []
  | n + 1 => readByte s p seq span o pos :: readBytes s p seq span o (pos + 1) n

/-- The bits of an element of `w` bits at a bit position. -/
def readBitsAt (s : State) (p : Plan) (seq span : Nat) (o : Operand) (bit : Int) (w : Nat) : Nat :=
  let pos := bit / 8
  if w = 4 then (readByteZ s p seq span o pos).toNat / (if bit % 8 = 0 then 1 else 16) % 16
  else leNat ((List.range (w / 8)).map fun (j : Nat) => readByteZ s p seq span o (pos + (j : Int)))

/-- Write one byte of an operand. -/
def writeByte (s : State) (p : Plan) (span : Nat) (o : Operand) (pos : Nat) (v : Byte) : State :=
  if isBank o then { s with sp := { s.sp with banks := tabSet 0 s.sp.banks (bankKey span o.bank pos) v } }
  else
    match p.bufs[o.handle]? with
    | none => s
    | some b => { s with dram := { s.dram with mem := tabSet 0 s.dram.mem (writeAddr s b o.handle pos) v } }

def writeBytes (s : State) (p : Plan) (span : Nat) (o : Operand) (pos : Nat) : List Byte → State
  | [] => s
  | v :: vs => writeBytes (writeByte s p span o pos v) p span o (pos + 1) vs

/-- Before the first write into bytes of a protected buffer that covers them only in part (an add, a 4-bit element), the
working half takes the bytes that the current generation holds there, so that what the write leaves is the current
generation's (R43: every byte not written in the segment reads from it). -/
def prefillBytes (s : State) (b : Buf) (handle pos : Nat) : Nat → State
  | 0 => s
  | n + 1 =>
    let t :=
      if twoHalves b && !(s.ks.written.any fun w => w.handle == handle && decide (w.off ≤ pos ∧ pos < w.off + w.len)) then
        let v := tabGet 0 s.dram.mem (halfAddr b (currentHalf s handle) + pos)
        { s with dram := { s.dram with mem := tabSet 0 s.dram.mem (writeAddr s b handle pos) v } }
      else s
    prefillBytes t b handle (pos + 1) n

/-- The byte of the written half that shares its place with a 4-bit element (DESIGN CHOICE, log 206: the spec does not say
what the other 4 bits of the last byte of an output of an odd number of 4-bit elements hold; they stay as they were,
`prefillNibbles`). -/
def oldByte (s : State) (p : Plan) (span : Nat) (o : Operand) (pos : Nat) : Byte :=
  if isBank o then tabGet 0 s.sp.banks (bankKey span o.bank pos)
  else
    match p.bufs[o.handle]? with
    | none => 0
    | some b => tabGet 0 s.dram.mem (writeAddr s b o.handle pos)

/-- Write the bits of an element of `w` bits at a bit position. -/
def writeBitsAt (s : State) (p : Plan) (span : Nat) (o : Operand) (bit : Int) (w v : Nat) : State :=
  if bit < 0 then s
  else
    let pos := (bit / 8).toNat
    if w = 4 then
      let old := (oldByte s p span o pos).toNat
      let new := if bit % 8 = 0 then old / 16 * 16 + v % 16 else v % 16 * 16 + old % 16
      writeByte s p span o pos (BitVec.ofNat 8 new)
    else writeBytes s p span o pos (leBytes (w / 8) v)

-- ------------------------------------------------------------------------------------------------ elements

/-- The value of element `i` of an operand, decoded by its scale where it is block-scaled, and widened exactly from the
format of its stream block to the operand's (R110, R138). -/
def readElem (s : State) (p : Plan) (seq span : Nat) (o : Operand) (i : Nat) : Num :=
  let l := elemBit p.param o i
  match fmtOf l.2, fmtOf o.fmt with
  | some f, some g =>
    let x := decodeNum f (readBitsAt s p seq span o l.1 (fmtBits f))
    if fmtScaled f then numMul (decodeScale (readByte s p seq span o (scaleByte o f (i / 32))).toNat) x
    else if f = g then x else decodeNum g (widen g x)
  | _, _ => numZero

/-- The bits of an element in one format as the stream engine hands them over in another: unchanged in one format, widened
exactly between two (R110, R139). -/
def widenBits (src dst v : Nat) : Nat :=
  if src = dst then v
  else match fmtOf src, fmtOf dst with
    | some f, some g => widen g (decodeNum f v)
    | _, _ => v

/-- The bits of element `i` of an unscaled operand, in the operand's format. -/
def readRaw (s : State) (p : Plan) (seq span : Nat) (o : Operand) (i : Nat) : Nat :=
  let l := elemBit p.param o i
  widenBits l.2 o.fmt (readBitsAt s p seq span o l.1 (codeBits l.2))

/-- Write the bits of element `i` of an unscaled operand, widened to the format of its stream block (R110). -/
def writeRaw (s : State) (p : Plan) (span : Nat) (o : Operand) (i v : Nat) : State :=
  let l := elemBit p.param o i
  writeBitsAt s p span o l.1 (codeBits l.2) (widenBits o.fmt l.2 v)

/-- The rounding site of a descriptor under a purpose code (R146). -/
def siteOf (p : Plan) (t : Nat) (d : Desc) (purpose : Nat) : RngSite :=
  { seed := p.seed.toNat, purpose := purpose, stream := d.rngStream, tensor := d.tensorId, t := t }

/-- Write a value to element `i` of an unscaled operand, rounded once under a code; `e` is the element index that draws
the random bits (R145, R147). -/
def writeElem (s : State) (p : Plan) (span : Nat) (o : Operand) (i : Nat) (site : RngSite) (code e : Nat)
    (nonsat : Bool) (x : Num) : State :=
  match fmtOf o.fmt with
  | some f => writeRaw s p span o i (narrow f code (bitsFor site code e) nonsat x)
  | none => s

/-- Write the elements of one block of a block-scaled operand, the scale byte first computed (R142). -/
def writeBlock (s : State) (p : Plan) (span : Nat) (o : Operand) (f : Fmt) (k : Nat) (site : RngSite) (code : Nat)
    (e : Nat → Nat) (xs : List Num) : State :=
  let sc := blockScale f xs
  let s := writeByte s p span o (scaleByte o f k) (BitVec.ofNat 8 sc)
  xs.zipIdx.foldl (fun s x =>
    let i := 32 * k + x.2
    writeBitsAt s p span o (elemBit p.param o i).1 (fmtBits f) (blockElem f sc code (bitsFor site code (e i)) x.1)) s

/-- Write values to elements `start`, `start` + 1, … of an operand, in its format, by R140, R141 or R142. `e` gives the
element index of each. A block-scaled operand takes whole blocks; the unused scale bytes of a last super-block of fewer
than 64 blocks are written zero (R137). -/
def writeRun (s : State) (p : Plan) (span : Nat) (o : Operand) (start : Nat) (site : RngSite) (code : Nat)
    (e : Nat → Nat) (nonsat : Bool) (xs : List Num) : State :=
  match fmtOf o.fmt with
  | none => s
  | some f =>
    if fmtScaled f then
      (List.range (xs.length / 32)).foldl (fun s j =>
        writeBlock s p span o f (start / 32 + j) site code e ((xs.drop (32 * j)).take 32)) s
    else xs.zipIdx.foldl (fun s x => writeElem s p span o (start + x.2) site code (e (start + x.2)) nonsat x.1) s

/-- The zero bytes that end a last, partly filled scale line of an operand of `n` elements (R137). -/
def padScales (s : State) (p : Plan) (span : Nat) (o : Operand) (n : Nat) : State :=
  match fmtOf o.fmt with
  | none => s
  | some f =>
    let k := n / 32
    let q := placeIndex o n / 32 % 64
    if fmtScaled f && q != 0 then writeBytes s p span o (scaleByte o f k) (zeros (64 - q)) else s

/-- The same after the elements `i` to `i + k - 1` of an operand of `n` have been written, where they reach its last
super-block: the span that writes there ends the line. -/
def padTail (s : State) (p : Plan) (span : Nat) (o : Operand) (n i k : Nat) : State :=
  if placeIndex o (n - 1) / 2048 = placeIndex o (i + k - 1) / 2048 then padScales s p span o n else s

/-- The same for an output of a descriptor: in a bank, on every target span. -/
def padOutput (s : State) (p : Plan) (d : Desc) (o : Operand) (n : Nat) : State :=
  if isBank o then (targets d).foldl (fun s x => padScales s p x o n) s else padScales s p d.spanFirst o n

-- ------------------------------------------------------------------------------------------------ uses

/-- One access of a descriptor to an operand: from which element (or byte, when `raw`) on, how many it reads or writes,
the engine that reaches for a bank operand (Table 5-1), and the target spans that make it, all of them where none is
named. -/
structure Use where
  o      : Operand
  start  : Nat
  n      : Nat
  raw    : Bool
  write  : Bool
  add    : Bool       -- memory-side add
  master : Nat
  total  : Nat        -- elements of the whole operand: a use that ends it touches its last scale line whole (R137)
  spans  : Option (List Nat)
  deriving DecidableEq, Repr

def useRead (o : Operand) (n master : Nat) : Use := ⟨o, 0, n, false, false, false, master, n, none⟩
def useWrite (o : Operand) (n master : Nat) : Use := ⟨o, 0, n, false, true, false, master, n, none⟩
def useReadRaw (o : Operand) (n master : Nat) : Use := ⟨o, 0, n, true, false, false, master, n, none⟩
def useWriteRaw (o : Operand) (n master : Nat) : Use := ⟨o, 0, n, true, true, false, master, n, none⟩
def useAdd (o : Operand) (n master : Nat) (raw : Bool) : Use := ⟨o, 0, n, raw, false, true, master, n, none⟩

/-- A part of a use: `n` elements from `start` on. -/
def usePart (u : Use) (start n : Nat) : Use := { u with start := start, n := n }

/-- A use made by one target span. -/
def useOn (u : Use) (x : Nat) : Use := { u with spans := some [x] }

/-- The spans that make a use, of a descriptor's target spans. -/
def useTargets (spans : List Nat) (u : Use) : List Nat := u.spans.getD spans

/-- Uses of operands that are present. -/
def present (l : List Use) : List Use := l.filter fun u => !isNone u.o

/-- Ranges with each joined to the next where that begins at its end: the contiguous runs of an access; a range of no bytes
is none. -/
def joinRuns (l : List (Int × Nat)) : List (Int × Nat) :=
  l.foldr (fun r acc =>
    if r.2 = 0 then acc
    else match acc with
      | [] => [r]
      | x :: xs =>
        if r.1 ≤ x.1 ∧ x.1 ≤ r.1 + (r.2 : Int) then (r.1, max r.2 ((x.1 - r.1).toNat + x.2)) :: xs else r :: x :: xs) []

/-- The runs of bytes that one pass of a stream block covers, from its position: whole innermost rows where the stride
is 1, single elements elsewhere. Positions are in bits. -/
def blockRuns (origin : Int) (b : StreamBlock) : List (Int × Nat) :=
  let w := codeBits b.fmt
  let n0 := b.shape.headD 1
  if b.stride.headD 1 = 1 then
    (List.range (b.count / n0)).map fun r => (origin + blockIndex b.shape b.stride (r * n0) * w, n0 * w)
  else (List.range b.count).map fun i => (origin + blockIndex b.shape b.stride i * w, w)

/-- The bytes of blocks `k` to `k` + `m` - 1 of a block-scaled operand and of their scales, super-block by super-block;
with `pad` the last scale line whole (R137). -/
def scaledRuns (o : Operand) (f : Fmt) (k m : Nat) (pad : Bool) : List (Int × Nat) :=
  let bb := blockBytes f
  (List.range (ceilDiv (k + m) 64 - k / 64)).flatMap fun i =>
    let q := k / 64 + i
    let lo := max k (64 * q)
    let hi := min (k + m) (64 * q + 64)
    let base := o.offset + q * (64 + 64 * bb)
    [(((base + lo % 64 : Nat) : Int), if pad && hi = k + m then 64 - lo % 64 else hi - lo),
     (((base + 64 + lo % 64 * bb : Nat) : Int), (hi - lo) * bb)]

/-- The contiguous runs of bytes that a use covers, first byte and length, in the generation half or bank. -/
def useRanges (param : List Byte) (u : Use) : List (Int × Nat) :=
  joinRuns <|
    if u.raw then [((u.o.offset : Int) + u.start, u.n)]
    else if u.n = 0 then []
    else if u.o.stream = 0 then
      let i := placeIndex u.o u.start
      match fmtOf u.o.fmt with
      | some f =>
        if fmtScaled f then scaledRuns u.o f (i / 32) (ceilDiv (i + u.n) 32 - i / 32) (u.start + u.n == u.total)
        else
          let lo := (u.o.offset * 8 + i * fmtBits f) / 8
          [((lo : Int), ceilDiv (u.o.offset * 8 + (i + u.n) * fmtBits f) 8 - lo)]
      | none => [((u.o.offset : Int), u.n)]
    else if u.start ≠ 0 ∨ u.o.skip ≠ 0 ∨ streamTotal (streamOf param u.o.stream) ≠ u.n then
      (List.range u.n).map fun i =>
        let l := elemBit param u.o (u.start + i)
        (l.1 / 8, ceilDiv (codeBits l.2) 8)
    else
      let t := streamOf param u.o.stream
      (List.range t.passes).flatMap fun (r : Nat) =>
        t.blocks.flatMap fun b =>
          (blockRuns (((u.o.offset : Int) + (r : Int) * t.passStride + b.base) * 8) b).map fun x =>
            (x.1 / 8, ceilDiv (x.2 + (x.1 % 8).toNat) 8)

/-- Whether an unscaled operand holds 4-bit elements in memory: two share a byte. -/
def sharesBytes (param : List Byte) (o : Operand) : Bool :=
  if o.stream ≠ 0 then (streamOf param o.stream).blocks.any fun b => codeBits b.fmt == 4 else codeBits o.fmt == 4

/-- The bytes that 4-bit outputs of a descriptor cover, readied as `prefillBytes` says: the 4 bits beside a written element
that no write of the segment covers stay those of the current generation. -/
def prefillNibbles (s : State) (p : Plan) (us : List Use) : State :=
  us.foldl (fun s u =>
    if !u.write || !isBuffer u.o || u.raw || !sharesBytes p.param u.o then s
    else
      match p.bufs[u.o.handle]? with
      | none => s
      | some b => (useRanges p.param u).foldl (fun s r => prefillBytes s b u.o.handle r.1.toNat r.2) s) s

/-- Whether two byte ranges overlap. -/
def overlaps (a b : Int × Nat) : Bool := decide (a.1 < b.1 + b.2) && decide (b.1 < a.1 + a.2)

/-- The slice that a span's stream engine looks up (R118): that of its quadrant. -/
def sliceOf (span : Nat) : Nat := span / 128

/-- A slice holds a line at a buffer's current generation (R118). -/
def hitLine (s : State) (slice line handle : Nat) : Bool :=
  s.sp.cache.any fun l => l.slice == slice && l.line == line && l.handle == handle && l.gen == tabGet 0 s.ks.gens handle

/-- A read of byte `a` at a device address comes from the weight cache: its buffer is a WEIGHT buffer, the byte lies in the
current generation, and the slice that is looked up holds its line (R118). -/
def readsCache (s : State) (slice : Option Nat) (b : Buf) (handle a : Nat) : Bool :=
  isWeight b && decide (halfAddr b (if twoHalves b then currentHalf s handle else 0) ≤ a)
    && decide (a < halfAddr b (if twoHalves b then currentHalf s handle else 0) + b.size)
    && slice.any fun q => hitLine s q (a / 256) handle

/-- Whether a read of a byte range of a buffer reaches a sector of DRAM. -/
def readsSector (s : State) (seq : Nat) (slice : Option Nat) (b : Buf) (handle : Nat) (r : Int × Nat) (sec : Nat) : Bool :=
  (List.range 32).any fun j =>
    let a := sec * 32 + j
    [0, 1].any fun h =>
      let base := halfAddr b h
      decide (base ≤ a) &&
        (let pos := a - base
         decide (r.1 ≤ (pos : Int)) && decide ((pos : Int) < r.1 + r.2) && readAddr s seq b handle pos == a)
        && !readsCache s slice b handle a

/-- Whether a read of a byte range of a buffer meets an uncorrectable sector of DRAM. -/
def badRange (s : State) (seq : Nat) (slice : Option Nat) (b : Buf) (handle : Nat) (r : Int × Nat) : Bool :=
  s.dram.bad.any (readsSector s seq slice b handle r)

/-- The current stamp of R106 as a tag: VALID, step index and pier index of the running segment (Table 5-3). -/
def currentTag (s : State) : BitVec 32 :=
  BitVec.ofNat 32 (2 ^ 31 + s.ks.stepIndex % 2 ^ 19 * 2 ^ 12 + s.ks.segPier % 2 ^ 12)

/-- R106: the status that a read meets on one span, or by the Keystone where none is named: INTERNAL for a stale bank,
MEMORY_UNCORRECTABLE for a bad sector that no hit of the weight cache hides; 0 when it reads well. -/
def readStatus (s : State) (p : Plan) (seq : Nat) (span : Option Nat) (u : Use) : Nat :=
  if u.write then 0
  else if isBank u.o then
    if tabGet 0 s.sp.tags (span.getD 0 * 4 + u.o.bank) = currentTag s then 0 else 0xFF
  else
    match p.bufs[u.o.handle]? with
    | none => 0
    | some b => if (useRanges p.param u).any (badRange s seq (span.map sliceOf) b u.o.handle) then 0x40 else 0

/-- R103: a master that reaches for a bank that it does not own stalls. -/
def ownsBank (s : State) (span : Nat) (u : Use) : Bool :=
  !isBank u.o || tabGet 0 s.sp.owners (span * 4 + u.o.bank) == u.master

/-- The first write to a bank in a segment sets its tag (R106). -/
def stampBank (s : State) (span bank : Nat) : State :=
  { s with sp := { s.sp with tags := tabSet 0 s.sp.tags (span * 4 + bank) (currentTag s) } }

/-- What the writes of a descriptor leave beside the bytes: bank tags, and the list of written bytes of protected
buffers (R43). -/
def noteWrites (s : State) (p : Plan) (seq : Nat) (spans : List Nat) (us : List Use) : State :=
  us.foldl (fun s u =>
    if !u.write && !u.add then s
    else if isBank u.o then (useTargets spans u).foldl (fun s x => stampBank s x u.o.bank) s
    else
      match p.bufs[u.o.handle]? with
      | none => s
      | some b =>
        if twoHalves b then
          let w := (useRanges p.param u).map fun r => Wrote.mk seq u.o.handle r.1.toNat r.2
          { s with ks := { s.ks with written := s.ks.written ++ w } }
        else s) s

-- ------------------------------------------------------------------------------------------------ the weight cache

/-- Lines of the cache slice (R117): 16,384 sets of 16 ways. -/
def cacheWays : Nat := 16
def cacheSets : Nat := 16384

/-- R118: a miss fills the line. Which set a line falls in (its line number modulo 16,384) and which line a full set gives up
(the oldest) are the model's choice: the manual leaves both open (assumptions 44, 156). -/
def cacheFill (s : State) (slice line handle gen : Nat) : State :=
  let c := s.sp.cache
  let set := line % cacheSets
  if s.sp.cacheOff.contains (slice, set) then s
  else if c.any (fun l => l.slice == slice && l.line == line && l.handle == handle && l.gen == gen) then s
  else
    let c := c.filter fun l => !(l.slice == slice && l.line == line)
    let same := c.filter fun l => l.slice == slice && l.line % cacheSets == set
    let c := match same with
      | [] => c
      | old :: _ => if same.length ≥ cacheWays then c.erase old else c
    { s with sp := { s.sp with cache := c ++ [⟨slice, line, handle, gen⟩] } }

/-- R118: a stream-engine read of a WEIGHT buffer looks up the slice of the reading span's quadrant, line by line, for the
bytes that it takes from the current generation; bytes of the working generation bypass the cache. -/
def cacheReads (s : State) (p : Plan) (seq : Nat) (spans : List Nat) (us : List Use) : State :=
  us.foldl (fun s u =>
    if u.write || !isBuffer u.o then s
    else
      match p.bufs[u.o.handle]? with
      | none => s
      | some b =>
        if !isWeight b then s
        else
          let h := u.o.handle
          let gen := tabGet 0 s.ks.gens h
          let base := if twoHalves b then halfAddr b (currentHalf s h) else b.addr
          let slices := [0, 1, 2, 3].filter fun q => (useTargets spans u).any fun x => sliceOf x == q
          (useRanges p.param u).foldl (fun s r =>
            let lo := r.1.toNat / 256
            let hi := (r.1.toNat + r.2 + 255) / 256
            (List.range (hi - lo)).foldl (fun s j =>
              let first := max r.1.toNat ((lo + j) * 256)
              let stop := min (r.1.toNat + r.2) ((lo + j) * 256 + 256)
              if b.kind == 1 && (List.range (stop - first)).all fun k => wroteByte s seq h (first + k) then s
              else slices.foldl (fun s q => cacheFill s q ((base + (lo + j) * 256) / 256) h gen) s) s) s) s

end Sys2Proof.Machine
end

