-- ==== Sys2Proof/Machine/Pipeline.lean ====
section
/-! DEFINITION. The pipeline block of a plan (spec 13, Tables 13-1 to 13-3). -/

namespace Sys2Proof.Machine

/-- A run entry (Table 13-2). -/
structure RunEntry where
  first  : Nat
  last   : Nat
  stage  : Nat
  pass   : Nat
  micro  : Nat
  tokens : Nat
  cuts   : Nat
  cutCount : Nat
  deriving DecidableEq, Repr

/-- A queue entry (Table 13-3). -/
structure QueueEntry where
  sender : Nat
  dest   : Nat
  kind   : Nat
  banks  : Nat
  perToken : Nat
  deriving DecidableEq, Repr

/-- R261: the block is present when the parameter area is long enough and opens with the magic number. -/
def hasPipeline (p : Plan) : Bool := decide (4096 ≤ p.param.length) && fieldAt p.param 0 4 == 0x45504950

def plGroups (p : Plan) : Nat := fieldAt p.param 4 1
def plStages (p : Plan) : Nat := fieldAt p.param 5 1
def plSchedule (p : Plan) : Nat := fieldAt p.param 6 1
def plMicro (p : Plan) : Nat := fieldAt p.param 8 2
def plQueues (p : Plan) : Nat := fieldAt p.param 0xA 2
def plRuns (p : Plan) : Nat := fieldAt p.param 0xC 4
def plQueueOffset (p : Plan) : Nat := fieldAt p.param 0x10 4
def plRunOffset (p : Plan) : Nat := fieldAt p.param 0x14 4

/-- FIRST_BAY and BAYS of a group. -/
def plGroup (p : Plan) (g : Nat) : Nat × Nat := (fieldAt p.param (0x40 + 4 * g) 1, fieldAt p.param (0x41 + 4 * g) 1)

/-- Chunks per group (R263). -/
def plChunks (p : Plan) : Nat := plStages p / max 1 (plGroups p)

def runEntryOf (b : List Byte) : RunEntry :=
  { first := fieldAt b 0 4, last := fieldAt b 4 4, stage := fieldAt b 8 1, pass := fieldAt b 9 1, micro := fieldAt b 0xA 2,
    tokens := fieldAt b 0xC 4, cuts := fieldAt b 0x10 4, cutCount := fieldAt b 0x14 2 }

def queueEntryOf (b : List Byte) : QueueEntry :=
  { sender := fieldAt b 0 1, dest := fieldAt b 1 1, kind := fieldAt b 2 1, banks := fieldAt b 3 1 % 16,
    perToken := fieldAt b 4 4 }

def pipeRuns (p : Plan) : List RunEntry :=
  if !hasPipeline p then []
  else (List.range (plRuns p)).map fun i => runEntryOf ((p.param.drop (plRunOffset p + 32 * i)).take 32)

def pipeQueues (p : Plan) : List QueueEntry :=
  if !hasPipeline p then []
  else (List.range (plQueues p)).map fun i => queueEntryOf ((p.param.drop (plQueueOffset p + 16 * i)).take 16)

/-- The cut list of a run (R272). -/
def cutsOf (p : Plan) (r : RunEntry) : List Nat :=
  if r.cuts = 0 then [] else (List.range r.cutCount).map fun i => fieldAt p.param (r.cuts + 4 * i) 4

/-- The run that holds a descriptor (R264). -/
def runOf (p : Plan) (seq : Nat) : Option RunEntry :=
  (pipeRuns p).find? fun r => decide (r.first ≤ seq) && decide (seq ≤ r.last)

-- ------------------------------------------------------------------------------------------------ parts (R272)

/-- Bytes of one slot of a queue (R269): a bank on every span of the receiving group. -/
def queueSlot (p : Plan) (q : QueueEntry) : Nat := 0x180000 * 16 * (plGroup p (q.dest % max 1 (plGroups p))).2

/-- Tokens whose payload fits one slot of every queue: none bounds them where there is no queue. -/
def slotTokens (p : Plan) : Option Nat :=
  match (pipeQueues p).map fun q => queueSlot p q / max 1 q.perToken with
  | [] => none
  | x :: xs => some (xs.foldl min x)

/-- The intervals that a run's cuts make, as first token and length. -/
def cutIntervals (tokens : Nat) : Nat → List Nat → List (Nat × Nat)
  | lo, [] => [(lo, tokens - lo)]
  | lo, c :: cs => (lo, c - lo) :: cutIntervals tokens c cs

/-- Parts formed greedily from intervals: each takes the most consecutive ones that fit `cap` tokens. -/
def greedyParts (cap : Nat) : List (Nat × Nat) → List (Nat × Nat)
  | [] => []
  | x :: xs =>
    match greedyParts' cap x xs with
    | (part, rest) => part :: rest
where
  /-- The part that begins with `x`, and the parts of what is left. -/
  greedyParts' (cap : Nat) (x : Nat × Nat) : List (Nat × Nat) → (Nat × Nat) × List (Nat × Nat)
    | [] => (x, [])
    | y :: ys =>
      if x.2 + y.2 ≤ cap then greedyParts' cap (x.1, x.2 + y.2) ys
      else
        let r := greedyParts' cap y ys
        (x, r.1 :: r.2)

/-- The runs of a micro-batch, the lowest first. -/
def microRuns (p : Plan) (j : Nat) : List RunEntry := (pipeRuns p).filter fun r => r.micro == j

/-- A micro-batch whose payload exceeds some slot. -/
def microOver (p : Plan) (r : RunEntry) : Bool := (slotTokens p).any fun c => decide (c < r.tokens)

/-- The token parts of a run: one part of all tokens where no queue asks for a split (R272). -/
def runParts (p : Plan) (r : RunEntry) : List (Nat × Nat) :=
  match slotTokens p with
  | none => [(0, r.tokens)]
  | some c => if r.tokens ≤ c then [(0, r.tokens)] else greedyParts c (cutIntervals r.tokens 0 (cutsOf p r))

/-- The run whose parts a descriptor is executed in: that of its micro-batch with the lowest SEQ, where Runal has split
the micro-batch (R272, R273). -/
def splitRun (p : Plan) (d : Desc) : Option RunEntry :=
  if isDeferrable d then none
  else
    match runOf p d.seq with
    | none => none
    | some r =>
      match (microRuns p r.micro).head? with
      | none => none
      | some low => if p.splits.any fun x => x.kind == 4 && x.seq == low.first then some low else none

end Sys2Proof.Machine
end

