-- ==== Sys2Proof/Machine/DramMap.lean ====
section
/-! DEFINITION. The device address map (R302, Table 15-3) and the fields of a channel address (R301, Table 15-2). -/

namespace Sys2Proof.Machine

/-- First address past the interleaved range, and past the pinned ranges (Table 15-3). -/
def interleavedEnd : Nat := 0x10000000000
def memoryEnd : Nat := 0x14000000000

/-- First address of the region reserved to Runal (R38). -/
def reservedStart : Nat := 0x13E00000000

/-- The quadrant of a pinned address. -/
def pinnedQuadrant (a : Nat) : Nat := (a - interleavedEnd) / 0x1000000000

/-- Channel of a device address (Table 15-3). -/
def channelOf (a : Nat) : Nat :=
  if a < interleavedEnd then Nat.xor (bitsOf a 17 8) (bitsOf a 27 18)
  else
    let b := (a - interleavedEnd) % 0x1000000000
    256 * pinnedQuadrant a + Nat.xor (bitsOf b 15 8) (bitsOf b 23 16)

/-- Channel address of a device address (Table 15-3). -/
def channelAddr (a : Nat) : Nat :=
  if a < interleavedEnd then a / 2 ^ 18 * 256 + a % 256
  else
    let b := (a - interleavedEnd) % 0x1000000000
    0x40000000 + b / 2 ^ 16 * 256 + b % 256

/-- The device address of a channel and a channel address. -/
def deviceAddr (ch ca : Nat) : Nat :=
  if ca < 0x40000000 then
    let hi := ca / 256
    hi * 2 ^ 18 + (Nat.xor (hi % 1024) ch) % 1024 * 256 + ca % 256
  else
    let hi := (ca - 0x40000000) / 256
    interleavedEnd + ch / 256 * 0x1000000000 + hi * 2 ^ 16 + (Nat.xor (hi % 256) (ch % 256)) % 256 * 256 + ca % 256

/-- Fields of Table 15-2. -/
def caRegion (ca : Nat) : Nat := ca / 2 ^ 20
def caRow (ca : Nat) : Nat := ca / 2 ^ 16
def caBank (ca : Nat) : Nat := ca / 2 ^ 11 % 32

/-- A key for the row of a channel address: channel, row and bank. -/
def rowKey (ch ca : Nat) : Nat := (ch * 32768 + caRow ca) * 32 + caBank ca

end Sys2Proof.Machine
end

