-- ==== Sys2Proof/Machine/Flags.lean ====
section
/-! DEFINITION. The bits of the host-control registers (Tables 4-6 to 4-9) and the codes of Tables 4-12 and 4-17. -/

namespace Sys2Proof.Machine

-- ------------------------------------------------------------------------------------------------ status codes

def stOk : Nat := 0x00
def stAccepted : Nat := 0x01
def stBadCommand : Nat := 0x10
def stBadParam : Nat := 0x11
def stBusy : Nat := 0x12
def stPlanInvalid : Nat := 0x20
def stShapeInvalid : Nat := 0x21
def stReplayed : Nat := 0x30
def stReplayFailed : Nat := 0x31
def stMemory : Nat := 0x40
def stLinkDown : Nat := 0x41
def stThermal : Nat := 0x50
def stCommitAborted : Nat := 0x60
def stDivergence : Nat := 0x61
def stLaneRange : Nat := 0x70
def stBearing : Nat := 0x80
def stInternal : Nat := 0xFF

/-- The informational statuses of Table 4-17. -/
def isInformational (st : Nat) : Bool := st == stReplayed || st == stDivergence || st == stLaneRange

/-- Its final statuses. -/
def isFinal (st : Nat) : Bool :=
  [stOk, stBadCommand, stBadParam, stBusy, stPlanInvalid, stShapeInvalid, stReplayFailed, stMemory, stLinkDown, stThermal,
   stCommitAborted, stBearing, stInternal].contains st

/-- A status that comes from outside this device's Keystone ends a command or descriptor as it is where Table 4-17 calls it final; any other value
is taken as an internal failure, for the device writes no other (R96, assumption 173). -/
def finalStatus (st : Nat) : Nat := if isFinal st then st else stInternal

-- ------------------------------------------------------------------------------------------------ plan states

def plNone : Nat := 0
def plLoading : Nat := 1
def plLoaded : Nat := 2
def plRunning : Nat := 3
def plPaused : Nat := 4
def plAborted : Nat := 5

-- ------------------------------------------------------------------------------------------------ HC_CTRL

def cqEn (h : HostIf) : Bool := h.ctrl.toNat.testBit 0
def irqEn (h : HostIf) : Bool := h.ctrl.toNat.testBit 1
def irqAccepted (h : HostIf) : Bool := h.ctrl.toNat.testBit 2

-- ------------------------------------------------------------------------------------------------ HC_STATUS

def notReady (h : HostIf) : Bool := h.status.toNat.testBit 0
def mboxLive (h : HostIf) : Bool := h.status.toNat.testBit 1
def planStateOf (h : HostIf) : Nat := bitsOf h.status.toNat 4 2
def lastFault (h : HostIf) : Nat := bitsOf h.status.toNat 15 8

/-- HC_STATUS with one bit set or cleared. -/
def statusBit (h : HostIf) (k : Nat) (b : Bool) : HostIf :=
  { h with status := BitVec.ofNat 32 (setBit h.status.toNat k b) }

/-- HC_STATUS with a field of bits [hi:lo] replaced. -/
def statusField (h : HostIf) (hi lo v : Nat) : HostIf :=
  let old := h.status.toNat
  { h with status := BitVec.ofNat 32 (old - bitsOf old hi lo * 2 ^ lo + v % 2 ^ (hi + 1 - lo) * 2 ^ lo) }

def bitReady : Nat := 0
def bitMbox : Nat := 1
def bitBeat : Nat := 5
def bitThermal : Nat := 6
def bitStaged : Nat := 7

-- ------------------------------------------------------------------------------------------------ HC_ERR

def errTag : Nat := 0
def errOwned : Nat := 1
def errPartial : Nat := 2
def errCqWrite : Nat := 3
def errCqDrop : Nat := 4
def errBar2 : Nat := 5
def errPoison : Nat := 6

-- ------------------------------------------------------------------------------------------------ HC_COAL and MSI-X

/-- COUNT of HC_COAL; 0 acts as 1 (Table 4-9). -/
def coalCountField (h : HostIf) : Nat := max 1 (bitsOf h.coal.toNat 7 0)

/-- The MSI-X vector of an interrupt source (HC_MSIX_MAP). -/
def vectorOf (h : HostIf) (src : Nat) : Nat := bitsOf h.msixMap.toNat (4 * src + 3) (4 * src)

/-- The vector's Mask bit in the MSI-X table (R72: the base specification's layout). -/
def vectorMasked (h : HostIf) (v : Nat) : Bool := (tabGet 0 h.msixTable (16 * v + 12)).toNat.testBit 0

/-- Address of the completion table (R81). -/
def cqBase (h : HostIf) : Nat := h.cqBaseHi.toNat * 2 ^ 32 + h.cqBaseLo.toNat

/-- HC_BAR2_BASE (Table 4-5). -/
def bar2Base (h : HostIf) : Nat := h.bar2Hi.toNat * 2 ^ 32 + h.bar2Lo.toNat

end Sys2Proof.Machine
end

