-- ==== Sys2Proof/Machine/Ops.lean ====
section
/-! DEFINITION. The operations that commands of several chapters share: interrupts (R85, R86), HC_ERR (Table 4-8),
completion records (R81 to R84), the event log (R403, R404), the fault notification (R379), the plan state (R87), ranks
(R343). -/

namespace Sys2Proof.Machine

-- ------------------------------------------------------------------------------------------------ updates by component

def updPw (s : State) (f : Power → Power) : State := { s with pw := f s.pw }
def updBeat (s : State) (f : Beat → Beat) : State := { s with beat := f s.beat }
def updHost (s : State) (f : HostIf → HostIf) : State := { s with host := f s.host }
def updKs (s : State) (f : Keystone → Keystone) : State := { s with ks := f s.ks }
def updSp (s : State) (f : Spans → Spans) : State := { s with sp := f s.sp }
def updDram (s : State) (f : Dram → Dram) : State := { s with dram := f s.dram }
def updVia (s : State) (f : Viaduct → Viaduct) : State := { s with via := f s.via }
def updGrp (s : State) (f : Group → Group) : State := { s with grp := f s.grp }
def updTre (s : State) (f : Trestle → Trestle) : State := { s with tre := f s.tre }
def updToll (s : State) (f : Toll → Toll) : State := { s with toll := f s.toll }

-- ------------------------------------------------------------------------------------------------ interrupts

/-- Put something on the PCI Express link. -/
def sendPcie (s : State) (o : PcieOut) : State := updHost s fun h => { h with out := h.out ++ [o] }

/-- AER logs an error (Table 4-2, R70). -/
def logAer (s : State) (e : AerError) : State := updHost s fun h => { h with aer := h.aer ++ [e] }

/-- Interrupt sources may send: IRQ_EN is 1 and MSI-X enabled (R85), and the function is in D0, where alone it sends
requests (the base specification's rule). -/
def irqLive (h : HostIf) : Bool := irqEn h && h.msixEn && h.pm == .d0

/-- R85: interrupt source `src` sends its message on the vector that HC_MSIX_MAP names; a masked vector keeps the message
pending in the PBA. An event that arrives while sources may not send raises nothing later (assumption 163). -/
def raiseIrq (s : State) (src : Nat) : State :=
  let h := s.host
  let v := vectorOf h src
  if !irqLive h then s
  else if vectorMasked h v then updHost s fun h => { h with pba := h.pba ||| BitVec.ofNat 16 (2 ^ v) }
  else sendPcie s (.msix v)

/-- Setting any HC_ERR bit raises interrupt source 2 (Table 4-8). -/
def setErr (s : State) (bit : Nat) : State :=
  raiseIrq (updHost s fun h => { h with err := h.err ||| BitVec.ofNat 32 (2 ^ bit) }) 2

-- ------------------------------------------------------------------------------------------------ host accesses

/-- A host write to a BAR (R70, R420): nothing answers before the link is trained, in D3hot the function takes no memory
request (the base specification's rule), and a poisoned write is dropped whole. -/
def barWrite (s : State) (poisoned : Bool) (f : State → State) : State :=
  if !s.host.linkUp then s
  else if s.host.pm = .d3hot then logAer s .unsupportedRequest
  else if poisoned then setErr (logAer s .poisonedTlp) errPoison
  else f s

/-- A host read of a BAR. -/
def barRead (s : State) (f : State → State) : State :=
  if !s.host.linkUp then s
  else if s.host.pm = .d3hot then sendPcie (logAer s .unsupportedRequest) .unsupported
  else f s

-- ------------------------------------------------------------------------------------------------ the event log

/-- The Tollhouse runs (firmware or boot ROM). -/
def tollRuns (s : State) : Bool := s.pw.stage != .off

/-- Keep one record (R403, R405): number it, hold it in SRAM, owe it to flash, print it on the console. `ended` is the beat at
which the window of a COALESCED record ended (R404). -/
def keepRecord (s : State) (e : Event) (ended : Option W64) : State :=
  let t := s.toll
  let flags := (if ended.isSome then 1 else 0) + (if t.persistLost then 2 else 0)
  let r : EventRec := { beat := ended.getD s.beat.number, seqno := t.seqno, ev := e, flags := BitVec.ofNat 8 flags }
  let log := t.sramLog ++ [r]
  let s := updToll s fun t =>
    { t with seqno := t.seqno + 1, sramLog := log.drop (log.length - 8192), unsaved := t.unsaved ++ [r.seqno],
             persistLost := false }
  if s.pw.straps.toNat.testBit 6 then updPw s fun p => { p with uart := p.uart ++ [r.seqno] } else s

/-- The window of a record's triple (R404). -/
def windowOf (s : State) (source code unit : Nat) : Option Window :=
  s.toll.windows.find? fun w => w.source == source && w.code == code && w.unit == unit

def dropWindow (s : State) (source code unit : Nat) : State :=
  updToll s fun t =>
    { t with windows := t.windows.filter fun w => !(w.source == source && w.code == code && w.unit == unit) }

/-- Close a window (R404 rule 3): one COALESCED record with the count of the records not kept. -/
def closeWindow (s : State) (w : Window) : State :=
  let s := dropWindow s w.source w.code w.unit
  if w.extra = 0 then s else keepRecord s { w.last with detail0 := BitVec.ofNat 32 w.extra } (some (w.opened + 1024))

/-- A window stays open for 1,024 beats (R404). -/
def windowOver (s : State) (w : Window) : Bool := decide (w.opened.toNat + 1024 ≤ s.beat.number.toNat)

/-- An event arrives at the Tollhouse (R403, R404). -/
def logEvent (s : State) (e : Event) : State :=
  if !tollRuns s then s
  else if e.severity = 3 then keepRecord s e none
  else
    let s := match windowOf s e.source e.code e.unit with
      | some w => if windowOver s w then closeWindow s w else s
      | none => s
    match windowOf s e.source e.code e.unit with
    | none =>
      let w : Window := { source := e.source, code := e.code, unit := e.unit, opened := s.beat.number, kept := 1,
                          extra := 0, last := e }
      keepRecord (updToll s fun t => { t with windows := t.windows ++ [w] }) e none
    | some w =>
      let w' := if w.kept < 16 then { w with kept := w.kept + 1 } else { w with extra := w.extra + 1, last := e }
      let s := dropWindow s w.source w.code w.unit
      let s := updToll s fun t => { t with windows := t.windows ++ [w'] }
      if w.kept < 16 then keepRecord s e none else s

/-- SOURCE codes of Table 20-5. -/
def srcToll : Nat := 0
def srcKs : Nat := 1
def srcSpan : Nat := 2
def srcDram : Nat := 3
def srcVia : Nat := 4
def srcPcie : Nat := 5
def srcTre : Nat := 6
def srcMgmt : Nat := 7

/-- Event codes within SOURCE: free values, since the manual names the field and no codes (assumption 114). -/
def evFault : Nat := (Config.eventCode 1).toNat
def evReport : Nat := (Config.eventCode 2).toNat
def evProtection : Nat := (Config.eventCode 3).toNat
def evRepair : Nat := (Config.eventCode 4).toNat
def evReplay : Nat := (Config.eventCode 5).toNat
def evState : Nat := (Config.eventCode 6).toNat
def evImage : Nat := (Config.eventCode 7).toNat
def evCommit : Nat := (Config.eventCode 8).toNat

def mkEvent (status source severity unit code detail0 detail1 : Nat) : Event :=
  { status := BitVec.ofNat 8 status, source := source, severity := severity, unit := unit, code := code,
    detail0 := BitVec.ofNat 32 detail0, detail1 := BitVec.ofNat 64 detail1 }

-- ------------------------------------------------------------------------------------------------ faults to the host

/-- R379, R86: a fault is logged and notified to the host on source 2, with HC_STATUS.LAST_FAULT set. -/
def notifyFault (s : State) (e : Event) : State :=
  raiseIrq (updHost (logEvent s e) fun h => statusField h 15 8 e.status.toNat) 2

-- ------------------------------------------------------------------------------------------------ plan state

def planState (s : State) : Nat := planStateOf s.host

/-- Change HC_STATUS.PLAN_STATE; a change raises source 3 (Table 4-12a). -/
def setPlanState (s : State) (v : Nat) : State :=
  if planState s = v then s else raiseIrq (updHost s fun h => statusField h 4 2 v) 3

-- ------------------------------------------------------------------------------------------------ completion records

/-- The final record of a tag carries PHASE 1 unless the last one did (R82). -/
def phaseBit (h : HostIf) (tag : Nat) : Nat := if h.flipped.contains tag then 0 else 1

/-- HEAD of Table 4-11. -/
def headWord (phase tag status : Nat) : Nat := phase * 2 ^ 31 + tag % 512 * 2 ^ 16 + status % 256

/-- The six result words, zero where unused. -/
def resultBytes (rs : List Nat) : List Byte := (List.range 6).flatMap fun i => leBytes 4 (rs.getD i 0)

/-- The host takes what the device writes to it. -/
def hostTakes (h : HostIf) : Bool := h.linkUp && h.pm == .d0 && h.accepts

/-- Write a record as two posted writes: bytes 0x08 to 0x1F, then bytes 0x00 to 0x07; a record that the host does not
accept sets CQ_WRITE_FAIL and is logged (R83). -/
def putRecord (s : State) (tag cmd status : Nat) (rs : List Nat) : State :=
  let base := cqBase s.host + 32 * tag
  if !hostTakes s.host then
    setErr (logEvent s (mkEvent 0 srcPcie 2 tag evFault 0 base)) errCqWrite
  else
    let s := sendPcie s (.write (base + 8) (resultBytes rs))
    sendPcie s (.write base (leBytes 4 (headWord (phaseBit s.host tag) tag status) ++ leBytes 4 cmd))

/-- Count a record toward source 0 or 1 (R86): records count since the last message sent. -/
def countRecord (s : State) (prio : Nat) : State :=
  let src := if prio < 4 then 0 else 1
  let n := tabGet 0 s.host.coalCount src + 1
  if n ≥ coalCountField s.host ∧ irqLive s.host = true then
    raiseIrq (updHost s fun h => { h with coalCount := tabSet 0 h.coalCount src 0 }) src
  else updHost s fun h => { h with coalCount := tabSet 0 h.coalCount src n }

/-- The ACCEPTED record of a long command (R84). -/
def acceptRecord (s : State) (c : Taken) : State :=
  if !cqEn s.host then setErr s errCqDrop
  else
    let s := putRecord s c.tag c.cmd stAccepted []
    if irqAccepted s.host then countRecord s c.prio else s

/-- The tag is free, and the command is no longer held. -/
def freeTag (s : State) (c : Taken) : State :=
  updHost s fun h =>
    { h with inUse := h.inUse.filter (· != c.tag), taken := h.taken.filter (fun x => x.tag != c.tag),
             long := h.long.filter (fun x => x.tag != c.tag) }

/-- The final record of a command (R81 to R84): dropped with CQ_DROP while CQ_EN is 0. -/
def finishCmd (s : State) (c : Taken) (status : Nat) (rs : List Nat) : State :=
  if !cqEn s.host then freeTag (setErr s errCqDrop) c
  else
    let s := putRecord s c.tag c.cmd status rs
    let s := updHost s fun h =>
      { h with flipped := if h.flipped.contains c.tag then h.flipped.filter (· != c.tag) else insertNat c.tag h.flipped }
    countRecord (freeTag s c) c.prio

def finishOpt (s : State) (c : Option Taken) (status : Nat) (rs : List Nat) : State :=
  match c with
  | none => s
  | some c => finishCmd s c status rs

/-- A long command is accepted: it waits for its final record. -/
def acceptCmd (s : State) (c : Taken) : State :=
  let s := acceptRecord s c
  updHost s fun h => { h with taken := h.taken.filter (fun x => x.tag != c.tag), long := h.long ++ [c] }

/-- A field of a slot, by its offset in the slot (Table 4-14). -/
def payAt (c : Taken) (o n : Nat) : Nat := if o < 4 then 0 else fieldAt c.payload (o - 4) n

/-- R89: every payload byte that no listed field covers is zero. Fields are (offset, size). -/
def payClean (c : Taken) (fields : List (Nat × Nat)) : Bool :=
  c.payload.zipIdx.all fun b =>
    b.1 == 0 || fields.any fun f => decide (f.1 ≤ b.2 + 4) && decide (b.2 + 4 < f.1 + f.2)

/-- Command codes of Table 4-13. -/
def cmdGetInfo : Nat := 0x0001
def cmdGetStatus : Nat := 0x0002
def cmdLoadPlan : Nat := 0x0010
def cmdUnloadPlan : Nat := 0x0011
def cmdStart : Nat := 0x0012
def cmdPauseAtPier : Nat := 0x0013
def cmdResume : Nat := 0x0014
def cmdAbort : Nat := 0x0015
def cmdBind : Nat := 0x0020
def cmdCopyToDevice : Nat := 0x0021
def cmdCopyToHost : Nat := 0x0022
def cmdReshard : Nat := 0x0030
def cmdCommitPolicy : Nat := 0x0040
def cmdReplayControl : Nat := 0x0050
def cmdTelemetryRead : Nat := 0x0060
def cmdNormRecordsRead : Nat := 0x0061
def cmdLinkControl : Nat := 0x0070
def cmdRingForm : Nat := 0x0071
def cmdMarchTest : Nat := 0x0080
def cmdMemoryScrub : Nat := 0x0081
def cmdPacePolicy : Nat := 0x0090
def cmdPrefixTable : Nat := 0x00A0
def cmdFwStage : Nat := 0x00B0
def cmdFwActivate : Nat := 0x00B1
def cmdNop : Nat := 0x00FF

def commands : List Nat :=
  [cmdGetInfo, cmdGetStatus, cmdLoadPlan, cmdUnloadPlan, cmdStart, cmdPauseAtPier, cmdResume, cmdAbort, cmdBind,
   cmdCopyToDevice, cmdCopyToHost, cmdReshard, cmdCommitPolicy, cmdReplayControl, cmdTelemetryRead, cmdNormRecordsRead,
   cmdLinkControl, cmdRingForm, cmdMarchTest, cmdMemoryScrub, cmdPacePolicy, cmdPrefixTable, cmdFwStage, cmdFwActivate,
   cmdNop]

/-- Serve the command taken first, if it is this command under this tag (R79: commands are served in the order in which
they are taken); otherwise nothing happens. -/
def serve (s : State) (cmd tag : Nat) (f : State → Taken → State) : State :=
  match s.host.taken.head? with
  | none => s
  | some c => if c.tag = tag ∧ c.cmd = cmd then f s c else s

/-- R79: of the accepted long commands that wait for a resource, the one of highest PRIO, then the first taken. -/
def nextLong (s : State) (sel : Nat → Bool) : Option Taken :=
  let l := s.host.long.filter fun c => sel c.cmd
  let best := (l.map (·.prio)).foldl Nat.max 0
  l.find? fun c => c.prio == best

-- ------------------------------------------------------------------------------------------------ ranks

/-- R343. -/
def rankOf (p : Plan) : Nat := p.groupIndex * p.ringLength + p.ringPos
def groupSize (p : Plan) : Nat := p.ringGroups * p.ringLength

/-- This device's coordinate (R334, R341); the origin while it has none. -/
def ownCoord (s : State) : Coord := s.via.coord.getD ⟨0, 0, 0⟩

/-- The coordinates of ranks (R344): those of the new epoch while a re-shard moves state (R356). -/
def ranksNow (s : State) : List (Nat × Coord) :=
  match s.ks.reshardW with
  | some w => if w.phase = 3 then w.ranks else s.via.ranks
  | none => s.via.ranks

/-- The coordinate of a rank. -/
def coordOfRank (s : State) (r : Nat) : Option Coord := ((ranksNow s).find? (fun e => e.1 == r)).map (·.2)

/-- The rank at a coordinate. -/
def rankAt (s : State) (c : Coord) : Option Nat := ((ranksNow s).find? (fun e => e.2 == c)).map (·.1)

/-- A re-shard that has come to step `k` or later of Table 17-5: 3 its token has been joined, 5 it holds GO. -/
def reshardAt (s : State) (k : Nat) : Bool :=
  s.ks.reshardW.any fun w => decide (2 ≤ w.phase) || (k == 3 && w.phase == 1 && w.joined)

/-- The last pier's INDEX; a free value when none is written (assumption 28). -/
def lastPierWord (s : State) : Nat := s.ks.lastPier.getD Config.noPier.toNat

/-- The bound region with an id (R93). -/
def regionOf (s : State) (id : Nat) : Option Region := s.host.regions.find? (fun r => r.id == id)

/-- A region offset plus a length that lies within the bound region, as its host address (R89). -/
def regionAddr (s : State) (id off len : Nat) : Option Nat :=
  match regionOf s id with
  | none => none
  | some r => if off + len ≤ r.len then some (r.addr + off) else none

/-- The requests of a transfer of `n` bytes at an address: at most `m` bytes each, none across a 4 KiB boundary (R364).
`fuel` bounds their number. -/
def requestsOf (m a : Nat) : Nat → Nat → List (Nat × Nat)
  | 0, _ => []
  | fuel + 1, n =>
    if n = 0 then []
    else
      let k := min n (min (max 1 m) (4096 - a % 4096))
      (a, k) :: requestsOf m (a + k) fuel (n - k)

/-- Write bytes to host memory as posted writes of at most Max_Payload_Size bytes (R364). -/
def hostWrite (s : State) (addr : Nat) (data : List Byte) : State :=
  (requestsOf s.host.mps addr data.length data.length).foldl (fun s r =>
    sendPcie s (.write r.1 ((data.drop (r.1 - addr)).take r.2))) s

/-- Bay of a span, and the spans of a bay. -/
def bayOf (span : Nat) : Nat := span / 16
def bitsToBays (b : BitVec 32) : List Nat := (List.range 32).filter fun i => b.toNat.testBit i

end Sys2Proof.Machine
end

