-- ==== Sys2Proof/Machine/Sectors.lean ====
section
/-! DEFINITION. DRAM below the operators (spec 15): lanes and interface training (R300, R309), errors met on sectors (R307,
R317, R445), failing rows, spare rows and retirement (R310 to R313). -/

namespace Sys2Proof.Machine

-- ------------------------------------------------------------------------------------------------ rows and regions

/-- Row of a device address. -/
def rowOf (a : Nat) : Nat := rowKey (channelOf a) (channelAddr a)

/-- Region of a device address, as channel × 1280 + region (R301). -/
def dramRegion (a : Nat) : Nat := channelOf a * 1280 + caRegion (channelAddr a)

/-- Channel, row and bank of a row key. -/
def keyChannel (k : Nat) : Nat := k / 32 / 32768
def keyRow (k : Nat) : Nat := k / 32 % 32768
def keyBank (k : Nat) : Nat := k % 32

/-- R310: a row is failing, by what it has met or by a sector that scrubbing found in it and nothing has overwritten
since. -/
def rowFails (d : Dram) (k : Nat) : Bool := d.failing.contains k || d.scrubBad.any fun sec => rowOf (32 * sec) == k

/-- Key of a lane group, the four lanes of one symbol: 32 of data and 4 of check on each channel (R307). -/
def laneKey (ch group : Nat) : Nat := ch * 36 + group

/-- A correction is counted: per channel, per row since it was last mapped, against its lane group, and for the scrub results
(R307, R310, R319). -/
def countCorrected (d : Dram) (e : SectorErr) : Dram :=
  let k := laneKey (channelOf e.addr) e.group
  { d with corrected := tabUpd 0 d.corrected (channelOf e.addr) (· + 1), rowCorr := tabUpd 0 d.rowCorr (rowOf e.addr) (· + 1)
           laneCorr := tabUpd 0 d.laneCorr k (· + 1), laneHits := d.laneHits ++ [(k, 0)]
           scrubRes := (d.scrubRes.1 + 1, d.scrubRes.2) }

/-- An uncorrectable sector is counted (R307, R319). -/
def countBad (d : Dram) (addr : Nat) : Dram :=
  { d with uncorr := tabUpd 0 d.uncorr (channelOf addr) (· + 1)
           scrubRes := (d.scrubRes.1, d.scrubRes.2.1 + 1, d.scrubRes.2.2) }

/-- Rows that a predicate selects are copied: sectors that read well keep their bytes, those that need a correction being
corrected and counted (R307); the others are written as zero with fresh check bits, their addresses entering the lost list
(R310). -/
def loseSectors (s : State) (sel : Nat → Bool) : State :=
  let hit := s.dram.bad.filter (fun sec => sel (32 * sec))
    ++ (s.dram.flaws.filter fun e => e.fatal && sel e.addr).map fun e => e.addr / 32
  updDram s fun d =>
    let d := (d.flaws.filter fun e => sel e.addr).foldl (fun d e => if e.fatal then countBad d e.addr else countCorrected d e) d
    { d with bad := d.bad.filter (fun sec => !sel (32 * sec)), scrubBad := d.scrubBad.filter (fun sec => !sel (32 * sec))
             flaws := d.flaws.filter (fun e => !sel e.addr)
             lost := hit.foldl (fun l x => insertNat x l) d.lost
             mem := hit.foldl (fun m sec => tabPut m (32 * sec) (zeros 32)) d.mem }

/-- The Tollhouse records a repair (R312) and logs it. -/
def recordRepair (s : State) (r : Repair) (source unit detail : Nat) : State :=
  logEvent (updToll s fun t => { t with repair := t.repair ++ [r] }) (mkEvent 0 source 1 unit evRepair 0 detail)

/-- R311: a region retires to a free reserve region of its channel; with none left the device can no longer present its
memory (R313). -/
def retireRegion (s : State) (ch region : Nat) : State :=
  if tabGet 0 s.dram.reserve ch ≥ 16 then updDram s fun d => { d with gone := insertNat (ch * 1280 + region) d.gone }
  else
    let inRegion := fun k => keyChannel k == ch && keyRow k / 16 == region
    let s := loseSectors s fun a => inRegion (rowOf a)
    let s := updDram s fun d =>
      { d with reserve := tabUpd 0 d.reserve ch (· + 1), retired := d.retired ++ [ch * 1280 + region],
               failing := d.failing.filter (fun k => !inRegion k), remaps := tabKeep (fun k => !inRegion k) d.remaps,
               rowCorr := tabKeep (fun k => !inRegion k) d.rowCorr }
    recordRepair s (.region (ch * 1280 + region)) srcDram ch region

/-- R310, R311: a failing row goes to a spare row of its bank, up to three times and while the bank has one of its 8
spares; else its region retires. -/
def remapRow (s : State) (k : Nat) : State :=
  let d := s.dram
  let bank := keyChannel k * 32 + keyBank k
  if tabGet 0 d.remaps k ≥ 3 ∨ tabGet 0 d.spareRows bank ≥ 8 then retireRegion s (keyChannel k) (keyRow k / 16)
  else
    let s := loseSectors s fun a => rowOf a == k
    let s := updDram s fun d =>
      { d with remaps := tabUpd 0 d.remaps k (· + 1), spareRows := tabUpd 0 d.spareRows bank (· + 1),
               rowCorr := tabSet 0 d.rowCorr k 0, failing := d.failing.filter (· != k),
               scrubRes := (d.scrubRes.1, d.scrubRes.2.1, d.scrubRes.2.2 + 1) }
    recordRepair s (.row k) srcDram (keyChannel k) k

/-- Every failing row in turn, but for those that the retirement of their region has moved (R312). -/
def settleRows (s : State) : State :=
  let rows := s.dram.scrubBad.foldl (fun l sec => insertNat (rowOf (32 * sec)) l) s.dram.failing
  rows.foldl (fun s k => if rowFails s.dram k then remapRow s k else s) s

/-- With no plan loaded no buffer covers a sector that is lost: it is left as zero and its loss is logged (R313). It stays on
the lost list, for a plan that is loaded later may cover it. -/
def logLost (before after : State) : State :=
  if after.ks.plan.isSome then after
  else
    let gone := after.dram.lost.filter fun sec => decide (32 * sec < reservedStart) && !before.dram.lost.contains sec
    gone.foldl (fun s sec => logEvent s (mkEvent stMemory srcDram 1 0 evFault 0 (32 * sec))) after

/-- R312: while no plan runs, failing rows move at once. -/
def settleIdle (s : State) : State := if planState s = plRunning then s else logLost s (settleRows s)

/-- A row has been found failing. -/
def markRow (s : State) (k : Nat) : State := updDram s fun d => { d with failing := insertNat k d.failing }

/-- A row is found failing (R310): remapped at once unless a plan runs (R312). -/
def failRow (s : State) (k : Nat) : State := settleIdle (markRow s k)

-- ------------------------------------------------------------------------------------------------ decoding

/-- A correction is counted against its lane group; the fourth in a row makes the row failing (R307, R310). -/
def markCorrected (s : State) (e : SectorErr) : State :=
  let k := rowOf e.addr
  let s := updDram s fun d => countCorrected d e
  if tabGet 0 s.dram.rowCorr k ≥ 4 then markRow s k else s

/-- An uncorrectable sector is counted, and known as such from here on (R307). -/
def markBad (s : State) (addr : Nat) : State :=
  updDram s fun d =>
    let d := countBad d addr
    { d with bad := insertNat (addr / 32) d.bad, flaws := d.flaws.filter (fun x => x.addr / 32 != addr / 32) }

/-- A decoding result other than clean, on a read (R307, R310). -/
def markSector (s : State) (e : SectorErr) : State :=
  if e.fatal then markRow (markBad s e.addr) (rowOf e.addr) else markCorrected s e

/-- A read, or the read half of a partial write, of the sectors that a predicate selects: what ails them is met. -/
def touchSectors (s : State) (hit : Nat → Bool) : State :=
  if s.dram.flaws.isEmpty && s.dram.scrubBad.isEmpty then s
  else
    let rows := s.dram.scrubBad.filter hit
    let s := (s.dram.flaws.filter fun e => hit (e.addr / 32)).foldl markSector s
    rows.foldl (fun s sec => markRow s (rowOf (32 * sec))) s

/-- A sector shares a byte with a device range. -/
def rangeHits (a n sec : Nat) : Bool := decide (a < 32 * sec + 32) && decide (32 * sec < a + n)

/-- Scrubbing of the sectors whose device addresses a predicate selects (R317): a correction is written back, an
uncorrectable sector is logged and left in place, its row failing while nothing overwrites it. `again` counts and logs those
already known. -/
def scrubSectors (s : State) (here : Nat → Bool) (ecc : List SectorErr) (again : Bool) : State :=
  let old := s.dram.bad.filter fun sec => here (32 * sec)
  let found := s.dram.flaws.filter (fun e => here e.addr) ++ ecc.filter fun e => here e.addr && !s.dram.bad.contains (e.addr / 32)
  let keep := fun (s : State) (sec : Nat) => updDram s fun d => { d with scrubBad := insertNat sec d.scrubBad }
  let log := fun (s : State) (addr : Nat) => logEvent s (mkEvent stMemory srcDram 2 (channelOf addr) evFault 0 addr)
  let s := found.foldl (fun s e =>
    if e.fatal then log (keep (markBad s e.addr) (e.addr / 32)) e.addr
    else updDram (markCorrected s e) fun d => { d with flaws := d.flaws.filter (· != e) }) s
  let s := old.foldl (fun s sec =>
    let s := if again then updDram s fun d => { d with scrubRes := (d.scrubRes.1, d.scrubRes.2.1 + 1, d.scrubRes.2.2) } else s
    log (keep s sec) (32 * sec)) s
  settleIdle s

/-- The sectors of a byte range of a buffer's written half, first and last, that the range covers whole. -/
def wholeSectors (a len : Nat) : Nat × Nat := ((a + 31) / 32, (a + len) / 32)

/-- A write covers a sector in part. -/
def partHits (a n sec : Nat) : Bool :=
  let w := wholeSectors a n
  rangeHits a n sec && !(decide (w.1 ≤ sec) && decide (sec < w.2))

/-- R445: a write that covers a whole sector gives it fresh check bits, and a partial one writes back what it corrected. -/
def freshSectors (s : State) (rs : List (Nat × Nat)) : State :=
  let whole := fun sec => rs.any fun r => rangeHits r.1 r.2 sec && !partHits r.1 r.2 sec
  let part := fun sec => rs.any fun r => rangeHits r.1 r.2 sec
  updDram s fun d =>
    { d with bad := d.bad.filter (fun x => !whole x), lost := d.lost.filter (fun x => !whole x)
             scrubBad := d.scrubBad.filter (fun x => !whole x)
             flaws := d.flaws.filter fun e => !(whole (e.addr / 32) || (part (e.addr / 32) && !e.fatal)) }

-- ------------------------------------------------------------------------------------------------ interface training

/-- Lanes of a channel (Table 15-1): data lanes 0 to 127, check lanes to 143, command lanes to 153. -/
def signalLanes : Nat := 128 + 16
def commandLanes : Nat := 10
def spareSignalLanes : Nat := 4
def spareCommandLanes : Nat := 1

/-- R309: the replaced lanes ask for more spares than the channel has. -/
def sparesShort (lanes : List Nat) : Bool :=
  decide (spareSignalLanes < (lanes.filter (· < signalLanes)).length)
    || decide (spareCommandLanes < (lanes.filter (signalLanes ≤ ·)).length)

/-- The hotter sensor of a stack. -/
def stackTemp (x : Sample) (k : Nat) : Int := max (x.dramTemp.getD (2 * k) 0) (x.dramTemp.getD (2 * k + 1) 0)

/-- R309: training of one stack. Every lane whose margin lies below the limit is replaced by a spare; a channel that needs
more spares than it has fails. -/
def trainStack (s : State) (k : Nat) : State :=
  let here := s.dram.weak.filter fun x => x.1 / 64 == k
  let temp := stackTemp s.toll.sample k
  let s := updDram s fun d =>
    { d with spared := here.foldl (fun t x => tabUpd [] t x.1 (· ++ [x.2])) d.spared
             weak := d.weak.filter (fun x => x.1 / 64 != k), laneHits := d.laneHits.filter (fun x => x.1 / 36 / 64 != k)
             trainTemp := tabSet 0 d.trainTemp k temp }
  ((here.map (·.1)).eraseDups.filter fun c => !s.dram.failedCh.contains c && sparesShort (tabGet [] s.dram.spared c)).foldl
    (fun s c => logEvent (updDram s fun d => { d with failedCh := insertNat c d.failedCh }) (mkEvent stMemory srcDram 3 c evFault 0 0)) s

/-- R309: a stack is due for training at a pier: one of its lanes has needed 16 corrections within 2²⁰ beats, or its
temperature has moved by more than 15 °C since it was last trained. -/
def stackDue (s : State) (k : Nat) : Bool :=
  (s.dram.laneHits.any fun x => x.1 / 36 / 64 == k && decide (16 ≤ (s.dram.laneHits.filter fun y => y.1 == x.1).length))
    || decide (120 < (stackTemp s.toll.sample k - tabGet 0 s.dram.trainTemp k).natAbs)

/-- The stacks that are due are trained, one at a time. -/
def retrainDue (s : State) : State := (List.range 16).foldl (fun s k => if stackDue s k then trainStack s k else s) s

/-- Training of every channel at power-up, or on leaving self-refresh: `weak` names the lanes, as channel and lane, whose
margin lies below the limit. -/
def trainAll (s : State) (weak : List (Nat × Nat)) : State :=
  (List.range 16).foldl trainStack (updDram s fun d => { d with spared := [], failedCh := [], weak := weak })

/-- One more beat since each correction of the last 2²⁰ (R309). -/
def ageHits (s : State) : State :=
  if s.dram.laneHits.isEmpty then s
  else updDram s fun d =>
    { d with laneHits := (d.laneHits.map fun x => (x.1, x.2 + 1)).filter fun x => decide (x.2 < 2 ^ 20) }

end Sys2Proof.Machine
end

