-- ==== Sys2Proof/Machine/Operate.lean ====
section
/-! DEFINITION. What every operator command shares: it acts for a descriptor that has been issued and has started on
all its target units (R50); it stalls at a bank that its engine does not own (R103); a read that meets an uncorrectable
sector or a stale bank gives the descriptor a failing status in place of its output (R106, R307); otherwise its outputs
are written and its pass is done. -/

namespace Sys2Proof.Machine

/-- The issue record of a SEQ. -/
def issuedOf (s : State) (seq : Nat) : Option Issued := s.ks.issued.find? (fun i => i.seq == seq)

/-- A descriptor that runs: issued, started on every target unit, not all reported. -/
def running (s : State) (seq : Nat) : Option (Plan × Desc × Issued) :=
  match s.ks.plan with
  | none => none
  | some p =>
    match descAt p seq, issuedOf s seq with
    | some d, some i => if i.waiting.isEmpty && !i.running.isEmpty then some (p, d, i) else none
    | _, _ => none

/-- Change the issue record of a SEQ. -/
def updIssued (s : State) (seq : Nat) (f : Issued → Issued) : State :=
  { s with ks := { s.ks with issued := s.ks.issued.map fun i => if i.seq == seq then f i else i } }

/-- The passes of a descriptor: those of its kind 1 split (R64), the parts of its micro-batch's (R273), 1 where no split
was made. -/
def passesOf (p : Plan) (seq : Nat) : Nat :=
  match p.splits.find? (fun x => x.seq == seq && x.kind == 1) with
  | some x => x.parts
  | none =>
    match (descAt p seq).bind (splitRun p) with
    | some r => (runParts p r).length
    | none => 1

/-- A body with `n` bytes at an offset replaced by a number. -/
def bodyPut (b : List Byte) (o n v : Nat) : List Byte := b.take o ++ leBytes n v ++ b.drop (o + n)

/-- The descriptor that a pass of a split run executes: the part's tokens on the token axis of its opcode (R273). -/
def partDesc (p : Plan) (d : Desc) (pass : Nat) : Desc :=
  match splitRun p d with
  | none => d
  | some r =>
    let x := (runParts p r).getD pass (0, r.tokens)
    let per := fun n => n / max 1 r.tokens
    let op := d.opcode
    if op = opMatmul ∨ op = opDgrad then
      { d with body := bodyPut d.body 0x40 4 x.2, base := x.1, skips := [x.1 * b32 d 0x48, 0, x.1 * b32 d 0x44, 0] }
    else if op = opAttnFwd ∨ op = opAttnBwd then
      let blk := p.param.drop (b32 d 0x50)
      let q := fieldAt blk 0 2 * fieldAt blk 4 2 * x.1
      let k := fieldAt blk 2 2 * fieldAt blk 4 2 * x.1
      { d with body := bodyPut (bodyPut d.body 0x54 4 x.2) 0x58 4 x.2, base := x.1, skips := [q, k, k, q, fieldAt blk 0 2 * x.1] }
    else if op = opVecProgram then
      let n := per (b64 d 0x58)
      { d with body := bodyPut d.body 0x58 8 (n * x.2), base := n * x.1, skips := List.replicate 5 (n * x.1) }
    else if op = opCopyConvert then
      let n := per (b64 d 0x20)
      { d with body := bodyPut d.body 0x20 8 (n * x.2), base := n * x.1, skips := List.replicate 2 (n * x.1) }
    else if op = opOffload ∨ op = opPrefetch then
      let n := per (b64 d 0x20)
      let at_ := fun o => b64 d o + n * x.1
      { d with body := bodyPut (bodyPut (bodyPut (bodyPut d.body 0x20 8 (n * x.2)) 0x28 8 (at_ 0x28)) 8 8 (at_ 8)) 0x18 8 (at_ 0x18) }
    else d

/-- The turn of a pass of a split run: every descriptor of the run runs for one part, in SEQ order, before any runs for the
next (R273). -/
def partTurn (s : State) (p : Plan) (d : Desc) (pass : Nat) : Bool :=
  match splitRun p d, runOf p d.seq with
  | some _, some r =>
    (p.descs.filter fun e => !isDeferrable e && decide (r.first ≤ e.seq) && decide (e.seq ≤ r.last) && e.seq != d.seq).all fun e =>
      let done := (issuedOf s e.seq).map (·.passesRun.length)
      if e.seq < d.seq then done.all fun n => decide (pass < n) else pass == 0 || done.any fun n => decide (pass ≤ n)
  | _, _ => true

/-- Two descriptors of one run of a split micro-batch: their order is that of the parts. -/
def sameSplit (p : Plan) (d e : Desc) : Bool :=
  (splitRun p d).isSome && !isDeferrable e && match runOf p d.seq with
    | some r => decide (r.first ≤ e.seq) && decide (e.seq ≤ r.last)
    | none => false

/-- The status that two of one descriptor make: the first that fails it, else the first informational one (R51). -/
def joinStatus (a b : Nat) : Nat :=
  if (a = 0 ∨ isInformational a = true) ∧ b ≠ 0 ∧ (a = 0 ∨ isInformational b = false) then b else a

/-- Mark a pass done. -/
def passDone (s : State) (seq pass status : Nat) : State :=
  updIssued s seq fun i =>
    { i with passesRun := i.passesRun ++ [pass], status := joinStatus i.status status }

/-- The order key of R49. -/
def orderKey (seq pass : Nat) : Nat := seq * 65536 + pass

/-- T of R146: the step counter of the running step's commit record, or the step index in a plan without COMMIT. -/
def stepT (s : State) (p : Plan) : Nat :=
  if p.descs.any (fun d => d.opcode == opCommit) then s.ks.tCounter.toNat % 2 ^ 32 else s.ks.stepIndex % 2 ^ 32

/-- The units that hold a descriptor's bank operands. -/
def unitSpans (d : Desc) : List Nat := targets d

/-- The first failing status that the reads of a descriptor meet. -/
def readsStatus (s : State) (p : Plan) (d : Desc) (us : List Use) : Nat :=
  (us.findSome? fun u =>
    (if d.spanCount = 0 then [none] else (useTargets (unitSpans d) u).map some).findSome? fun x =>
      let st := readStatus s p d.seq x u
      if st = 0 then none else some st).getD 0

/-- The device address ranges that the plain writes of a descriptor cover. -/
def writeRanges (s : State) (p : Plan) (us : List Use) : List (Nat × Nat) :=
  us.flatMap fun u =>
    if !u.write || !isBuffer u.o then []
    else
      match p.bufs[u.o.handle]? with
      | none => []
      | some b => (useRanges p.param u).map fun r => (writeAddr s b u.o.handle r.1.toNat, r.2)

/-- The sectors of DRAM that a descriptor reads, or reads to write them in part (R445). -/
def usesSector (s : State) (p : Plan) (d : Desc) (us : List Use) (sec : Nat) : Bool :=
  us.any (fun u =>
    !u.write && isBuffer u.o && match p.bufs[u.o.handle]? with
      | none => false
      | some b => (if d.spanCount = 0 then [none] else (useTargets (unitSpans d) u).map some).any fun x =>
          (useRanges p.param u).any fun r => readsSector s d.seq (x.map sliceOf) b u.o.handle r sec)
    || (writeRanges s p us).any fun r => partHits r.1 r.2 sec

/-- R445: a partial write that meets an uncorrectable sector fails the descriptor. -/
def writesStatus (s : State) (p : Plan) (us : List Use) : Nat :=
  let rs := writeRanges s p us
  if s.dram.bad.any fun sec => rs.any fun r => partHits r.1 r.2 sec then 0x40 else 0

/-- R189: while an attention operator runs, every bank of its target spans is the attention pipeline's or the Causeway
port's. -/
def attentionOwns (owners : Tab Nat) (d : Desc) : Bool :=
  !(d.opcode == opAttnFwd || d.opcode == opAttnBwd) ||
    (targets d).all fun x => (List.range 4).all fun k =>
      tabGet 0 owners (x * 4 + k) == 3 || tabGet 0 owners (x * 4 + k) == 4

/-- Whether every bank that the descriptor reaches for is owned by its engine (R103). -/
def banksOwned (s : State) (d : Desc) (us : List Use) : Bool :=
  attentionOwns s.sp.owners d &&
  us.all fun u => (useTargets (unitSpans d) u).all fun x => ownsBank s x u

/-- One pass of an operator: `f` writes its outputs. Passes run in ascending index (R64). -/
def operate (ops : List Nat) (seq pass : Nat) (uses : State → Plan → Desc → Nat → List Use)
    (f : State → Plan → Desc → Nat → State) (s : State) : State :=
  match running s seq with
  | none => s
  | some (p, d, i) =>
    if !ops.contains d.opcode || pass != i.passesRun.length || decide (passesOf p seq ≤ pass) || !partTurn s p d pass then s
    else
      let d := partDesc p d pass
      let us := present (uses s p d pass)
      if !banksOwned s d us then s
      else
        let s := touchSectors s (usesSector s p d us)
        let rd := readsStatus s p d us
        let st := if rd = 0 then writesStatus s p us else rd
        if st ≠ 0 then passDone s seq pass st
        else
          let c := prefillNibbles (cacheReads s p seq (unitSpans d) us) p us
          passDone (freshSectors (noteWrites (f c p d pass) p seq (unitSpans d) us) (writeRanges s p us)) seq pass 0

/-- The output elements of a pass along a split axis of length n: first element and count (R64). -/
def passPart (p : Plan) (seq pass n : Nat) : Nat × Nat := cutPart n (passesOf p seq) pass

/-- Emit a memory-side add of element bits (R168, R315). -/
def emitAdd (s : State) (p : Plan) (d : Desc) (o : Operand) (pos fmt : Nat) (wide : Bool) (pass v : Nat) : State :=
  match p.bufs[o.handle]? with
  | none => s
  | some b =>
    let s := prefillBytes s b o.handle pos (if wide then 8 else codeBits fmt / 8)
    let a := writeAddr s b o.handle pos
    let x : Add := { channel := channelOf a, addr := a, pos := pos, wide := wide, fmt := fmt,
                     key := orderKey d.seq pass, handle := o.handle, value := BitVec.ofNat 64 v }
    { s with dram := { s.dram with adds := s.dram.adds ++ [x] } }

end Sys2Proof.Machine
end

