-- ==== Sys2Proof/Machine/Dense.lean ====
section
/-! DEFINITION. The matrix engine and COPY_CONVERT (spec 06 and 07): MATMUL, MATMUL_DGRAD, MATMUL_WGRAD, REDUCE,
COPY_CONVERT, over one accumulation rule (R158), one reduction tree (R164) and one epilogue (R165). -/

namespace Sys2Proof.Machine

-- ------------------------------------------------------------------------------------------------ accumulation

/-- The exact sum of a list of values (R134): +0 when the list is empty. -/
def exactSum : List Num → Num
  | [] => numZero
  | x :: xs => xs.foldl numAdd x

/-- One addition into the FP32 accumulator (R158): `chunk` is the chunk index of the Philox counter. -/
def round32 (site : RngSite) (code e chunk : Nat) (x : Num) : Num :=
  roundFp32 code (bitsFor { site with purpose := 1, stream := chunk % 65536 } code e) x

/-- An accumulator entry: FP32, or INT32 modulo 2³² (R157). -/
inductive Acc where
  | float (x : Num)
  | int (v : Nat)
  deriving DecidableEq, Repr

def accZero (isInt : Bool) : Acc := if isInt then .int 0 else .float numZero

/-- The bits of an entry in the accumulator buffer. -/
def accBits : Acc → Nat
  | .float x => widen .fp32 x
  | .int v => v

def accOfBits (isInt : Bool) (v : Nat) : Acc := if isInt then .int (v % 2 ^ 32) else .float (decodeNum .fp32 v)

/-- The value of an entry: an integer accumulator is two's complement. -/
def accNum : Acc → Num
  | .float x => x
  | .int v => numOfInt (signedOf 32 v)

/-- The integer of an exact integer value. -/
def numToInt (x : Num) : Int :=
  match x with
  | .fin s m e =>
    let v : Int := if e ≥ 0 then ((m <<< e.toNat : Nat) : Int) else ((m >>> (-e).toNat : Nat) : Int)
    if s then -v else v
  | _ => 0

/-- Add one chunk sum to an entry (R158, R159). -/
def accAdd (site : RngSite) (code e chunk : Nat) (a : Acc) (s : Num) : Acc :=
  match a with
  | .float x => .float (round32 site code e chunk (numAdd x s))
  | .int v => .int (unsignedOf 32 ((v : Int) + numToInt s))

/-- Local chunks `first` to `first + len − 1` of a reduction of `n` elements added in ascending chunk index, each chunk
summed exactly (R158). -/
def accChunks (site : RngSite) (code e base n first len : Nat) (term : Nat → Num) (a : Acc) : Acc :=
  (List.range len).foldl (fun a j =>
    let c := first + j
    let ks := (List.range (min 32 (n - 32 * c))).map fun i => term (32 * c + i)
    accAdd site code e (base + c) a (exactSum ks)) a

/-- One level of the tree of R164 over partials at positions 0, 1, …: the even position keeps its own partial on the
left. Each partial carries the first chunk index that it added. -/
def treeLevel (add : Nat → Acc → Acc → Acc) : List (Acc × Nat) → List (Acc × Nat)
  | a :: b :: t => (add b.2 a.1 b.1, a.2) :: treeLevel add t
  | l => l

/-- The tree of R164: `fuel` levels. -/
def treeFold (add : Nat → Acc → Acc → Acc) : Nat → List (Acc × Nat) → Option Acc
  | _, [] => none
  | _, [a] => some a.1
  | 0, a :: _ => some a.1
  | n + 1, l => treeFold add n (treeLevel add l)

/-- Combine two partial sums (R164): rounded under the accumulator code, or modulo 2³². -/
def accCombine (site : RngSite) (code e chunk : Nat) (a b : Acc) : Acc :=
  match a, b with
  | .float x, .float y => .float (round32 site code e chunk (numAdd x y))
  | .int v, .int w => .int ((v + w) % 2 ^ 32)
  | a, _ => a

-- ------------------------------------------------------------------------------------------------ the MATMUL family

def mmA (d : Desc) : Operand := opAt d 0
def mmB (d : Desc) : Operand := opAt d 0x10
def mmOut (d : Desc) : Operand := opAt d 0x20
def mmBias (d : Desc) : Operand := opAt d 0x30
def mmM (d : Desc) : Nat := b32 d 0x40
def mmN (d : Desc) : Nat := b32 d 0x44
def mmK (d : Desc) : Nat := b32 d 0x48
def mmKBase (d : Desc) : Nat := b32 d 0x4C
def mmScale (d : Desc) : Num := decodeNum .fp32 (b32 d 0x50)
def mmBM (d : Desc) : Nat := b8 d 0x54
def mmBN (d : Desc) : Nat := b8 d 0x55
def mmTA (d : Desc) : Bool := (b8 d 0x56).testBit 0
def mmTB (d : Desc) : Bool := (b8 d 0x56).testBit 1
def mmAccIn (d : Desc) : Nat := b8 d 0x57 % 4
def mmAccOut (d : Desc) : Nat := b8 d 0x57 / 4 % 4
def mmHalf (d : Desc) : Nat := b8 d 0x57 / 16 % 2
def mmWide (d : Desc) : Bool := (b8 d 0x57).testBit 5
def mmAct (d : Desc) : Nat := b8 d 0x58 % 16
def mmSplitK (d : Desc) : Nat := b8 d 0x59

def isIntCode (c : Nat) : Bool := match fmtOf c with | some f => fmtInt f | none => false

/-- An integer accumulator (Table 7-5). -/
def mmInt (d : Desc) : Bool := isIntCode (mmA d).fmt

/-- What a descriptor of the MATMUL family reads and writes. -/
def matmulUses (_ : Plan) (d : Desc) : List Use :=
  let out := mmOut d
  let n := mmM d * mmN d
  [useRead (mmA d) (mmM d * mmK d) 1, useRead (mmB d) (mmK d * mmN d) 1, useRead (mmBias d) (mmN d) 1]
    ++ (if mmAccIn d = 1 then [useRead out n 1] else [])
    ++ (match mmAccOut d with
        | 0 => [useWrite out n 1]
        | 2 => [if mmWide d then useAdd out (8 * n) 1 true else useAdd out n 1 false]
        | _ => [])

/-- A descriptor that continues the block which another keeps: ACC_IN = 2 and the same half, on spans of that block, and
dependent on it (R161, R162). -/
def continues (e x : Desc) : Bool :=
  isMatmul e.opcode && mmAccIn e == 2 && isMatmul x.opcode && mmAccOut x == 1 && mmHalf e == mmHalf x
    && (targets x).contains e.spanFirst && e.deps.any fun k => k != 0 && e.seq == x.seq + k

/-- The chain member before a descriptor (R162): the last one before it that it continues and that none before it has
continued already. That no PIER lies between is check 12's. -/
def chainPrev (p : Plan) (d : Desc) : Option Desc :=
  let before := p.descs.takeWhile fun e => decide (e.seq < d.seq)
  before.reverse.find? fun x => continues d x && !before.any fun e => continues e x

/-- The first member of the chain that a descriptor continues, traced back to one that does not itself continue. -/
def chainFirst (p : Plan) : Nat → Desc → Desc
  | 0, d => d
  | n + 1, d =>
    if mmAccIn d ≠ 2 then d
    else
      match chainPrev p d with
      | none => d
      | some x => chainFirst p n x

/-- Where block entry (row, column) of a half lies in a span's accumulator buffer (R161: halves of 65,536 entries). -/
def accKey (span half entry : Nat) : Nat := span * 0x80000 + 4 * (half * 65536 + entry)

def accRead (s : State) (isInt : Bool) (span half entry : Nat) : Acc :=
  accOfBits isInt (leNat (tabBytes s.sp.accs (accKey span half entry) 4))

def accWrite (s : State) (span half entry : Nat) (a : Acc) : State :=
  { s with sp := { s.sp with accs := tabPut s.sp.accs (accKey span half entry) (leBytes 4 (accBits a)) } }

/-- The group that owns the output block of element (m, n), and the entry of the element in the block (R163). -/
def mmBlock (d : Desc) (m n : Nat) : Nat × Nat :=
  let rows := 64 * mmBM d
  let cols := 64 * mmBN d
  let blk := m / rows * ceilDiv (mmN d) cols + n / cols
  (blk % (d.spanCount / mmSplitK d), m % rows * cols + n % cols)

/-- The span of member `j` of a group. -/
def groupSpan (d : Desc) (split g j : Nat) : Nat := d.spanFirst + (g * split + j) * d.spanStride

/-- The product term of reduction element k on a span (R155). -/
def mmTerm (s : State) (p : Plan) (d : Desc) (span m n k : Nat) : Num :=
  let a := readElem s p d.seq span (mmA d) (if mmTA d then k * mmM d + m else m * mmK d + k)
  let b := readElem s p d.seq span (mmB d) (if mmTB d then n * mmK d + k else k * mmN d + n)
  numMul a b

/-- Member j's partial sum of output element (m, n), and the first chunk index that it adds (R158, R163, R164). -/
def mmPartial (s : State) (p : Plan) (d first : Desc) (m n j : Nat) : Acc × Nat :=
  let site := siteOf p (stepT s p) d 1
  let e := elemIndex p.param (mmOut d) (m * mmN d + n)
  let blk := mmBlock d m n
  let span := groupSpan d (mmSplitK d) blk.1 j
  let part := cutPart (ceilDiv (mmK d) 32) (mmSplitK d) j
  let part0 := cutPart (ceilDiv (mmK first) 32) (mmSplitK first) j
  let init :=
    if mmAccIn d = 2 then accRead s (mmInt d) span (mmHalf d) blk.2
    else if mmAccIn d = 1 ∧ j = 0 then
      (if mmInt d then .int (readRaw s p d.seq span (mmOut d) (m * mmN d + n))
       else .float (readElem s p d.seq span (mmOut d) (m * mmN d + n)))
    else accZero (mmInt d)
  (accChunks site (accRound d) e (mmKBase d) (mmK d) part.1 part.2 (mmTerm s p d span m n) init,
   mmKBase first + part0.1)

/-- The epilogue of R165 up to its FP32 value: scale, bias, activation. -/
def epilogue (scale : Num) (bias : Option Num) (act : Nat) (a : Num) : Num :=
  let t := numMul scale a
  let t := match bias with | some b => numAdd t b | none => t
  activate act (roundFp32 0 0 t)

/-- The sum of output element (m, n) over its group (R163, R164). -/
def mmSum (s : State) (p : Plan) (d first : Desc) (m n : Nat) : Acc :=
  let site := siteOf p (stepT s p) d 1
  let e := elemIndex p.param (mmOut d) (m * mmN d + n)
  let parts := (List.range (mmSplitK d)).map (mmPartial s p d first m n)
  (treeFold (fun c => accCombine site (accRound d) e c) 5 parts).getD (accZero (mmInt d))

/-- The value of output element (m, n) before its conversion. -/
def mmValue (s : State) (p : Plan) (d first : Desc) (m n : Nat) : Num :=
  let span := groupSpan d (mmSplitK d) (mmBlock d m n).1 0
  let bias := if isNone (mmBias d) then none else some (readElem s p d.seq span (mmBias d) n)
  epilogue (mmScale d) bias (mmAct d) (accNum (mmSum s p d first m n))

/-- The elements of a row that one write takes: 32 where the output is block-scaled, else 1 (R167). -/
def runLength (o : Operand) : Nat := match fmtOf o.fmt with | some f => if fmtScaled f then 32 else 1 | none => 1

/-- The outputs of a descriptor of the MATMUL family, by ACC_OUT. Every value is computed from the state `s` before it. -/
def matmulOutputs (s : State) (p : Plan) (d : Desc) (pass : Nat) : State :=
  let first := chainFirst p d.seq d
  let out := mmOut d
  let site := siteOf p (stepT s p) d 0
  let rl := runLength out
  match mmAccOut d with
  | 1 =>
    (List.range (mmM d * mmN d)).foldl (fun t i =>
      (List.range (mmSplitK d)).foldl (fun t j =>
        let m := i / mmN d
        let n := i % mmN d
        let blk := mmBlock d m n
        accWrite t (groupSpan d (mmSplitK d) blk.1 j) (mmHalf d) blk.2 (mmPartial s p d first m n j).1) t) s
  | 2 =>
    (List.range (mmM d * mmN d)).foldl (fun t i =>
      let m := i / mmN d
      let n := i % mmN d
      if mmWide d then
        emitAdd t p d out (out.offset + 8 * i) out.fmt true pass
          (unsignedOf 64 (signedOf 32 (accBits (mmSum s p d first m n))))
      else
        match fmtOf out.fmt with
        | none => t
        | some f =>
          let l := elemBit p.param out i
          let e := elemIndex p.param out i
          emitAdd t p d out (l.1 / 8).toNat out.fmt false pass
            (narrow f (outRound d) (bitsFor site (outRound d) e) false (mmValue s p d first m n))) s
  | _ =>
    let t := (List.range (mmM d * mmN d / rl)).foldl (fun t r =>
      let i := r * rl
      let span := groupSpan d (mmSplitK d) (mmBlock d (i / mmN d) (i % mmN d)).1 0
      let xs := (List.range rl).map fun j => mmValue s p d first ((i + j) / mmN d) ((i + j) % mmN d)
      writeRun t p span out i site (outRound d) (elemIndex p.param out) false xs) s
    padOutput t p d out (mmM d * mmN d)

/-- R161: a descriptor with ACC_OUT = 1 keeps its block resident in its half on each target span; the one that consumes it
without keeping it releases the half. -/
def noteResident (s : State) (d : Desc) : State :=
  let v := if mmAccOut d = 1 then d.seq else 0
  if mmAccOut d = 1 ∨ mmAccIn d = 2 then
    { s with sp := { s.sp with resid := (targets d).foldl (fun t x => tabSet 0 t (2 * x + mmHalf d) v) s.sp.resid } }
  else s

/-- R155 to R168: a whole descriptor of the MATMUL family. -/
def matmulRun (s : State) (p : Plan) (d : Desc) (pass : Nat) : State :=
  noteResident (matmulOutputs s p d pass) d

def execMatmul (seq pass : Nat) (s : State) : Host.Outcome State Fault Refusal :=
  .next (operate [opMatmul] seq pass (fun _ p d _ => matmulUses p d) matmulRun s)

def execMatmulDgrad (seq pass : Nat) (s : State) : Host.Outcome State Fault Refusal :=
  .next (operate [opDgrad] seq pass (fun _ p d _ => matmulUses p d) matmulRun s)

def execMatmulWgrad (seq pass : Nat) (s : State) : Host.Outcome State Fault Refusal :=
  .next (operate [opWgrad] seq pass (fun _ p d _ => matmulUses p d) matmulRun s)

-- ------------------------------------------------------------------------------------------------ REDUCE

def rdSrc (d : Desc) : Operand := opAt d 0
def rdDst (d : Desc) : Operand := opAt d 0x10
def rdIdx (d : Desc) : Operand := opAt d 0x20
def rdOuter (d : Desc) : Nat := b32 d 0x30
def rdAxis (d : Desc) : Nat := b32 d 0x34
def rdInner (d : Desc) : Nat := b32 d 0x38
def rdOp (d : Desc) : Nat := b8 d 0x3C
def rdSplit (d : Desc) : Nat := b8 d 0x3D

def reduceUses (_ : Plan) (d : Desc) : List Use :=
  let n := rdOuter d * rdInner d
  [useRead (rdSrc d) (n * rdAxis d) 1, useWrite (rdDst d) n 1, useWrite (rdIdx d) n 1]

/-- The winner of two values with their places (R172): the first NaN, else the better value, the earlier on a tie. -/
def winner (isMax : Bool) (a b : Num × Nat) : Num × Nat :=
  if numIsNan a.1 then a
  else if numIsNan b.1 then b
  else if (if isMax then numLt a.1 b.1 else numLt b.1 a.1) then b
  else a

/-- Element (o, t, i) of a tensor viewed as [OUTER][AXIS][INNER]. -/
def axisIndex (axis inner o t i : Nat) : Nat := (o * axis + t) * inner + i

/-- The sum of one output of REDUCE over the members of its group (R171, R173). -/
def reduceSum (s : State) (p : Plan) (d : Desc) (i : Nat) : Num :=
  let site := siteOf p (stepT s p) d 1
  let e := elemIndex p.param (rdDst d) i
  let isInt := isIntCode (rdSrc d).fmt
  let g := i % (d.spanCount / rdSplit d)
  let parts := (List.range (rdSplit d)).map fun j =>
    let part := cutPart (ceilDiv (rdAxis d) 32) (rdSplit d) j
    let span := groupSpan d (rdSplit d) g j
    let term := fun k =>
      let x := readElem s p d.seq span (rdSrc d) (axisIndex (rdAxis d) (rdInner d) (i / rdInner d) k (i % rdInner d))
      if rdOp d = 1 then numMul x x else x
    (accChunks site (accRound d) e 0 (rdAxis d) part.1 part.2 term (accZero isInt), part.1)
  accNum ((treeFold (fun c => accCombine site (accRound d) e c) 5 parts).getD (accZero isInt))

/-- The span of the group member whose part holds place `k` of the axis (R173). -/
def axisSpan (d : Desc) (i k : Nat) : Nat :=
  let cut := cutPart (ceilDiv (rdAxis d) 32) (rdSplit d)
  let j := ((List.range (rdSplit d)).find? fun j => decide (k < 32 * ((cut j).1 + (cut j).2))).getD 0
  groupSpan d (rdSplit d) (i % (d.spanCount / rdSplit d)) j

/-- The winner of one output of REDUCE: each member reads its part of the axis. Every SPLIT gives the same (R173), so the
places are compared in ascending order. -/
def reduceWinner (s : State) (p : Plan) (d : Desc) (i : Nat) : Num × Nat :=
  let xs := (List.range (rdAxis d)).map fun k =>
    (readElem s p d.seq (axisSpan d i k) (rdSrc d) (axisIndex (rdAxis d) (rdInner d) (i / rdInner d) k (i % rdInner d)), k)
  match xs with
  | [] => (numZero, 0)
  | x :: t => t.foldl (winner (rdOp d == 2)) x

/-- R170 to R173. A bank SRC, DST or IDX holds the whole dense operand on each span; a block of a block-scaled bank DST is
written on the span of its first element's group (DESIGN CHOICE, assumption 228). -/
def reduceRun (s : State) (p : Plan) (d : Desc) (_ : Nat) : State :=
  let site := siteOf p (stepT s p) d 0
  let dst := rdDst d
  let n := rdOuter d * rdInner d
  let rl := runLength dst
  let value := fun i => if rdOp d < 2 then reduceSum s p d i else (reduceWinner s p d i).1
  let spanOf := fun i => groupSpan d (rdSplit d) (i % (d.spanCount / rdSplit d)) 0
  let t := (List.range (n / rl)).foldl (fun t r =>
    let i := r * rl
    writeRun t p (spanOf i) dst i site (outRound d) (elemIndex p.param dst) false
      ((List.range rl).map fun j => value (i + j))) s
  let t := padOutput t p d dst n
  if isNone (rdIdx d) then t
  else
    (List.range n).foldl (fun t i => writeRaw t p (spanOf i) (rdIdx d) i (reduceWinner s p d i).2) t

def execReduce (seq pass : Nat) (s : State) : Host.Outcome State Fault Refusal :=
  .next (operate [opReduce] seq pass (fun _ p d _ => reduceUses p d) reduceRun s)

-- ------------------------------------------------------------------------------------------------ COPY_CONVERT

def ccSrc (d : Desc) : Operand := opAt d 0
def ccDst (d : Desc) : Operand := opAt d 0x10
def ccCount (d : Desc) : Nat := b64 d 0x20
def ccScale (d : Desc) : Num := decodeNum .fp32 (b32 d 0x28)
def ccNonsat (d : Desc) : Bool := (b8 d 0x2C).testBit 0

def isScaledCode (c : Nat) : Bool := match fmtOf c with | some f => fmtScaled f | none => false

/-- The elements that move together: blocks of 32 where either format is block-scaled (R150). -/
def ccUnit (d : Desc) : Nat := if isScaledCode (ccSrc d).fmt || isScaledCode (ccDst d).fmt then 32 else 1

/-- The run of target position j: first element and count (R150: contiguous runs of whole blocks). -/
def ccRunOf (d : Desc) (j : Nat) : Nat × Nat :=
  let u := ccUnit d
  let c := cutPart (ceilDiv (ccCount d) u) d.spanCount j
  (c.1 * u, min (c.2 * u) (ccCount d - c.1 * u))

def copyConvertUses (_ : Plan) (d : Desc) : List Use :=
  let own := (ccRunOf d 0).2
  [useRead (ccSrc d) (if isBank (ccSrc d) then own else ccCount d) 0,
   useWrite (ccDst d) (if isBank (ccDst d) then own else ccCount d) 0]

/-- The rounding code of the conversion: a SCALE of 1.0 with a pair of Table 6-2 widens without rounding (R150), which
flushes a value below 2⁻¹²⁶ to a zero in FP32, as code 1 does (R138). -/
def ccCode (d : Desc) : Nat :=
  match fmtOf (ccSrc d).fmt, fmtOf (ccDst d).fmt with
  | some f, some g => if b32 d 0x28 = 0x3F800000 && isWidening f g then 1 else outRound d
  | _, _ => outRound d

/-- R150: each element is read, scaled exactly and rounded once. A bank operand is indexed from the first element of the
span's own run (DESIGN CHOICE, assumption 50, as R233 has it for vector programs). -/
def copyConvertRun (s : State) (p : Plan) (d : Desc) (_ : Nat) : State :=
  let site := siteOf p (stepT s p) d 0
  let src := ccSrc d
  let dst := ccDst d
  let rl := runLength dst
  let t := (List.range d.spanCount).foldl (fun t j =>
    let run := ccRunOf d j
    let span := d.spanFirst + j * d.spanStride
    let sOff := if isBank src then 0 else run.1
    let dOff := if isBank dst then 0 else run.1
    (List.range (run.2 / rl)).foldl (fun t r =>
      let xs := (List.range rl).map fun k => numMul (readElem s p d.seq span src (sOff + r * rl + k)) (ccScale d)
      let e := fun i => if isBank dst then d.base + run.1 + i else elemIndex p.param dst i
      writeRun t p span dst (dOff + r * rl) site (ccCode d) e (ccNonsat d) xs)
      (if isBank dst then padScales t p span dst run.2 else t)) s
  if isBank dst then t else padScales t p d.spanFirst dst (ccCount d)

def execCopyConvert (seq pass : Nat) (s : State) : Host.Outcome State Fault Refusal :=
  .next (operate [opCopyConvert] seq pass (fun _ p d _ => copyConvertUses p d) copyConvertRun s)

end Sys2Proof.Machine
end

