-- ==== Sys2Proof/Machine/Vector.lean ====
section
/-! DEFINITION. The vector engine (R231 to R239): registers, lanes, the instructions of Table 11-3, and VEC_PROGRAM. Each
instruction has one meaning over a span's engine; a row of the table runs it and moves the engine to its next
instruction, and VEC_PROGRAM runs the program's words through the same meanings. -/

namespace Sys2Proof.Machine

-- ------------------------------------------------------------------------------------------------ registers

def vecOf (s : State) (span : Nat) : VecEngine := tabGet VecEngine.reset s.sp.vec span

def setVec (s : State) (span : Nat) (e : VecEngine) : State :=
  { s with sp := { s.sp with vec := tabSet VecEngine.reset s.sp.vec span e } }

/-- The lane format of a code; FP32 where the code has none (no validated program holds one). -/
def laneFmt (c : Nat) : Fmt := (fmtOf c).getD .fp32

/-- Bytes of a lane. -/
def laneWidth (f : Fmt) : Nat := fmtBits f / 8

/-- Lanes that a register holds in a format (R231). -/
def laneCount (f : Fmt) : Nat := 256 / max 1 (laneWidth f)

/-- A lane's bits as an engine writes them: FP32 subnormals are signed zeros (R138), every NaN is the canonical one (R134). -/
def cleanLane (f : Fmt) (b : Nat) : Nat :=
  match f with
  | .int8 | .int4 | .int32 => b
  | f => widen f (decodeNum f b)

/-- The bits of lane `i` of a register as it holds them. -/
def rawLane (e : VecEngine) (r : Nat) (f : Fmt) (i : Nat) : Nat :=
  leNat (tabBytes e.regs (r * 256 + i * laneWidth f) (laneWidth f))

/-- The bits of lane `i` of a register read in a format: bit for bit (R231), but that an FP32 subnormal is read as the zero of
its sign (R138). -/
def laneBits (e : VecEngine) (r : Nat) (f : Fmt) (i : Nat) : Nat :=
  let b := rawLane e r f i
  if f = .fp32 ∧ b % 2 ^ 31 < 2 ^ 23 then b - b % 2 ^ 31 else b

/-- The value of a lane. -/
def laneNum (e : VecEngine) (r : Nat) (f : Fmt) (i : Nat) : Num := decodeNum f (laneBits e r f i)

/-- A lane read as INT32 (PERM, SEL, SEGPSUM): a register holds 64 of them. -/
def laneInt32 (e : VecEngine) (r i : Nat) : Int :=
  if i < 64 then signedOf 32 (laneBits e r .int32 i) else (Config.laneBeyond r i).toInt

/-- The lanes that an instruction acts on (R231). -/
def activeLanes (e : VecEngine) (f : Fmt) : Nat := min e.vl (laneCount f)

/-- Write a whole register: the given lanes, zero above them (R231). -/
def putReg (e : VecEngine) (vd : Nat) (f : Fmt) (lanes : List Nat) : VecEngine :=
  let bytes := (lanes.flatMap (leBytes (laneWidth f))).take 256
  { e with regs := tabPut e.regs (vd * 256) (bytes ++ zeros (256 - bytes.length)) }

/-- Write every active lane of VD by a function of the lane index. -/
def mapLanes (e : VecEngine) (vd : Nat) (f : Fmt) (g : Nat → Nat) : VecEngine :=
  putReg e vd f ((List.range (activeLanes e f)).map fun i => cleanLane f (g i))

/-- Write some lanes of VD, keep the other lanes below VL, and zero those at and above VL (R231). -/
def someLanes (e : VecEngine) (vd : Nat) (f : Fmt) (ls : List (Nat × Nat)) : VecEngine :=
  let n := max (activeLanes e f) (ls.foldl (fun m l => max m (l.1 + 1)) 0)
  putReg e vd f ((List.range n).map fun i =>
    match ls.find? (fun l => l.1 == i) with
    | some l => l.2
    | none => if i < activeLanes e f then rawLane e vd f i else 0)

-- ------------------------------------------------------------------------------------------------ the program

def vpOperand (d : Desc) (k : Nat) : Operand := opAt d (0x10 * k)
def vpProgram (d : Desc) : Nat := b32 d 0x50
def vpLength (d : Desc) : Nat := b8 d 0x54
def vpLoop (d : Desc) : Nat := b8 d 0x55
def vpStrip (d : Desc) : Nat := b16 d 0x56
def vpCount (d : Desc) : Nat := b64 d 0x58

/-- Strips of the tensor, and those of target position j (R233). -/
def vpStrips (d : Desc) : Nat := ceilDiv (vpCount d) (vpStrip d)
def vpRun (d : Desc) (j : Nat) : Nat × Nat := cutPart (vpStrips d) d.spanCount j

/-- Elements of target position j's own run. -/
def vpRunElems (d : Desc) (j : Nat) : Nat :=
  let r := vpRun d j
  min (r.2 * vpStrip d) (vpCount d - r.1 * vpStrip d)

/-- The fields of an instruction word (Table 11-2) on a span, and its OP. -/
def vecWordOp (w : Nat) : Nat := bitsOf w 63 56

def vecWordArgs (span w : Nat) : VecArgs :=
  { span := span, vd := bitsOf w 55 51, va := bitsOf w 50 46, vb := bitsOf w 45 41, fmt := bitsOf w 40 37,
    rnd := bitsOf w 36 35, opd := BitVec.ofNat 32 w }

/-- Word `i` of the program of a descriptor (R232). -/
def vecWord (p : Plan) (d : Desc) (i : Nat) : Nat := fieldAt p.param (vpProgram d + 8 * i) 8

/-- The program that a span's engine runs. -/
def vecProg (s : State) (span : Nat) : Option (Plan × Desc) :=
  match s.ks.plan with
  | none => none
  | some p =>
    match descAt p (vecOf s span).seq with
    | some d =>
      let k := match issuedOf s d.seq with | some i => i.passesRun.length | none => 0
      if d.opcode = opVecProgram then some (p, partDesc p d k) else none
    | none => none

/-- The rounding site of P = 2 on a span (R236); all zero where no program runs. -/
def vecSite (s : State) (span : Nat) : RngSite :=
  match vecProg s span with
  | some (p, d) => siteOf p (stepT s p) d 2
  | none => ⟨0, 2, 0, 0, 0⟩

/-- Element index of lane `i` of the present strip (strip start + i). -/
def vecElem (s : State) (span i : Nat) : Nat :=
  match vecProg s span with
  | some (_, d) => d.base + (vecOf s span).strip * vpStrip d + i
  | none => i

/-- The 16 bits of a rounding of lane `i` (R236). -/
def vecRandom (s : State) (a : VecArgs) (i : Nat) : Nat :=
  rngBits (vecSite s a.span) (2 ^ 47 + 64 * vecElem s a.span i + (vecOf s a.span).index)

/-- The bits of a rounding under an instruction's RND. -/
def vecBits (s : State) (a : VecArgs) (i : Nat) : Nat := if a.rnd = 2 then vecRandom s a i else 0

/-- Change a span's engine. -/
def vecUpd (s : State) (a : VecArgs) (f : VecEngine → VecEngine) : State := setVec s a.span (f (vecOf s a.span))

/-- VC, the third source register. -/
def vcOf (a : VecArgs) : Nat := a.opd.toNat % 32

/-- An FP32 result of a lane, rounded under RND, or an INT32 result modulo 2³². -/
def vecArith (s : State) (a : VecArgs) (i : Nat) (fl : Num) (iv : Int) : Nat :=
  match laneFmt a.fmt with
  | .fp32 => narrow .fp32 a.rnd (vecBits s a i) false fl
  | f => unsignedOf (fmtBits f) iv

/-- A lane-wise operation of two sources, over values and over integers. -/
def vecBin (s : State) (a : VecArgs) (fl : Num → Num → Num) (iv : Int → Int → Int) : State :=
  let f := laneFmt a.fmt
  let e := vecOf s a.span
  vecUpd s a fun e' => mapLanes e' a.vd f fun i =>
    vecArith s a i (fl (laneNum e a.va f i) (laneNum e a.vb f i))
      (iv (signedOf (fmtBits f) (laneBits e a.va f i)) (signedOf (fmtBits f) (laneBits e a.vb f i)))

/-- A lane-wise operation of one source and the immediate, read as FP32 or as INT32 (ADDI, MULI). -/
def vecImm (s : State) (a : VecArgs) (fl : Num → Num → Num) (iv : Int → Int → Int) : State :=
  let f := laneFmt a.fmt
  let e := vecOf s a.span
  vecUpd s a fun e' => mapLanes e' a.vd f fun i =>
    vecArith s a i (fl (laneNum e a.va f i) (decodeNum .fp32 a.opd.toNat))
      (iv (signedOf (fmtBits f) (laneBits e a.va f i)) (signedOf 32 a.opd.toNat))

/-- A lane-wise operation of one source on FP32 values, already rounded, or on integers (ABS, NEG and the fixed
functions). -/
def vecUn (s : State) (a : VecArgs) (fl : Num → Num) (iv : Int → Int) : State :=
  let f := laneFmt a.fmt
  let e := vecOf s a.span
  vecUpd s a fun e' => mapLanes e' a.vd f fun i =>
    match f with
    | .fp32 => widen .fp32 (fl (laneNum e a.va f i))
    | f => unsignedOf (fmtBits f) (iv (signedOf (fmtBits f) (laneBits e a.va f i)))

/-- A lane-wise operation on bits. -/
def vecBitwise (s : State) (a : VecArgs) (g : Nat → Nat → Nat) : State :=
  let f := laneFmt a.fmt
  let e := vecOf s a.span
  vecUpd s a fun e' => mapLanes e' a.vd f fun i =>
    g (laneBits e a.va f i) (laneBits e a.vb f i) % 2 ^ fmtBits f

/-- A comparison, written as INT32 lanes (a register holds 64 of them). -/
def vecCompare (s : State) (a : VecArgs) (c : Num → Num → Bool) : State :=
  let f := laneFmt a.fmt
  let e := vecOf s a.span
  vecUpd s a fun e' => putReg e' a.vd .int32 ((List.range (min (activeLanes e f) 64)).map fun i =>
    if c (laneNum e a.va f i) (laneNum e a.vb f i) then 1 else 0)

/-- The better of two values, NaN winning and the first kept on a tie (MIN, MAX). -/
def pick (isMax : Bool) (x y : Num) : Num := (winner isMax (x, 0) (y, 1)).1

-- ------------------------------------------------------------------------------------------------ the instructions

def vecNopRun (s : State) (_ : VecArgs) : State := s

/-- SETVL: VL = min(OPD, strip VL); 0 restores the strip VL. -/
def setvlRun (s : State) (a : VecArgs) : State :=
  vecUpd s a fun e => { e with vl := if a.opd = 0 then e.stripVl else min a.opd.toNat e.stripVl }

def iotaRun (s : State) (a : VecArgs) : State :=
  vecUpd s a fun e => mapLanes e a.vd (laneFmt a.fmt) fun i => i % 2 ^ fmtBits (laneFmt a.fmt)

def moviRun (s : State) (a : VecArgs) : State :=
  vecUpd s a fun e => mapLanes e a.vd (laneFmt a.fmt) fun _ => a.opd.toNat % 2 ^ fmtBits (laneFmt a.fmt)

/-- Where element i of the present strip lies in a stream of a span: buffers are indexed by the delivery order, banks
from the first element of the span's own run (R233). -/
def vecPos (s : State) (span : Nat) (d : Desc) (o : Operand) (i : Nat) : Nat :=
  vecElem s span i - d.base - (if isBank o then (vecOf s span).first * vpStrip d else 0)

/-- A value widened exactly to a lane format (R236). A block-scaled value beyond the range of FP32 has no exact widening and
the manual states none: a free value. -/
def widenLane (f : Fmt) : Num → Nat
  | .fin g m e =>
    if f = .fp32 ∧ m ≠ 0 ∧ 128 ≤ (m.log2 : Int) + e then (Config.fp32Beyond g m e).toNat else widen f (.fin g m e)
  | x => widen f x

/-- LD: elements of input OPD[1:0], widened exactly to FMT (R236). -/
def ldRun (s : State) (a : VecArgs) : State :=
  match vecProg s a.span with
  | none => s
  | some (p, d) =>
    let o := vpOperand d (a.opd.toNat % 4)
    let f := laneFmt a.fmt
    vecUpd s a fun e => mapLanes e a.vd f fun i => widenLane f (readElem s p d.seq a.span o (vecPos s a.span d o i))

/-- ST: elements of output OPD[0], converted by R140 to R142 (R236). -/
def stRun (s : State) (a : VecArgs) : State :=
  match vecProg s a.span with
  | none => s
  | some (p, d) =>
    let o := vpOperand d (3 + a.opd.toNat % 2)
    let f := laneFmt a.fmt
    let e := vecOf s a.span
    let n := activeLanes e f
    let xs := (List.range n).map fun i => laneNum e a.va f i
    let start := vecPos s a.span d o 0
    let idx := fun i => if isBank o then vecElem s a.span 0 + (i - start) else elemIndex p.param o i
    let code := match fmtOf o.fmt with | some g => if isWidening f g then 1 else a.rnd | none => a.rnd
    writeRun s p a.span o start (vecSite s a.span) code idx false xs

def randRun (s : State) (a : VecArgs) : State :=
  vecUpd s a fun e => mapLanes e a.vd (laneFmt a.fmt) fun i => vecRandom s a i

def addRun (s : State) (a : VecArgs) : State := vecBin s a numAdd (· + ·)
def subRun (s : State) (a : VecArgs) : State := vecBin s a numSub (· - ·)
def mulRun (s : State) (a : VecArgs) : State := vecBin s a numMul (· * ·)

/-- FMA: VA × VB + VC, one rounding. -/
def fmaRun (s : State) (a : VecArgs) : State :=
  let f := laneFmt a.fmt
  let e := vecOf s a.span
  vecUpd s a fun e' => mapLanes e' a.vd f fun i =>
    vecArith s a i (numAdd (numMul (laneNum e a.va f i) (laneNum e a.vb f i)) (laneNum e (vcOf a) f i))
      (signedOf (fmtBits f) (laneBits e a.va f i) * signedOf (fmtBits f) (laneBits e a.vb f i)
        + signedOf (fmtBits f) (laneBits e (vcOf a) f i))

def minRun (s : State) (a : VecArgs) : State := vecBin s a (pick false) min
def maxRun (s : State) (a : VecArgs) : State := vecBin s a (pick true) max
def absRun (s : State) (a : VecArgs) : State := vecUn s a numAbs (fun z => (z.natAbs : Int))
def negRun (s : State) (a : VecArgs) : State := vecUn s a numNeg (fun z => -z)
def addiRun (s : State) (a : VecArgs) : State := vecImm s a numAdd (· + ·)
def muliRun (s : State) (a : VecArgs) : State := vecImm s a numMul (· * ·)
def exp2Run (s : State) (a : VecArgs) : State := vecUn s a exp2_32 id
def log2Run (s : State) (a : VecArgs) : State := vecUn s a log2_32 id
def rsqrtRun (s : State) (a : VecArgs) : State := vecUn s a rsqrt32 id
def rcpRun (s : State) (a : VecArgs) : State := vecUn s a rcp32 id
def andRun (s : State) (a : VecArgs) : State := vecBitwise s a Nat.land
def orRun (s : State) (a : VecArgs) : State := vecBitwise s a Nat.lor
def xorRun (s : State) (a : VecArgs) : State := vecBitwise s a Nat.xor
def xoriRun (s : State) (a : VecArgs) : State := vecBitwise s a fun x _ => Nat.xor x a.opd.toNat
def shlRun (s : State) (a : VecArgs) : State := vecBitwise s a fun x _ => x <<< (a.opd.toNat % 32)

/-- ASHR: shifted right by OPD[4:0], the sign copied. -/
def ashrRun (s : State) (a : VecArgs) : State :=
  let w := fmtBits (laneFmt a.fmt)
  vecBitwise s a fun x _ => unsignedOf w (signedOf w x / 2 ^ (a.opd.toNat % 32))

def cmpeqRun (s : State) (a : VecArgs) : State := vecCompare s a numEq
def cmpltRun (s : State) (a : VecArgs) : State := vecCompare s a numLt
def cmpleRun (s : State) (a : VecArgs) : State := vecCompare s a numLe

/-- SEL: VA where VC as INT32 is nonzero, else VB. -/
def selRun (s : State) (a : VecArgs) : State :=
  let f := laneFmt a.fmt
  let e := vecOf s a.span
  vecUpd s a fun e' => mapLanes e' a.vd f fun i =>
    if laneInt32 e (vcOf a) i ≠ 0 then laneBits e a.va f i else laneBits e a.vb f i

/-- CVT: VA read in format OPD[3:0], converted to FMT; the pairs of Table 6-2 widen exactly (R236). -/
def cvtRun (s : State) (a : VecArgs) : State :=
  let f := laneFmt a.fmt
  let g := laneFmt (a.opd.toNat % 16)
  let e := vecOf s a.span
  vecUpd s a fun e' => putReg e' a.vd f ((List.range (min (activeLanes e f) (laneCount g))).map fun i =>
    narrow f (if isWidening g f then 1 else a.rnd) (vecBits s a i) false (laneNum e a.va g i))

/-- R238: a named lane out of range writes zero and sets LANE_RANGE, keeping the first place. -/
def noteLane (e : VecEngine) (out : Bool) : VecEngine :=
  if out then
    { e with lane := true, laneAt := match e.laneAt with | some x => some x | none => some (e.index, e.strip) }
  else e

/-- PERM: VD[i] = VA[VB[i]]. -/
def permRun (s : State) (a : VecArgs) : State :=
  let f := laneFmt a.fmt
  let e := vecOf s a.span
  let ok := fun i => decide (0 ≤ laneInt32 e a.vb i) && decide (laneInt32 e a.vb i < (e.vl : Int))
  vecUpd s a fun e' =>
    noteLane (mapLanes e' a.vd f fun i => if ok i then laneBits e a.va f (laneInt32 e a.vb i).toNat else 0)
      ((List.range (activeLanes e f)).any fun i => !ok i)

/-- BCAST: VD[i] = VA[OPD]. -/
def bcastRun (s : State) (a : VecArgs) : State :=
  let f := laneFmt a.fmt
  let e := vecOf s a.span
  let ok := decide (a.opd.toNat < e.vl)
  vecUpd s a fun e' =>
    noteLane (mapLanes e' a.vd f fun _ => if ok then laneBits e a.va f a.opd.toNat else 0) (!ok)

def slideupRun (s : State) (a : VecArgs) : State :=
  let f := laneFmt a.fmt
  let e := vecOf s a.span
  vecUpd s a fun e' => mapLanes e' a.vd f fun i =>
    if a.opd.toNat ≤ i then laneBits e a.va f (i - a.opd.toNat) else 0

def slidednRun (s : State) (a : VecArgs) : State :=
  let f := laneFmt a.fmt
  let e := vecOf s a.span
  vecUpd s a fun e' => mapLanes e' a.vd f fun i =>
    if i + a.opd.toNat < e.vl then laneBits e a.va f (i + a.opd.toNat) else 0

/-- One addition of a reduction or prefix sum, of lane bits, rounded under RND with the bits of lane `i`. -/
def vecAddBits (s : State) (a : VecArgs) (i x y : Nat) : Nat :=
  let f := laneFmt a.fmt
  vecArith s a i (numAdd (decodeNum f x) (decodeNum f y)) (signedOf (fmtBits f) x + signedOf (fmtBits f) y)

/-- One level of the tree of R164 over lanes: pairs (lane of the leftmost leaf, bits). The random bits of an addition
are those of the right-hand lane, as R164 takes the right-hand member's (DEDUCED, assumption 56). -/
def laneLevel (s : State) (a : VecArgs) : List (Nat × Nat) → List (Nat × Nat)
  | x :: y :: t => (x.1, vecAddBits s a y.1 x.2 y.2) :: laneLevel s a t
  | l => l

def laneTree (s : State) (a : VecArgs) : Nat → List (Nat × Nat) → Nat
  | _, [] => 0
  | _, [x] => x.2
  | 0, x :: _ => x.2
  | n + 1, l => laneTree s a n (laneLevel s a l)

/-- RSUM: VD[0] = the tree sum (R237). -/
def rsumRun (s : State) (a : VecArgs) : State :=
  let f := laneFmt a.fmt
  let e := vecOf s a.span
  let ls := (List.range (activeLanes e f)).map fun i => (i, laneBits e a.va f i)
  vecUpd s a fun e' => someLanes e' a.vd f [(0, laneTree s a 8 ls)]

/-- RMAX and RMIN: the winner's value and lane (R237, R172). -/
def extremeRun (isMax : Bool) (s : State) (a : VecArgs) : State :=
  let f := laneFmt a.fmt
  let e := vecOf s a.span
  let xs := (List.range (activeLanes e f)).map fun i => (laneNum e a.va f i, i)
  match xs with
  | [] => s
  | x :: t =>
    let w := t.foldl (winner isMax) x
    vecUpd s a fun e' => someLanes e' a.vd f [(0, widen f w.1), (1, w.2)]

def rmaxRun (s : State) (a : VecArgs) : State := extremeRun true s a
def rminRun (s : State) (a : VecArgs) : State := extremeRun false s a

/-- Running values over lanes `i`, `i` + 1, …: each from the one before (R237). -/
def prefixLanes (g : Nat → Nat → Nat) : Nat → Nat → Nat → List Nat
  | 0, _, _ => []
  | n + 1, i, y => let z := g i y; z :: prefixLanes g n (i + 1) z

/-- PSUM: y₀ = VC[0] + VA[0], yᵢ = yᵢ₋₁ + VA[i]. -/
def psumRun (s : State) (a : VecArgs) : State :=
  let f := laneFmt a.fmt
  let e := vecOf s a.span
  vecUpd s a fun e' => putReg e' a.vd f
    (prefixLanes (fun i y => vecAddBits s a i y (laneBits e a.va f i)) (activeLanes e f) 0 (laneBits e (vcOf a) f 0))

/-- PMAX: NaN persists. -/
def pmaxRun (s : State) (a : VecArgs) : State :=
  let f := laneFmt a.fmt
  let e := vecOf s a.span
  vecUpd s a fun e' => putReg e' a.vd f
    (prefixLanes (fun i y => widen f (pick true (decodeNum f y) (laneNum e a.va f i))) (activeLanes e f) 0
      (laneBits e (vcOf a) f 0))

/-- SEGPSUM: as PSUM, restarting with VA[i], unrounded, where VB[i] is nonzero. -/
def segpsumRun (s : State) (a : VecArgs) : State :=
  let f := laneFmt a.fmt
  let e := vecOf s a.span
  vecUpd s a fun e' => putReg e' a.vd f
    (prefixLanes (fun i y =>
      if laneInt32 e a.vb i ≠ 0 then widen f (laneNum e a.va f i) else vecAddBits s a i y (laneBits e a.va f i))
      (activeLanes e f) 0 (laneBits e (vcOf a) f 0))

-- ------------------------------------------------------------------------------------------------ the sequence

/-- The vector length of strip k (R233). -/
def stripLen (d : Desc) (k : Nat) : Nat := min (vpStrip d) (vpCount d - k * vpStrip d)

/-- Go to the next instruction: after the last of the loop body, to the next strip of the span's run (R233). -/
def vecAdvance (s : State) (span : Nat) : State :=
  let e := vecOf s span
  match vecProg s span with
  | none => s
  | some (_, d) =>
    if e.index + 1 < vpLength d then
      setVec s span (if e.index + 1 = vpLoop d then { e with index := e.index + 1, vl := e.stripVl }
                     else { e with index := e.index + 1 })
    else
      let j := (span - d.spanFirst) / d.spanStride
      let r := vpRun d j
      if e.strip + 1 < r.1 + r.2 then
        let v := stripLen d (e.strip + 1)
        setVec s span { e with index := vpLoop d, strip := e.strip + 1, vl := v, stripVl := v }
      else setVec s span { e with index := vpLength d }

/-- One row of Table 11-3 on a span's engine. -/
def vecRow (f : State → VecArgs → State) (a : VecArgs) (s : State) : Host.Outcome State Fault Refusal :=
  .next (vecAdvance (f s a) a.span)

/-- Table 11-3 by OP. -/
def vecTable (op : Nat) : Option (State → VecArgs → State) :=
  match op with
  | 0x00 => some vecNopRun | 0x01 => some setvlRun | 0x02 => some iotaRun | 0x03 => some moviRun
  | 0x04 => some ldRun | 0x05 => some stRun | 0x06 => some randRun
  | 0x10 => some addRun | 0x11 => some subRun | 0x12 => some mulRun | 0x13 => some fmaRun
  | 0x14 => some minRun | 0x15 => some maxRun | 0x16 => some absRun | 0x17 => some negRun
  | 0x18 => some addiRun | 0x19 => some muliRun
  | 0x20 => some exp2Run | 0x21 => some log2Run | 0x22 => some rsqrtRun | 0x23 => some rcpRun
  | 0x28 => some andRun | 0x29 => some orRun | 0x2A => some xorRun | 0x2B => some xoriRun
  | 0x2C => some shlRun | 0x2D => some ashrRun
  | 0x30 => some cmpeqRun | 0x31 => some cmpltRun | 0x32 => some cmpleRun | 0x33 => some selRun
  | 0x38 => some cvtRun
  | 0x40 => some permRun | 0x41 => some bcastRun | 0x42 => some slideupRun | 0x43 => some slidednRun
  | 0x48 => some rsumRun | 0x49 => some rmaxRun | 0x4A => some rminRun
  | 0x50 => some psumRun | 0x51 => some pmaxRun | 0x52 => some segpsumRun
  | _ => none

def execVecNop (a : VecArgs) (s : State) : Host.Outcome State Fault Refusal := vecRow vecNopRun a s
def execSetvl (a : VecArgs) (s : State) : Host.Outcome State Fault Refusal := vecRow setvlRun a s
def execIota (a : VecArgs) (s : State) : Host.Outcome State Fault Refusal := vecRow iotaRun a s
def execMovi (a : VecArgs) (s : State) : Host.Outcome State Fault Refusal := vecRow moviRun a s
def execLd (a : VecArgs) (s : State) : Host.Outcome State Fault Refusal := vecRow ldRun a s
def execSt (a : VecArgs) (s : State) : Host.Outcome State Fault Refusal := vecRow stRun a s
def execRand (a : VecArgs) (s : State) : Host.Outcome State Fault Refusal := vecRow randRun a s
def execAdd (a : VecArgs) (s : State) : Host.Outcome State Fault Refusal := vecRow addRun a s
def execSub (a : VecArgs) (s : State) : Host.Outcome State Fault Refusal := vecRow subRun a s
def execMul (a : VecArgs) (s : State) : Host.Outcome State Fault Refusal := vecRow mulRun a s
def execFma (a : VecArgs) (s : State) : Host.Outcome State Fault Refusal := vecRow fmaRun a s
def execMin (a : VecArgs) (s : State) : Host.Outcome State Fault Refusal := vecRow minRun a s
def execMax (a : VecArgs) (s : State) : Host.Outcome State Fault Refusal := vecRow maxRun a s
def execAbs (a : VecArgs) (s : State) : Host.Outcome State Fault Refusal := vecRow absRun a s
def execNeg (a : VecArgs) (s : State) : Host.Outcome State Fault Refusal := vecRow negRun a s
def execAddi (a : VecArgs) (s : State) : Host.Outcome State Fault Refusal := vecRow addiRun a s
def execMuli (a : VecArgs) (s : State) : Host.Outcome State Fault Refusal := vecRow muliRun a s
def execExp2 (a : VecArgs) (s : State) : Host.Outcome State Fault Refusal := vecRow exp2Run a s
def execLog2 (a : VecArgs) (s : State) : Host.Outcome State Fault Refusal := vecRow log2Run a s
def execRsqrt (a : VecArgs) (s : State) : Host.Outcome State Fault Refusal := vecRow rsqrtRun a s
def execRcp (a : VecArgs) (s : State) : Host.Outcome State Fault Refusal := vecRow rcpRun a s
def execAnd (a : VecArgs) (s : State) : Host.Outcome State Fault Refusal := vecRow andRun a s
def execOr (a : VecArgs) (s : State) : Host.Outcome State Fault Refusal := vecRow orRun a s
def execXor (a : VecArgs) (s : State) : Host.Outcome State Fault Refusal := vecRow xorRun a s
def execXori (a : VecArgs) (s : State) : Host.Outcome State Fault Refusal := vecRow xoriRun a s
def execShl (a : VecArgs) (s : State) : Host.Outcome State Fault Refusal := vecRow shlRun a s
def execAshr (a : VecArgs) (s : State) : Host.Outcome State Fault Refusal := vecRow ashrRun a s
def execCmpeq (a : VecArgs) (s : State) : Host.Outcome State Fault Refusal := vecRow cmpeqRun a s
def execCmplt (a : VecArgs) (s : State) : Host.Outcome State Fault Refusal := vecRow cmpltRun a s
def execCmple (a : VecArgs) (s : State) : Host.Outcome State Fault Refusal := vecRow cmpleRun a s
def execSel (a : VecArgs) (s : State) : Host.Outcome State Fault Refusal := vecRow selRun a s
def execCvt (a : VecArgs) (s : State) : Host.Outcome State Fault Refusal := vecRow cvtRun a s
def execPerm (a : VecArgs) (s : State) : Host.Outcome State Fault Refusal := vecRow permRun a s
def execBcast (a : VecArgs) (s : State) : Host.Outcome State Fault Refusal := vecRow bcastRun a s
def execSlideup (a : VecArgs) (s : State) : Host.Outcome State Fault Refusal := vecRow slideupRun a s
def execSlidedn (a : VecArgs) (s : State) : Host.Outcome State Fault Refusal := vecRow slidednRun a s
def execRsum (a : VecArgs) (s : State) : Host.Outcome State Fault Refusal := vecRow rsumRun a s
def execRmax (a : VecArgs) (s : State) : Host.Outcome State Fault Refusal := vecRow rmaxRun a s
def execRmin (a : VecArgs) (s : State) : Host.Outcome State Fault Refusal := vecRow rminRun a s
def execPsum (a : VecArgs) (s : State) : Host.Outcome State Fault Refusal := vecRow psumRun a s
def execPmax (a : VecArgs) (s : State) : Host.Outcome State Fault Refusal := vecRow pmaxRun a s
def execSegpsum (a : VecArgs) (s : State) : Host.Outcome State Fault Refusal := vecRow segpsumRun a s

-- ------------------------------------------------------------------------------------------------ VEC_PROGRAM

/-- R233: a span's engine at the start of its run: registers cleared, VL that of its first strip, 0 where it has none (the
manual gives the prologue no VL of its own: DESIGN CHOICE, assumption 55). The LANE_RANGE flag stays as it is (R238). -/
def vecStart (d : Desc) (j : Nat) (e : VecEngine) : VecEngine :=
  let r := vpRun d j
  let v := stripLen d r.1
  { VecEngine.reset with vl := v, stripVl := v, strip := r.1, seq := d.seq, first := r.1, lane := e.lane, laneAt := e.laneAt }

/-- Run `n` words of the program on a span. -/
def vecSteps (p : Plan) (d : Desc) (span : Nat) : Nat → State → State
  | 0, s => s
  | n + 1, s =>
    let w := vecWord p d (vecOf s span).index
    match vecTable (vecWordOp w) with
    | none => s
    | some f => vecSteps p d span n (vecAdvance (f s (vecWordArgs span w)) span)

/-- The instructions that target position j runs: the prologue once, the loop body for each strip. -/
def vecLength (d : Desc) (j : Nat) : Nat :=
  vpLoop d + (vpRun d j).2 * (vpLength d - vpLoop d)

def vecProgramUses (_ : Plan) (d : Desc) : List Use :=
  let n := fun o => if isBank o then vpRunElems d 0 else vpCount d
  let m := fun (o : Operand) => if isBank o then 2 else 0
  (List.range 3).map (fun k => useRead (vpOperand d k) (n (vpOperand d k)) (m (vpOperand d k)))
    ++ [3, 4].map (fun k => useWrite (vpOperand d k) (n (vpOperand d k)) (m (vpOperand d k)))

/-- The last word of a span's outputs: the scale bytes behind its own blocks are zero (R137), in a bank after its own run. -/
def vecPad (p : Plan) (d : Desc) (t : State) (j k : Nat) : State :=
  let o := vpOperand d k
  if isBank o then padScales t p (d.spanFirst + j * d.spanStride) o (vpRunElems d j)
  else if j = 0 then padScales t p d.spanFirst o (vpCount d) else t

/-- R233: every target span runs its program; one without strips runs the prologue alone. -/
def vecProgramRun (s : State) (p : Plan) (d : Desc) (_ : Nat) : State :=
  let t := (List.range d.spanCount).foldl (fun t j =>
    let span := d.spanFirst + j * d.spanStride
    vecPad p d (vecPad p d (vecSteps p d span (vecLength d j) (setVec t span (vecStart d j (vecOf s span)))) j 3) j 4) s
  -- R238: LANE_RANGE on any target span; the report names the first out-of-range lane
  match (targets d).findSome? (fun x => if (vecOf t x).lane then (vecOf t x).laneAt else none) with
  | none => t
  | some x => updIssued t d.seq fun i => if i.status ≠ 0 then i else { i with status := 0x70, detail := x }

def execVecProgram (seq pass : Nat) (s : State) : Host.Outcome State Fault Refusal :=
  .next (operate [opVecProgram] seq pass (fun _ p d _ => vecProgramUses p d) vecProgramRun s)

end Sys2Proof.Machine
end

