-- ==== Sys2Proof/Machine/Scans.lean ====
section
/-! DEFINITION. SCAN, SEG_SCAN (R241 to R243) and AFFINE_SCAN (R244). -/

namespace Sys2Proof.Machine

def scSrc (d : Desc) : Operand := opAt d 0
def scFlags (d : Desc) : Operand := opAt d 0x10
def scDst (d : Desc) : Operand := opAt d 0x20
def scCarryIn (d : Desc) : Operand := opAt d 0x30
def scCarryOut (d : Desc) : Operand := opAt d 0x40
def scOuter (d : Desc) : Nat := b32 d 0x50
def scAxis (d : Desc) : Nat := b32 d 0x54
def scInner (d : Desc) : Nat := b32 d 0x58
def scOp (d : Desc) : Nat := b8 d 0x5C
def scMode (d : Desc) : Nat := b8 d 0x5D
def scExclusive (d : Desc) : Bool := (scMode d).testBit 0
def scReverse (d : Desc) : Bool := (scMode d).testBit 1
def scLines (d : Desc) : Nat := scOuter d * scInner d

def scanUses (_ : Plan) (d : Desc) : List Use :=
  let n := scLines d * scAxis d
  [useRead (scSrc d) n 2, useRead (scFlags d) n 2, useWrite (scDst d) n 2, useRead (scCarryIn d) (scLines d) 2,
   useWrite (scCarryOut d) (scLines d) 2]

/-- The span of a line: groups of 64 lines, round-robin (R243). -/
def lineSpan (d : Desc) (line : Nat) : Nat := d.spanFirst + line / 64 % d.spanCount * d.spanStride

/-- The axis positions in scan order. -/
def scanOrder (axis : Nat) (rev : Bool) : List Nat := if rev then (List.range axis).reverse else List.range axis

/-- The identity that an exclusive scan writes (R242). -/
def scanIdentity (op : Nat) (isInt : Bool) : Acc :=
  match op, isInt with
  | 0, false => .float numZero
  | 0, true => .int 0
  | 1, false => .float (.inf true)
  | 1, true => .int 0x80000000
  | _, false => .float (.inf false)
  | _, true => .int 0x7FFFFFFF

/-- y ⊕ x (R242). -/
def scanCombine (site : RngSite) (code e op : Nat) (y x : Acc) : Acc :=
  match y, x with
  | .float a, .float b =>
    if op = 0 then .float (roundFp32 code (bitsFor site code e) (numAdd a b)) else .float (pick (op == 1) a b)
  | .int v, .int w =>
    if op = 0 then .int ((v + w) % 2 ^ 32)
    else if op = 1 then .int (if signedOf 32 v < signedOf 32 w then w else v)
    else .int (if signedOf 32 w < signedOf 32 v then w else v)
  | a, _ => a

/-- One element of a line: the running value before it (none, or a value), and the element; the value after it and the
value written. -/
def scanStep (site : RngSite) (code e op : Nat) (excl isInt flagged : Bool) (y : Option Acc) (x : Acc) : Acc × Acc :=
  match y, flagged with
  | some v, false =>
    let w := scanCombine site code e op v x
    (w, if excl then v else w)
  | _, _ => (x, if excl then scanIdentity op isInt else x)

/-- An element as an entry of a running value. -/
def accOfNum (isInt : Bool) (x : Num) : Acc := if isInt then .int (unsignedOf 32 (numToInt x)) else .float (decodeNum .fp32 (widen .fp32 x))

/-- One line of SCAN or SEG_SCAN (R242), read from the state before the descriptor. -/
def scanLine (s : State) (p : Plan) (d : Desc) (seg : Bool) (t : State) (line : Nat) : State :=
  let span := lineSpan d line
  let isInt := isIntCode (scSrc d).fmt
  let site := siteOf p (stepT s p) d 2
  let site0 := siteOf p (stepT s p) d 0
  let o := line / scInner d
  let i := line % scInner d
  let start : Option Acc :=
    if isNone (scCarryIn d) then none
    else some (if isInt then .int (readRaw s p d.seq span (scCarryIn d) line)
               else .float (readElem s p d.seq span (scCarryIn d) line))
  let r := (scanOrder (scAxis d) (scReverse d)).foldl (fun (acc : State × Option Acc) k =>
    let idx := axisIndex (scAxis d) (scInner d) o k i
    let flagged := seg && !numIsZero (readElem s p d.seq span (scFlags d) idx)
    let e := elemIndex p.param (scDst d) idx
    let x := accOfNum isInt (readElem s p d.seq span (scSrc d) idx)
    let w := scanStep site (accRound d) e (scOp d) (scExclusive d) isInt flagged acc.2 x
    (writeElem acc.1 p span (scDst d) idx site0 (outRound d) e false (accNum w.2), some w.1)) (t, start)
  if isNone (scCarryOut d) then r.1
  else
    match r.2 with
    | some v => writeRaw r.1 p span (scCarryOut d) line (accBits v)
    | none => r.1

def scanRun (seg : Bool) (s : State) (p : Plan) (d : Desc) (_ : Nat) : State :=
  (List.range (scLines d)).foldl (scanLine s p d seg) s

def execScan (seq pass : Nat) (s : State) : Host.Outcome State Fault Refusal :=
  .next (operate [opScan] seq pass (fun _ p d _ => scanUses p d) (scanRun false) s)

def execSegScan (seq pass : Nat) (s : State) : Host.Outcome State Fault Refusal :=
  .next (operate [opSegScan] seq pass (fun _ p d _ => scanUses p d) (scanRun true) s)

-- ------------------------------------------------------------------------------------------------ AFFINE_SCAN

def afA (d : Desc) : Operand := opAt d 0
def afB (d : Desc) : Operand := opAt d 0x10
def afH (d : Desc) : Operand := opAt d 0x20
def afProd (d : Desc) : Operand := opAt d 0x30
def afCarryIn (d : Desc) : Operand := opAt d 0x40
def afReverse (d : Desc) : Bool := (b8 d 0x5C).testBit 0

def affineUses (_ : Plan) (d : Desc) : List Use :=
  let n := scLines d * scAxis d
  [useRead (afA d) n 2, useRead (afB d) n 2, useWrite (afH d) n 2, useWrite (afProd d) n 2,
   useRead (afCarryIn d) (scLines d) 2]

/-- A value widened exactly to FP32 (R139). -/
def widened (x : Num) : Num := decodeNum .fp32 (widen .fp32 x)

/-- One element of the recurrence (R244): h and p before it; h and p after it. -/
def affineStep (site : RngSite) (code e : Nat) (a b : Num) (h p : Option Num) : Num × Num :=
  let h' := match h with
    | none => b
    | some x => roundFp32 code (bitsFor site code e) (numAdd (numMul a x) b)
  let p' := match p with
    | none => a
    | some x => roundFp32 0 0 (numMul x a)
  (h', p')

/-- One line of AFFINE_SCAN. -/
def affineLine (s : State) (p : Plan) (d : Desc) (t : State) (line : Nat) : State :=
  let span := lineSpan d line
  let site := siteOf p (stepT s p) d 2
  let site0 := siteOf p (stepT s p) d 0
  let o := line / scInner d
  let i := line % scInner d
  let start : Option Num := if isNone (afCarryIn d) then none else some (readElem s p d.seq span (afCarryIn d) line)
  ((scanOrder (scAxis d) (afReverse d)).foldl (fun (acc : State × Option Num × Option Num) k =>
    let idx := axisIndex (scAxis d) (scInner d) o k i
    let e := elemIndex p.param (afH d) idx
    let w := affineStep site (accRound d) e (widened (readElem s p d.seq span (afA d) idx))
      (widened (readElem s p d.seq span (afB d) idx))
      acc.2.1 acc.2.2
    let u := writeElem acc.1 p span (afH d) idx site0 (outRound d) e false w.1
    let u := if isNone (afProd d) then u else writeRaw u p span (afProd d) idx (widen .fp32 w.2)
    (u, some w.1, some w.2)) (t, start, none)).1

def affineRun (s : State) (p : Plan) (d : Desc) (_ : Nat) : State :=
  (List.range (scLines d)).foldl (affineLine s p d) s

def execAffineScan (seq pass : Nat) (s : State) : Host.Outcome State Fault Refusal :=
  .next (operate [opAffineScan] seq pass (fun _ p d _ => affineUses p d) affineRun s)

end Sys2Proof.Machine
end

