-- ==== Sys2Proof/Machine/Attention.lean ====
section
/-! DEFINITION. The attention pipeline (spec 08): ATTN_FWD and ATTN_BWD, row by row and in the fixed order of every sum. -/

namespace Sys2Proof.Machine

def atQ (d : Desc) : Operand := opAt d 0
def atK (d : Desc) : Operand := opAt d 0x10
def atV (d : Desc) : Operand := opAt d 0x20
def atO (d : Desc) : Operand := opAt d 0x30
def atLse (d : Desc) : Operand := opAt d 0x40
def atRows (d : Desc) : Nat := b32 d 0x54
def atKeys (d : Desc) : Nat := b32 d 0x58

/-- The attention parameter block of a descriptor (Table 8-2): 192 bytes, Q_POS and K_POS advanced to the part that a
split run executes, and behind them the part's first token (R273). -/
def atParam (p : Plan) (d : Desc) : List Byte :=
  let b := (p.param.drop (b32 d 0x50)).take 192
  let b := b ++ zeros (192 - b.length)
  bodyPut (bodyPut b 8 8 (fieldAt b 8 8 + d.base)) 0x10 8 (fieldAt b 0x10 8 + d.base) ++ leBytes 8 d.base

/-- An operand of the block, with `n` elements for each token. -/
def paOp (b : List Byte) (o n : Nat) : Operand := { operandAt b o with skip := fieldAt b 0xC0 8 * n }

def paHq (b : List Byte) : Nat := fieldAt b 0 2
def paHkv (b : List Byte) : Nat := fieldAt b 2 2
def paD (b : List Byte) : Nat := fieldAt b 4 2
def paMask (b : List Byte) : Nat := fieldAt b 6 1 % 4
def paSeg (b : List Byte) : Bool := (fieldAt b 6 1).testBit 2
def paMerge (b : List Byte) : Bool := (fieldAt b 7 1).testBit 0
def paDelta (b : List Byte) : Bool := (fieldAt b 7 1).testBit 1
def paDqAdd (b : List Byte) : Bool := (fieldAt b 7 1).testBit 2
def paDkAdd (b : List Byte) : Bool := (fieldAt b 7 1).testBit 3
def paDvAdd (b : List Byte) : Bool := (fieldAt b 7 1).testBit 4
def paQPos (b : List Byte) : Nat := fieldAt b 8 8 % 2 ^ 48
def paKPos (b : List Byte) : Nat := fieldAt b 0x10 8 % 2 ^ 48
def paPrefixEnd (b : List Byte) : Nat := fieldAt b 0x18 8 % 2 ^ 48
def paWl (b : List Byte) : Nat := fieldAt b 0x20 4
def paWr (b : List Byte) : Nat := fieldAt b 0x24 4
def paScale (b : List Byte) : Num := decodeNum .fp32 (fieldAt b 0x28 4)
def paCap (b : List Byte) : Num := decodeNum .fp32 (fieldAt b 0x2C 4)
def paPFmt (b : List Byte) : Nat := fieldAt b 0x30 1 % 16
def paQSeg (b : List Byte) : Operand := paOp b 0x40 1
def paKSeg (b : List Byte) : Operand := paOp b 0x50 1
def paPriorO (b : List Byte) : Operand := paOp b 0x60 (paHq b * paD b)
def paPriorLse (b : List Byte) : Operand := paOp b 0x70 (paHq b)
def paDq (b : List Byte) : Operand := paOp b 0x80 (paHq b * paD b)
def paDk (b : List Byte) : Operand := paOp b 0x90 (paHkv b * paD b)
def paDv (b : List Byte) : Operand := paOp b 0xA0 (paHkv b * paD b)

/-- Query head h uses key/value head h ÷ (HQ ÷ HKV) (R175). -/
def kvHead (b : List Byte) (h : Nat) : Nat := h / (paHq b / paHkv b)

/-- Table 8-3. -/
def qIndex (b : List Byte) (r h x : Nat) : Nat := (r * paHq b + h) * paD b + x
def kIndex (b : List Byte) (k g x : Nat) : Nat := (k * paHkv b + g) * paD b + x
def lIndex (b : List Byte) (r h : Nat) : Nat := r * paHq b + h

/-- The operands of ATTN_FWD, whole: their extents. -/
def attnFwdExtents (p : Plan) (d : Desc) : List Use :=
  let b := atParam p d
  let q := atRows d * paHq b * paD b
  let k := atKeys d * paHkv b * paD b
  let l := atRows d * paHq b
  [useRead (atQ d) q 3, useRead (atK d) k 3, useRead (atV d) k 3]
    ++ (if paSeg b then [useRead (paQSeg b) (atRows d) 3, useRead (paKSeg b) (atKeys d) 3] else [])
    ++ (if paMerge b then [useRead (paPriorO b) q 3, useRead (paPriorLse b) l 3] else [])
    ++ [useWrite (atO d) q 3, useWrite (atLse d) l 3]

/-- The operands of ATTN_BWD, whole: their extents. -/
def attnBwdExtents (p : Plan) (d : Desc) : List Use :=
  let b := atParam p d
  let q := atRows d * paHq b * paD b
  let k := atKeys d * paHkv b * paD b
  let l := atRows d * paHq b
  [useRead (atQ d) q 3, useRead (atK d) k 3, useRead (atV d) k 3, useRead (atLse d) l 3, useRead (paPriorO b) q 3]
    ++ (if paSeg b then [useRead (paQSeg b) (atRows d) 3, useRead (paKSeg b) (atKeys d) 3] else [])
    ++ (if paDelta b then [useRead (atO d) q 3, useWrite (paPriorLse b) l 3] else [useRead (paPriorLse b) l 3])
    ++ (if paDqAdd b then [useRead (paDq b) q 3] else [])
    ++ (if paDkAdd b then [useRead (paDk b) k 3] else [])
    ++ (if paDvAdd b then [useRead (paDv b) k 3] else [])
    ++ [useWrite (paDq b) q 3, useWrite (paDk b) k 3, useWrite (paDv b) k 3]

-- ------------------------------------------------------------------------------------------------ masks and tiles

/-- Table 8-5, over positions. -/
def mayMeetPos (b : List Byte) (pq pk : Int) : Bool :=
  match paMask b with
  | 0 => true
  | 1 => decide (pk ≤ pq)
  | 2 => decide (pq - (paWl b : Int) ≤ pk) && decide (pk ≤ pq + (paWr b : Int))
  | _ => decide (pk ≤ pq) || (decide (pk < (paPrefixEnd b : Int)) && decide (pq < (paPrefixEnd b : Int)))

/-- R180: a tile of query positions q0 to q1 and key positions k0 to k1 is position-skipped. -/
def tileSkipped (b : List Byte) (q0 q1 k0 k1 : Int) : Bool :=
  match paMask b with
  | 0 => false
  | 1 => decide (q1 < k0)
  | 2 => decide (k1 < q0 - (paWl b : Int)) || decide (q1 + (paWr b : Int) < k0)
  | _ => decide (q1 < k0) && (decide ((paPrefixEnd b : Int) ≤ k0) || decide ((paPrefixEnd b : Int) ≤ q0))

/-- Blocks of 128 (R180). -/
def blocksOf (n : Nat) : Nat := ceilDiv n 128
def blockLen (n k : Nat) : Nat := min 128 (n - 128 * k)

/-- The key range of a query block (R180). -/
def keyRange (b : List Byte) (rows keys qb : Nat) : List Nat :=
  (List.range (blocksOf keys)).filter fun kb =>
    !tileSkipped b ((paQPos b + 128 * qb : Nat)) ((paQPos b + 128 * qb + blockLen rows qb - 1 : Nat))
      ((paKPos b + 128 * kb : Nat)) ((paKPos b + 128 * kb + blockLen keys kb - 1 : Nat))

/-- R179: row r may meet key k: the mask kind, and the segment condition. -/
def mayMeet (s : State) (p : Plan) (d : Desc) (b : List Byte) (span r k : Nat) : Bool :=
  mayMeetPos b ((paQPos b + r : Nat)) ((paKPos b + k : Nat)) &&
    (!paSeg b ||
      (let x := readRaw s p d.seq span (paQSeg b) r
       let y := readRaw s p d.seq span (paKSeg b) k
       x == y && x != 0xFFFFFFFF))

/-- Position of the least total, the lowest among equals. -/
def leastLoaded : List Nat → Nat → Nat → Nat → Nat
  | [], _, best, _ => best
  | t :: ts, i, best, low => if t < low then leastLoaded ts (i + 1) i t else leastLoaded ts (i + 1) best low

/-- Insert a unit (tiles, u): descending tiles, then ascending u (R182). -/
def insertUnit (x : Nat × Nat) : List (Nat × Nat) → List (Nat × Nat)
  | [] => [x]
  | y :: t => if y.1 < x.1 || (y.1 == x.1 && decide (x.2 < y.2)) then x :: y :: t else y :: insertUnit x t

/-- R182: the target position of every unit, as (u, position). -/
def assignUnits (spans : Nat) (units : List (Nat × Nat)) : List (Nat × Nat) :=
  ((units.foldl (fun l x => insertUnit x l) []).foldl (fun (acc : List Nat × List (Nat × Nat)) x =>
    let pos := match acc.1 with | [] => 0 | t :: ts => leastLoaded ts 1 0 t
    (listSet acc.1 pos (listGet 0 acc.1 pos + x.1), (x.2, pos) :: acc.2)) (List.replicate spans 0, [])).2

/-- The units of an ATTN_FWD with their target positions. -/
def fwdPlaces (p : Plan) (d : Desc) : List (Nat × Nat) :=
  let b := atParam p d
  assignUnits d.spanCount <| (List.range (blocksOf (atRows d))).flatMap fun q =>
    (List.range (paHq b)).map fun x => ((keyRange b (atRows d) (atKeys d) q).length, q * paHq b + x)

/-- The span that runs unit u, of a list of units with their positions. -/
def placeSpan (d : Desc) (l : List (Nat × Nat)) (u : Nat) : Nat :=
  match l.find? (fun x => x.1 == u) with
  | some x => d.spanFirst + x.2 * d.spanStride
  | none => d.spanFirst

/-- The span that runs unit (qb, h) of an ATTN_FWD. -/
def fwdSpan (p : Plan) (d : Desc) (qb h : Nat) : Nat := placeSpan d (fwdPlaces p d) (qb * paHq (atParam p d) + h)

/-- The runs of elements that one span reaches of an operand of `n` tokens, `heads` heads and `w` elements a head: those of
the tokens and heads that `sel` holds of. -/
def headRuns (n heads w : Nat) (sel : Nat → Nat → Bool) : List (Int × Nat) :=
  joinRuns <| (List.range n).flatMap fun r =>
    ((List.range heads).filter (sel r)).map fun h => (((r * heads + h) * w : Nat), w)

/-- The parts of a use that target span x makes. -/
def usesOn (x : Nat) (u : Use) (runs : List (Int × Nat)) : List Use :=
  runs.map fun r => usePart (useOn u x) r.1.toNat r.2

/-- What ATTN_FWD reads and writes, span by span: of Q, K, V and the segment identifiers, only what its tiles hold, since a
skipped tile is not read (R180); of O, LSE and the priors, its rows. -/
def attnFwdUses (p : Plan) (d : Desc) : List Use :=
  let b := atParam p d
  let hq := paHq b
  let q := atRows d * hq * paD b
  let k := atKeys d * paHkv b * paD b
  let l := atRows d * hq
  let places := fwdPlaces p d
  let ranges := (List.range (blocksOf (atRows d))).map (keyRange b (atRows d) (atKeys d))
  (targets d).flatMap fun x =>
    let mine := fun r h => placeSpan d places (r / 128 * hq + h) == x
    let meets := fun r h => mine r h && !(ranges.getD (r / 128) []).isEmpty
    let reads := fun key g => ranges.zipIdx.any fun e => e.1.contains (key / 128)
      && (List.range hq).any fun h => kvHead b h == g && mine (128 * e.2) h
    let qs := headRuns (atRows d) hq (paD b) meets
    let ks := headRuns (atKeys d) (paHkv b) (paD b) reads
    let os := headRuns (atRows d) hq (paD b) mine
    let ls := headRuns (atRows d) hq 1 mine
    usesOn x (useRead (atQ d) q 3) qs ++ usesOn x (useRead (atK d) k 3) ks ++ usesOn x (useRead (atV d) k 3) ks
      ++ (if paSeg b then
            usesOn x (useRead (paQSeg b) (atRows d) 3) (headRuns (atRows d) 1 1 fun r _ => (List.range hq).any (meets r))
              ++ usesOn x (useRead (paKSeg b) (atKeys d) 3)
                (headRuns (atKeys d) 1 1 fun key _ => (List.range (paHkv b)).any (reads key))
          else [])
      ++ (if paMerge b then usesOn x (useRead (paPriorO b) q 3) os ++ usesOn x (useRead (paPriorLse b) l 3) ls else [])
      ++ usesOn x (useWrite (atO d) q 3) os ++ usesOn x (useWrite (atLse d) l 3) ls

-- ------------------------------------------------------------------------------------------------ arithmetic

/-- FP32 accumulation under nearest-even, one chunk of present terms at a time; a chunk without terms adds nothing. -/
def addChunk (a : Num) (terms : List Num) : Num :=
  match terms with
  | [] => a
  | ts => roundFp32 0 0 (numAdd a (exactSum ts))

/-- A product summed over n elements in chunks of 32 (R177), from +0. -/
def dotChunks (n : Nat) (term : Nat → Num) : Num :=
  (List.range (ceilDiv n 32)).foldl (fun a c =>
    addChunk a ((List.range (min 32 (n - 32 * c))).map fun i => term (32 * c + i))) numZero

/-- Terms of chunk c of 32 of an optional list. -/
def chunkTerms (l : List (Option Num)) (c : Nat) : List Num := ((l.drop (32 * c)).take 32).filterMap id

/-- Add the present terms of a block of up to 128, chunk by chunk. -/
def addBlock (a : Num) (l : List (Option Num)) : Num :=
  (List.range (ceilDiv l.length 32)).foldl (fun a c => addChunk a (chunkTerms l c)) a

/-- One level of the row-sum tree: a node with one absent child passes the other on (R183). -/
def sumLevel : List (Option Num) → List (Option Num)
  | x :: y :: t =>
    (match x, y with
     | some a, some b => some (add32 a b)
     | some a, none => some a
     | none, z => z) :: sumLevel t
  | l => l

def rowSum : Nat → List (Option Num) → Num
  | _, [] => numZero
  | 0, x :: _ => x.getD numZero
  | n + 1, l => rowSum n (sumLevel l)

/-- LOG2E of R183. -/
def log2e : Num := decodeNum .fp32 0x3FB8AA3B

/-- The score s of a row and key: Q · K along D (R183). -/
def attnScore (s : State) (p : Plan) (d : Desc) (b : List Byte) (span r h k : Nat) : Num :=
  dotChunks (paD b) fun x =>
    numMul (readElem s p d.seq span (atQ d) (qIndex b r h x)) (readElem s p d.seq span (atK d) (kIndex b k (kvHead b h) x))

/-- x, c and z of a score: scaled, capped, and times LOG2E (R183). -/
def attnZ (scale cap score : Num) : Num × Num × Num :=
  let x := mul32 scale score
  if numIsZero cap then (x, numZero, mul32 x log2e)
  else
    let c := tanh32 (div32 x cap)
    let x := mul32 cap c
    (x, c, mul32 x log2e)

/-- The greater of two values; NaN wins. -/
def max32 (x y : Num) : Num := pick true x y

/-- A value rounded once by nearest-even to a format (P_FMT). -/
def toFmt (code : Nat) (x : Num) : Num :=
  match fmtOf code with | some f => decodeNum f (narrow f 0 0 false x) | none => x

/-- The running state of a row (R183): maximum, sum, D accumulators, and whether some x was NaN or infinite. -/
structure RowState where
  m   : Num
  l   : Num
  acc : List Num
  bad : Bool

/-- One key block of a row (R183): the x, c and z of the keys that the row meets, the format of P, and V by key and
dimension. -/
def rowFold (pfmt : Nat) (xz : List (Option (Num × Num × Num))) (v : Nat → Nat → Num) (st : RowState) : RowState :=
  if xz.all Option.isNone then st
  else
    let zs := xz.map fun o => o.map fun t => t.2.2
    let mn := zs.foldl (fun m z => match z with | some v => max32 m v | none => m) st.m
    let a := if st.m = .inf true then numZero else exp2_32 (roundFp32 0 0 (numSub st.m mn))
    let ps := zs.map fun o => o.map fun z => exp2_32 (roundFp32 0 0 (numSub z mn))
    let l := add32 (mul32 a st.l) (rowSum 7 ps)
    let acc := st.acc.zipIdx.map fun e =>
      addBlock (mul32 a e.1) (ps.zipIdx.map fun jp => jp.1.map fun w => numMul (toFmt pfmt w) (v jp.2 e.2))
    let bad := st.bad || xz.any fun o => match o with | some t => !numIsFinite t.1 | none => false
    ⟨mn, l, acc, bad⟩

/-- One key block of a row of ATTN_FWD. -/
def rowBlock (s : State) (p : Plan) (d : Desc) (b : List Byte) (span r h : Nat) (st : RowState) (kb : Nat) : RowState :=
  let xz := (List.range (blockLen (atKeys d) kb)).map fun j =>
    if mayMeet s p d b span r (128 * kb + j) then
      some (attnZ (paScale b) (paCap b) (attnScore s p d b span r h (128 * kb + j)))
    else none
  rowFold (paPFmt b) xz (fun j x => readElem s p d.seq span (atV d) (kIndex b (128 * kb + j) (kvHead b h) x)) st

/-- A row's own result before conversion: O (round32(acc ÷ l)) and LSE (R184). -/
def rowResult (st : RowState) : List Num × Num :=
  if st.bad then (st.acc.map fun _ => .nan, .nan)
  else if st.m = .inf true then (st.acc.map fun _ => numZero, .inf true)
  else (st.acc.map fun a => div32 a st.l, add32 st.m (log2_32 st.l))

/-- R185: merge with the prior row. -/
def rowMerge (o0 : List Num) (l0 : Num) (r : List Num × Num) : List Num × Num :=
  let l1 := r.2
  if numIsNan l0 || numIsNan l1 then (r.1.map fun _ => .nan, .nan)
  else
    let mx := max32 l0 l1
    if mx = .inf true then (r.1.map fun _ => numZero, .inf true)
    else
      let w0 := exp2_32 (roundFp32 0 0 (numSub l0 mx))
      let w1 := exp2_32 (roundFp32 0 0 (numSub l1 mx))
      let w := add32 w0 w1
      ((o0.zip r.1).map fun x => div32 (roundFp32 0 0 (numAdd (numMul w0 x.1) (numMul w1 x.2))) w,
       add32 mx (log2_32 w))

/-- One row of ATTN_FWD, read from the state `s` before the descriptor and written to `t`. -/
def fwdRow (s : State) (p : Plan) (d : Desc) (b : List Byte) (span : Nat) (t : State) (r h : Nat) : State :=
  let st := (keyRange b (atRows d) (atKeys d) (r / 128)).foldl (rowBlock s p d b span r h)
    ⟨.inf true, numZero, List.replicate (paD b) numZero, false⟩
  let own := rowResult st
  let res :=
    if paMerge b then
      rowMerge ((List.range (paD b)).map fun x => readElem s p d.seq span (paPriorO b) (qIndex b r h x))
        (readElem s p d.seq span (paPriorLse b) (lIndex b r h)) own
    else own
  let t := writeRun t p span (atO d) (qIndex b r h 0) (siteOf p (stepT s p) d 0) (outRound d) (elemIndex p.param (atO d))
    false res.1
  let t := padTail t p span (atO d) (atRows d * paHq b * paD b) (qIndex b r h 0) (paD b)
  writeRaw t p span (atLse d) (lIndex b r h) (widen .fp32 res.2)

/-- ATTN_FWD over its rows (R180 to R186). The resident set and the forward accumulator leave the bytes of the banks and of
the accumulator buffer as they were: no rule says where they lie or what they leave there (DESIGN CHOICE, assumption 231). -/
def attnFwdRun (s : State) (p : Plan) (d : Desc) (_ : Nat) : State :=
  let b := atParam p d
  (List.range (blocksOf (atRows d))).foldl (fun t qb =>
    (List.range (paHq b)).foldl (fun t h =>
      let span := fwdSpan p d qb h
      (List.range (blockLen (atRows d) qb)).foldl (fun t i => fwdRow s p d b span t (128 * qb + i) h) t) t) s

def execAttnFwd (seq pass : Nat) (s : State) : Host.Outcome State Fault Refusal :=
  .next (operate [opAttnFwd] seq pass (fun _ p d _ => attnFwdUses p d) attnFwdRun s)

-- ------------------------------------------------------------------------------------------------ backward

/-- The span of unit (g, kb) (R187). -/
def bwdSpan (p : Plan) (d : Desc) (g kb : Nat) : Nat :=
  let _ := p
  d.spanFirst + (g * blocksOf (atKeys d) + kb) % d.spanCount * d.spanStride

/-- What ATTN_BWD reads and writes, span by span (R180, R186 to R188): a unit reads its key block and the query blocks whose
key range holds it; the unit that begins a query block's relay reads the prior dQ and writes Δ, the one that ends it
writes dQ. -/
def attnBwdUses (p : Plan) (d : Desc) : List Use :=
  let b := atParam p d
  let q := atRows d * paHq b * paD b
  let k := atKeys d * paHkv b * paD b
  let l := atRows d * paHq b
  let ranges := (List.range (blocksOf (atRows d))).map (keyRange b (atRows d) (atKeys d))
  (targets d).flatMap fun x =>
    let own := fun key g => bwdSpan p d g (key / 128) == x
    let reads := fun key g => own key g && ranges.any fun e => e.contains (key / 128)
    let meets := fun r h => (ranges.getD (r / 128) []).any fun kb => bwdSpan p d (kvHead b h) kb == x
    let begins := fun r h => bwdSpan p d (kvHead b h) ((ranges.getD (r / 128) []).headD 0) == x
    let ends := fun r h => bwdSpan p d (kvHead b h) ((ranges.getD (r / 128) []).getLastD 0) == x
    let rows := fun (w : Nat) (sel : Nat → Nat → Bool) => headRuns (atRows d) (paHq b) w sel
    let keys := fun (sel : Nat → Nat → Bool) => headRuns (atKeys d) (paHkv b) (paD b) sel
    let qs := rows (paD b) meets
    usesOn x (useRead (atQ d) q 3) qs ++ usesOn x (useRead (atK d) k 3) (keys reads)
      ++ usesOn x (useRead (atV d) k 3) (keys reads)
      ++ usesOn x (useRead (atLse d) l 3) (rows 1 meets) ++ usesOn x (useRead (paPriorO b) q 3) qs
      ++ (if paSeg b then
            usesOn x (useRead (paQSeg b) (atRows d) 3)
              (headRuns (atRows d) 1 1 fun r _ => (List.range (paHq b)).any (meets r))
              ++ usesOn x (useRead (paKSeg b) (atKeys d) 3)
                (headRuns (atKeys d) 1 1 fun key _ => (List.range (paHkv b)).any (reads key))
          else [])
      ++ (if paDelta b then
            usesOn x (useRead (atO d) q 3) qs
              ++ usesOn x (useWrite (paPriorLse b) l 3) (rows 1 fun r h => meets r h && begins r h)
          else usesOn x (useRead (paPriorLse b) l 3) (rows 1 meets))
      ++ (if paDqAdd b then usesOn x (useRead (paDq b) q 3) (rows (paD b) begins) else [])
      ++ (if paDkAdd b then usesOn x (useRead (paDk b) k 3) (keys own) else [])
      ++ (if paDvAdd b then usesOn x (useRead (paDv b) k 3) (keys own) else [])
      ++ usesOn x (useWrite (paDq b) q 3) (rows (paD b) ends) ++ usesOn x (useWrite (paDk b) k 3) (keys own)
      ++ usesOn x (useWrite (paDv b) k 3) (keys own)

/-- Δ of a row and query head (R186). -/
def attnDelta (s : State) (p : Plan) (d : Desc) (b : List Byte) (span r h : Nat) : Num :=
  if paDelta b then
    dotChunks (paD b) fun x =>
      numMul (readElem s p d.seq span (paPriorO b) (qIndex b r h x)) (readElem s p d.seq span (atO d) (qIndex b r h x))
  else readElem s p d.seq span (paPriorLse b) (lIndex b r h)

/-- p and ds of a row and key on a unit's span (R187); none when the term is absent. With an LSE of +Inf p is +0, as exp2 of
−Inf gives it (DEDUCED, assumption 230). -/
def attnPair (s : State) (p : Plan) (d : Desc) (b : List Byte) (span r h k : Nat) : Option (Num × Num) :=
  let lse := readElem s p d.seq span (atLse d) (lIndex b r h)
  if !mayMeet s p d b span r k || lse == .inf true then none
  else
    let t := attnZ (paScale b) (paCap b) (attnScore s p d b span r h k)
    let pr := exp2_32 (roundFp32 0 0 (numSub t.2.2 lse))
    let dp := dotChunks (paD b) fun x =>
      numMul (readElem s p d.seq span (paPriorO b) (qIndex b r h x))
        (readElem s p d.seq span (atV d) (kIndex b k (kvHead b h) x))
    let ds := mul32 pr (roundFp32 0 0 (numSub dp (attnDelta s p d b span r h)))
    let ds := if numIsZero (paCap b) then ds
      else mul32 ds (roundFp32 0 0 (numSub numOne (numMul t.2.1 t.2.1)))
    some (pr, mul32 ds (paScale b))

/-- dQ of a row, head and dimension over key blocks, ascending, chunks of 32 keys (R187). -/
def attnDq (s : State) (p : Plan) (d : Desc) (b : List Byte) (r h x : Nat) (kbs : List Nat) (init : Num) : Num :=
  kbs.foldl (fun a kb =>
    let span := bwdSpan p d (kvHead b h) kb
    addBlock a ((List.range (blockLen (atKeys d) kb)).map fun j =>
      let k := 128 * kb + j
      (attnPair s p d b span r h k).map fun t =>
        numMul (toFmt (paPFmt b) t.2) (readElem s p d.seq span (atK d) (kIndex b k (kvHead b h) x)))) init

/-- dK or dV of a key, head and dimension: query blocks ascending, query heads of the group ascending, chunks of 32 rows
(R187). `v` chooses dV. A NaN delta reaches no dV: the pseudocode of R187 is
followed, not its closing sentence (DEDUCED, assumption 229). -/
def attnDkv (s : State) (p : Plan) (d : Desc) (b : List Byte) (v : Bool) (k g x : Nat) (init : Num) : Num :=
  let kb := k / 128
  let span := bwdSpan p d g kb
  let per := paHq b / paHkv b
  (List.range (blocksOf (atRows d))).foldl (fun a qb =>
    if !(keyRange b (atRows d) (atKeys d) qb).contains kb then a
    else
      (List.range per).foldl (fun a i =>
        let h := g * per + i
        addBlock a ((List.range (blockLen (atRows d) qb)).map fun j =>
          let r := 128 * qb + j
          (attnPair s p d b span r h k).map fun t =>
            if v then numMul (toFmt (paPFmt b) t.1) (readElem s p d.seq span (paPriorO b) (qIndex b r h x))
            else numMul (toFmt (paPFmt b) t.2) (readElem s p d.seq span (atQ d) (qIndex b r h x)))) a) init

/-- The prior value that an *_ADD flag adds to, +0 without it (R187). -/
def attnInit (s : State) (p : Plan) (d : Desc) (add : Bool) (span : Nat) (o : Operand) (i : Nat) : Num :=
  if add then readElem s p d.seq span o i else numZero

/-- FP32 entries of an accumulator half from `at_` on. -/
def putEntries (s : State) (span half at_ : Nat) (l : List Num) : State :=
  { s with sp := { s.sp with accs := tabPut s.sp.accs (accKey span half at_) (l.flatMap fun v => leBytes 4 (widen .fp32 v)) } }

/-- The units of target span x, ascending, as key/value head and key block (R187). -/
def bwdUnits (p : Plan) (d : Desc) (x : Nat) : List (Nat × Nat) :=
  (List.range (paHkv (atParam p d))).flatMap fun g =>
    ((List.range (blocksOf (atKeys d))).filter fun kb => bwdSpan p d g kb == x).map fun kb => (g, kb)

/-- What the accumulator of a target span holds after its units (R188): in half 0 dk, and 32,768 entries on dv, of its last
unit; in half 1 the dQ that the last of its visits to a query block and head took in, and 32,768 entries on the dQ that it
passed on. Where in its half each lies is the model's choice (assumption 181). -/
def relayHalves (s : State) (p : Plan) (d : Desc) (t : State) (x : Nat) : State :=
  let b := atParam p d
  let units := bwdUnits p d x
  let per := paHq b / paHkv b
  match units.getLast? with
  | none => t
  | some (g, kb) =>
    let keys := (List.range (blockLen (atKeys d) kb)).flatMap fun j => (List.range (paD b)).map fun e => (128 * kb + j, e)
    let dkv := fun v add o => keys.map fun k =>
      attnDkv s p d b v k.1 g k.2 (attnInit s p d add x o (kIndex b k.1 g k.2))
    let t := putEntries t x 0 0 (dkv false (paDkAdd b) (paDk b))
    let t := putEntries t x 0 32768 (dkv true (paDvAdd b) (paDv b))
    let visits := units.flatMap fun u => (List.range (blocksOf (atRows d))).flatMap fun qb =>
      if (keyRange b (atRows d) (atKeys d) qb).contains u.2 then (List.range per).map fun i => (u.2, (qb, u.1 * per + i)) else []
    match visits.getLast? with
    | none => t
    | some (kb, (qb, h)) =>
      let kr := keyRange b (atRows d) (atKeys d) qb
      let first := bwdSpan p d (kvHead b h) (kr.headD 0)
      let rows := (List.range (blockLen (atRows d) qb)).flatMap fun i => (List.range (paD b)).map fun e => (128 * qb + i, e)
      let dq := fun kbs => rows.map fun r =>
        attnDq s p d b r.1 h r.2 kbs (attnInit s p d (paDqAdd b) first (paDq b) (qIndex b r.1 h r.2))
      let t := putEntries t x 1 0 (dq (kr.filter fun k => decide (k < kb)))
      putEntries t x 1 32768 (dq (kr.filter fun k => decide (k ≤ kb)))

def attnBwdRun (s : State) (p : Plan) (d : Desc) (_ : Nat) : State :=
  let b := atParam p d
  let site := siteOf p (stepT s p) d 0
  let init := attnInit s p d
  -- Δ, by the unit that begins each relay
  let t := if !paDelta b then s else
    (List.range (atRows d)).foldl (fun t r =>
      match (keyRange b (atRows d) (atKeys d) (r / 128)) with
      | [] => t
      | kb :: _ => (List.range (paHq b)).foldl (fun t h =>
          let span := bwdSpan p d (kvHead b h) kb
          writeRaw t p span (paPriorLse b) (lIndex b r h) (widen .fp32 (attnDelta s p d b span r h))) t) s
  -- dQ, by the unit that ends each relay
  let t := (List.range (atRows d)).foldl (fun t r =>
    (List.range (paHq b)).foldl (fun t h =>
      (List.range (paD b)).foldl (fun t x =>
        let kr := keyRange b (atRows d) (atKeys d) (r / 128)
        let first := bwdSpan p d (kvHead b h) (kr.headD 0)
        let last := bwdSpan p d (kvHead b h) (kr.getLastD 0)
        let i := qIndex b r h x
        let v := attnDq s p d b r h x kr (init (paDqAdd b) first (paDq b) i)
        writeElem t p last (paDq b) i site (outRound d) (elemIndex p.param (paDq b) i) false v) t) t) t
  let t := (List.range (atKeys d)).foldl (fun t k =>
    (List.range (paHkv b)).foldl (fun t g =>
      (List.range (paD b)).foldl (fun t x =>
        let span := bwdSpan p d g (k / 128)
        let i := kIndex b k g x
        let dk := attnDkv s p d b false k g x (init (paDkAdd b) span (paDk b) i)
        let dv := attnDkv s p d b true k g x (init (paDvAdd b) span (paDv b) i)
        let t := writeElem t p span (paDk b) i { site with stream := (d.rngStream + 1) % 65536 } (outRound d)
          (elemIndex p.param (paDk b) i) false dk
        writeElem t p span (paDv b) i { site with stream := (d.rngStream + 2) % 65536 } (outRound d)
          (elemIndex p.param (paDv b) i) false dv) t) t) t
  (targets d).foldl (relayHalves s p d) t

def execAttnBwd (seq pass : Nat) (s : State) : Host.Outcome State Fault Refusal :=
  .next (operate [opAttnBwd] seq pass (fun _ p d _ => attnBwdUses p d) attnBwdRun s)

end Sys2Proof.Machine
end

