-- ==== Sys2Proof/Machine/Hash.lean ====
section
/-! DEFINITION. The published functions that the manual names: SHA-384, SipHash-2-4, CRC-32C. -/

namespace Sys2Proof.Machine

def w64 : Nat := 2 ^ 64

/-- Rotate a 64-bit word. -/
def rotr64 (x n : Nat) : Nat := x / 2 ^ n + x % 2 ^ n * 2 ^ (64 - n)
def rotl64 (x n : Nat) : Nat := rotr64 x (64 - n)

-- ------------------------------------------------------------------------------------------------ SHA-384

/-- The first 80 primes, from which SHA-384 takes its constants. -/
def shaPrimes : List Nat :=
  (List.range 410).filter fun p => decide (2 ≤ p) && (List.range 19).all fun d => p == d + 2 || p % (d + 2) != 0

/-- The greatest number below 2 ^ bits whose power `e` is at most `x`, found bit by bit from the top. -/
def rootBits (e x : Nat) : Nat → Nat → Nat
  | 0, r => r
  | n + 1, r => rootBits e x n (if (r + 2 ^ n) ^ e ≤ x then r + 2 ^ n else r)

/-- The first 64 bits of the fractional part of a prime's root of order `e`. -/
def rootFraction (e p : Nat) : Nat := rootBits e (p * 2 ^ (64 * e)) 70 0 % w64

/-- The round constants: from the cube roots of the primes. -/
def shaK : List Nat := shaPrimes.map (rootFraction 3)

/-- The initial hash value of SHA-384: from the square roots of the ninth to the sixteenth prime. -/
def shaInit : List Nat := ((shaPrimes.drop 8).take 8).map (rootFraction 2)

/-- Big-endian number of bytes. -/
def beNat (l : List Byte) : Nat := l.foldl (fun a b => a * 256 + b.toNat) 0

/-- `n` big-endian bytes of a number. -/
def beBytes (n v : Nat) : List Byte := (leBytes n v).reverse

/-- A word's rotations by the given distances, added bit by bit. -/
def rotSum (x : Nat) (ds : List Nat) : Nat := ds.foldl (fun s d => Nat.xor s (rotr64 x d)) 0

/-- `n` more words of a block's schedule; the words so far stand newest first. -/
def shaSchedule : Nat → List Nat → List Nat
  | 0, w => w
  | n + 1, w =>
    let back := fun k => listGet 0 w (k - 1)
    let mix := fun k ds shift => Nat.xor (rotSum (back k) ds) (back k / 2 ^ shift)
    shaSchedule n ((back 16 + mix 15 [1, 8] 7 + back 7 + mix 2 [19, 61] 6) % w64 :: w)

/-- The working variables as two histories, newest first: a, b, c, d and e, f, g, h. -/
structure ShaVars where
  up   : List Nat
  down : List Nat
  deriving DecidableEq, Repr

/-- One round: `k` is the round constant plus the schedule word. -/
def shaRound (v : ShaVars) (k : Nat) : ShaVars :=
  let u := fun i => listGet 0 v.up i
  let l := fun i => listGet 0 v.down i
  let pick := Nat.xor (l 2) (Nat.land (l 0) (Nat.xor (l 1) (l 2)))
  let vote := Nat.lor (Nat.land (u 0) (u 1)) (Nat.land (u 2) (Nat.lor (u 0) (u 1)))
  let t := l 3 + rotSum (l 0) [14, 18, 41] + pick + k
  { up := (t + rotSum (u 0) [28, 34, 39] + vote) % w64 :: v.up.take 3
    down := (t + u 3) % w64 :: v.down.take 3 }

/-- One block of 128 bytes. -/
def shaBlock (h : List Nat) (b : List Byte) : List Nat :=
  let first := (List.range 16).map fun i => beNat ((b.drop (8 * i)).take 8)
  let keys := List.zipWith (· + ·) shaK (shaSchedule 64 first.reverse).reverse
  let v := keys.foldl shaRound { up := h.take 4, down := h.drop 4 }
  List.zipWith (fun x y => (x + y) % w64) h (v.up ++ v.down)

/-- SHA-384 of a byte string. -/
def sha384 (m : List Byte) : List Byte :=
  let n := m.length
  let pad := bytesOf [0x80] ++ zeros ((239 - n % 128) % 128) ++ beBytes 16 (8 * n)
  let all := m ++ pad
  let h := (List.range (all.length / 128)).foldl (fun h i => shaBlock h ((all.drop (128 * i)).take 128)) shaInit
  (h.flatMap (beBytes 8)).take 48

-- ------------------------------------------------------------------------------------------------ SipHash-2-4

/-- One SipRound. -/
def sipRound : Nat × Nat × Nat × Nat → Nat × Nat × Nat × Nat
  | (v0, v1, v2, v3) =>
    let v0 := (v0 + v1) % w64
    let v1 := Nat.xor (rotl64 v1 13) v0
    let v0 := rotl64 v0 32
    let v2 := (v2 + v3) % w64
    let v3 := Nat.xor (rotl64 v3 16) v2
    let v0 := (v0 + v3) % w64
    let v3 := Nat.xor (rotl64 v3 21) v0
    let v2 := (v2 + v1) % w64
    let v1 := Nat.xor (rotl64 v1 17) v2
    let v2 := rotl64 v2 32
    (v0, v1, v2, v3)

/-- One message word of SipHash-2-4. -/
def sipWord (v : Nat × Nat × Nat × Nat) (m : Nat) : Nat × Nat × Nat × Nat :=
  let v := sipRound (sipRound (v.1, v.2.1, v.2.2.1, Nat.xor v.2.2.2 m))
  (Nat.xor v.1 m, v.2)

/-- SipHash-2-4 of a byte string under a 128-bit key, the low half its first eight bytes. -/
def sipHash (key : Nat) (m : List Byte) : Nat :=
  let k0 := key % w64
  let k1 := key / w64 % w64
  let v := (Nat.xor k0 0x736f6d6570736575, Nat.xor k1 0x646f72616e646f6d,
    Nat.xor k0 0x6c7967656e657261, Nat.xor k1 0x7465646279746573)
  let n := m.length
  let v := (List.range (n / 8)).foldl (fun v i => sipWord v (fieldAt m (8 * i) 8)) v
  let v := sipWord v (fieldAt m (n / 8 * 8) (n % 8) + n % 256 * 2 ^ 56)
  let v := (v.1, v.2.1, Nat.xor v.2.2.1 0xFF, v.2.2.2)
  let v := sipRound (sipRound (sipRound (sipRound v)))
  Nat.xor (Nat.xor v.1 v.2.1) (Nat.xor v.2.2.1 v.2.2.2)

-- ------------------------------------------------------------------------------------------------ CRC-32C

/-- Eight steps of the reflected CRC of polynomial 0x1EDC6F41. -/
def crcBits : Nat → Nat → Nat
  | 0, c => c
  | n + 1, c => crcBits n (if c % 2 = 1 then Nat.xor (c / 2) 0x82F63B78 else c / 2)

/-- CRC-32C of a byte string. -/
def crc32c (m : List Byte) : Nat :=
  Nat.xor (m.foldl (fun c b => crcBits 8 (Nat.xor c b.toNat)) 0xFFFFFFFF) 0xFFFFFFFF

end Sys2Proof.Machine
end

