-- ==== Sys2Proof/Machine/Window.lean ====
section
/-! DEFINITION. Sliding-window operators (spec 12): CONV_TAPS and POOL. -/

namespace Sys2Proof.Machine

def wnX (d : Desc) : Operand := opAt d 0
def wnW (d : Desc) : Operand := opAt d 0x10
def wnY (d : Desc) : Operand := opAt d 0x20
def wnBias (d : Desc) : Operand := opAt d 0x30
def wnScale (d : Desc) : Num := decodeNum .fp32 (b32 d 0x44)
def wnAct (d : Desc) : Nat := b8 d 0x48 % 16

/-- The window block of a descriptor (Table 12-2): 96 bytes. -/
def wnParam (p : Plan) (d : Desc) : List Byte := (p.param.drop (b32 d 0x40)).take 96

def wI0 (b : List Byte) : Nat := fieldAt b 0 4
def wI1 (b : List Byte) : Nat := fieldAt b 4 4
def wK0 (b : List Byte) : Nat := fieldAt b 8 2
def wK1 (b : List Byte) : Nat := fieldAt b 0xA 2
def wS0 (b : List Byte) : Nat := fieldAt b 0xC 2
def wS1 (b : List Byte) : Nat := fieldAt b 0xE 2
def wD0 (b : List Byte) : Nat := fieldAt b 0x10 2
def wD1 (b : List Byte) : Nat := fieldAt b 0x12 2
def wP0Pre (b : List Byte) : Nat := fieldAt b 0x14 4
def wP0Post (b : List Byte) : Nat := fieldAt b 0x18 4
def wP1Pre (b : List Byte) : Nat := fieldAt b 0x1C 4
def wP1Post (b : List Byte) : Nat := fieldAt b 0x20 4
def wCin (b : List Byte) : Nat := fieldAt b 0x24 2
def wCout (b : List Byte) : Nat := fieldAt b 0x26 2
def wGroups (b : List Byte) : Nat := fieldAt b 0x28 2
def wBatch (b : List Byte) : Nat := fieldAt b 0x2A 2
def wPad (b : List Byte) : Num := decodeNum .fp32 (fieldAt b 0x2C 4)
def wHaloPre (b : List Byte) : Nat := fieldAt b 0x30 4
def wHaloPost (b : List Byte) : Nat := fieldAt b 0x34 4
def wLineBank (b : List Byte) : Nat := fieldAt b 0x38 1 % 4
def wPoolOp (b : List Byte) : Nat := fieldAt b 0x39 1
def wHaloPreOp (b : List Byte) : Operand := operandAt b 0x40
def wHaloPostOp (b : List Byte) : Operand := operandAt b 0x50
def wCing (b : List Byte) : Nat := wCin b / wGroups b
def wCoutg (b : List Byte) : Nat := wCout b / wGroups b

/-- The output extent of an axis, in signed arithmetic (R250). -/
def outExtent (i pre post d k s : Nat) : Int :=
  ((i : Int) + pre + post - (d : Int) * ((k : Int) - 1) - 1) / (s : Int) + 1

def wO0 (b : List Byte) : Nat := (outExtent (wI0 b) (wP0Pre b) (wP0Post b) (wD0 b) (wK0 b) (wS0 b)).toNat
def wO1 (b : List Byte) : Nat := (outExtent (wI1 b) (wP1Pre b) (wP1Post b) (wD1 b) (wK1 b) (wS1 b)).toNat

/-- Output rows of all maps, and those of target position j (R255). -/
def wnRows (b : List Byte) : Nat := wBatch b * wO1 b
def wnRun (d : Desc) (b : List Byte) (j : Nat) : Nat × Nat := cutPart (wnRows b) d.spanCount j

/-- The engine that runs the operator (R254, R259). -/
def wnMaster (d : Desc) (b : List Byte) : Nat :=
  if d.opcode = opPool then 2 else if wCing b = 1 ∧ wCoutg b = 1 then 2 else 1

/-- What a coordinate resolves to (R251). -/
inductive Tap where
  | input (row col : Nat)
  | haloPre (row col : Nat)
  | haloPost (row col : Nat)
  | pad
  deriving DecidableEq, Repr

def resolveTap (b : List Byte) (i1 i0 : Int) : Tap :=
  if i0 < 0 ∨ (wI0 b : Int) ≤ i0 then .pad
  else if 0 ≤ i1 ∧ i1 < (wI1 b : Int) then .input i1.toNat i0.toNat
  else if -(wHaloPre b : Int) ≤ i1 ∧ i1 < 0 then .haloPre ((wHaloPre b : Int) + i1).toNat i0.toNat
  else if (wI1 b : Int) ≤ i1 ∧ i1 < (wI1 b : Int) + (wHaloPost b : Int) then .haloPost (i1 - (wI1 b : Int)).toNat i0.toNat
  else .pad

/-- The whole map stays on chip: X and Y name banks (R257). -/
def onChip (d : Desc) : Bool := isBank (wnX d) && isBank (wnY d)

/-- Row of X's bank that holds input row i1 of map m for a span whose first output row is `row0` (R257): rows stand from
the input row of the first output row on, map after map (DESIGN CHOICE for the maps after the first, assumption 60). -/
def bankRow (b : List Byte) (row0 m : Nat) (i1 : Int) : Nat :=
  let m0 := row0 / wO1 b
  let start : Int := max ((row0 % wO1 b * wS1 b : Nat) - (wP1Pre b : Int)) (-(wHaloPre b : Int))
  if m = m0 then (i1 - start).toNat
  else
    (max 0 ((wI1 b : Int) + wHaloPost b - start)
      + ((m - m0 - 1 : Nat) : Int) * ((wI1 b : Int) + wHaloPost b + wHaloPre b) + i1 + wHaloPre b).toNat

-- ------------------------------------------------------------------------------------------------ what a span reads and writes

/-- Some tap of outputs o0 to o0 + n - 1 reaches input coordinate i of an axis (R250). -/
def tapReaches (k s d pre o0 n : Nat) (i : Int) : Bool :=
  (List.range k).any fun t =>
    let x := i + (pre : Int) - (t * d : Nat)
    x % (s : Int) == 0 && decide ((o0 : Int) ≤ x / (s : Int)) && decide (x / (s : Int) < ((o0 + n : Nat) : Int))

/-- The input columns that output columns c.1 to c.1 + c.2 - 1 reach, as runs (R251, R256). -/
def reachedColumns (b : List Byte) (c : Nat × Nat) : List (Int × Nat) :=
  joinRuns (((List.range (wI0 b)).filter fun (i : Nat) => tapReaches (wK0 b) (wS0 b) (wD0 b) (wP0Pre b) c.1 c.2 i).map fun (i : Nat) => ((i : Int), 1))

/-- The input rows that a run of output rows reaches, halo rows among them: map and coordinate, ascending. -/
def reachedRows (b : List Byte) (run : Nat × Nat) : List (Nat × Int) :=
  (List.range (wBatch b)).flatMap fun m =>
    let lo := max run.1 (m * wO1 b)
    let hi := min (run.1 + run.2) ((m + 1) * wO1 b)
    ((List.range (wHaloPre b + wI1 b + wHaloPost b)).map fun (i : Nat) => (i : Int) - (wHaloPre b : Int)).filterMap fun i =>
      if tapReaches (wK1 b) (wS1 b) (wD1 b) (wP1Pre b) (lo - m * wO1 b) (hi - lo) i then some (m, i) else none

/-- Where a reached row stands: in X, in HALO_PRE or in HALO_POST, and which row of it is meant; every row stands in X's bank
where X and Y name banks (R251, R257). -/
def rowPlace (d : Desc) (b : List Byte) (row0 : Nat) (r : Nat × Int) : Nat × Nat :=
  if onChip d then (0, bankRow b row0 r.1 r.2)
  else if r.2 < 0 then (1, r.1 * wHaloPre b + (r.2 + (wHaloPre b : Int)).toNat)
  else if r.2 < (wI1 b : Int) then (0, r.1 * wI1 b + r.2.toNat)
  else (2, r.1 * wHaloPost b + (r.2 - (wI1 b : Int)).toNat)

/-- Runs of elements: the given columns of the given rows, `w` columns of `c` channels each. -/
def gridRuns (w c : Nat) (rows : List Nat) (cols : List (Int × Nat)) : List (Int × Nat) :=
  joinRuns <| rows.flatMap fun r => cols.map fun x => ((((r * w : Nat) : Int) + x.1) * (c : Int), x.2 * c)

/-- Rows of X's bank that are needed on the span that needs the most of them (R257). -/
def wnBankRows (d : Desc) (b : List Byte) : Nat :=
  (List.range d.spanCount).foldl (fun n j =>
    let run := wnRun d b j
    (reachedRows b run).foldl (fun n r => max n (bankRow b run.1 r.1 r.2 + 1)) n) 0

/-- Rows and bytes of the line buffer for `cols` input columns (R255, R256). -/
def lineRows (b : List Byte) : Nat := wD1 b * (min (wK1 b) 16 - 1) + 1
def lineBytes (d : Desc) (b : List Byte) (cols : Nat) : Nat := ceilDiv (lineRows b * cols * wCin b * codeBits (wnX d).fmt) 8

/-- The operands of CONV_TAPS and POOL, whole: their extents (R249, R257). -/
def windowExtents (p : Plan) (d : Desc) : List Use :=
  let b := wnParam p d
  let m := wnMaster d b
  let row := wI0 b * wCin b
  let outRow := wO0 b * wCout b
  let outN := fun (o : Operand) => if isBank o then (wnRun d b 0).2 * outRow else wnRows b * outRow
  [useRead (wnX d) ((if onChip d then wnBankRows d b else wBatch b * wI1 b) * row) m,
   useRead (wHaloPreOp b) (wBatch b * wHaloPre b * row) m, useRead (wHaloPostOp b) (wBatch b * wHaloPost b * row) m]
    ++ (if d.opcode = opPool then [useWrite (wnW d) (outN (wnW d)) m]
        else [useRead (wnW d) (wGroups b * wK1 b * wK0 b * wCoutg b * wCing b) m, useRead (wnBias d) (wCout b) m])
    ++ [useWrite (wnY d) (outN (wnY d)) m]

/-- The line buffer as an operand: bytes of bank LINE_BANK (R255). -/
def lineOperand (b : List Byte) : Operand :=
  { handle := bankOperand, fmt := 6, bank := wLineBank b, stream := 0, offset := 0, skip := 0 }

/-- What a pass over output columns `c` reads and writes, span by span: the inputs that its taps reach, which are all that is
read (R251, R256), the filter, its outputs, and the line buffer. -/
def windowPart (p : Plan) (d : Desc) (c : Nat × Nat) : List Use :=
  let b := wnParam p d
  let m := wnMaster d b
  let row := wI0 b * wCin b
  let cols := reachedColumns b c
  (List.range d.spanCount).flatMap fun j =>
    let run := wnRun d b j
    let x := d.spanFirst + j * d.spanStride
    let rows := (reachedRows b run).map (rowPlace d b run.1)
    let input := fun (k : Nat) (o : Operand) (n : Nat) =>
      usesOn x (useRead o (n * row) m)
        (gridRuns (wI0 b) (wCin b) ((rows.filter fun r => r.1 == k).map (·.2)) cols)
    let output := fun (o : Operand) =>
      let first := if isBank o then 0 else run.1
      usesOn x (useWrite o ((if isBank o then run.2 else wnRows b) * (wO0 b * wCout b)) m)
        (gridRuns (wO0 b) (wCout b) ((List.range run.2).map (first + ·)) [((c.1 : Int), c.2)])
    if run.2 = 0 then []
    else
      input 0 (wnX d) (if onChip d then wnBankRows d b else wBatch b * wI1 b)
        ++ input 1 (wHaloPreOp b) (wBatch b * wHaloPre b) ++ input 2 (wHaloPostOp b) (wBatch b * wHaloPost b)
        ++ (if d.opcode = opPool then output (wnW d)
            else [useOn (useRead (wnW d) (wGroups b * wK1 b * wK0 b * wCoutg b * wCing b) m) x,
                  useOn (useRead (wnBias d) (wCout b) m) x])
        ++ output (wnY d)
        ++ [useOn (useWriteRaw (lineOperand b) (lineBytes d b (cols.foldl (fun n r => n + r.2) 0)) 1) x]

/-- What the whole descriptor reads and writes. -/
def windowUses (p : Plan) (d : Desc) : List Use := windowPart p d (0, wO0 (wnParam p d))

/-- What one pass of it does: its part of the output columns (R256). -/
def windowPassUses (p : Plan) (d : Desc) (pass : Nat) : List Use :=
  windowPart p d (passPart p d.seq pass (wO0 (wnParam p d)))

/-- The reads of halo rows (R258): of HALO_PRE and HALO_POST, or of those rows in X's bank. -/
def haloUses (p : Plan) (d : Desc) : List Use :=
  let b := wnParam p d
  (List.range d.spanCount).flatMap fun j =>
    let run := wnRun d b j
    let rows := ((reachedRows b run).filter fun r => decide (r.2 < 0 ∨ (wI1 b : Int) ≤ r.2)).map (rowPlace d b run.1)
    [(0, wnX d), (1, wHaloPreOp b), (2, wHaloPostOp b)].flatMap fun e =>
      usesOn (d.spanFirst + j * d.spanStride) (useRead e.2 0 (wnMaster d b))
        (gridRuns (wI0 b) (wCin b) ((rows.filter fun r => r.1 == e.1).map (·.2)) (reachedColumns b (0, wO0 b)))

-- ------------------------------------------------------------------------------------------------ values

/-- The input element at a coordinate of map m, channel c; none at a padding position (R251, R257). -/
def windowIn (s : State) (p : Plan) (d : Desc) (b : List Byte) (span row0 m : Nat) (i1 i0 : Int) (c : Nat) : Option Num :=
  let at' := fun (o : Operand) (rows row col : Nat) =>
    readElem s p d.seq span o (((m * rows + row) * wI0 b + col) * wCin b + c)
  match resolveTap b i1 i0, onChip d with
  | .pad, _ => none
  | _, true => some (readElem s p d.seq span (wnX d) ((bankRow b row0 m i1 * wI0 b + i0.toNat) * wCin b + c))
  | .input r col, false => some (at' (wnX d) (wI1 b) r col)
  | .haloPre r col, false => some (at' (wHaloPreOp b) (wHaloPre b) r col)
  | .haloPost r col, false => some (at' (wHaloPostOp b) (wHaloPost b) r col)

/-- Input coordinates of output (o1, o0) under tap t (R250). -/
def tapCoord (b : List Byte) (o1 o0 t : Nat) : Int × Int :=
  ((o1 * wS1 b : Nat) - (wP1Pre b : Int) + (t / wK0 b * wD1 b : Nat),
   (o0 * wS0 b : Nat) - (wP0Pre b : Int) + (t % wK0 b * wD0 b : Nat))

/-- The value of a padding position (R251). -/
def padNum (d : Desc) (b : List Byte) : Num :=
  if isIntCode (wnX d).fmt then decodeNum .int32 (narrow .int32 0 0 false (wPad b)) else wPad b

/-- Output element (m, o1, o0, n) of CONV_TAPS before its conversion (R252). -/
def convValue (s : State) (p : Plan) (d : Desc) (b : List Byte) (span row0 m o1 o0 n : Nat) : Num :=
  let site := siteOf p (stepT s p) d 1
  let g := n / wCoutg b
  let n' := n % wCoutg b
  let cg := wCing b
  let i := ((m * wO1 b + o1) * wO0 b + o0) * wCout b + n
  let e := elemIndex p.param (wnY d) i
  let acc := (List.range (wK1 b * wK0 b)).foldl (fun a t =>
    let xy := tapCoord b o1 o0 t
    let term := fun c =>
      let x := (windowIn s p d b span row0 m xy.1 xy.2 (g * cg + c)).getD (padNum d b)
      numMul x (readElem s p d.seq span (wnW d) (((g * wK1 b * wK0 b + t) * wCoutg b + n') * cg + c))
    accChunks site (accRound d) e (t * ceilDiv cg 32) cg 0 (ceilDiv cg 32) term a) (accZero (isIntCode (wnX d).fmt))
  let bias := if isNone (wnBias d) then none else some (readElem s p d.seq span (wnBias d) n)
  epilogue (wnScale d) bias (wnAct d) (accNum acc)

/-- The index of an output element in its operand on a span: the whole output, or the span's own rows in a bank. -/
def windowOut (o : Operand) (b : List Byte) (row0 row o0 n : Nat) : Nat :=
  (((if isBank o then row - row0 else row) * wO0 b) + o0) * wCout b + n

/-- A pass of a sliding-window operator: its rows on every span, its columns by R256. -/
def windowRows (p : Plan) (d : Desc) (pass : Nat) (s : State) (f : State → Nat → Nat → Nat → Nat → State) : State :=
  let b := wnParam p d
  let cols := passPart p d.seq pass (wO0 b)
  (List.range d.spanCount).foldl (fun t j =>
    let run := wnRun d b j
    (List.range run.2).foldl (fun t r =>
      (List.range cols.2).foldl (fun t c =>
        f t (d.spanFirst + j * d.spanStride) run.1 (run.1 + r) (cols.1 + c)) t) t) s

/-- The bytes of `n` elements of a row of X or of a halo, as codes of X's format without their scales. -/
def rowCodes (s : State) (p : Plan) (d : Desc) (span : Nat) (o : Operand) (start n : Nat) : List Byte :=
  let w := codeBits (wnX d).fmt
  let v := ((List.range n).map fun i => readRaw s p d.seq span o (start + i)).foldr (fun c a => a * 2 ^ w + c % 2 ^ w) 0
  leBytes (ceilDiv (n * w) 8) v

/-- The input rows of a span's part pass through its line buffer (R255): each, in the order of its use, takes the place of
its coordinate modulo the rows held, its reached columns side by side. Where a row stands in the bank is the model's
choice (assumption 59). -/
def fillLines (s : State) (p : Plan) (d : Desc) (pass : Nat) (t : State) : State :=
  let b := wnParam p d
  let cols := reachedColumns b (passPart p d.seq pass (wO0 b))
  let width := cols.foldl (fun n r => n + r.2) 0
  let bytes := ceilDiv (width * wCin b * codeBits (wnX d).fmt) 8
  (List.range d.spanCount).foldl (fun t j =>
    let run := wnRun d b j
    let x := d.spanFirst + j * d.spanStride
    (reachedRows b run).foldl (fun t r =>
      let at_ := rowPlace d b run.1 r
      let o := if at_.1 = 1 then wHaloPreOp b else if at_.1 = 2 then wHaloPostOp b else wnX d
      let codes := cols.flatMap fun c => rowCodes s p d x o ((at_.2 * wI0 b + c.1.toNat) * wCin b) (c.2 * wCin b)
      writeBytes t p x (lineOperand b) ((r.2 % (lineRows b : Int)).toNat * bytes) codes) t) t

/-- The unused scale bytes that end Y (R137): in a bank those of each span's own rows, once the last columns are written. -/
def finishWindow (p : Plan) (d : Desc) (pass : Nat) (t : State) : State :=
  let b := wnParam p d
  let c := passPart p d.seq pass (wO0 b)
  let y := wnY d
  if c.1 + c.2 ≠ wO0 b then t
  else if isBank y then
    (List.range d.spanCount).foldl (fun t j =>
      padScales t p (d.spanFirst + j * d.spanStride) y ((wnRun d b j).2 * wO0 b * wCout b)) t
  else padScales t p d.spanFirst y (wnRows b * wO0 b * wCout b)

def convRun (s : State) (p : Plan) (d : Desc) (pass : Nat) : State :=
  let b := wnParam p d
  let y := wnY d
  let rl := runLength y
  let site := siteOf p (stepT s p) d 0
  finishWindow p d pass <| fillLines s p d pass <| windowRows p d pass s fun t span row0 row o0 =>
    let m := row / wO1 b
    let o1 := row % wO1 b
    (List.range (wCout b / rl)).foldl (fun t k =>
      let xs := (List.range rl).map fun j => convValue s p d b span row0 m o1 o0 (k * rl + j)
      let start := windowOut y b row0 row o0 (k * rl)
      let shift := if isBank y then row0 * wO0 b * wCout b else 0
      let e := fun i => if isBank y then i + shift else elemIndex p.param y i
      writeRun t p span y start site (outRound d) e false xs) t

def execConvTaps (seq pass : Nat) (s : State) : Host.Outcome State Fault Refusal :=
  .next (operate [opConvTaps] seq pass (fun _ => windowPassUses) convRun s)

-- ------------------------------------------------------------------------------------------------ POOL

/-- The non-padding taps of a window: tap index, value, input coordinates. -/
def poolTaps (s : State) (p : Plan) (d : Desc) (b : List Byte) (span row0 m o1 o0 n : Nat) : List (Nat × Num × Int) :=
  (List.range (wK1 b * wK0 b)).filterMap fun t =>
    let xy := tapCoord b o1 o0 t
    (windowIn s p d b span row0 m xy.1 xy.2 n).map fun v => (t, v, xy.1 * (wI0 b : Int) + xy.2)

/-- The value and index of one output of POOL (R259). -/
def poolValue (s : State) (p : Plan) (d : Desc) (b : List Byte) (e : Nat) (taps : List (Nat × Num × Int)) : Num × Int :=
  let site := siteOf p (stepT s p) d 1
  if wPoolOp b = 0 then
    match taps with
    | [] => (.inf true, -1)
    | x :: xs =>
      let w := xs.foldl (fun (a : Num × Int) y => if (winner true (a.1, 0) (y.2.1, 1)).2 = 1 then y.2 else a) x.2
      w
  else
    let sum := taps.foldl (fun a t => round32 site (accRound d) e t.1 (numAdd a t.2.1)) numZero
    let n := if wPoolOp b = 1 then wK1 b * wK0 b else taps.length
    if taps.isEmpty then (numZero, 0) else (div32 sum (numOfNat n), 0)

def poolRun (s : State) (p : Plan) (d : Desc) (pass : Nat) : State :=
  let b := wnParam p d
  let y := wnY d
  let idx := wnW d
  let rl := runLength y
  let site := siteOf p (stepT s p) d 0
  finishWindow p d pass <| fillLines s p d pass <| windowRows p d pass s fun t span row0 row o0 =>
    let m := row / wO1 b
    let o1 := row % wO1 b
    let whole := fun n => (row * wO0 b + o0) * wCout b + n
    let value := fun n => poolValue s p d b (if isBank y then whole n else elemIndex p.param y (whole n))
      (poolTaps s p d b span row0 m o1 o0 n)
    let t := (List.range (wCout b / rl)).foldl (fun t k =>
      let xs := (List.range rl).map fun j => (value (k * rl + j)).1
      let start := windowOut y b row0 row o0 (k * rl)
      let e := fun i => if isBank y then i + row0 * wO0 b * wCout b else elemIndex p.param y i
      writeRun t p span y start site (outRound d) e false xs) t
    if isNone idx then t
    else (List.range (wCout b)).foldl (fun t n =>
      writeRaw t p span idx (windowOut idx b row0 row o0 n) (unsignedOf 32 (value n).2)) t

def execPool (seq pass : Nat) (s : State) : Host.Outcome State Fault Refusal :=
  .next (operate [opPool] seq pass (fun _ => windowPassUses) poolRun s)

end Sys2Proof.Machine
end

