-- ==== Sys2Proof/Machine/DecodePhase.lean ====
section
/-! DEFINITION. The token-by-token phase (spec 10): MATVEC_BATCH, ATTN_DECODE, PREFIX_LOOKUP, PREFIX_INSERT. -/

namespace Sys2Proof.Machine

-- ------------------------------------------------------------------------------------------------ the batch table

/-- POS, STATE, LIST and BLOCKS of a slot (Table 10-1). -/
structure SlotEntry where
  pos    : Nat
  active : Bool
  list   : Nat
  blocks : Nat
  deriving DecidableEq, Repr

def slotOf (b : List Byte) : SlotEntry :=
  { pos := fieldAt b 0 8 % 2 ^ 48, active := bitsOf (fieldAt b 7 1) 2 0 == 1, list := fieldAt b 8 4, blocks := fieldAt b 0xC 4 }

/-- The batch table of a buffer, at offset 0 of its current generation (R212). -/
def batchEntry (s : State) (p : Plan) (handle slot : Nat) : SlotEntry :=
  match p.bufs[handle]? with
  | none => ⟨0, false, 0, 0⟩
  | some b =>
    let base := if twoHalves b then halfAddr b (currentHalf s handle) else b.addr
    slotOf (tabBytes s.dram.mem (base + 16 * slot) 16)

/-- Active slots below a bound, ascending. -/
def activeSlots (s : State) (p : Plan) (handle n : Nat) : List Nat :=
  (List.range n).filter fun k => (batchEntry s p handle k).active

-- ------------------------------------------------------------------------------------------------ MATVEC_BATCH

def mvBatch (d : Desc) : Nat := b16 d 0x5A

/-- Operands of MATVEC_BATCH as validation sees them: every row. -/
def matvecUses (p : Plan) (d : Desc) : List Use :=
  matmulUses p d ++ [useReadRaw ⟨mvBatch d, 8, 0, 0, 0, 0⟩ (16 * mmM d) 0]

/-- What it reads and writes in a state: the rows of active slots (R215). -/
def matvecActive (s : State) (p : Plan) (d : Desc) : List Use :=
  let rows := activeSlots s p (mvBatch d) (mmM d)
  (matvecUses p d).flatMap fun u =>
    if u.raw && u.add then rows.map fun m => usePart u (m * (8 * mmN d)) (8 * mmN d)
    else if u.raw then [u]
    else if u.o == mmA d && !u.write && !u.add && u.n == mmM d * mmK d then rows.map fun m => usePart u (m * mmK d) (mmK d)
    else if u.o == mmOut d then rows.map fun m => usePart u (m * mmN d) (mmN d)
    else [u]

/-- R215: each active row as a MATMUL computes it. -/
def matvecRun (s : State) (p : Plan) (d : Desc) (pass : Nat) : State :=
  let out := mmOut d
  let site := siteOf p (stepT s p) d 0
  let rl := runLength out
  let act := activeSlots s p (mvBatch d) (mmM d)
  act.foldl (fun t m =>
    (List.range (mmN d / rl)).foldl (fun t r =>
      let i := m * mmN d + r * rl
      let span := groupSpan d (mmSplitK d) (mmBlock d m (r * rl)).1 0
      let vals := (List.range rl).map fun j => mmValue s p d d m (r * rl + j)
      if mmAccOut d = 2 then
        match fmtOf out.fmt with
        | none => t
        | some f =>
          let pos := ((elemBit p.param out i).1 / 8).toNat
          if mmWide d then
            emitAdd t p d out (out.offset + 8 * i) out.fmt true pass (unsignedOf 64 (signedOf 32 (accBits (mmSum s p d d m r))))
          else
            emitAdd t p d out pos out.fmt false pass
              (narrow f (outRound d) (bitsFor site (outRound d) (elemIndex p.param out i)) false (vals.headD numZero))
      else padTail (writeRun t p span out i site (outRound d) (elemIndex p.param out) false vals) p span out (mmM d * mmN d) i rl) t) s

def execMatvecBatch (seq pass : Nat) (s : State) : Host.Outcome State Fault Refusal :=
  .next (operate [opMatvec] seq pass (fun s p d _ => matvecActive s p d) matvecRun s)

-- ------------------------------------------------------------------------------------------------ ATTN_DECODE

def adQ (d : Desc) : Operand := opAt d 0
def adO (d : Desc) : Operand := opAt d 0x10
def adKNew (d : Desc) : Operand := opAt d 0x20
def adVNew (d : Desc) : Operand := opAt d 0x30

/-- The decode parameter block of a descriptor (Table 10-2): 128 bytes. -/
def adParam (p : Plan) (d : Desc) : List Byte := (p.param.drop (b32 d 0x40)).take 128

def dpHq (b : List Byte) : Nat := fieldAt b 0 2
def dpHkv (b : List Byte) : Nat := fieldAt b 2 2
def dpD (b : List Byte) : Nat := fieldAt b 4 2
def dpMask (b : List Byte) : Nat := fieldAt b 6 1 % 4
def dpPFmt (b : List Byte) : Nat := fieldAt b 7 1 % 16
def dpScale (b : List Byte) : Num := decodeNum .fp32 (fieldAt b 8 4)
def dpCap (b : List Byte) : Num := decodeNum .fp32 (fieldAt b 0xC 4)
def dpWl (b : List Byte) : Nat := fieldAt b 0x10 4
def dpUnit (b : List Byte) : Nat := fieldAt b 0x14 2
def dpCache (b : List Byte) : Operand := operandAt b 0x20
def dpBatch (b : List Byte) : Operand := operandAt b 0x30
def dpLists (b : List Byte) : Operand := operandAt b 0x40
def dpLse (b : List Byte) : Operand := operandAt b 0x50

/-- The largest unit (R220). -/
def dpUnitMax (b : List Byte) : Nat := min 512 (65536 / (dpD b * dpHq b / dpHkv b))

/-- Elements and bytes of the K part of a block, and of the whole block (R213). -/
def partElems (b : List Byte) : Nat := 128 * dpHkv b * dpD b
def partBytes (b : List Byte) : Nat := denseBytes (dpCache b).fmt (partElems b)
def blockSize (b : List Byte) : Nat := 2 * partBytes b

/-- The K part or the V part of block `k` as an operand. -/
def cachePart (b : List Byte) (k : Nat) (v : Bool) : Operand :=
  { dpCache b with offset := (dpCache b).offset + k * blockSize b + (if v then partBytes b else 0) }

/-- Bytes that an operand can cover: its buffer's SIZE, or the bank (R45). -/
def operandLimit (p : Plan) (o : Operand) : Nat :=
  if isBank o then bankSize else match p.bufs[o.handle]? with | some b => b.size | none => 0

/-- Entry `i` of a slot's block list, as a signed number. -/
def listEntry (s : State) (p : Plan) (seq span : Nat) (b : List Byte) (e : SlotEntry) (i : Nat) : Int :=
  signedOf 32 (readRaw s p seq span (dpLists b) (e.list + i))

/-- List indices whose keys a row at POS can meet (R218), up to POS ÷ 128. -/
def neededIndices (b : List Byte) (pos : Nat) : List Nat :=
  let lo := if dpMask b = 2 then (pos - dpWl b) / 128 else 0
  (List.range (pos / 128 + 1)).filter fun i => decide (lo ≤ i)

/-- R219: an active slot that is unserved. Of its list only the entries that its POS reaches must
lie in LISTS (DESIGN CHOICE, assumption 236). -/
def unserved (s : State) (p : Plan) (seq span : Nat) (b : List Byte) (e : SlotEntry) : Bool :=
  let n := e.pos / 128 + 1
  decide (e.blocks < n) || e.pos == 2 ^ 48 - 1
    || decide (operandLimit p (dpLists b) < (dpLists b).offset + 4 * (e.list + n))
    || (neededIndices b e.pos).any fun i =>
        let k := listEntry s p seq span b e i
        decide (k < 0) || decide (operandLimit p (dpCache b) < (dpCache b).offset + (k.toNat + 1) * blockSize b)

/-- Operands as validation sees them: every slot, with the cache reached only by what the slots name. -/
def attnDecodeUses (p : Plan) (d : Desc) : List Use :=
  let b := adParam p d
  let q := 512 * dpHq b * dpD b
  let k := 512 * dpHkv b * dpD b
  [useRead (adQ d) q 3, useRead (adKNew d) k 3, useRead (adVNew d) k 3, useReadRaw { dpBatch b with offset := 0 } 8192 3,
   useWrite (adO d) q 3, useWrite (dpLse b) (512 * dpHq b) 3]

/-- Slot of the batch table named by the parameter block: at offset 0 of its buffer (R212). -/
def decodeSlot (s : State) (p : Plan) (b : List Byte) (slot : Nat) : SlotEntry := batchEntry s p (dpBatch b).handle slot

def decodeActive (s : State) (p : Plan) (b : List Byte) : List Nat :=
  (List.range 512).filter fun k => (decodeSlot s p b k).active

/-- The span of slot `k`, query head `h`: units of consecutive active slots per key/value head, assigned as in R182 by
the number of distinct blocks that they read (R220); an unserved slot reads none. Units of
equal counts rank by key/value head, then run (DESIGN CHOICE, assumption 237). -/
def decodeSpan (s : State) (p : Plan) (d : Desc) (b : List Byte) (active : List Nat) (k h : Nat) : Nat :=
  let g := h / (dpHq b / dpHkv b)
  let u := if dpUnit b = 0 then dpUnitMax b else dpUnit b
  let runs := ceilDiv active.length u
  let blocksOfRun := fun r =>
    ((((active.drop (r * u)).take u).filter fun x => !unserved s p d.seq d.spanFirst b (decodeSlot s p b x)).flatMap fun x =>
      let e := decodeSlot s p b x
      (neededIndices b e.pos).map fun i => listEntry s p d.seq d.spanFirst b e i).eraseDups.length
  let units := (List.range (dpHkv b)).flatMap fun g' => (List.range runs).map fun r => (blocksOfRun r, g' * runs + r)
  let mine := g * runs + (active.idxOf k) / u
  match (assignUnits d.spanCount units).find? (fun x => x.1 == mine) with
  | some x => d.spanFirst + x.2 * d.spanStride
  | none => d.spanFirst

/-- What a decode reads and writes in a state. -/
def decodeUses (s : State) (p : Plan) (d : Desc) : List Use :=
  let b := adParam p d
  let act := decodeActive s p b
  let k := dpHkv b * dpD b
  let heads := fun (u : Use) (x n per w : Nat) =>
    if isBank u.o then (List.range n).map fun h => usePart (useOn u (decodeSpan s p d b act x (h * per))) ((x * n + h) * w) w
    else [usePart u (x * n * w) (n * w)]
  act.flatMap (fun x =>
    let e := decodeSlot s p b x
    let un := unserved s p d.seq d.spanFirst b e
    heads (useRead (adQ d) 0 3) x (dpHq b) 1 (dpD b) ++ heads (useWrite (adO d) 0 3) x (dpHq b) 1 (dpD b)
      ++ heads (useWrite (dpLse b) 0 3) x (dpHq b) 1 1
      ++ (if un then []
          else
            let blk := fun i => (listEntry s p d.seq d.spanFirst b e i).toNat
            let row := e.pos % 128
            heads (useRead (adKNew d) 0 3) x (dpHkv b) (dpHq b / dpHkv b) (dpD b)
              ++ heads (useRead (adVNew d) 0 3) x (dpHkv b) (dpHq b / dpHkv b) (dpD b)
              ++
            [usePart (useRead (dpLists b) 0 3) e.list (e.pos / 128 + 1),
             usePart (useWrite (cachePart b (blk (e.pos / 128)) false) 0 3) (row * k) k,
             usePart (useWrite (cachePart b (blk (e.pos / 128)) true) 0 3) (row * k) k]
              ++ (neededIndices b e.pos).flatMap fun i =>
                  [useRead (cachePart b (blk i) false) (partElems b) 3, useRead (cachePart b (blk i) true) (partElems b) 3]))
    ++ [useReadRaw { dpBatch b with offset := 0 } 8192 3]

/-- Copy `n` elements, bits unchanged, block scales included (R217). -/
def copyBits (s t : State) (p : Plan) (seq span : Nat) (src dst : Operand) (from' to' n : Nat) : State :=
  match fmtOf src.fmt with
  | none => t
  | some f =>
    let t := (List.range n).foldl (fun t i => writeRaw t p span dst (to' + i) (readRaw s p seq span src (from' + i))) t
    if fmtScaled f then
      (List.range (n / 32)).foldl (fun t i =>
        writeByte t p span dst (scaleByte dst f (to' / 32 + i)) (readByte s p seq span src (scaleByte src f (from' / 32 + i)))) t
    else t

/-- R217: the new keys and values of a served slot into its cache, each head's by the span of its unit. -/
def appendSlot (s : State) (p : Plan) (d : Desc) (b : List Byte) (act : List Nat) (t : State) (x : Nat) : State :=
  let e := decodeSlot s p b x
  if unserved s p d.seq d.spanFirst b e then t
  else
    let k := dpHkv b * dpD b
    let blk := (listEntry s p d.seq d.spanFirst b e (e.pos / 128)).toNat
    let row := e.pos % 128
    let kPart := cachePart b blk false
    let vPart := cachePart b blk true
    let n := dpD b
    let t := (List.range (dpHkv b)).foldl (fun t g =>
      let span := decodeSpan s p d b act x (g * (dpHq b / dpHkv b))
      let t := copyBits s t p d.seq span (adKNew d) kPart ((x * dpHkv b + g) * n) ((row * dpHkv b + g) * n) n
      copyBits s t p d.seq span (adVNew d) vPart ((x * dpHkv b + g) * n) ((row * dpHkv b + g) * n) n) t
    noteWrites t p d.seq (targets d)
      [usePart (useWrite kPart 0 3) (row * k) k, usePart (useWrite vPart 0 3) (row * k) k]

/-- One row (slot, head) of ATTN_DECODE (R218): the keys are read after every append, the rest from before. The
element index in O counts as R147 does, from where the operand's buffer begins (DEDUCED, assumption 235). -/
def decodeRow (s k : State) (p : Plan) (d : Desc) (b : List Byte) (act : List Nat) (t : State) (x h : Nat) : State :=
  let e := decodeSlot s p b x
  let span := decodeSpan s p d b act x h
  let g := h / (dpHq b / dpHkv b)
  let dd := dpD b
  let qi := fun i => (x * dpHq b + h) * dd + i
  let res :=
    if unserved s p d.seq span b e then (List.replicate dd numZero, Num.inf true)
    else
      rowResult ((neededIndices b e.pos).foldl (fun st i =>
        let blk := (listEntry s p d.seq span b e i).toNat
        let key := fun j y => readElem k p (d.seq + 1) span (cachePart b blk false) ((j * dpHkv b + g) * dd + y)
        let val := fun j y => readElem k p (d.seq + 1) span (cachePart b blk true) ((j * dpHkv b + g) * dd + y)
        let xz := (List.range 128).map fun j =>
          let pk := 128 * i + j
          if pk ≤ e.pos ∧ (dpMask b ≠ 2 ∨ e.pos ≤ pk + dpWl b) then
            some (attnZ (dpScale b) (dpCap b)
              (dotChunks dd fun y => numMul (readElem s p d.seq span (adQ d) (qi y)) (key j y)))
          else none
        rowFold (dpPFmt b) xz val st) ⟨.inf true, numZero, List.replicate dd numZero, false⟩)
  let t := writeRun t p span (adO d) (qi 0) (siteOf p (stepT s p) d 0) (outRound d) (elemIndex p.param (adO d)) false res.1
  if isNone (dpLse b) then t else writeRaw t p span (dpLse b) (x * dpHq b + h) (widen .fp32 res.2)

def attnDecodeRun (s : State) (p : Plan) (d : Desc) (_ : Nat) : State :=
  let b := adParam p d
  let act := decodeActive s p b
  let k := act.foldl (appendSlot s p d b act) s
  act.foldl (fun t x => (List.range (dpHq b)).foldl (fun t h => decodeRow s k p d b act t x h) t) k

def execAttnDecode (seq pass : Nat) (s : State) : Host.Outcome State Fault Refusal :=
  .next (operate [opAttnDecode] seq pass (fun s p d _ => decodeUses s p d) attnDecodeRun s)

-- ------------------------------------------------------------------------------------------------ the prefix table

def pfTable (d : Desc) : Operand := opAt d 0
def pfTokens (d : Desc) : Operand := opAt d 0x10
def pfBlocks (d : Desc) : Operand := opAt d 0x20
def pfResult (d : Desc) : Operand := opAt d 0x30
def pfEvicted (d : Desc) : Operand := opAt d 0x40
def pfNamespace (d : Desc) : Nat := b64 d 0x50
def pfQueries (d : Desc) : Nat := b16 d 0x58
def pfDepth (d : Desc) : Nat := b16 d 0x5A

def prefixMagic : Nat := 0x58465250

/-- Drop the entries of a byte range: every byte of it reads zero. -/
def clearRange (m : Tab Byte) (a n : Nat) : Tab Byte := tabKeep (fun k => decide (k < a) || decide (a + n ≤ k)) m

/-- Make the working half of a buffer hold every byte that the segment has not written, from the current half (the copy
of R446, also used when a PREFIX descriptor opens its table). -/
def fillWorking (s : State) (b : Buf) (handle : Nat) : State :=
  let src := halfAddr b (currentHalf s handle)
  let dst := halfAddr b (workingHalf s handle)
  let wrote := fun pos => s.ks.written.any fun w => w.handle == handle && decide (w.off ≤ pos ∧ pos < w.off + w.len)
  let kept := tabKeep (fun k => decide (k < dst) || decide (dst + b.size ≤ k) || wrote (k - dst)) s.dram.mem
  let mem := s.dram.mem.foldl (fun m e =>
    if src ≤ e.1 ∧ e.1 < src + b.size ∧ !wrote (e.1 - src) then tabSet 0 m (dst + (e.1 - src)) e.2 else m) kept
  { s with dram := { s.dram with mem := mem } }

/-- Read or write the working half of the table buffer. -/
def tblBase (s : State) (b : Buf) (handle : Nat) : Nat := halfAddr b (workingHalf s handle)
def tblGet (s : State) (a o n : Nat) : Nat := memNat s.dram.mem (a + o) n
def tblPut (s : State) (a o n v : Nat) : State :=
  { s with dram := { s.dram with mem := tabPut s.dram.mem (a + o) (leBytes n v) } }

/-- INDEX_SLOTS for n nodes: 2^⌈log₂(2n)⌉ (Table 10-4). -/
def indexSlots (n : Nat) : Nat :=
  let x := 2 * n
  if x = 2 ^ Nat.log2 x then x else 2 ^ (Nat.log2 x + 1)

/-- Bytes of a table of n nodes (R223). -/
def tableBytes (n : Nat) : Nat := 0x100 + 8 * indexSlots n + 576 * n

/-- The largest n, up to a cap, whose table fits (R224). -/
def largestTable (size : Nat) : Nat → Nat → Nat → Nat
  | 0, lo, _ => lo
  | k + 1, lo, hi =>
    if hi ≤ lo then lo
    else
      let mid := (lo + hi + 1) / 2
      if tableBytes mid ≤ size then largestTable size k mid hi else largestTable size k lo (mid - 1)

def nodeOff (slots k : Nat) : Nat := 0x100 + 8 * slots + 576 * k

/-- R224: initialise the table at `a`, which has `room` bytes, when its MAGIC or its EPOCH is not the device's. -/
def initTable (s : State) (room a : Nat) : State :=
  if tblGet s a 0 4 = prefixMagic ∧ tblGet s a 4 4 = s.ks.prefixEpoch.toNat then s
  else
    let n := largestTable room 64 0 s.ks.prefixCap
    let slots := indexSlots n
    let s := tblPut s a 0 4 prefixMagic
    let s := tblPut s a 4 4 s.ks.prefixEpoch.toNat
    let s := tblPut s a 8 4 n
    let s := tblPut s a 0xC 4 0
    let s := tblPut s a 0x10 4 slots
    let s := tblPut s a 0x18 8 0
    let m := clearRange s.dram.mem (a + 0x100) (8 * slots)
    let first := a + 0x100 + 8 * slots
    let m := m.filterMap fun e =>
      if first ≤ e.1 ∧ e.1 < first + 576 * n ∧ (e.1 - first) % 576 = 0x1C then
        (let v := e.2 &&& 0xFE; if v = 0 then none else some (e.1, v))
      else some e
    { s with dram := { s.dram with mem := m } }

/-- Open the table for a PREFIX descriptor: its working generation holds the whole table. -/
def openTable (s : State) (p : Plan) (d : Desc) : State × Nat :=
  match p.bufs[(pfTable d).handle]? with
  | none => (s, 0)
  | some b =>
    let h := (pfTable d).handle
    let s := fillWorking s b h
    let s := { s with ks := { s.ks with written := s.ks.written ++ [⟨d.seq, h, 0, b.size⟩] } }
    let s := freshSectors s [(tblBase s b h, b.size)]
    let a := tblBase s b h + (pfTable d).offset
    (initTable s (b.size - (pfTable d).offset) a, a)

/-- A query's tokens of block i, and its count of full blocks (R226). -/
def queryTokens (s : State) (p : Plan) (d : Desc) (q i : Nat) : List Nat :=
  (List.range 128).map fun j =>
    readRaw s p d.seq d.spanFirst (pfTokens d) (q * (1 + 128 * pfDepth d) + 1 + 128 * i + j)

def queryBlocks (s : State) (p : Plan) (d : Desc) (q : Nat) : Nat :=
  let l := signedOf 32 (readRaw s p d.seq d.spanFirst (pfTokens d) (q * (1 + 128 * pfDepth d)))
  min (l / 128).toNat (pfDepth d)

/-- The chained hash (R225). -/
def blockHash (s : State) (ns prev : Nat) (toks : List Nat) : Nat :=
  sipHash s.ks.prefixKey.toNat (leBytes 8 ns ++ leBytes 8 prev ++ toks.flatMap (leBytes 4))

/-- Whether node `k` matches (R225). -/
def nodeMatches (s : State) (a slots k ns h parent : Nat) (toks : List Nat) : Bool :=
  let o := nodeOff slots k
  (tblGet s a (o + 0x1C) 4) % 2 == 1 && tblGet s a o 8 == h && tblGet s a (o + 8) 8 == ns
    && tblGet s a (o + 0x10) 4 == parent
    && toks == (List.range 128).map fun j => tblGet s a (o + 0x40 + 4 * j) 4

/-- Linear probing from slot `i` (R225): the matching node. -/
def probe (s : State) (a slots ns h parent : Nat) (toks : List Nat) : Nat → Nat → Option Nat
  | 0, _ => none
  | n + 1, i =>
    let e := tblGet s a (0x100 + 8 * i) 8
    let k := e % 2 ^ 32
    if k = 0 then none
    else if e / 2 ^ 32 = h / 2 ^ 32 && nodeMatches s a slots (k - 1) ns h parent toks then some (k - 1)
    else probe s a slots ns h parent toks n ((i + 1) % slots)

def findNode (s : State) (a ns h parent : Nat) (toks : List Nat) : Option Nat :=
  let slots := tblGet s a 0x10 4
  probe s a slots ns h parent toks slots (h % slots)

/-- The first empty index slot from `i`, or the slot that holds node number plus one `k`. -/
def seekSlot (s : State) (a slots k : Nat) : Nat → Nat → Nat
  | 0, i => i
  | n + 1, i =>
    if tblGet s a (0x100 + 8 * i) 8 % 2 ^ 32 = k then i else seekSlot s a slots k n ((i + 1) % slots)

def indexInsert (s : State) (a h k : Nat) : State :=
  let slots := tblGet s a 0x10 4
  let i := seekSlot s a slots 0 slots (h % slots)
  tblPut s a (0x100 + 8 * i) 8 (k + 1 + h / 2 ^ 32 * 2 ^ 32)

/-- Backward shifting after slot `i` has been emptied (R225): `j` walks on from it. -/
def shiftBack (a slots : Nat) : Nat → Nat → Nat → State → State
  | 0, _, _, s => s
  | n + 1, i, j, s =>
    let j := (j + 1) % slots
    let e := tblGet s a (0x100 + 8 * j) 8
    if e % 2 ^ 32 = 0 then s
    else
      let home := tblGet s a (nodeOff slots (e % 2 ^ 32 - 1)) 8 % slots
      let stays := if i < j then decide (i < home ∧ home ≤ j) else decide (i < home ∨ home ≤ j)
      if stays then shiftBack a slots n i j s
      else
        let s := tblPut s a (0x100 + 8 * i) 8 e
        shiftBack a slots n j j (tblPut s a (0x100 + 8 * j) 8 0)

def indexRemove (s : State) (a k : Nat) : State :=
  let slots := tblGet s a 0x10 4
  let h := tblGet s a (nodeOff slots k) 8
  let i := seekSlot s a slots (k + 1) slots (h % slots)
  shiftBack a slots slots i i (tblPut s a (0x100 + 8 * i) 8 0)

/-- A matched chain of a query's blocks from block `i` (R227): the nodes, first block first. -/
def matchChain (s t : State) (p : Plan) (d : Desc) (a q : Nat) : Nat → Nat → Nat → Nat → List Nat
  | 0, _, _, _ => []
  | n + 1, i, prev, parent =>
    let toks := queryTokens s p d q i
    let h := blockHash s (pfNamespace d) prev toks
    match findNode t a (pfNamespace d) h parent toks with
    | none => []
    | some k => k :: matchChain s t p d a q n (i + 1) h (k + 1)

/-- Write a result row: the count, the block numbers, −1 beyond (R226). -/
def writeResult (t : State) (p : Plan) (d : Desc) (q : Nat) (blocks : List Nat) : State :=
  let row := q * (1 + pfDepth d)
  let vals := blocks.length :: blocks ++ List.replicate (pfDepth d - blocks.length) 0xFFFFFFFF
  vals.zipIdx.foldl (fun t v => writeRaw t p d.spanFirst (pfResult d) (row + v.2) v.1) t

def prefixStatic (_ : Plan) (d : Desc) : List Use :=
  [useRead (pfTokens d) (pfQueries d * (1 + 128 * pfDepth d)) 0, useRead (pfBlocks d) (pfQueries d * pfDepth d) 0,
   useWrite (pfResult d) (pfQueries d * (1 + pfDepth d)) 0]

/-- The bytes of the table that a PREFIX descriptor reads, from TABLE's OFFSET on: the whole of it, or of what it initialises
(R223, R224). -/
def tableExtent (s : State) (p : Plan) (d : Desc) : Nat :=
  match p.bufs[(pfTable d).handle]? with
  | none => 0
  | some b =>
    let o := pfTable d
    let word := fun i => leNat (readBytes s p (d.seq + 1) d.spanFirst o (o.offset + i) 4)
    let room := b.size - o.offset
    let n := if word 0 = prefixMagic ∧ word 4 = s.ks.prefixEpoch.toNat then word 8 else largestTable room 64 0 s.ks.prefixCap
    min room (tableBytes n)

/-- What PREFIX_LOOKUP reads and writes in a state. -/
def lookupUses (s : State) (p : Plan) (d : Desc) : List Use :=
  prefixStatic p d ++ [useReadRaw (pfTable d) (tableExtent s p d) 0]

/-- R227. -/
def prefixLookupRun (s : State) (p : Plan) (d : Desc) (_ : Nat) : State :=
  let (t, a) := openTable s p d
  let slots := tblGet t a 0x10 4
  let uses := tblGet t a 0x18 8
  let t := (List.range (pfQueries d)).foldl (fun t q =>
    let ks := matchChain s t p d a q (queryBlocks s p d q) 0 0 0
    let t := ks.foldl (fun t k =>
      let o := nodeOff slots k + 0x20
      tblPut t a o 8 (max (tblGet t a o 8) (uses + q + 1))) t
    writeResult t p d q (ks.map fun k => tblGet t a (nodeOff slots k + 0x14) 4)) t
  tblPut t a 0x18 8 (uses + pfQueries d)

def execPrefixLookup (seq : Nat) (s : State) : Host.Outcome State Fault Refusal :=
  .next (operate [opPrefixLookup] seq 0 (fun s p d _ => lookupUses s p d) prefixLookupRun s)

/-- The lowest free node below a bound. -/
def lowestFree (s : State) (a slots : Nat) : Nat → Nat → Option Nat
  | 0, _ => none
  | n + 1, k => if tblGet s a (nodeOff slots k + 0x1C) 4 % 2 = 0 then some k else lowestFree s a slots n (k + 1)

/-- The victim of R228: a used node without children whose STAMP is not the query's, of least STAMP, the lowest number
among equals. -/
def victim (s : State) (a slots stamp n : Nat) : Option Nat :=
  (List.range n).foldl (fun best k =>
    let o := nodeOff slots k
    if tblGet s a (o + 0x1C) 4 % 2 = 1 && tblGet s a (o + 0x18) 4 == 0 && tblGet s a (o + 0x20) 8 != stamp then
      match best with
      | none => some k
      | some v => if tblGet s a (o + 0x20) 8 < tblGet s a (nodeOff slots v + 0x20) 8 then some k else best
    else best) none

/-- Free a node (R228): out of the index, its parent's CHILDREN one less. -/
def freeNode (s : State) (a slots k : Nat) : State :=
  let s := indexRemove s a k
  let o := nodeOff slots k
  let par := tblGet s a (o + 0x10) 4
  let s := tblPut s a (o + 0x1C) 1 (tblGet s a (o + 0x1C) 1 / 2 * 2)
  let s := tblPut s a 0xC 4 (tblGet s a 0xC 4 - 1)
  if par = 0 then s
  else
    let c := nodeOff slots (par - 1) + 0x18
    tblPut s a c 4 (tblGet s a c 4 - 1)

/-- Fill a free node from a block (R228). -/
def fillNode (s : State) (a slots k ns h parent block : Nat) (toks : List Nat) : State :=
  let o := nodeOff slots k
  let s := tblPut s a o 8 h
  let s := tblPut s a (o + 8) 8 ns
  let s := tblPut s a (o + 0x10) 4 parent
  let s := tblPut s a (o + 0x14) 4 block
  let s := tblPut s a (o + 0x18) 4 0
  let s := tblPut s a (o + 0x1C) 4 1
  let s := toks.zipIdx.foldl (fun s v => tblPut s a (o + 0x40 + 4 * v.2) 4 v.1) s
  let s := tblPut s a 0xC 4 (tblGet s a 0xC 4 + 1)
  let s := indexInsert s a h k
  if parent = 0 then s
  else
    let c := nodeOff slots (parent - 1) + 0x18
    tblPut s a c 4 (tblGet s a c 4 + 1)

/-- The blocks of one query from block `i` on (R228): the table, the block numbers of the result, the evicted blocks. -/
def insertBlocks (s : State) (p : Plan) (d : Desc) (a q stamp : Nat) :
    Nat → Nat → Nat → Nat → State → State × List Nat × List Nat
  | 0, _, _, _, t => (t, [], [])
  | n + 1, i, prev, parent, t =>
    let slots := tblGet t a 0x10 4
    let cap := tblGet t a 8 4
    let toks := queryTokens s p d q i
    let ns := pfNamespace d
    let h := blockHash s ns prev toks
    let go := fun (t : State) (k : Nat) (ev : List Nat) =>
      let t := tblPut t a (nodeOff slots k + 0x20) 8 stamp
      let r := insertBlocks s p d a q stamp n (i + 1) h (k + 1) t
      (r.1, tblGet t a (nodeOff slots k + 0x14) 4 :: r.2.1, ev ++ r.2.2)
    match findNode t a ns h parent toks with
    | some k => go t k []
    | none =>
      let block := readRaw s p d.seq d.spanFirst (pfBlocks d) (q * pfDepth d + i)
      let room :=
        if tblGet t a 0xC 4 = cap then
          (victim t a slots stamp cap).map fun v => (freeNode t a slots v, [tblGet t a (nodeOff slots v + 0x14) 4])
        else some (t, [])
      match room with
      | none => (t, [], [])
      | some (t, ev) =>
        match lowestFree t a slots cap 0 with
        | none => (t, [], ev)
        | some k => go (fillNode t a slots k ns h parent block toks) k ev

/-- R228: the table after every query, and the blocks evicted. -/
def insertAll (s : State) (p : Plan) (d : Desc) : State × List Nat :=
  let (t, a) := openTable s p d
  (List.range (pfQueries d)).foldl (fun (acc : State × List Nat) q =>
    let stamp := tblGet acc.1 a 0x18 8 + 1
    let t := tblPut acc.1 a 0x18 8 stamp
    let r := insertBlocks s p d a q stamp (queryBlocks s p d q) 0 0 0 t
    (writeResult r.1 p d q r.2.1, acc.2 ++ r.2.2)) (t, [])

/-- R228: the count and the numbers of the evicted blocks go to EVICTED. -/
def prefixInsertRun (s : State) (p : Plan) (d : Desc) (_ : Nat) : State :=
  let r := insertAll s p d
  (r.2.length :: r.2).zipIdx.foldl (fun t v => writeRaw t p d.spanFirst (pfEvicted d) v.2 v.1) r.1

/-- What PREFIX_INSERT reads and writes in a state. -/
def insertUses (s : State) (p : Plan) (d : Desc) : List Use :=
  lookupUses s p d ++ [useWrite (pfEvicted d) (1 + (insertAll s p d).2.length) 0]

def execPrefixInsert (seq : Nat) (s : State) : Host.Outcome State Fault Refusal :=
  .next (operate [opPrefixInsert] seq 0 (fun s p d _ => insertUses s p d) prefixInsertRun s)

end Sys2Proof.Machine
end

