-- ==== Sys2Proof/Machine/Update.lean ====
section
/-! DEFINITION. The update engine (spec 14): UPDATE_ELEM, UPDATE_MATRIX, NORM_PROBE, and the norm records. -/

namespace Sys2Proof.Machine

def upW (d : Desc) : Operand := opAt d 0
def upG (d : Desc) : Operand := opAt d 0x10
def upM1 (d : Desc) : Operand := opAt d 0x20
def upM2 (d : Desc) : Operand := opAt d 0x30
def upWp (d : Desc) : Operand := opAt d 0x40
def upRule (d : Desc) : Nat := b8 d 0x54
def upFrozen (d : Desc) : Bool := (b8 d 0x55).testBit 0
def upBiasCorr (d : Desc) : Bool := (b8 d 0x55).testBit 1
def upNesterov (d : Desc) : Bool := (b8 d 0x55).testBit 2
def upRows (d : Desc) : Nat := b32 d 0x58
def upCols (d : Desc) : Nat := b32 d 0x5C

/-- Elements of the tensor: COUNT, or ROWS × COLS for UPDATE_MATRIX. -/
def upCount (d : Desc) : Nat := if d.opcode = opUpdateMatrix then upRows d * upCols d else b64 d 0x58

/-- The update parameter block (Table 14-4): 128 bytes. -/
def upParam (p : Plan) (d : Desc) : List Byte := (p.param.drop (b32 d 0x50)).take 128

def fp32At (b : List Byte) (o : Nat) : Num := decodeNum .fp32 (fieldAt b o 4)
def ubRowLen (b : List Byte) : Nat := fieldAt b 0x18 4
def ubClip (b : List Byte) : Operand := operandAt b 0x20
def ubMask (b : List Byte) : Operand := operandAt b 0x30
def ubNs (b : List Byte) (i k : Nat) : Num := fp32At b (0x40 + 12 * i + 4 * k)
def ubNsFmt (b : List Byte) : Nat := fieldAt b 0x7C 1

/-- The sliced path applies (R286, R287). -/
def upSliced (d : Desc) : Bool := d.opcode == opUpdateMatrix && decide (1073741824 < upRows d * upCols d * 4)

/-- What an update reads and writes, its reads of WP given (R280, R283, R284). -/
def updateAccess (p : Plan) (d : Desc) (wp : List Use) : List Use :=
  if upFrozen d then []
  else
    let b := upParam p d
    let n := upCount d
    let m2 := if d.opcode = opUpdateMatrix then [] else [useRead (upM2 d) n 2, useWrite (upM2 d) n 2]
    [useRead (upW d) n 2, useRead (upG d) n 2, useRead (upM1 d) n 2, useReadRaw (ubClip b) 16 2]
      ++ (if isNone (ubMask b) then [] else [useRead (ubMask b) (ceilDiv n (max 1 (ubRowLen b))) 2])
      ++ wp ++ [useWrite (upW d) n 2, useWrite (upM1 d) n 2, useWrite (upWp d) n 2] ++ m2

/-- What an update may read and write: any element may be held where it has a MASK or a CLIP (R283). -/
def updateUses (p : Plan) (d : Desc) : List Use :=
  let b := upParam p d
  updateAccess p d (if isNone (ubMask b) && isNone (ubClip b) then [] else [useRead (upWp d) (upCount d) 2])

-- ------------------------------------------------------------------------------------------------ norms

/-- The tree of R164 over numbers, by nearest-even. -/
def numTreeLevel : List Num → List Num
  | a :: b :: t => add32 a b :: numTreeLevel t
  | l => l

def numTree : Nat → List Num → Num
  | _, [] => numZero
  | 0, x :: _ => x
  | n + 1, l => numTree n (numTreeLevel l)

/-- The sum of squares of n values by steps 1 to 4 of R278. -/
def sumSquares (n : Nat) (x : Nat → Num) : Num :=
  let chunks := ceilDiv n 32
  let runs := min 512 chunks
  numTree 10 ((List.range runs).map fun r =>
    let c := cutPart chunks runs r
    (List.range c.2).foldl (fun a j =>
      let k := 32 * (c.1 + j)
      addChunk a ((List.range (min 32 (n - k))).map fun i => numMul (x (k + i)) (x (k + i)))) numZero)

def normOf (n : Nat) (x : Nat → Num) : Num := sqrt32 (sumSquares n x)

/-- Bits of an FP32 value. -/
def fbits (x : Num) : W32 := BitVec.ofNat 32 (widen .fp32 x)

/-- A norm record joins those of the running step (R289). -/
def insertNorm (r : NormRec) : List NormRec → List NormRec
  | [] => [r]
  | x :: xs => if r.seq < x.seq then r :: x :: xs else x :: insertNorm r xs

/-- Keep a norm record with its step's, in ascending SEQ (R289). -/
def addNorm (s : State) (r : NormRec) : State := { s with ks := { s.ks with norms := insertNorm r s.ks.norms } }

/-- WEIGHT_NORM of the tensor's record of the last committed step; +0 when there is none (R289). -/
def lastNorm (s : State) (tensor : Nat) : W32 :=
  match s.ks.normHist.getLast? with
  | none => 0
  | some h => match h.2.find? (fun r => r.tensorId == tensor) with | some r => r.wNorm | none => 0

/-- The norm record of a FROZEN descriptor (R289). -/
def frozenRecord (s : State) (p : Plan) (d : Desc) : NormRec :=
  { seq := d.seq, tensorId := d.tensorId, step := BitVec.ofNat 32 (stepT s p), elements := 0, wNorm := lastNorm s d.tensorId, gNorm := 0,
    uNorm := 0, opcode := d.opcode, flags := if upSliced d then 9 else 1 }

-- ------------------------------------------------------------------------------------------------ constants

/-- The constants of R281 and the CLIP values of an update descriptor. -/
structure UpConst where
  factor : Num
  nonfin : Bool
  t1 : Num
  t2 : Num
  k : Num
  l : Num
  r1 : Num
  r2 : Num
  lr : Num
  b1 : Num
  b2 : Num
  eps : Num

/-- 1 ÷ round32(1 − βⁿ), with βⁿ = exp2_32(round32(n × log2_32 β)) (R281). -/
def biasConst (beta : Num) (n : Nat) : Num :=
  let nf := roundFp32 0 0 (numOfNat n)
  let bn := exp2_32 (roundFp32 0 0 (numMul nf (log2_32 beta)))
  div32 numOne (roundFp32 0 0 (numSub numOne bn))

def upConst (s : State) (p : Plan) (d : Desc) : UpConst :=
  let b := upParam p d
  let clip := ubClip b
  let f (o : Nat) := fp32At b o
  let bytes := readBytes s p d.seq d.spanFirst clip clip.offset 16
  let none' := isNone clip
  { factor := if none' then numOne else fp32At bytes 0
    nonfin := !none' && (fieldAt bytes 0xC 4).testBit 0
    t1 := roundFp32 0 0 (numSub numOne (f 4))
    t2 := roundFp32 0 0 (numSub numOne (f 8))
    k := mul32 (f 0) (f 0x10)
    l := mul32 (f 0) (f 0x14)
    r1 := if upBiasCorr d then biasConst (f 4) s.ks.updates.toNat else numOne
    r2 := if upBiasCorr d then biasConst (f 8) s.ks.updates.toNat else numOne
    lr := f 0
    b1 := f 4
    b2 := f 8
    eps := f 0xC }

/-- Table 14-5: w′, m₁′, m₂′ and δ from g, w, m₁ and m₂. -/
def elemRule (c : UpConst) (rule : Nat) (nesterov : Bool) (g w m1 m2 : Num) : Num × Num × Num × Num :=
  let out := fun (u m1' m2' : Num) =>
    let delta := fma32 c.k w (mul32 c.lr u)
    (roundFp32 0 0 (numSub w delta), m1', m2', delta)
  match rule with
  | 0 =>
    let m1' := fma32 c.b1 m1 (mul32 c.t1 g)
    let m2' := fma32 c.b2 m2 (mul32 c.t2 (mul32 g g))
    let u := div32 (mul32 m1' c.r1) (add32 (sqrt32 (mul32 m2' c.r2)) c.eps)
    out u m1' m2'
  | 1 =>
    let q := fma32 c.b1 m1 (mul32 c.t1 g)
    let u := if numIsNan q then .nan else if numIsZero q then numZero else .fin (numSign q) 1 0
    out u (fma32 c.b2 m1 (mul32 c.t2 g)) m2
  | _ =>
    let m1' := fma32 c.b1 m1 g
    let v := if nesterov then fma32 c.b1 m1' g else m1'
    out v m1' m2

/-- Whether an element is held (R283). -/
def upHeld (s : State) (p : Plan) (d : Desc) (c : UpConst) (i : Nat) : Bool :=
  let b := upParam p d
  c.nonfin || (!isNone (ubMask b) && numIsZero (readElem s p d.seq d.spanFirst (ubMask b) (i / max 1 (ubRowLen b))))

/-- Some row is held by the mask (FLAGS of Table 14-7). -/
def upMasked (s : State) (p : Plan) (d : Desc) : Bool :=
  let b := upParam p d
  !isNone (ubMask b) && (List.range (ceilDiv (upCount d) (max 1 (ubRowLen b)))).any fun r =>
    numIsZero (readElem s p d.seq d.spanFirst (ubMask b) r)

/-- The span that updates element i: contiguous runs by R64 (R281). -/
def upSpan (d : Desc) (i : Nat) : Nat :=
  match (List.range d.spanCount).find? (fun j =>
    let c := cutPart (upCount d) d.spanCount j
    decide (c.1 ≤ i ∧ i < c.1 + c.2)) with
  | some j => d.spanFirst + j * d.spanStride
  | none => d.spanFirst

-- ------------------------------------------------------------------------------------------------ outputs

/-- What one element becomes: held, or new values. -/
structure UpElem where
  held  : Bool
  w     : Num
  m1    : Num
  m2    : Num
  delta : Num
  g     : Num

def upSite (s : State) (p : Plan) (d : Desc) (j : Nat) : RngSite :=
  { siteOf p (stepT s p) d 3 with stream := (d.rngStream + j) % 65536 }

/-- Write element i of an unscaled output: current bits when held, else the converted value (R282, R283). -/
def upWrite (s t : State) (p : Plan) (d : Desc) (o : Operand) (i j : Nat) (held : Bool) (x : Num) : State :=
  if isNone o then t
  else
    let span := upSpan d i
    if held then writeRaw t p span o i (readRaw s p d.seq span o i)
    else writeElem t p span o i (upSite s p d j) (outRound d) (elemIndex p.param o i) false x

/-- Write one scale block of WP (R283): whole by R142, kept when all are held, else element by element under its scale. -/
def upWriteBlock (s t : State) (p : Plan) (d : Desc) (f : Fmt) (k : Nat) (es : List UpElem) : State :=
  let o := upWp d
  let span := upSpan d (32 * k)
  let site := upSite s p d 1
  let sc := (readByte s p d.seq span o (scaleByte o f k)).toNat
  if es.all (fun e => !e.held) then
    writeBlock t p span o f k site (outRound d) (elemIndex p.param o) (es.map (·.w))
  else
    let t := writeByte t p span o (scaleByte o f k) (BitVec.ofNat 8 sc)
    es.zipIdx.foldl (fun t e =>
      let i := 32 * k + e.2
      if e.1.held then writeRaw t p span o i (readRaw s p d.seq span o i)
      else writeRaw t p span o i
        (blockElem f sc (outRound d) (bitsFor site (outRound d) (elemIndex p.param o i)) e.1.w)) t

/-- Every output of an update, from what each element becomes (R282, R283). -/
def upWriteAll (s : State) (p : Plan) (d : Desc) (es : List UpElem) : State :=
  let t := es.zipIdx.foldl (fun t e =>
    let t := if e.1.held then upWrite s t p d (upW d) e.2 0 true numZero
             else writeRaw t p (upSpan d e.2) (upW d) e.2 (widen .fp32 e.1.w)
    let t := upWrite s t p d (upM1 d) e.2 2 e.1.held e.1.m1
    if d.opcode = opUpdateMatrix then t else upWrite s t p d (upM2 d) e.2 3 e.1.held e.1.m2) s
  let wp := upWp d
  if isNone wp then t
  else
    match fmtOf wp.fmt with
    | none => t
    | some f =>
      if fmtScaled f then
        let t := (List.range (es.length / 32)).foldl (fun t k => upWriteBlock s t p d f k ((es.drop (32 * k)).take 32)) t
        padOutput t p d wp es.length
      else es.zipIdx.foldl (fun t e => upWrite s t p d wp e.2 1 e.1.held e.1.w) t

/-- The norm record of an update (Table 14-7). -/
def upRecord (s : State) (p : Plan) (d : Desc) (c : UpConst) (es : List UpElem) : NormRec :=
  let n := es.length
  let get (i : Nat) : UpElem := es.getD i ⟨true, numZero, numZero, numZero, numZero, numZero⟩
  { seq := d.seq, tensorId := d.tensorId
    step := BitVec.ofNat 32 (stepT s p)
    elements := (es.filter fun e => !e.held).length
    wNorm := fbits (normOf n fun i => (get i).w)
    gNorm := fbits (normOf n fun i => if (get i).held then numZero else (get i).g)
    uNorm := fbits (normOf n fun i => if (get i).held then numZero else (get i).delta)
    opcode := d.opcode
    flags := (if upMasked s p d then 2 else 0) + (if c.nonfin then 4 else 0) + (if upSliced d then 8 else 0) }

-- ------------------------------------------------------------------------------------------------ UPDATE_ELEM

def elemOf (s : State) (p : Plan) (d : Desc) (c : UpConst) (i : Nat) : UpElem :=
  let span := upSpan d i
  let g0 := widened (readElem s p d.seq span (upG d) i)
  let w := readElem s p d.seq span (upW d) i
  if upHeld s p d c i then ⟨true, w, numZero, numZero, numZero, g0⟩
  else
    let m2 := if isNone (upM2 d) then numZero else widened (readElem s p d.seq span (upM2 d) i)
    let r := elemRule c (upRule d) (upNesterov d) (mul32 c.factor g0) w
      (widened (readElem s p d.seq span (upM1 d) i)) m2
    ⟨false, r.1, r.2.1, r.2.2.1, r.2.2.2, g0⟩

def updateElemRun (s : State) (p : Plan) (d : Desc) (_ : Nat) : State :=
  if upFrozen d then addNorm s (frozenRecord s p d)
  else
    let c := upConst s p d
    let es := (List.range (upCount d)).map (elemOf s p d c)
    addNorm (upWriteAll s p d es) (upRecord s p d c es)

/-- What an update reads and writes as it runs: the WP of the elements that are held, and of no other (R283). -/
def updateRunUses (s : State) (p : Plan) (d : Desc) : List Use :=
  let c := upConst s p d
  let held := joinRuns (((List.range (upCount d)).filter (upHeld s p d c)).map fun (i : Nat) => ((i : Int), 1))
  updateAccess p d (held.map fun r => usePart (useRead (upWp d) (upCount d) 2) r.1.toNat r.2)

def execUpdateElem (seq pass : Nat) (s : State) : Host.Outcome State Fault Refusal :=
  .next (operate [opUpdateElem] seq pass (fun s p d _ => updateRunUses s p d) updateElemRun s)

-- ------------------------------------------------------------------------------------------------ UPDATE_MATRIX

/-- A matrix as its rows. -/
abbrev Mat := List (List Num)

def matGet (m : Mat) (i j : Nat) : Num := (m.getD i []).getD j numZero
def matMap (rows cols : Nat) (f : Nat → Nat → Num) : Mat :=
  (List.range rows).map fun i => (List.range cols).map fun j => f i j

def matT (rows cols : Nat) (m : Mat) : Mat := matMap cols rows fun i j => matGet m j i

/-- A product accumulated in FP32 in chunks of 32 of its reduction dimension (R286). -/
def matMulF (rows k cols : Nat) (a b : Mat) : Mat :=
  matMap rows cols fun i j => dotChunks k fun x => numMul (matGet a i x) (matGet b x j)

/-- A value rounded by nearest-even to NS_FMT. -/
def nsNum (fmt : Nat) (x : Num) : Num := toFmt fmt x
def nsMat (fmt : Nat) (m : Mat) : Mat := m.map fun r => r.map (nsNum fmt)

/-- c₁ × a + c₂ × b, exact products, one rounding. -/
def axpby (c₁ a c₂ b : Num) : Num := roundFp32 0 0 (numAdd (numMul c₁ a) (numMul c₂ b))

/-- One iteration of the resident path (R286). -/
def nsStep (b : List Byte) (rows n : Nat) (X : Mat) (i : Nat) : Mat :=
  let fmt := ubNsFmt b
  let A := matMulF n rows n (matT rows n X) X
  let nA := nsMat fmt A
  let AA := matMulF n n n nA nA
  let B := matMap n n fun r c => axpby (ubNs b i 1) (matGet A r c) (ubNs b i 2) (matGet AA r c)
  let XB := matMulF rows n n X (nsMat fmt B)
  matMap rows n fun r c => nsNum fmt (axpby (ubNs b i 0) (matGet X r c) numOne (matGet XB r c))

/-- m′ and x of every element (R286, R287): `stored` rereads m′ from the format of M. -/
def matrixX (s : State) (p : Plan) (d : Desc) (c : UpConst) (stored : Bool) : List (Num × Num) :=
  (List.range (upCount d)).map fun i =>
    let span := upSpan d i
    let g := mul32 c.factor (widened (readElem s p d.seq span (upG d) i))
    let m := widened (readElem s p d.seq span (upM1 d) i)
    let m' := if upHeld s p d c i then m else fma32 c.b1 m g
    let m2 := if stored then
        match fmtOf (upM1 d).fmt with
        | some f =>
          if upHeld s p d c i then m'
          else widened (decodeNum f (narrow f (outRound d)
            (bitsFor (upSite s p d 2) (outRound d) (elemIndex p.param (upM1 d) i)) false m'))
        | none => m'
      else m'
    (m', if upNesterov d then fma32 c.b1 m2 g else m2)

/-- O of the resident path, by rows and columns of the tensor (R286). -/
def residentO (p : Plan) (d : Desc) (c : UpConst) (x : List Num) : Nat → Nat → Num :=
  let b := upParam p d
  let R := upRows d
  let C := upCols d
  let tr := decide (R < C)
  let rows := max R C
  let n := min R C
  let at' := fun i j => if tr then x.getD (j * C + i) numZero else x.getD (i * C + j) numZero
  let f := sqrt32 (sumSquares (R * C) fun i => at' (i / n) (i % n))
  let den := add32 f c.eps
  let X0 := matMap rows n fun i j => nsNum (ubNsFmt b) (div32 (at' i j) den)
  let X := (List.range 5).foldl (nsStep b rows n) X0
  fun i j => if tr then matGet X j i else matGet X i j

/-- A0 of the sliced path: row blocks ascending, each adding its chunks of 32 rows (R287). -/
def slicedA0 (C : Nat) (blocks : List (Nat × Nat)) (x : List Num) : Mat :=
  matMap C C fun i j => blocks.foldl (fun a blk =>
    (List.range (ceilDiv blk.2 32)).foldl (fun a k =>
      addChunk a ((List.range (min 32 (blk.2 - 32 * k))).map fun r =>
        let row := blk.1 + 32 * k + r
        numMul (x.getD (row * C + i) numZero) (x.getD (row * C + j) numZero))) a) numZero

/-- P of the sliced path (R287). -/
def slicedP (p : Plan) (d : Desc) (c : UpConst) (A0 : Mat) : Mat :=
  let b := upParam p d
  let n := upCols d
  let fmt := ubNsFmt b
  let f := sqrt32 ((List.range n).foldl (fun a i => add32 a (matGet A0 i i)) numZero)
  let r := div32 numOne (add32 f c.eps)
  let P0 := matMap n n fun i j => if i = j then r else numZero
  (List.range 5).foldl (fun P i =>
    let A := nsMat fmt (matMulF n n n (matMulF n n n (matT n n P) A0) P)
    let AA := matMulF n n n A A
    let B := matMap n n fun x y => axpby (ubNs b i 1) (matGet A x y) (ubNs b i 2) (matGet AA x y)
    let PB := matMulF n n n P (nsMat fmt B)
    matMap n n fun x y => nsNum fmt (axpby (ubNs b i 0) (matGet P x y) numOne (matGet PB x y))) P0

/-- O of the sliced path. -/
def slicedO (s : State) (p : Plan) (d : Desc) (c : UpConst) (x : List Num) : Nat → Nat → Num :=
  let C := upCols d
  let parts := passesOf p d.seq
  let A0 := slicedA0 C ((List.range parts).map (cutPart (upRows d) parts)) x
  let P := slicedP p d c A0
  let x2 := (matrixX s p d c true).map (·.2)
  fun i j => dotChunks C fun k => numMul (x2.getD (i * C + k) numZero) (matGet P k j)

/-- R286 and R287. The passes of the sliced path end together: the last one writes. -/
def updateMatrixRun (s : State) (p : Plan) (d : Desc) (pass : Nat) : State :=
  if pass + 1 < passesOf p d.seq then s
  else if upFrozen d then addNorm s (frozenRecord s p d)
  else
    let c := upConst s p d
    let mx := matrixX s p d c false
    let x := mx.map (·.2)
    let O := if c.nonfin then fun _ _ => numZero else if upSliced d then slicedO s p d c x else residentO p d c x
    let C := upCols d
    let es := (List.range (upCount d)).map fun i =>
      let span := upSpan d i
      let w := readElem s p d.seq span (upW d) i
      let g0 := widened (readElem s p d.seq span (upG d) i)
      if upHeld s p d c i then ⟨true, w, numZero, numZero, numZero, g0⟩
      else
        let delta := fma32 c.k w (mul32 c.l (O (i / C) (i % C)))
        UpElem.mk false (roundFp32 0 0 (numSub w delta)) (mx.getD i (numZero, numZero)).1 numZero delta g0
    addNorm (upWriteAll s p d es) (upRecord s p d c es)

def execUpdateMatrix (seq pass : Nat) (s : State) : Host.Outcome State Fault Refusal :=
  .next (operate [opUpdateMatrix] seq pass (fun s p d _ => updateRunUses s p d) updateMatrixRun s)

-- ------------------------------------------------------------------------------------------------ NORM_PROBE

def npSrc (d : Desc) : Operand := opAt d 0
def npCount (d : Desc) : Nat := b64 d 0x10

def normProbeUses (_ : Plan) (d : Desc) : List Use := [useRead (npSrc d) (npCount d) 2]

/-- R290. -/
def normProbeRun (s : State) (p : Plan) (d : Desc) (_ : Nat) : State :=
  addNorm s
    { seq := d.seq, tensorId := d.tensorId, step := BitVec.ofNat 32 (stepT s p), elements := 0
      wNorm := fbits (normOf (npCount d) fun i => readElem s p d.seq d.spanFirst (npSrc d) i)
      gNorm := 0, uNorm := 0, opcode := d.opcode, flags := 0 }

def execNormProbe (seq pass : Nat) (s : State) : Host.Outcome State Fault Refusal :=
  .next (operate [opNormProbe] seq pass (fun _ p d _ => normProbeUses p d) normProbeRun s)

end Sys2Proof.Machine
end

