-- ==== Sys2Proof/Machine/Uses.lean ====
section
/-! DEFINITION. What every descriptor reads and writes, by opcode; the bodies of the moving operators (Tables 5-2, 5-7,
9-3, 14-1, 17-2, 18-1); the blocks that a descriptor uses (R447). -/

namespace Sys2Proof.Machine

-- ------------------------------------------------------------------------------------------------ bodies

def rpSrc (d : Desc) : Operand := opAt d 0
def rpDst (d : Desc) : Operand := opAt d 0x10
def rpLen (d : Desc) : Nat := b64 d 0x20
def rpStep (d : Desc) : Nat := b16 d 0x28
def rpMinus (d : Desc) : Bool := b8 d 0x2A == 1
def rpHop (d : Desc) : Nat := b8 d 0x2B

/-- The bank form of R200. -/
def rpBank (d : Desc) : Bool := isBank (rpSrc d) || isBank (rpDst d)

def clSrc (d : Desc) : Operand := opAt d 0
def clDst (d : Desc) : Operand := opAt d 0x10
def clStaging (d : Desc) : Operand := opAt d 0x20
def clCount (d : Desc) : Nat := b64 d 0x30
def clKind (d : Desc) : Nat := b8 d 0x38
def clOp (d : Desc) : Nat := b8 d 0x39
def clGroup (d : Desc) : Nat := b8 d 0x3A
def clStripes (d : Desc) : Nat := b8 d 0x3B
def clDims (d : Desc) : List Nat := [b16 d 0x3C, b16 d 0x3E, b16 d 0x40]
def clRoot (d : Desc) : Nat := b32 d 0x42
def clMap (d : Desc) : Nat := b32 d 0x48

def gnAcc (d : Desc) : Operand := opAt d 0
def gnClip (d : Desc) : Operand := opAt d 0x10
def gnMax (d : Desc) : Nat := b32 d 0x20
def gnEps (d : Desc) : Nat := b32 d 0x24
def gnSlot (d : Desc) : Nat := b16 d 0x28
def gnMode (d : Desc) : Nat := b8 d 0x2A
def gnFirst (d : Desc) : Bool := (b8 d 0x2B).testBit 0

def ofLocal (d : Desc) : Operand := opAt d 0
def ofStash (d : Desc) : Operand := opAt d 0x10
def ofLen (d : Desc) : Nat := b64 d 0x20
def ofRegionOff (d : Desc) : Nat := b64 d 0x28
def ofRegion (d : Desc) : Nat := b8 d 0x30
def ofTarget (d : Desc) : Nat := b8 d 0x31
def ofSend (d : Desc) : Bool := (b8 d 0x32).testBit 0
def ofRecv (d : Desc) : Bool := (b8 d 0x32).testBit 1
def ofPeerSend (d : Desc) : Nat := b32 d 0x34
def ofPeerRecv (d : Desc) : Nat := b32 d 0x38

def wcSrc (d : Desc) : Operand := opAt d 0
def wcDst (d : Desc) : Operand := opAt d 0x10
def wcDigestOut (d : Desc) : Operand := opAt d 0x20
def wcLen (d : Desc) : Nat := b64 d 0x30
def wcKeepStride (d : Desc) : Nat := b64 d 0x38
def wcKeepLen (d : Desc) : Nat := b32 d 0x40
def wcKeepOff (d : Desc) : Nat := b32 d 0x44
def wcForward (d : Desc) : Nat := b8 d 0x48
def wcKeep (d : Desc) : Nat := b8 d 0x49 % 4
def wcDigest (d : Desc) : Bool := (b16 d 0x4A).testBit 0

def cmRecord (d : Desc) : Operand := opAt d 0
def cmClip (d : Desc) : Operand := opAt d 0x10
def cmNorms (d : Desc) : Bool := (b16 d 0x20).testBit 0

/-- Entries of a BANK_HANDOVER: bank, FROM, TO (Table 5-2). -/
def hoEntries (d : Desc) : List (Nat × (Nat × Nat)) :=
  (List.range (b8 d 0)).map fun i => (b8 d (4 + 4 * i) % 4, (b8 d (5 + 4 * i), b8 d (6 + 4 * i)))

/-- Bytes of an element in an element format without block scales. -/
def elemBytes (fmt : Nat) : Nat := codeBits fmt / 8

/-- The bank part that WEIGHT_CHAIN keeps. -/
def wcKept (d : Desc) : Operand := { handle := bankOperand, fmt := 6, bank := wcKeep d, stream := 0, offset := wcKeepOff d, skip := 0 }

-- ------------------------------------------------------------------------------------------------ uses by opcode

/-- Bytes from an operand's OFFSET to the end of what it can cover. -/
def operandRest (p : Plan) (o : Operand) : Nat := operandLimit p o - o.offset

/-- Position of a bay in chain order (R120). -/
def chainBay (b : Nat) : Nat := if (b / 8) % 2 = 0 then b else b / 8 * 8 + (7 - b % 8)

/-- Target spans in chain order. -/
def chainOrder (d : Desc) : List Nat :=
  (List.range 32).flatMap fun k =>
    let b := chainBay k
    (targets d).filter fun x => x / 16 == b

/-- The head and the tail span of a chain (R122). -/
def chainHead (d : Desc) : Nat := (chainOrder d).head?.getD 0
def chainTail (d : Desc) : Nat := (chainOrder d).getLast?.getD 0

/-- What a descriptor reads and writes of its operands. -/
def descUses (p : Plan) (d : Desc) : List Use :=
  let op := d.opcode
  present <|
    if isMatmul op then matmulUses p d
    else if op = opMatvec then matvecUses p d
    else if op = opAttnFwd then attnFwdUses p d
    else if op = opAttnBwd then attnBwdUses p d
    else if op = opAttnDecode then attnDecodeUses p d
    else if op = opVecProgram then vecProgramUses p d
    else if op = opScan ∨ op = opSegScan then scanUses p d
    else if op = opAffineScan then affineUses p d
    else if op = opConvTaps ∨ op = opPool then windowUses p d
    else if op = opReduce then reduceUses p d
    else if op = opGlobalNorm then
      let acc := { useRead (gnAcc d) 1 2 with start := gnSlot d }
      if gnMode d = 0 then (if gnFirst d then [] else [acc]) ++ [{ acc with write := true }]
      else [acc, useWriteRaw (gnClip d) 16 0]
    else if op = opNormProbe then normProbeUses p d
    else if op = opUpdateElem ∨ op = opUpdateMatrix then updateUses p d
    else if op = opCommit then [useReadRaw (cmClip d) 16 0, useWriteRaw (cmRecord d) (operandRest p (cmRecord d)) 0]
    else if op = opCopyConvert then copyConvertUses p d
    else if op = opRingPass then
      let n := if rpBank d then rpLen d / max 1 d.spanCount else rpLen d
      [useReadRaw (rpSrc d) n 4, useWriteRaw (rpDst d) n 4]
    else if op = opCollective then [useRead (clSrc d) (clCount d) 0, useWrite (clDst d) (clCount d) 0]
    else if op = opOffload ∨ op = opPrefetch then
      let isPre := op == opPrefetch
      (if isPre then (if ofTarget d = 0 ∨ ofRecv d then [useWriteRaw (ofLocal d) (ofLen d) 0] else [])
        else (if ofTarget d = 0 ∨ ofSend d then [useReadRaw (ofLocal d) (ofLen d) 0] else []))
        ++ (if isPre then (if ofSend d then [useReadRaw (ofStash d) (ofLen d) 0] else [])
            else (if ofRecv d then [useWriteRaw (ofStash d) (ofLen d) 0] else []))
    else if op = opWeightChain then
      [useOn (useReadRaw (wcSrc d) (wcLen d) 0) (chainHead d), useOn (useWriteRaw (wcDst d) (wcLen d) 0) (chainTail d),
       useOn (useWriteRaw (wcDigestOut d) 48 0) (chainTail d)]
        ++ (if wcKeepLen d = 0 then [] else [useWriteRaw (wcKept d) (wcKeepLen d) 4])
    else if op = opPrefixLookup ∨ op = opPrefixInsert then
      prefixStatic p d ++ [useReadRaw (pfTable d) (operandRest p (pfTable d)) 0,
                           useWriteRaw (pfTable d) (operandRest p (pfTable d)) 0]
        ++ (if op = opPrefixInsert then [useWrite (pfEvicted d) (1 + pfQueries d * pfDepth d) 0] else [])
    else []

/-- What validation takes OFFLOAD and PREFETCH to read and write beside the movements of Table 18-2 (R367): a PREFETCH writes
LOCAL, and STASH where RECV is set; an OFFLOAD reads LOCAL. -/
def trestleClaims (d : Desc) : List Use :=
  let here := ofTarget d = 0
  present <|
    if d.opcode = opPrefetch then
      (if here ∨ ofRecv d then [] else [useWriteRaw (ofLocal d) (ofLen d) 0])
        ++ (if here ∨ !ofRecv d then [] else [useWriteRaw (ofStash d) (ofLen d) 0])
    else if d.opcode = opOffload then (if here ∨ ofSend d then [] else [useReadRaw (ofLocal d) (ofLen d) 0])
    else []

/-- The operands of a descriptor, each whole: what must lie in its buffer or bank and what a stream must deliver, whichever
of it is reached. -/
def descExtents (p : Plan) (d : Desc) : List Use :=
  if d.opcode = opAttnFwd then present (attnFwdExtents p d)
  else if d.opcode = opAttnBwd then present (attnBwdExtents p d)
  else if d.opcode = opConvTaps ∨ d.opcode = opPool then present (windowExtents p d)
  else descUses p d ++ trestleClaims d

end Sys2Proof.Machine
end

