-- ==== Sys2Proof/Machine/Circuits.lean ====
section
/-! DEFINITION. Causeway circuits (R112 to R115): router ports, the trees that the entries of a configuration form, and the
paths over which a descriptor moves data between spans and Viaduct lanes (R164, R188, R200). -/

namespace Sys2Proof.Machine

/-- Neighbour of a bay in a direction of Table 5-6 (0 north, 1 east, 2 south, 3 west). -/
def bayNext (b dir : Nat) : Option Nat :=
  match dir with
  | 0 => if b < 8 then none else some (b - 8)
  | 1 => if b % 8 = 7 then none else some (b + 1)
  | 2 => if 24 ≤ b then none else some (b + 8)
  | _ => if b % 8 = 0 then none else some (b - 1)

/-- The bay that a Viaduct port attaches to (Table 5-5). -/
def portBay (n : Nat) : Nat := [15, 8, 3, 27, 23, 16, 4, 28].getD n 0

/-- A router port code that the router has (Table 5-6, R114). -/
def routerPortOk (bay code : Nat) : Bool :=
  if code < 0x10 then true
  else if 0x20 ≤ code ∧ code < 0x40 then (bayNext bay ((code - 0x20) / 8)).isSome
  else if 0x48 ≤ code ∧ code < 0x4C then (List.range 8).any fun n => portBay n == bay
  else false

/-- A span port or a Viaduct lane: where a circuit may begin or end. -/
def endCode (code : Nat) : Bool := decide (code < 0x10) || decide (0x48 ≤ code)

/-- The router and port at the other end of a link. -/
def linkPeer (bay code : Nat) : Option (Nat × Nat) :=
  let dir := (code - 0x20) / 8
  (bayNext bay dir).map fun b => (b, 0x20 + 8 * ((dir + 2) % 4) + code % 8)

/-- Every entry of a configuration: bay, circuit, IN, OUT. -/
def circuitList (c : BlockCfg) : List (Nat × (Nat × (Nat × Nat))) :=
  c.routers.flatMap fun r => r.2.map fun e => (r.1, e)

/-- The entries that a circuit reaches from a router port, hop by hop (R114). -/
def circuitReach (all : List (Nat × (Nat × (Nat × Nat)))) (id : Nat) : Nat → List (Nat × Nat) → List (Nat × (Nat × (Nat × Nat)))
  | 0, _ => []
  | _ + 1, [] => []
  | n + 1, ports =>
    let es := all.filter fun e => e.2.1 == id && ports.contains (e.1, e.2.2.1)
    let next := es.filterMap fun e => if endCode e.2.2.2 then none else linkPeer e.1 e.2.2.2
    es ++ circuitReach all id n next

/-- Some circuit of a configuration leads from the first router port to the second. -/
def circuitJoins (c : BlockCfg) (src dst : Nat × Nat) : Bool :=
  let all := circuitList c
  (all.filter fun e => e.1 == src.1 && e.2.2.1 == src.2).any fun e =>
    (circuitReach all e.2.1 (all.length + 1) [src]).any fun f => f.1 == dst.1 && f.2.2.2 == dst.2

/-- Router port of a span's Causeway port, and of a lane of a Viaduct port. -/
def spanPort (x : Nat) : Nat × Nat := (x / 16, x % 16)
def lanePort (n i : Nat) : Nat × Nat := (portBay n, 0x48 + i)

/-- The transfers of a tree of R164 over `n` members: the giving and the taking position. -/
def treeMoves (n : Nat) : List (Nat × Nat) :=
  (List.range 4).flatMap fun l => (List.range n).filterMap fun i =>
    if i % 2 ^ (l + 1) = 0 ∧ i + 2 ^ l < n then some (i + 2 ^ l, i) else none

/-- Where a descriptor moves data over circuits, from router port to router port: the lanes of a bank-form RING_PASS (R200),
the dQ relay of ATTN_BWD (R188), the partials of SPLIT_K and SPLIT (R164, R173). -/
def dataPaths (p : Plan) (d : Desc) : List ((Nat × Nat) × (Nat × Nat)) :=
  let ts := targets d
  let n := ts.length
  let partials := fun (k : Nat) =>
    if k < 2 then []
    else (List.range (n / k)).flatMap fun g => (treeMoves k).map fun m =>
      (spanPort (ts.getD (g * k + m.1) 0), spanPort (ts.getD (g * k + m.2) 0))
  if d.opcode = opAttnBwd then
    (List.range n).map fun i => (spanPort (ts.getD i 0), spanPort (ts.getD ((i + 1) % n) 0))
  else if d.opcode = opRingPass ∧ rpBank d = true then
    (xfersOf p d.seq).flatMap fun e => (List.range n).filterMap fun i =>
      if e.2.kind = 0 then some (spanPort (ts.getD i 0), lanePort e.2.port i)
      else if e.2.kind = 1 then some (lanePort e.2.port i, spanPort (ts.getD i 0))
      else none
  else if isMatmul d.opcode ∨ d.opcode = opMatvec then (if mmAccOut d = 1 then [] else partials (mmSplitK d))
  else if d.opcode = opReduce then partials (rdSplit d)
  else []

/-- The routers that the circuits of a configuration pass which join the ends of a path (R447). -/
def pathRouters (c : BlockCfg) (x : (Nat × Nat) × (Nat × Nat)) : List Nat :=
  let all := circuitList c
  let ids := (all.filter fun e => e.1 == x.1.1 && e.2.2.1 == x.1.2
      && (circuitReach all e.2.1 (all.length + 1) [x.1]).any fun f => f.1 == x.2.1 && f.2.2.2 == x.2.2).map (·.2.1)
  (all.filter fun e => ids.contains e.2.1).map (·.1)

end Sys2Proof.Machine
end

