-- ==== Sys2Proof/Machine/Messages.lean ====
section
/-! DEFINITION. The messages of COLLECTIVE and of GLOBAL_NORM's FINISH (spec 17, R279), from the plan alone: groups, trees,
stripes, portions, and the order of R351. -/

namespace Sys2Proof.Machine

-- ------------------------------------------------------------------------------------------------ trees

/-- Levels of the broadcast tree of P members (R349). -/
def treeLevels (P : Nat) : Nat := if P ≤ 1 then 0 else Nat.log2 (P - 1) + 1

/-- The broadcast tree on relative rank q: the relative rank that it receives from, and those that it sends to. -/
def treeParent (q : Nat) : Option Nat := if q = 0 then none else some (q - 2 ^ Nat.log2 q)
def treeChildren (P q : Nat) : List Nat :=
  (List.range (treeLevels P)).filterMap fun l => if q < 2 ^ l ∧ q + 2 ^ l < P then some (q + 2 ^ l) else none

-- ------------------------------------------------------------------------------------------------ groups (Table 17-1)

/-- Size of a group. -/
def clSize (p : Plan) (g : Nat) : Nat :=
  match g with
  | 0 => groupSize p
  | 1 => p.ringLength
  | 2 => p.ringGroups
  | _ => p.headGroup

/-- This member's group rank. -/
def clOwn (p : Plan) (g : Nat) : Nat :=
  match g with
  | 0 => rankOf p
  | 1 => p.ringPos
  | 2 => p.groupIndex
  | _ => p.ringPos % max 1 p.headGroup

/-- The rank of a group rank. -/
def clRank (p : Plan) (g r : Nat) : Nat :=
  match g with
  | 0 => r
  | 1 => p.groupIndex * p.ringLength + r
  | 2 => r * p.ringLength + p.ringPos
  | _ => p.groupIndex * p.ringLength + p.ringPos / max 1 p.headGroup * p.headGroup + r

-- ------------------------------------------------------------------------------------------------ messages

/-- One message of a COLLECTIVE on this member: elements `off` to `off` + `len` - 1, sent to or received from a group
rank; `comb` gives phase position and step where the receiver combines; `step` is the step of its phase, 0 outside one. -/
structure CMsg where
  stripe : Nat
  send   : Bool
  peer   : Nat
  off    : Nat
  len    : Nat
  comb   : Option (Nat × Nat)
  step   : Nat
  deriving DecidableEq, Repr

/-- Coordinate of a group rank along a dimension, and the group rank with that coordinate replaced (R346). -/
def dimStep (dims : List Nat) (k : Nat) : Nat := (dims.take k).foldl (· * ·) 1
def dimCoord (dims : List Nat) (r k : Nat) : Nat := r / dimStep dims k % max 1 (dims.getD k 1)
def withDim (dims : List Nat) (r k c : Nat) : Nat := r - dimCoord dims r k * dimStep dims k + c * dimStep dims k

/-- The dimensions that stripe `s` visits, those of extent 1 skipped (R346). -/
def stripeDims (dims : List Nat) (s : Nat) : List Nat :=
  [s / 2 % 3, (s / 2 + 1) % 3, (s / 2 + 2) % 3].filter fun k => decide (1 < dims.getD k 1)

/-- The portion of a member before each phase of a stripe, with the dimension, and after the last (R347). -/
def portions (dims : List Nat) (own : Nat) : List Nat → Nat × Nat → List (Nat × (Nat × Nat)) × (Nat × Nat)
  | [], q => ([], q)
  | k :: ks, q =>
    let c := cutPart q.2 (dims.getD k 1) (dimCoord dims own k)
    let r := portions dims own ks (q.1 + c.1, c.2)
    ((k, q) :: r.1, r.2)

def stripePart (d : Desc) (s : Nat) : Nat × Nat := cutPart (clCount d) (clStripes d) s

/-- The elements of a stripe that a group rank owns after the reduce phases (R347). -/
def ownedPart (d : Desc) (own s : Nat) : Nat × Nat :=
  (portions (clDims d) own (stripeDims (clDims d) s) (stripePart d s)).2

/-- Messages of a reduce phase along dimension k on the portion q, at phase position `pos` (R347). -/
def reduceMsgs (dims : List Nat) (own s k pos : Nat) (q : Nat × Nat) : List CMsg :=
  let K := dims.getD k 1
  let c := dimCoord dims own k
  let plus := s % 2 == 0
  let next := withDim dims own k (if plus then (c + 1) % K else (c + K - 1) % K)
  let prev := withDim dims own k (if plus then (c + K - 1) % K else (c + 1) % K)
  (List.range (K - 1)).flatMap fun i =>
    let t := i + 1
    let out := cutPart q.2 K (if plus then (c + K - t) % K else (c + t) % K)
    let inn := cutPart q.2 K (if plus then (c + 2 * K - 1 - t) % K else (c + 1 + t) % K)
    [⟨s, true, next, q.1 + out.1, out.2, none, t⟩, ⟨s, false, prev, q.1 + inn.1, inn.2, some (pos, t), t⟩]

/-- Messages of a gather phase (R348). -/
def gatherMsgs (dims : List Nat) (own s k : Nat) (q : Nat × Nat) : List CMsg :=
  let K := dims.getD k 1
  let c := dimCoord dims own k
  let plus := s % 2 == 0
  let next := withDim dims own k (if plus then (c + 1) % K else (c + K - 1) % K)
  let prev := withDim dims own k (if plus then (c + K - 1) % K else (c + 1) % K)
  (List.range (K - 1)).flatMap fun i =>
    let t := i + 1
    let out := cutPart q.2 K (if plus then (c + K - t + 1) % K else (c + t - 1) % K)
    let inn := cutPart q.2 K (if plus then (c + K - t) % K else (c + t) % K)
    [⟨s, true, next, q.1 + out.1, out.2, none, t⟩, ⟨s, false, prev, q.1 + inn.1, inn.2, none, t⟩]

/-- Messages of kinds 0 to 2, in the order of R351. -/
def phasedMsgs (d : Desc) (own : Nat) : List CMsg :=
  (List.range (clStripes d)).flatMap fun s =>
    let ph := (portions (clDims d) own (stripeDims (clDims d) s) (stripePart d s)).1
    (if clKind d = 2 then [] else ph.zipIdx.flatMap fun x => reduceMsgs (clDims d) own s x.1.1 x.2 x.1.2)
      ++ (if clKind d = 1 then [] else ph.reverse.flatMap fun x => gatherMsgs (clDims d) own s x.1 x.2)

/-- Messages of a broadcast of `len` elements from `root`. -/
def treeMsgs (P root own len : Nat) : List CMsg :=
  let q := (own + P - root) % max 1 P
  let back := fun r => (r + root) % max 1 P
  (match treeParent q with | some r => [⟨0, false, back r, 0, len, none, 0⟩] | none => [])
    ++ (treeChildren P q).map fun r => ⟨0, true, back r, 0, len, none, 0⟩

/-- MAP of a PERMUTE (R350). -/
def clMapAt (p : Plan) (d : Desc) (r : Nat) : Nat := fieldAt p.param (clMap d + 4 * r) 4

def permuteMsgs (p : Plan) (d : Desc) (P own : Nat) : List CMsg :=
  let dst := clMapAt p d own
  if dst = own then []
  else
    let src := ((List.range P).find? fun r => clMapAt p d r == own).getD own
    [⟨0, true, dst, 0, clCount d, none, 0⟩, ⟨0, false, src, 0, clCount d, none, 0⟩]

/-- Every message of a COLLECTIVE on this member, in the order of its transfer entries (R351). -/
def clMessages (p : Plan) (d : Desc) : List CMsg :=
  let P := clSize p (clGroup d)
  let own := clOwn p (clGroup d)
  match clKind d with
  | 3 => treeMsgs P (clRoot d) own (clCount d)
  | 4 => permuteMsgs p d P own
  | _ => phasedMsgs d own

/-- Bytes of the largest message that a COLLECTIVE receives. -/
def clLargest (p : Plan) (d : Desc) : Nat :=
  (((clMessages p d).filter fun m => !m.send).map fun m => m.len * elemBytes (clDst d).fmt).foldl Nat.max 0

/-- Messages of FINISH (R279): the tree over ranks, then the broadcast. -/
def finishMsgs (P own : Nat) : List CMsg :=
  let low := match (List.range (treeLevels P)).find? fun l => own.testBit l with | some l => l | none => treeLevels P
  ((List.range low).filterMap fun l => if own + 2 ^ l < P then some ⟨0, false, own + 2 ^ l, 0, 1, some (0, l), 0⟩ else none)
    ++ (if own = 0 then [] else [⟨0, true, own - 2 ^ low, 0, 1, none, 0⟩])
    ++ treeMsgs P 0 own 4

end Sys2Proof.Machine
end

