-- ==== Sys2Proof/Machine/Blocks.lean ====
section
/-! DEFINITION. What a descriptor names and touches: its operands and parameter-area items, its accesses to DRAM and bound
regions, and the configurable blocks that it uses (R447). -/

namespace Sys2Proof.Machine

-- ------------------------------------------------------------------------------------------------ operands and items

/-- Offsets of the operand references in a body. -/
def bodyOperands (op : Nat) : List Nat :=
  if isMatmul op || op == opMatvec || op == opAttnDecode || op == opConvTaps || op == opPool then [0, 0x10, 0x20, 0x30]
  else if op == opAttnFwd || op == opAttnBwd || op == opVecProgram || op == opScan || op == opSegScan
    || op == opAffineScan || op == opUpdateElem || op == opPrefixLookup || op == opPrefixInsert then [0, 0x10, 0x20, 0x30, 0x40]
  else if op == opUpdateMatrix then [0, 0x10, 0x20, 0x40]
  else if op == opReduce || op == opCollective || op == opWeightChain then [0, 0x10, 0x20]
  else if op == opGlobalNorm || op == opCommit || op == opCopyConvert || op == opRingPass || op == opOffload
    || op == opPrefetch then [0, 0x10]
  else if op == opNormProbe then [0]
  else []

/-- Where the body names its parameter block, and the block's size. -/
def blockField (op : Nat) : Option (Nat × Nat) :=
  if op == opAttnFwd || op == opAttnBwd then some (0x50, 192)
  else if op == opAttnDecode then some (0x40, 128)
  else if op == opConvTaps || op == opPool then some (0x40, 96)
  else if op == opUpdateElem || op == opUpdateMatrix then some (0x50, 128)
  else none

/-- Offsets of the operand references in the parameter block. -/
def blockOperands (op : Nat) : List Nat :=
  if op == opAttnFwd || op == opAttnBwd then [0x40, 0x50, 0x60, 0x70, 0x80, 0x90, 0xA0]
  else if op == opAttnDecode then [0x20, 0x30, 0x40, 0x50]
  else if op == opConvTaps || op == opPool then [0x40, 0x50]
  else if op == opUpdateElem || op == opUpdateMatrix then [0x20, 0x30]
  else []

def blockBytesOf (p : Plan) (d : Desc) : List Byte :=
  match blockField d.opcode with
  | some f => (p.param.drop (b32 d f.1)).take f.2
  | none => []

/-- Every operand reference of a descriptor: those of the body, and those of its parameter block where that lies in the
area. -/
def descOperands (p : Plan) (d : Desc) : List Operand :=
  let blk := blockBytesOf p d
  (bodyOperands d.opcode).map (opAt d)
    ++ (match blockField d.opcode with
        | some f => if b32 d f.1 + f.2 ≤ p.param.length then (blockOperands d.opcode).map (operandAt blk) else []
        | none => [])

/-- The parameter-area items that a descriptor names: offset, length, alignment. -/
def descItems (p : Plan) (d : Desc) : List (Nat × (Nat × Nat)) :=
  (match blockField d.opcode with | some f => [(b32 d f.1, (f.2, 16))] | none => [])
    ++ (if d.opcode = opVecProgram then [(vpProgram d, (8 * vpLength d, 8))] else [])
    ++ (if d.opcode = opCollective ∧ clKind d = 4 then [(clMap d, (4 * clSize p (clGroup d), 4))] else [])
    ++ ((descOperands p d).filter fun o => o.stream != 0 && !isNone o).map fun o =>
        (o.stream, (16 + 48 * fieldAt p.param o.stream 4, 16))

-- ------------------------------------------------------------------------------------------------ accesses

/-- Two byte ranges, first byte and end, meet. -/
def meetRange (a b : Int × Int) : Bool := decide (a.1 < b.2) && decide (b.1 < a.2) && decide (a.1 < a.2) && decide (b.1 < b.2)

/-- The byte ranges of a use, as first byte and end. -/
def useSpans (param : List Byte) (u : Use) : List (Int × Int) := (useRanges param u).map fun r => (r.1, r.1 + r.2)

/-- An access to bytes in DRAM or in a bound region: buffers by handle, regions from 70,000 on (R367). -/
structure Access where
  place : Nat
  range : Int × Int
  write : Bool
  add   : Bool
  deriving DecidableEq, Repr

def regionPlace (id : Nat) : Nat := 70000 + id

/-- Everything from an operand's OFFSET to the end of its buffer. -/
def restAccess (p : Plan) (o : Operand) (w : Bool) : List Access :=
  if isBuffer o then [⟨o.handle, ((o.offset : Int), ((operandLimit p o : Nat) : Int)), w, false⟩] else []

/-- What ATTN_DECODE may read and write of its CACHE: which blocks, the block lists say at run time (R217, R218). -/
def cacheAccesses (p : Plan) (d : Desc) : List Access :=
  if d.opcode = opAttnDecode then
    restAccess p (dpCache (adParam p d)) false ++ restAccess p (dpCache (adParam p d)) true
  else []

/-- What descriptors read and write beside `descUses`: region bytes (R367), the lists of ATTN_DECODE (R219), STAGING
(R347). -/
def extraAccesses (p : Plan) (d : Desc) : List Access :=
  if (d.opcode = opOffload ∨ d.opcode = opPrefetch) ∧ ofTarget d = 0 then
    [⟨regionPlace (ofRegion d), ((ofRegionOff d : Int), (ofRegionOff d + ofLen d : Nat)), d.opcode == opOffload, false⟩]
  else if d.opcode = opAttnDecode then
    restAccess p (dpLists (adParam p d)) false
  else if d.opcode = opCollective ∧ clKind d < 3 then
    let o := clStaging d
    if isBuffer o then [⟨o.handle, ((o.offset : Int), (o.offset + 2 * clLargest p d : Nat)), true, false⟩] else []
  else []

/-- The spans on which a descriptor's bank operands are reached. -/
def bankSpans (d : Desc) : List Nat :=
  if d.opcode = opCollective ∨ d.opcode = opGlobalNorm then (targets d).take 1 else targets d

/-- The bytes of buffers that a descriptor's operands reach. -/
def bufferAccesses (p : Plan) (d : Desc) : List Access :=
  (descUses p d ++ trestleClaims d).flatMap fun u =>
    if isBuffer u.o then (useSpans p.param u).map fun r => ⟨u.o.handle, r, u.write, u.add⟩ else []

/-- The bytes of banks that a descriptor's operands reach: bank k of span x is place 200,000 + 4x + k. -/
def bankAccesses (p : Plan) (d : Desc) : List Access :=
  (descUses p d).flatMap fun u =>
    if isBank u.o then
      (useTargets (bankSpans d) u).flatMap fun x =>
        (useSpans p.param u).map fun r => ⟨200000 + x * 4 + u.o.bank, r, u.write, u.add⟩
    else []

/-- Accesses of a descriptor to DRAM and regions, those of a CACHE operand left out. -/
def plainAccesses (p : Plan) (d : Desc) : List Access := bufferAccesses p d ++ extraAccesses p d

/-- Every access of a descriptor to DRAM and regions. -/
def accesses (p : Plan) (d : Desc) : List Access := plainAccesses p d ++ cacheAccesses p d

def accMeets (a b : Access) : Bool := a.place == b.place && meetRange a.range b.range

-- ------------------------------------------------------------------------------------------------ blocks (R447)

/-- Number of a configurable block. -/
def blockKey : Block → Nat
  | .router b => b
  | .channel c => 32 + c
  | .port p => 1056 + p
  | .regulator b => 1064 + b
  | .bankTable x => 1096 + x

/-- Whether a range of device addresses touches a channel (R302). -/
def touchesChannel (a len ch : Nat) : Bool :=
  if len = 0 then false
  else if a < interleavedEnd then
    let lo := a / 2 ^ 18
    let hi := (a + len - 1) / 2 ^ 18
    if lo + 2 ≤ hi then true
    else [lo, hi].any fun w =>
      let b := w * 2 ^ 18 + Nat.xor (w % 1024) ch * 256
      decide (b < a + len) && decide (a < b + 256)
  else
    let q := pinnedQuadrant a
    let o := a - interleavedEnd - q * 0x1000000000
    let lo := o / 2 ^ 16
    let hi := (o + len - 1) / 2 ^ 16
    if ch / 256 ≠ q then false
    else if lo + 2 ≤ hi then true
    else [lo, hi].any fun w =>
      let b := w * 2 ^ 16 + Nat.xor (w % 256) (ch % 256) * 256
      decide (b < o + len) && decide (o < b + 256)

/-- The device address ranges of a byte range of a buffer, in both halves where it has two. -/
def bufferRanges (p : Plan) (handle : Nat) (r : Int × Int) : List (Nat × Nat) :=
  match p.bufs[handle]? with
  | none => []
  | some b =>
    let half := fun h => (halfAddr b h + r.1.toNat, (r.2 - r.1).toNat)
    if twoHalves b then [half 0, half 1] else [half 0]

/-- The device address ranges that a descriptor's operands, stream descriptions, parameter-area items and transfers read or
write (R447); `param` is the device address of the parameter area. -/
def descRanges (param : Nat) (p : Plan) (d : Desc) : List (Nat × Nat) :=
  (accesses p d).flatMap (fun a => if a.place < noOperand then bufferRanges p a.place a.range else [])
    ++ (descItems p d).map fun x => (param + x.1, x.2.1)

/-- The configuration that a descriptor's phase, the `order`th since START, has armed or will arm: that in the shadows where
they hold its phase; else the armed one, which no later phase has changed on a block that the descriptor uses (R56). -/
def phaseCfg (s : State) (order : Nat) : BlockCfg := if order = s.ks.order then s.ks.shadow else s.ks.armed

/-- Whether a descriptor uses a block, under the configuration of its own phase (R447). -/
def usesBlock (s : State) (p : Plan) (order : Nat) (d : Desc) : Block → Bool
  | .bankTable x => (targets d).contains x
  | .regulator b => (targets d).any fun x => x / 16 == b
  | .router b =>
    (targets d).any (fun x => x / 16 == b)
      || (dataPaths p d).any fun x => (pathRouters (phaseCfg s order) x).contains b
  | .port n => (xfersOf p d.seq).any fun e => e.2.port == n
  | .channel c =>
    (descRanges (p.base + secOffset s.dram.mem p.base 6) p d).any fun r => touchesChannel r.1 r.2 c

end Sys2Proof.Machine
end

