-- ==== Sys2Proof/Machine/Slots.lean ====
section
/-! DEFINITION. Slot frames (spec 02): the patterns of Tables 2-3 and 2-4, which class a slot of a beat carries under the
armed preset (R16 to R18), and the class of every access to DRAM. When a slot comes is time, which no command shows; that
no class borrows another's slot is in what a slot carries. -/

namespace Sys2Proof.Machine

/-- The classes of a DRAM channel's slots. -/
inductive DramClass where
  | read | write | remote
  deriving DecidableEq, Repr

/-- Who accesses a channel, and how. -/
inductive DramAccess where
  | localRead    -- span, Keystone and stream-engine reads
  | localWrite
  | viaductIn | viaductOut
  | trestle
  | adder        -- memory-side atomic adds
  deriving DecidableEq, Repr

/-- The class whose slots an access takes. -/
def DramAccess.slotClass : DramAccess → DramClass
  | .localRead => .read
  | .localWrite => .write
  | .viaductIn | .viaductOut | .trestle | .adder => .remote

/-- Table 2-3: the unit that a preset repeats through the 64 slots of a beat. -/
def dramUnit (code : Nat) : List DramClass :=
  let r := DramClass.read
  let w := DramClass.write
  let x := DramClass.remote
  match code with
  | 0 => [r, w, r, r, w, r, r, x]
  | 1 => [r, r, r, r, w, r, r, r, r, r, r, w, r, r, r, x]
  | 2 => [r, w, r, w, r, w, r, x]
  | _ => [r, w, r, x]

/-- Table 2-4: the unit of 16 slots that a port repeats twice in a beat; 0 ring, 1 reduction, 2 bulk, 3 control. -/
def portUnit (code : Nat) : List Nat :=
  match code with
  | 0 => [0, 1, 0, 1, 0, 2, 0, 1, 0, 1, 0, 2, 0, 1, 0, 3]
  | 1 => [1, 0, 1, 1, 0, 1, 2, 1, 0, 1, 1, 0, 1, 2, 1, 3]
  | 2 => [0, 2, 1, 2, 0, 1, 2, 1, 0, 2, 1, 2, 0, 1, 2, 3]
  | _ => [0, 0, 0, 1, 0, 0, 0, 2, 0, 0, 0, 1, 0, 0, 0, 3]

/-- The class that data slot `i` of a channel's beat carries: its own or idle (R16, R17). -/
def dramSlot (s : State) (channel i : Nat) : DramClass :=
  let u := dramUnit (tabGet 0 s.ks.armed.chans channel)
  u.getD (i % u.length) .read

/-- The class that slot `i` of a port's beat carries (R18). -/
def portSlot (s : State) (port i : Nat) : Nat := (portUnit (tabGet 0 s.ks.armed.ports port)).getD (i % 16) 3

/-- Slots of a beat in which an access may move on a channel. -/
def dramSlots (s : State) (channel : Nat) (a : DramAccess) : List Nat :=
  (List.range 64).filter fun i => dramSlot s channel i == a.slotClass

/-- The armed slots of a class of a port in one beat. -/
def classSlots (s : State) (port cls : Nat) : Nat := ((List.range 32).filter fun i => portSlot s port i == cls).length

end Sys2Proof.Machine
end

