-- ==== Sys2Proof/Machine/Link.lean ====
section
/-! DEFINITION. The Viaduct link layer's operations (spec 16): the wire layout of flits and messages (R322, R323, R336,
R377), sequencing and the retry buffer (R325 to R327), routing (R330), and sending a message to a neighbour, to a
coordinate, or on every trained port. -/

namespace Sys2Proof.Machine

-- ------------------------------------------------------------------------------------------------ flits

/-- DEST and SRC of Table 16-2. -/
def coordBits (c : Coord) : Nat := c.x % 64 + c.y % 16 * 64 + c.z % 16 * 1024

def bitNat (b : Bool) : Nat := if b then 1 else 0

/-- Bytes 0x00 to 0xFB of a flit (Table 16-2). -/
def flitBytes (f : Flit) : List Byte :=
  leBytes 1 (f.kind % 8 + f.cls % 4 * 8 + bitNat f.last * 32 + bitNat f.dateline * 64 + bitNat f.around * 128)
    ++ leBytes 3 f.index ++ leBytes 4 f.msgSeq.toNat
    ++ leBytes 8 (f.lseq % 4096 + f.acks.getD 0 0 % 4096 * 2 ^ 12 + f.acks.getD 1 0 % 4096 * 2 ^ 24
        + f.acks.getD 2 0 % 4096 * 2 ^ 36 + f.acks.getD 3 0 % 4096 * 2 ^ 48)
    ++ leBytes 2 (coordBits f.dest) ++ leBytes 2 (coordBits f.src) ++ f.payload

/-- The CRC of R322. -/
def flitCrc (f : Flit) : W32 := BitVec.ofNat 32 (crc32c (flitBytes f))

def kindData : Nat := 1
def kindControl : Nat := 2
def kindMarker : Nat := 3
def kindLink : Nat := 4

/-- DATA and CONTROL flits are sequenced (R325). -/
def sequenced (f : Flit) : Bool := f.kind == kindData || f.kind == kindControl

/-- Pad to the 232 bytes of a payload. -/
def pad232 (b : List Byte) : List Byte := b ++ zeros (232 - b.length)

/-- The flits of a message (R323). -/
def flitsOf (kind cls msgSeq : Nat) (dest src : Coord) (b : List Byte) : List Flit :=
  let n := max 1 (ceilDiv b.length 232)
  (List.range n).map fun i =>
    { kind := kind, cls := cls, last := i + 1 == n, dateline := false, around := false, index := i,
      msgSeq := BitVec.ofNat 32 msgSeq, lseq := 0, acks := [], dest := dest, src := src,
      payload := pad232 ((b.drop (232 * i)).take 232) }

/-- The layout epoch that messages carry: the plan's; the new one while a re-shard moves state (R353, R356). -/
def epochNow (s : State) : Nat :=
  match s.ks.reshardW with
  | some w => if w.phase = 3 then w.epoch else (match s.ks.plan with | some p => p.epoch | none => 0)
  | none => match s.ks.plan with | some p => p.epoch | none => 0

/-- The message header of Table 16-3. -/
def msgHeader (s : State) (len : Nat) : List Byte :=
  let ep := epochNow s
  let tag := match s.ks.plan with | some p => p.groupTag | none => 0
  leBytes 8 len ++ leBytes 4 ep ++ leBytes 4 tag ++ leBytes 4 s.ks.stepIndex ++ zeros 12

-- ------------------------------------------------------------------------------------------------ control messages

/-- TYPE, STATUS, two reserved bytes and GROUP_TAG (R336). -/
def ctlHead (ty : Nat) (c : Ctl) : List Byte :=
  leBytes 1 ty ++ [c.status] ++ zeros 2 ++ leBytes 4 c.tag.toNat

def attemptBytes (a : Attempt) : List Byte := leBytes 8 a.step.toNat ++ leBytes 4 a.gen.toNat

/-- The journal header of R377. -/
def jHead (ty : Nat) (j : JMsg) : List Byte :=
  leBytes 1 ty ++ zeros 3 ++ leBytes 4 j.sender ++ leBytes 4 j.count

/-- The payload of a control message (Tables 16-7 and 17-6), or of a journal message (Table 19-4); none for a command
that is no message. The flag says which. -/
def messageBytes : Instr → Option (Bool × List Byte)
  | .receiveReady c q k n => some (false, ctlHead 1 c ++ leBytes 4 q ++ leBytes 1 k ++ zeros 3 ++ leBytes 8 n)
  | .segmentTime c p o t => some (false, ctlHead 2 c ++ leBytes 2 p ++ leBytes 2 o ++ leBytes 4 t)
  | .groupDigest c r d => some (false, ctlHead 3 c ++ leBytes 4 r ++ zeros 4 ++ d)
  | .vote c a n g d =>
    some (false, ctlHead 4 c ++ attemptBytes a ++ leBytes 4 n ++ leBytes 1 (bitNat g) ++ leBytes 1 a.att ++ zeros 2 ++ d)
  | .decision c a o => some (false, ctlHead 5 c ++ attemptBytes a ++ leBytes 1 (if o then 1 else 2) ++ leBytes 1 a.att)
  | .recoveryQuery c a k => some (false, ctlHead 6 c ++ attemptBytes a ++ leBytes 4 k ++ leBytes 1 a.att)
  | .recoveryReply c a o r =>
    some (false, ctlHead 7 c ++ attemptBytes a ++ leBytes 1 o ++ leBytes 1 a.att ++ zeros 2 ++ leBytes 4 r)
  | .form c n p v t b i =>
    some (false, ctlHead 8 c ++ leBytes 2 n ++ leBytes 2 p ++ leBytes 4 v.toNat ++ [t] ++ leBytes 1 (bitNat b)
      ++ zeros 2 ++ leBytes 8 i.toNat)
  | .rank c r e x =>
    some (false, ctlHead 0x10 c ++ leBytes 4 r ++ leBytes 4 e.toNat ++ leBytes 1 x.x ++ leBytes 1 x.y ++ leBytes 1 x.z
      ++ zeros 1)
  | .reshardToken c e p g n d =>
    some (false, ctlHead 0x11 c ++ leBytes 4 e.toNat ++ leBytes 1 p ++ leBytes 1 (bitNat g) ++ zeros 2 ++ leBytes 4 n
      ++ zeros 4 ++ d)
  | .reshardDecision c e p g =>
    some (false, ctlHead 0x12 c ++ leBytes 4 e.toNat ++ leBytes 1 p ++ leBytes 1 (if g then 1 else 2))
  | .mirrorWrite j o d => some (true, jHead 1 j ++ leBytes 4 o ++ d)
  | .mirrorAck j o n => some (true, jHead 2 j ++ leBytes 4 o ++ leBytes 4 n)
  | .mirrorRead j o n => some (true, jHead 3 j ++ leBytes 4 o ++ leBytes 4 n)
  | .mirrorData j o d => some (true, jHead 4 j ++ leBytes 4 o ++ d)
  | .pierDone j p st => some (true, jHead 5 j ++ leBytes 2 p ++ zeros 2 ++ leBytes 8 st.toNat)
  | .watermark j p st => some (true, jHead 6 j ++ leBytes 2 p ++ zeros 2 ++ leBytes 8 st.toNat)
  | .rewind j p c n k r =>
    some (true, jHead 7 j ++ leBytes 2 p ++ [c] ++ leBytes 1 n ++ leBytes 4 k ++ leBytes 4 r)
  | .quiesced j p n st => some (true, jHead 8 j ++ leBytes 2 p ++ leBytes 1 n ++ zeros 1 ++ leBytes 8 st.toNat)
  | .restart j p t st => some (true, jHead 9 j ++ leBytes 2 p ++ leBytes 1 t ++ zeros 1 ++ leBytes 8 st.toNat)
  | .fetch j h o n => some (true, jHead 0xA j ++ leBytes 2 h ++ zeros 2 ++ leBytes 8 o ++ leBytes 4 n)
  | .fetchData j h st o d => some (true, jHead 0xB j ++ leBytes 2 h ++ [st] ++ zeros 1 ++ leBytes 8 o ++ d)
  | .admitUnit j st g => some (true, jHead 0xC j ++ leBytes 8 st.toNat ++ leBytes 4 g.toNat)
  | .admitted j st => some (true, jHead 0xD j ++ leBytes 8 st.toNat)
  | .alive j p ps b => some (true, jHead 0xE j ++ leBytes 2 p ++ leBytes 1 ps ++ zeros 1 ++ leBytes 8 b.toNat)
  | _ => none

/-- The payload of a beat marker (Table 16-6). -/
def markerBytes (m : Marker) : List Byte :=
  leBytes 8 m.beat.toNat ++ leBytes 2 m.txOffset ++ leBytes 2 m.hops
    ++ leBytes 1 (bitNat m.locked + bitNat m.echoReq * 2 + bitNat m.echo * 4) ++ zeros 3 ++ leBytes 8 m.rootId.toNat
    ++ leBytes 8 m.echoBeat.toNat ++ leBytes 4 m.echoHold

/-- The payload of a LINK flit (Table 16-5). -/
def linkBytes : Instr → List Byte
  | .ident _ i =>
    leBytes 1 1 ++ zeros 3 ++ leBytes 1 i.port ++ leBytes 1 i.version ++ [i.stepping]
      ++ leBytes 1 (bitNat i.coordValid + bitNat i.formed * 2) ++ leBytes 8 i.deviceId.toNat
      ++ leBytes 4 i.resultVer.toNat ++ leBytes 1 i.coord.x ++ leBytes 1 i.coord.y ++ leBytes 1 i.coord.z ++ zeros 1
      ++ leBytes 1 i.dims.x ++ leBytes 1 i.dims.y ++ leBytes 1 i.dims.z ++ zeros 1 ++ leBytes 4 i.tag.toNat
  | .nack _ c e => leBytes 1 2 ++ leBytes 1 c ++ leBytes 2 e
  | .xoff _ c l => leBytes 1 3 ++ leBytes 1 (c + 4 * l)
  | .xon _ c l => leBytes 1 4 ++ leBytes 1 (c + 4 * l)
  | _ => leBytes 1 5

-- ------------------------------------------------------------------------------------------------ ports

def portOf (s : State) (p : Nat) : Port := tabGet .reset s.via.ports p
def setPort (s : State) (p : Nat) (x : Port) : State :=
  updVia s fun v => { v with ports := tabSet .reset v.ports p x }
def updPort (s : State) (p : Nat) (f : Port → Port) : State := setPort s p (f (portOf s p))

def isTrained (s : State) (p : Nat) : Bool := (portOf s p).st == .trained

/-- The ports that are trained, lowest first. -/
def trainedPorts (s : State) : List Nat := (List.range 8).filter (isTrained s)

/-- A peer port number other than the expected one (R320). -/
def miswired (n : Nat) (p : Port) : Bool := p.peer.any fun i => i.port != Nat.xor n 1

/-- A port that is neither down nor miswired: trained, or holding for a retraining (R328). -/
def portUp (s : State) (p : Nat) : Bool := isTrained s p || ((portOf s p).retrain && !miswired p (portOf s p))

/-- The ports that are up, lowest first: a retraining changes timing only (R328), so what is sent on them waits. -/
def upPorts (s : State) : List Nat := (List.range 8).filter (portUp s)

/-- A port whose training has ended: trained, or trained and miswired (R333). -/
def isLinked (s : State) (p : Nat) : Bool := isTrained s p || (portOf s p).st == .miswired

/-- The ports whose training has ended, lowest first. -/
def linkedPorts (s : State) : List Nat := (List.range 8).filter (isLinked s)

/-- The class's share of the retry buffer (R327). -/
def retryShare (s : State) (p c : Nat) : Nat := 16 * classSlots s p c

/-- ACK fields: the last LSEQ accepted in each class, 4,095 when none (R325). -/
def portAcks (p : Port) : List Nat := p.rx.map fun n => (n + 4095) % 4096

def laneOf (f : Flit) : Nat := bitNat f.dateline

/-- Send one sequenced flit: number it, keep it in the retry buffer (R325, R327). -/
def sendFlit (p : Port) (f : Flit) : Port :=
  let f := { f with lseq := p.tx.getD f.cls 0, acks := portAcks p }
  { p with tx := listSet p.tx f.cls ((p.tx.getD f.cls 0 + 1) % 4096), retry := p.retry ++ [f], wire := p.wire ++ [f] }

/-- A LINK or MARKER flit: not sequenced, DEST and SRC zero (R323, R325). -/
def plainFlit (kind : Nat) (acks : List Nat) (b : List Byte) : Flit :=
  { kind := kind, cls := 3, last := true, dateline := false, around := false, index := 0, msgSeq := 0, lseq := 0,
    acks := acks, dest := ⟨0, 0, 0⟩, src := ⟨0, 0, 0⟩, payload := pad232 b }

def sendPlain (s : State) (n kind : Nat) (b : List Byte) : State :=
  updPort s n fun p => { p with wire := p.wire ++ [plainFlit kind (portAcks p) b] }

/-- A port arms a preset once it holds no unacknowledged flit (R327). -/
def armPort (s : State) (n code : Nat) : State :=
  let quiet := (portOf s n).retry.isEmpty || tabGet 0 s.ks.armed.ports n == code
  updKs s fun k =>
    { k with rearm := k.rearm.filter (fun e => e.1 != n) ++ (if quiet then [] else [(n, code)])
             armed := if quiet then { k.armed with ports := tabSet 0 k.armed.ports n code } else k.armed }

/-- Presets that ports are to arm outside a phase's entry (Table 17-5 step 6, R359). -/
def armPorts (s : State) (code : Nat → Nat) : State := (List.range 8).foldl (fun s n => armPort s n (code n)) s

/-- What waits to be armed on a port is tried again. -/
def armWaiting (s : State) (n : Nat) : State :=
  match s.ks.rearm.find? fun e => e.1 == n with
  | some e => armPort s n e.2
  | none => s

-- ------------------------------------------------------------------------------------------------ routing

def axisOf (c : Coord) (d : Nat) : Nat := if d = 0 then c.x else if d = 1 then c.y else c.z
def withAxis (c : Coord) (d v : Nat) : Coord :=
  if d = 0 then { c with x := v } else if d = 1 then { c with y := v } else { c with z := v }

/-- The torus port of a dimension and direction (Table 16-1). -/
def torusPort (d : Nat) (plus : Bool) : Nat := 2 * d + (if plus then 0 else 1)

/-- The dimension of a port; bypass ports run along X. -/
def portDim (p : Nat) : Nat := if p < 6 then p / 2 else 0

/-- The coordinate that a port leads to. -/
def neighbourCoord (s : State) (p : Nat) : Coord :=
  let c := ownCoord s
  let dims := s.via.dims.getD ⟨1, 1, 1⟩
  let d := portDim p
  let n := max 1 (axisOf dims d)
  let hop := if p < 6 then 1 else 2
  withAxis c d (if p % 2 = 0 then (axisOf c d + hop) % n else (axisOf c d + n * hop - hop) % n)

/-- How a flit leaves: port, AROUND, DATELINE. -/
structure Exit where
  port     : Nat
  around   : Bool
  dateline : Bool
  deriving DecidableEq, Repr

/-- Whether the hop over a port crosses between coordinate 0 and the dimension's last coordinate (R330). -/
def crosses (pos n port : Nat) : Bool :=
  let hop := if port < 6 then 1 else 2
  if port % 2 = 0 then decide (n ≤ pos + hop) else decide (pos < hop)

/-- The exit over a port in dimension d. -/
def exitBy (s : State) (d port : Nat) (around keep : Bool) : Exit :=
  let n := axisOf (s.via.dims.getD ⟨1, 1, 1⟩) d
  { port := port, around := around, dateline := keep || crosses (axisOf (ownCoord s) d) n port }

/-- The way round a longer way (R330 rules 3 and 4): the torus port, else in X the bypass at a distance of at least 2. -/
def aroundExit (s : State) (d : Nat) (plus keep : Bool) (dist : Nat) : Option Exit :=
  let t := torusPort d plus
  if portUp s t then some (exitBy s d t true keep)
  else
    let b := if plus then 6 else 7
    if d = 0 ∧ 2 ≤ dist ∧ portUp s b then some (exitBy s d b true keep) else none

/-- R330: the exit of a flit for a coordinate, `from?` the port that it came in by; none drops it. -/
def routeTo (s : State) (dest : Coord) (from? : Option Nat) (around dateline : Bool) : Option Exit :=
  let own := ownCoord s
  match [0, 1, 2].find? (fun d => axisOf own d != axisOf dest d) with
  | none => none
  | some d =>
    let n := axisOf (s.via.dims.getD ⟨1, 1, 1⟩) d
    let fwd := (axisOf dest d + n - axisOf own d) % n
    let same := match from? with | some p => portDim p == d | none => false
    let keep := same && dateline
    if same && around then
      let plus := match from? with | some p => p % 2 == 1 | none => true
      aroundExit s d plus keep (if plus then fwd else n - fwd)
    else
      let plus := decide (2 * fwd ≤ n)
      let dist := if plus then fwd else n - fwd
      let t := torusPort d plus
      if portUp s t then some (exitBy s d t false keep)
      else if d = 0 ∧ 2 ≤ dist then
        let b := if plus then 6 else 7
        if portUp s b then some (exitBy s d b false keep) else none
      else aroundExit s d (!plus) keep (n - dist)

-- ------------------------------------------------------------------------------------------------ sending flits

/-- Whether a port may send a new flit now: trained, no flit of the class to be sent again first, room in the class's share,
no XOFF (R326, R327, R329). -/
def maySend (s : State) (n : Nat) (p : Port) (f : Flit) : Bool :=
  p.st == .trained && !p.stopped.contains (f.cls, laneOf f) && !(p.again.any fun g => g.cls == f.cls)
    && decide ((p.retry.filter (fun g => g.cls == f.cls)).length < retryShare s n f.cls)

/-- The exit of the oldest flit of a class and lane of an input port; none with no such flit, or with no way out. -/
def laneExit (s : State) (n c l : Nat) : Option (Flit × Exit) :=
  match (portOf s n).lanes.find? fun f => f.cls == c && laneOf f == l with
  | none => none
  | some f => (routeTo s f.dest (some n) f.around f.dateline).map fun e => (f, e)

/-- A flit of a class waits in an input port's lanes for an output port that may send it. -/
def wantsPort (s : State) (m c out : Nat) : Bool :=
  [0, 1].any fun l => match laneExit s m c l with
    | none => false
    | some (f, e) => e.port == out &&
        maySend s out (portOf s out) { f with around := e.around, dateline := e.dateline }

/-- R331: forwarded flits of a class go before those that the device originates. -/
def forwardWaits (s : State) (out c : Nat) : Bool := (List.range 8).any fun m => wantsPort s m c out

/-- R331: among the input ports with a flit for an output port, the turn is `n`'s, counting on from the one last served. -/
def forwardTurn (s : State) (n c out : Nat) : Bool :=
  let last := (portOf s out).served.getD c 7
  let place := fun m => (m + 7 - last) % 8
  (List.range 8).all fun m => m == n || !wantsPort s m c out || decide (place n < place m)

/-- Key of a flit in the counts of resends. -/
def flitKey (f : Flit) : Nat := f.cls * 4096 + f.lseq

/-- Send a flit again, with the ACKs of now (R326). -/
def sendAgain (p : Port) (f : Flit) : Port :=
  { p with wire := p.wire ++ [{ f with acks := portAcks p }], resends := p.resends + 1
           resent := tabUpd 0 p.resent (flitKey f) (· + 1) }

/-- Send again what an XOFF does not hold back, in order within each class (R326, R329). -/
def pumpAgain : List Flit → List Nat → Port → Port
  | [], _, p => p
  | f :: fs, held, p =>
    if held.contains f.cls || p.stopped.contains (f.cls, laneOf f) then
      pumpAgain fs (f.cls :: held) { p with again := p.again ++ [f] }
    else pumpAgain fs held (sendAgain p f)

/-- Send the waiting flits that may leave, in order within each class. -/
def pumpList (s : State) (n : Nat) : List Flit → List Nat → Port → Port
  | [], _, p => p
  | f :: fs, held, p =>
    if held.contains f.cls || forwardWaits s n f.cls || !maySend s n p f then
      pumpList s n fs (f.cls :: held) { p with queue := p.queue ++ [f] }
    else pumpList s n fs held (sendFlit p f)

/-- Send a LINK flit to the neighbour on a port. -/
def sendLink (s : State) (port : Nat) (i : Instr) : State :=
  sendPlain (updVia s fun v => { v with sent := v.sent ++ [(port, i)] }) port kindLink (linkBytes i)

/-- A port retrains (R328); the state change raises source 6. -/
def beginRetrain (s : State) (n : Nat) : State :=
  raiseIrq (updPort s n fun p => { p with st := .training, retrain := true, retrains := p.retrains + 1 }) 6

/-- PORT_RETRAIN (R328): the port retrains, and its peer with it. -/
def portRetrain (s : State) (n : Nat) : State :=
  if !isLinked s n then s else beginRetrain (sendLink s n (.retrainRequest (Nat.xor n 1))) n

/-- R328: a flit that has been sent again 8 times makes its port retrain. -/
def resendLimit (s : State) (n : Nat) : State :=
  if (portOf s n).resent.any fun e => decide (8 ≤ e.2) then portRetrain s n else s

/-- A port sends what it may: first what must go again, then what waits. -/
def pump (s : State) (n : Nat) : State :=
  let p := portOf s n
  if p.st ≠ .trained then s
  else
    let p := pumpAgain p.again [] { p with again := [] }
    resendLimit (setPort s n (pumpList s n p.queue [] { p with queue := [] })) n

/-- Queue flits that this device originates on a port, and send what may leave. -/
def queueFlits (s : State) (n : Nat) (fs : List Flit) : State :=
  pump (updPort s n fun p => { p with queue := p.queue ++ fs }) n

-- ------------------------------------------------------------------------------------------------ sending messages

/-- The flits of a message for a coordinate. -/
def messageFlits (s : State) (dest : Coord) (i : Instr) : List Flit :=
  match messageBytes i with
  | none => []
  | some (journal, b) =>
    if journal then flitsOf kindData 3 0 dest (ownCoord s) (msgHeader s b.length ++ b)
    else flitsOf kindControl 3 0 dest (ownCoord s) b

/-- Flits as they leave by an exit (R330). -/
def marked (e : Exit) (fs : List Flit) : List Flit := fs.map fun f => { f with around := e.around, dateline := e.dateline }

/-- Send a message to the neighbour on a port that is up. -/
def sendVia (s : State) (port : Nat) (i : Instr) : State :=
  if !portUp s port then s
  else
    queueFlits (updVia s fun v => { v with sent := v.sent ++ [(port, i)] }) port
      (marked (exitBy s (portDim port) port false false) (messageFlits s (neighbourCoord s port) i))

/-- Flits for a coordinate leave by R330; what cannot leave is dropped and logged. -/
def routeFlits (s : State) (dest : Coord) (fs : List Flit) : State :=
  match routeTo s dest none false false with
  | none => logEvent s (mkEvent stLinkDown srcVia 2 0 evFault 0 (coordBits dest))
  | some e => queueFlits s e.port (marked e fs)

/-- Flits for a coordinate leave by a port that a plan names (R195, R196, R201); with that port down they are rerouted (R330).
None where no way is left. -/
def leaveBy (s : State) (port : Nat) (dest : Coord) (fs : List Flit) : Option State :=
  let exit := if portUp s port then some (exitBy s (portDim port) port false false) else routeTo s dest none false false
  exit.map fun e => queueFlits s e.port (marked e fs)

/-- Send a message to a coordinate, routed by R330. -/
def sendTo (s : State) (dest : Coord) (i : Instr) : State :=
  routeFlits (updVia s fun v => { v with routed := v.routed ++ [(dest, i)] }) dest (messageFlits s dest i)

/-- Send a message to a rank; a rank without a known coordinate is unreachable. -/
def sendRank (s : State) (r : Nat) (i : Instr) : State :=
  match coordOfRank s r with
  | none => s
  | some c => sendTo s c i

/-- Send a message on every port that is up but one. -/
def flood (s : State) (except : Option Nat) (i : Nat → Instr) : State :=
  (upPorts s).foldl (fun s p => if some p = except then s else sendVia s p (i (Nat.xor p 1))) s

/-- The heading of a control message that this device sends. -/
def ctlOf (s : State) (port : Nat) (status : Nat) : Ctl :=
  let tag := match s.ks.plan with
    | some p => p.groupTag
    | none => match s.via.formed with | some f => f.tag | none => 0
  { port := port, src := ownCoord s, tag := BitVec.ofNat 32 tag, status := BitVec.ofNat 8 status }

/-- The heading of a journal message that this device sends (R377). -/
def jOf (s : State) (port : Nat) : JMsg :=
  let r := match s.ks.plan with | some p => rankOf p | none => 0
  { port := port, tag := (ctlOf s port 0).tag, sender := r, count := s.grp.count }

/-- The port by which a routed message reaches a coordinate: the expected peer port of its last hop. -/
def arrivalPort (own dest : Coord) (dims : Coord) : Nat :=
  match [2, 1, 0].find? (fun d => axisOf own d != axisOf dest d) with
  | none => 0
  | some d =>
    let n := axisOf dims d
    let fwd := (axisOf dest d + n - axisOf own d) % n
    Nat.xor (torusPort d (decide (2 * fwd ≤ n))) 1

/-- The heading of a routed journal message. -/
def jTo (s : State) (dest : Coord) : JMsg := jOf s (arrivalPort (ownCoord s) dest (s.via.dims.getD ⟨1, 1, 1⟩))
def ctlTo (s : State) (dest : Coord) (status : Nat) : Ctl :=
  ctlOf s (arrivalPort (ownCoord s) dest (s.via.dims.getD ⟨1, 1, 1⟩)) status

/-- A message to the neighbour on a port, rerouted where the port is down (R330). -/
def sendNext (s : State) (port : Nat) (i : Ctl → Instr) : State :=
  if portUp s port then sendVia s port (i (ctlOf s (Nat.xor port 1) 0))
  else sendTo s (neighbourCoord s port) (i (ctlTo s (neighbourCoord s port) 0))

/-- Send a control message to a rank. -/
def sendCtl (s : State) (r status : Nat) (i : Ctl → Instr) : State :=
  match coordOfRank s r with
  | none => s
  | some c => sendTo s c (i (ctlTo s c status))

/-- Send a journal message to a rank. -/
def sendJ (s : State) (r : Nat) (i : JMsg → Instr) : State :=
  match coordOfRank s r with
  | none => s
  | some c => sendTo s c (i (jTo s c))

/-- This device's IDENT on a port (Table 16-5). -/
def identOf (s : State) (port : Nat) : Ident :=
  { port := port, version := 1, stepping := s.toll.stepping, coordValid := s.via.coord.isSome,
    formed := s.via.formed.isSome, deviceId := s.toll.deviceId, resultVer := s.host.resultVer, coord := ownCoord s,
    dims := s.via.dims.getD ⟨0, 0, 0⟩,
    tag := match s.via.formed with | some f => BitVec.ofNat 32 f.tag | none => 0 }

/-- R333: the IDENT is sent again on every port whenever a field of it changes. -/
def resendIdent (s : State) (old : State) : State :=
  if identOf s 0 = identOf old 0 then s
  else (linkedPorts s).foldl
    (fun s p => sendLink s p (.ident (Nat.xor p 1) (identOf s p))) s

/-- Send a DATA message for a transfer entry by its PORT (R323). -/
def sendData (s : State) (port : Nat) (dest : Coord) (cls msgSeq : Nat) (b : List Byte) : Option State :=
  leaveBy s port dest (flitsOf kindData cls msgSeq dest (ownCoord s) (msgHeader s b.length ++ b))

/-- RECEIVE_READY goes to a rank from the receive entry's PORT (R324). -/
def sendReady (s : State) (port r msgSeq cls len : Nat) : State :=
  match coordOfRank s r with
  | none => s
  | some c =>
    let h := if neighbourCoord s port = c then ctlOf s (Nat.xor port 1) 0 else ctlTo s c 0
    let m : Instr := .receiveReady h msgSeq cls len
    let t := updVia s fun v => { v with routed := v.routed ++ [(c, m)] }
    (leaveBy t port c (messageFlits t c m)).getD (logEvent t (mkEvent stLinkDown srcVia 2 0 evFault 0 (coordBits c)))

/-- Whether every flit of a message for a coordinate has been acknowledged by the link (R201). -/
def dataAcked (s : State) (dest : Coord) (cls msgSeq : Nat) : Bool :=
  (List.range 8).all fun n =>
    let p := portOf s n
    (p.queue ++ p.retry).all fun f =>
      !(f.kind == kindData && f.cls == cls && f.msgSeq.toNat == msgSeq && f.src == ownCoord s
        && f.dest == dest)

-- ------------------------------------------------------------------------------------------------ the timing root

/-- HC_STATUS.BEAT_UNLOCKED follows the lock (R15). -/
def showLock (s : State) : State := updHost s fun h => statusBit h bitBeat (!s.beat.locked)

/-- A port over which a neighbour's markers come: trained, miswired or holding for a retraining (R335). -/
def hearsMarkers (s : State) (n : Nat) : Bool := isLinked s n || (portOf s n).retrain

/-- The identity of the timing root that this device follows: the lowest it hears, its own among them (R14, R335). -/
def rootHeard (s : State) : W64 :=
  (s.beat.portHops.filter fun e => hearsMarkers s e.1).foldl (fun r e => if e.2.2.toNat < r.toNat then e.2.2 else r) s.toll.deviceId

/-- The neighbour of smallest hop count toward that root, on the lowest-numbered port (R14 rule 3). -/
def chooseUpstream (s : State) (root : W64) : Option (Nat × Nat) :=
  let c := (s.beat.portHops.filter fun e => hearsMarkers s e.1 && e.2.2 == root).map fun e => (e.1, e.2.1)
  c.foldl (fun best e => match best with
    | none => some e
    | some b => if e.2 < b.2 ∨ (e.2 = b.2 ∧ e.1 < b.1) then some e else some b) none

/-- Root, upstream and own hop count from what the ports have heard. A new upstream is not locked to; the root that a
neighbour follows is. -/
def retime (s : State) : State :=
  let root := rootHeard s
  if root = s.toll.deviceId then
    let followed := s.beat.portHops.any fun e => hearsMarkers s e.1 && e.2.2 == root
    showLock (updBeat s fun b => { b with root := root, upstream := none, hops := 0, diff := 0, lead := none, locked := followed })
  else
    match chooseUpstream s root with
    | none => showLock (updBeat s fun b => { b with upstream := none, diff := 0, lead := none, locked := false })
    | some (n, h) =>
      showLock (updBeat s fun b =>
        let same := b.upstream == some n && b.root == root
        { b with root := root, upstream := some n, hops := h + 1, locked := b.locked && same
                 diff := if same then b.diff else 0, lead := if same then b.lead else none })

/-- What a port had heard of the beat is void: its neighbour's hop count and the link's delay, which the next training
measures anew (R14 rule 4, R15). -/
def forgetMarkers (s : State) (n : Nat) : State :=
  retime (updBeat s fun b =>
    { b with portHops := b.portHops.filter (fun e => e.1 != n), delays := b.delays.filter (fun d => d.1 != n)
             asked := b.asked.filter (fun a => a.1 != n), echoDue := b.echoDue.filter (fun e => e.1 != n) })

/-- The link's delay is to be measured again, by a training that ends (R14 rule 4). -/
def forgetDelay (s : State) (n : Nat) : State :=
  updBeat s fun b =>
    { b with delays := b.delays.filter (fun d => d.1 != n), asked := b.asked.filter (fun a => a.1 != n)
             echoDue := b.echoDue.filter (fun e => e.1 != n) }

end Sys2Proof.Machine
end

