-- ==== Sys2Proof/Machine/DramOps.lean ====
section
/-! DEFINITION. Bonded DRAM (spec 15): memory-side adders (R314, R315), refresh (R308), scrubbing (R317, R318), and host access through BAR 2 (R70,
R74, R421). -/

namespace Sys2Proof.Machine

-- ------------------------------------------------------------------------------------------------ memory-side adders

/-- A float add (Table 15-4). -/
def addFloat (x : Add) : Bool := !x.wide && (x.fmt == 0 || x.fmt == 1)

/-- A descriptor that adds to a buffer (R168). -/
def addsTo (d : Desc) (handle : Nat) : Bool :=
  (isMatmul d.opcode || d.opcode == opMatvec) && mmAccOut d == 2 && (mmOut d).handle == handle

/-- The output of an adding descriptor touches a channel (R315). -/
def addsAt (p : Plan) (d : Desc) (ch : Nat) : Bool :=
  (accesses p d).any fun a => a.add && decide (a.place < noOperand)
    && (bufferRanges p a.place a.range).any fun r => touchesChannel r.1 r.2 ch

/-- R315: every adding descriptor of lower order key on the buffer has sent this channel its add-done markers. -/
def addReady (s : State) (x : Add) : Bool :=
  !addFloat x ||
    match s.ks.plan with
    | none => true
    | some p => s.ks.issued.all fun i =>
        !decide (i.seq < x.key / 65536) ||
          match descAt p i.seq with
          | none => true
          | some d =>
            !addsTo d x.handle
              || !addsAt p d x.channel
              || (targets d).all fun t => s.dram.markers.contains (x.channel, t, i.seq)

/-- The sum that the adder writes (Table 15-4). -/
def addSum (x : Add) (old : Nat) : Nat :=
  if x.wide then (old + x.value.toNat) % 2 ^ 64
  else if x.fmt = 0 then
    widen .fp32 (roundFp32 0 0 (numAdd (decodeNum .fp32 old) (decodeNum .fp32 (x.value.toNat % 2 ^ 32))))
  else if x.fmt = 1 then
    narrow .bf16 0 0 false (numAdd (decodeNum .bf16 old) (decodeNum .bf16 (x.value.toNat % 2 ^ 16)))
  else (old + x.value.toNat) % 2 ^ 32

def addBytes (x : Add) : Nat := if x.wide then 8 else codeBits x.fmt / 8

/-- Apply an add to its sector; an uncorrectable sector stays as it was and fails the descriptor (R445). -/
def applyAdd (s : State) (x : Add) : State :=
  let s := touchSectors (updDram s fun d => { d with adds := d.adds.erase x, window := d.window.erase x }) (· == x.addr / 32)
  if s.dram.bad.contains (x.addr / 32) then
    updIssued (failRow s (rowOf x.addr)) (x.key / 65536) fun i =>
      { i with status := if i.status = 0 ∨ isInformational i.status then stMemory else i.status }
  else
    let n := addBytes x
    freshSectors (updDram s fun d => { d with mem := tabPut d.mem x.addr (leBytes n (addSum x (memNat d.mem x.addr n))) })
      [(x.addr, n)]

/-- The ready add of lowest order key, the earlier of equal ones. -/
def lowestAdd : List Add → Option Add
  | [] => none
  | x :: xs =>
    match lowestAdd xs with
    | none => some x
    | some y => if y.key < x.key then some y else some x

/-- What has come to a channel and waits with its producers: the first of each descriptor. -/
def nextAdds (s : State) (ch : Nat) : List Add :=
  let l := s.dram.adds.filter fun x => x.channel == ch
  ((l.map fun x => x.key / 65536).eraseDups).filterMap fun q => l.find? fun x => x.key / 65536 == q

/-- An add that must wait has room in the channel's window of 64 sector entries. -/
def windowTakes (held : List Add) (x : Add) : Bool :=
  let sectors := (held.map fun y => y.addr / 32).eraseDups
  sectors.contains (x.addr / 32) || decide (sectors.length < 64)

/-- R315: a channel applies the ready add of lowest order key among its window and the next arrivals; an arrival that must
wait takes an entry of the window; with none free it stays with its producer. -/
def memorySideAdd (s : State) (ch : Nat) : State :=
  let held := s.dram.window.filter fun x => x.channel == ch
  let next := nextAdds s ch
  match lowestAdd ((held ++ next).filter (addReady s)) with
  | some x => applyAdd s x
  | none =>
    match next.find? (windowTakes held) with
    | none => s
    | some x => updDram s fun d => { d with adds := d.adds.erase x, window := d.window ++ [x] }

def execMemorySideAdd (ch : Nat) (s : State) : Host.Outcome State Fault Refusal := .next (memorySideAdd s ch)

/-- R315: a target span sends its marker for a descriptor once it has emitted all its adds; the marker follows them to the
channel. -/
def addDone (s : State) (ch span seq : Nat) : State :=
  match running s seq with
  | none => s
  | some (p, d, i) =>
    if addsTo d (mmOut d).handle && (targets d).contains span && i.passesRun.length == passesOf p seq
        && !s.dram.markers.contains (ch, span, seq) && !s.dram.adds.any (fun x => x.channel == ch && x.key / 65536 == seq) then
      updDram s fun m => { m with markers := m.markers ++ [(ch, span, seq)] }
    else s

def execAddDone (ch span seq : Nat) (s : State) : Host.Outcome State Fault Refusal := .next (addDone s ch span seq)

-- ------------------------------------------------------------------------------------------------ refresh and scrub

/-- Rows of a bank: user, reserve and spare (Table 15-1). -/
def bankRows : Nat := 20480 + 256 + 8

/-- The device's DRAM is up: rails on and not held in self-refresh. -/
def dramUp (s : State) : Bool := s.pw.rails && !s.dram.selfRef

/-- R308: the next row of a bank is refreshed; nothing that a program sees changes. -/
def dramRefresh (s : State) (ch bank : Nat) : State :=
  if !dramUp s ∨ 1024 ≤ ch ∨ 32 ≤ bank then s
  else updDram s fun d => { d with refRow := tabUpd 0 d.refRow (ch * 32 + bank) fun r => (r + 1) % bankRows }

def execDramRefresh (ch bank : Nat) (s : State) : Host.Outcome State Fault Refusal := .next (dramRefresh s ch bank)

/-- 1 KiB pieces of one channel: user capacity and 16 reserve regions (R318). -/
def scrubPieces : Nat := 1280 * 1024 + 16 * 1024

/-- R317, R318: one scrub read of 1 KiB of a channel. -/
def backgroundScrub (s : State) (ch : Nat) (ecc : List SectorErr) : State :=
  if !dramUp s ∨ !s.dram.scrubOn ∨ 1024 ≤ ch then s
  else
    let pos := tabGet 0 s.dram.scrubPos ch
    let here := fun a => channelOf a == ch && channelAddr a / 1024 == pos
    updDram (scrubSectors s here ecc false) fun d => { d with scrubPos := tabSet 0 d.scrubPos ch ((pos + 1) % scrubPieces) }

def execBackgroundScrub (ch : Nat) (ecc : List SectorErr) (s : State) : Host.Outcome State Fault Refusal :=
  .next (backgroundScrub s ch ecc)

-- ------------------------------------------------------------------------------------------------ BAR 2

/-- Every address of an access is host-accessible (R74) and the device has reached readiness (R421). -/
def bar2Ok (s : State) (a len : Nat) : Bool := !notReady s.host && decide (a + len ≤ reservedStart)

/-- A region that must retire without a reserve, or a failed channel, holds the address (R313). -/
def lostMemory (s : State) (a : Nat) : Bool := s.dram.failedCh.contains (channelOf a) || s.dram.gone.contains (dramRegion a)

/-- R70, R74, R421: data, zeros outside host-accessible DRAM, Completer Abort on uncorrectable data; failing rows that it
finds move once it has been answered (R312). -/
def bar2Read (s : State) (off len : Nat) (ecc : List SectorErr) : State :=
  let a := bar2Base s.host + off
  barRead s fun s =>
  if !bar2Ok s a len then sendPcie (setErr s errBar2) (.readData (zeros len))
  else
    let s := (ecc.filter fun e => rangeHits a len (e.addr / 32)).foldl markSector (touchSectors s (rangeHits a len))
    let bad := (List.range ((a + len - 1) / 32 - a / 32 + 1)).find? fun i =>
      let x := (a / 32 + i) * 32
      s.dram.bad.contains (x / 32) || lostMemory s x
    match (if len = 0 then none else bad) with
    | none => settleIdle (sendPcie s (.readData (tabBytes s.dram.mem a len)))
    | some i =>
      let x := (a / 32 + i) * 32
      let s := markRow (logAer s .completerAbort) (rowOf x)
      settleIdle (sendPcie (logEvent s (mkEvent stMemory srcDram 2 (channelOf x) evFault 0 x)) .completerAbort)

def execBar2Read (off len : Nat) (ecc : List SectorErr) (s : State) : Host.Outcome State Fault Refusal :=
  .next (bar2Read s off len ecc)

/-- Write bytes at a device address, sector by sector: a sector that is uncorrectable and written in part stays as it was, its
row failing (R445); a whole one takes fresh check bits and leaves the lost list (R384). Answers the sectors left. -/
def putSectors (s : State) (a : Nat) (data : List Byte) : State × List Nat :=
  let s := touchSectors s (partHits a data.length)
  let bads := s.dram.bad.filter (partHits a data.length)
  let mem := data.zipIdx.foldl (fun m b => if bads.contains ((a + b.2) / 32) then m else tabSet 0 m (a + b.2) b.1) s.dram.mem
  let s := freshSectors (updDram s fun d => { d with mem := mem }) [(a, data.length)]
  (bads.foldl (fun s sec => markRow s (rowOf (32 * sec))) s, bads)

/-- Bytes of a host write: a sector that stays uncorrectable is logged and notified (R445). -/
def bar2Bytes (s : State) (a : Nat) (data : List Byte) : State :=
  let r := putSectors s a data
  settleIdle (r.2.foldl (fun s sec => notifyFault s (mkEvent stMemory srcDram 2 (channelOf (32 * sec)) evFault 0 (32 * sec))) r.1)

/-- R70, R74, R421: a write reaches DRAM in arrival order; a poisoned one is dropped whole, one outside
host-accessible DRAM is dropped. -/
def bar2Write (s : State) (off : Nat) (data : List Byte) (poisoned : Bool) : State :=
  let a := bar2Base s.host + off
  barWrite s poisoned fun s => if !bar2Ok s a data.length then setErr s errBar2 else bar2Bytes s a data

def execBar2Write (off : Nat) (data : List Byte) (poisoned : Bool) (s : State) : Host.Outcome State Fault Refusal :=
  .next (bar2Write s off data poisoned)

end Sys2Proof.Machine
end

