-- ==== Sys2Proof/Machine/March.lean ====
section
/-! DEFINITION. Physical spans and their SRAM (spec 05): positions and spares (R130 to R132), bank tags cleared (R107),
the march test's repairs (R124 to R128). -/

namespace Sys2Proof.Machine

-- ------------------------------------------------------------------------------------------------ physical spans

/-- The physical span of a logical one (R130): its own position in its bay pair unless a spare has taken its place. -/
def physOf (s : State) (x : Nat) : Nat :=
  let own := 33 * (x / 32) + x % 32
  let k := tabGet 0 s.sp.phys x
  if k = 0 then own else k - 1

/-- The spare of a logical span's bay pair. -/
def spareOf (x : Nat) : Nat := 33 * (x / 32) + 32

/-- The logical index that a physical span serves. -/
def servedBy (s : State) (p : Nat) : Option Nat :=
  ((List.range 32).map (32 * (p / 33) + ·)).find? fun x => physOf s x == p && !s.sp.missing.contains x

/-- Spares left (GET_INFO page 2): one per bay pair, less those used or unusable. -/
def sparesLeft (s : State) : Nat := 16 - s.sp.spares.length

/-- The keys of a table of bytes by bank that belong to a span. -/
def spanBank (x k : Nat) : Bool := k / bankSize / 4 == x
def spanAcc (x k : Nat) : Bool := k / 0x80000 == x

/-- Clear VALID of every bank of the spans that a predicate selects (R107). -/
def clearTags (s : State) (sel : Nat → Bool) : State :=
  updSp s fun p => { p with tags := tabKeep (fun k => !sel (k / 4)) p.tags }

/-- What a destructive march test leaves (Table 5-8): zero with valid check bits, VALID cleared. -/
def marchSpans (s : State) (sel : Nat → Bool) : State :=
  let s := clearTags s sel
  updSp s fun p =>
    { p with banks := tabKeep (fun k => !sel (k / bankSize / 4)) p.banks
             accs := tabKeep (fun k => !sel (k / 0x80000)) p.accs
             resid := tabKeep (fun k => !sel (k / 2)) p.resid }

-- ------------------------------------------------------------------------------------------------ cells and spares

/-- Spare rows and columns of an SRAM (R127). -/
def spareRowsOf : Sram → Nat
  | .bank _ _ => 16 | .acc _ => 8 | .queue _ => 0 | .slice _ _ => 16
def spareColsOf : Sram → Nat
  | .bank _ _ => 8 | .acc _ => 4 | .queue _ => 0 | .slice _ _ => 8

/-- Rows and columns of an SRAM that the repair table replaces (R127). -/
def rowsReplaced (t : Toll) (a : Sram) : List Nat :=
  t.repair.filterMap fun r => match r with | .sramRow b n => if b = a then some n else none | _ => none
def colsReplaced (t : Toll) (a : Sram) : List Nat :=
  t.repair.filterMap fun r => match r with | .sramCol b n => if b = a then some n else none | _ => none

/-- A cell that a march test finds failing: no good spare has taken its place. -/
def cellFails (t : Toll) (c : Cell) : Bool :=
  c.spared || !((rowsReplaced t c.sram).contains c.row || (colsReplaced t c.sram).contains c.col)

def failingCells (s : State) (sel : Sram → Bool) : List Cell :=
  s.sp.defects.filter fun c => sel c.sram && cellFails s.toll c

/-- Cells that have come to fail. -/
def noteCells (s : State) (l : List Cell) : State :=
  if l.isEmpty then s else updSp s fun p => { p with defects := p.defects ++ l.filter fun c => !p.defects.contains c }

/-- At most `n` lines, rows or columns, with more than `lim` of the cells, in ascending order. -/
def crowded (line : Cell → Nat) (lim n : Nat) (cells : List Cell) : List Nat :=
  let lines := cells.foldl (fun l c => insertNat (line c) l) []
  (lines.filter fun k => decide (lim < (cells.filter fun c => line c == k).length)).take n

/-- R127: spares for the failing cells of one SRAM, with `n` rows and `m` columns left: rows, then columns. -/
def assignSpares (n m : Nat) (cells : List Cell) : List Nat × List Nat :=
  let rows := crowded (·.row) m n cells
  let rest := cells.filter fun c => !rows.contains c.row
  let cols := crowded (·.col) (n - rows.length) m rest
  let rest := rest.filter fun c => !cols.contains c.col
  (rows ++ crowded (·.row) 0 (n - rows.length) rest, cols)

/-- REPAIR of one SRAM: each row and column replaced goes into the repair table. -/
def repairSram (s : State) (a : Sram) : State :=
  let r := assignSpares (spareRowsOf a - (rowsReplaced s.toll a).length) (spareColsOf a - (colsReplaced s.toll a).length)
    (failingCells s (· == a))
  let s := r.1.foldl (fun s n => recordRepair s (.sramRow a n) srcSpan 0 n) s
  r.2.foldl (fun s n => recordRepair s (.sramCol a n) srcSpan 0 n) s

/-- Repairs of rows and columns recorded so far. -/
def repairsMade (t : Toll) : Nat :=
  (t.repair.filter fun r => match r with | .sramRow _ _ | .sramCol _ _ => true | _ => false).length

/-- REPAIR of every SRAM selected that has a failing cell (R127). -/
def repairSrams (s : State) (sel : Sram → Bool) : State :=
  ((failingCells s sel).foldl (fun l c => if l.contains c.sram then l else l ++ [c.sram]) []).foldl repairSram s

-- ------------------------------------------------------------------------------------------------ retirement

/-- The physical span of a span's SRAM. -/
def physSram : Sram → Option Nat
  | .bank p _ | .acc p | .queue p => some p
  | .slice _ _ => none

/-- R131: the spare of the bay pair takes the place of a logical span's physical one, with its accumulator contents,
owners and queue; its banks are zero and their tags clear. A spare that fails its march test is unusable; with no spare left the
span is missing (R132). A word of the old accumulators that is uncorrectable fails the segment after the pier. -/
def substitute (s : State) (x : Nat) : State :=
  let k := x / 32
  let old := physOf s x
  let s := clearTags s (· == x)
  let fails := (failingCells s fun a => physSram a == some (spareOf x)).length ≠ 0
  let lost := s.sp.defects.any fun c => c.sram == .acc old && c.lost
  if s.sp.spares.contains k || fails then
    recordRepair (updSp s fun p =>
      { p with missing := insertNat x p.missing, retired := insertNat old p.retired, spares := insertNat k p.spares })
      (.span old) srcSpan x old
  else
    let s := updSp s fun p =>
      { p with phys := tabSet 0 p.phys x (spareOf x + 1), spares := insertNat k p.spares,
               retired := insertNat old p.retired, faults := tabSet 0 p.faults x 0
               banks := tabKeep (fun key => key / bankSize / 4 != x) p.banks }
    recordRepair (if lost then updKs s fun k => { k with accLost := true } else s) (.span old) srcSpan x old

/-- R35: a slow span gives way to a spare that is available; else it stays in service. A spare that fails its march test is
unusable (Table 5-10). -/
def moveSlow (s : State) (x : Nat) : State :=
  if s.sp.spares.contains (x / 32) then s
  else if (failingCells s fun a => physSram a == some (spareOf x)).isEmpty then substitute s x
  else updSp s fun q => { q with spares := insertNat (x / 32) q.spares }

/-- R128: a physical span that still fails gives way to its spare; a spare that does is unusable. -/
def retirePhys (s : State) (p : Nat) : State :=
  match servedBy s p with
  | some x => substitute s x
  | none => if p % 33 = 32 then updSp s fun q => { q with spares := insertNat (p / 33) q.spares } else s

/-- R132: a retired span whose entry in the repair table is cleared returns: its logical index to its own position, its
pair's spare to the spares. -/
def unretire (s : State) (p : Nat) : State :=
  let s := updToll s fun t => { t with repair := t.repair.filter (· != .span p) }
  let k := p / 33
  let back := ((List.range 32).map (32 * k + ·)).filter fun x =>
    physOf s x == p || (physOf s x == spareOf x && 33 * k + x % 32 == p)
  updSp s fun q =>
    { q with retired := q.retired.filter (· != p), spares := q.spares.filter (· != k)
             missing := q.missing.filter (fun x => !back.contains x)
             phys := if p % 33 = 32 then q.phys else back.foldl (fun t x => tabSet 0 t x 0) q.phys }

/-- R128: a set that still fails is disabled. -/
def disableSet (s : State) (q set : Nat) : State :=
  if s.sp.cacheOff.contains (q, set) then s
  else
    recordRepair (updSp s fun p =>
      { p with cacheOff := p.cacheOff ++ [(q, set)]
               cache := p.cache.filter fun l => !(l.slice == q && l.line % 16384 == set) })
      (.cacheSet q set) srcSpan q set

/-- The spans and sets of the cells that still fail. -/
def retireFailing (s : State) (sel : Sram → Bool) : State :=
  let left := failingCells s sel
  let spans := left.foldl (fun l c => match physSram c.sram with | some p => insertNat p l | none => l) []
  let s := (spans.filter fun p => !s.sp.retired.contains p).foldl retirePhys s
  left.foldl (fun s c => match c.sram with | .slice q _ => disableSet s q c.set | _ => s) s

/-- A march test with REPAIR (R127, R128): spares assigned, a retest, what still fails retired. -/
def marchRepair (s : State) (sel : Sram → Bool) : State := retireFailing (repairSrams s sel) sel

/-- A destructive march test of one logical span with REPAIR (R379). -/
def marchSpan (s : State) (x : Nat) : State :=
  let p := physOf s x
  let s := marchSpans s (· == x)
  let s := updSp s fun q =>
    { q with defects := q.defects.map fun c => if physSram c.sram == some p then { c with lost := false } else c }
  marchRepair s fun a => physSram a == some p

end Sys2Proof.Machine
end

