-- ==== Sys2Proof/Machine/SpanOps.lean ====
section
/-! DEFINITION. Spans (spec 05): the weight cache's drops (R119), MARCH_TEST (R124 to R129).
-/

namespace Sys2Proof.Machine

-- ------------------------------------------------------------------------------------------------ the logical device

/-- The device presents its 512 logical spans and its memory (R26, R132, R313). -/
def presents (s : State) : Bool := s.sp.missing.isEmpty && s.dram.gone.isEmpty && s.dram.failedCh.isEmpty

-- ------------------------------------------------------------------------------------------------ the weight cache

/-- START and RESUME drop every line (R119). -/
def dropCache (s : State) : State := updSp s fun p => { p with cache := [] }

/-- R119: at a pier after a flip of a WEIGHT buffer, the lines of its earlier generations go. -/
def dropOldLines (s : State) : State :=
  updSp s fun p => { p with cache := p.cache.filter fun l => l.gen == tabGet 0 s.ks.gens l.handle }

-- ------------------------------------------------------------------------------------------------ MARCH_TEST

def mtTarget (c : Taken) : Nat := payAt c 4 1
def mtMode (c : Taken) : Nat := payAt c 5 1
def mtIndex (c : Taken) : Nat := payAt c 6 2
def mtRepair (c : Taken) : Bool := (payAt c 8 1).testBit 0

/-- INDEX lies below it (Table 4-14): bays, spans, slices; TARGET 0 takes any. -/
def mtLimit (c : Taken) : Nat := match mtTarget c with | 1 => 32 | 2 => 512 | 3 => 4 | _ => 65536

/-- The spans that a MARCH_TEST reaches. -/
def mtSpan (c : Taken) (x : Nat) : Bool :=
  match mtTarget c with
  | 0 => true
  | 1 => x / 16 == mtIndex c
  | 2 => x == mtIndex c
  | _ => false

def mtSlice (c : Taken) (q : Nat) : Bool := mtTarget c == 0 || (mtTarget c == 3 && q == mtIndex c)

/-- The SRAMs that it reaches: those of spans in service, by their logical index, of spares with TARGET 0, of slices. -/
def mtSram (s : State) (c : Taken) : Sram → Bool
  | .bank p _ | .acc p | .queue p =>
    match servedBy s p with
    | some x => mtSpan c x
    | none => mtTarget c == 0 && p % 33 == 32 && !s.sp.retired.contains p
  | .slice q _ => mtSlice c q

/-- R88, R125, R129: the test starts; one at a time. -/
def marchTest (s : State) (tag : Nat) : State :=
  serve s cmdMarchTest tag fun s c =>
    let st := planState s
    let okState := if mtMode c = 0 then st == plNone else st == plNone || st == plLoaded || st == plPaused
    if !payClean c [(4, 1), (5, 1), (6, 2), (8, 1)] || decide (1 < payAt c 8 1) then finishCmd s c stBadParam []
    else if notReady s.host || !okState then finishCmd s c stBusy []
    else if 3 < mtTarget c ∨ 1 < mtMode c ∨ mtLimit c ≤ mtIndex c then finishCmd s c stBadParam []
    else
      let s := acceptCmd s c
      if s.ks.marchTag.isSome then s else updKs s fun k => { k with marchTag := some c }

def execMarchTest (tag : Nat) (s : State) : Host.Outcome State Fault Refusal := .next (marchTest s tag)

/-- Destructive mode leaves the memory under test zero (Table 5-8). -/
def marchDestroys (s : State) (c : Taken) : State :=
  let hit := mtSram s c
  updSp (marchSpans s (mtSpan c)) fun p =>
    { p with cache := p.cache.filter fun l => !mtSlice c l.slice
             defects := p.defects.map fun x => if hit x.sram then { x with lost := false } else x }

/-- Preserving mode clears VALID of every bank in which it met an uncorrectable word (R125). -/
def marchPreserves (s : State) (c : Taken) : State :=
  s.sp.defects.foldl (fun s x =>
    match x.sram with
    | .bank p b =>
      if x.lost && mtSram s c x.sram then
        match servedBy s p with
        | some l => updSp s fun q => { q with tags := tabKeep (· != 4 * l + b) q.tags }
        | none => s
      else s
    | _ => s) s

/-- R125, R127, R128: the test ends, having found `cells` failing beside those known. -/
def marchTestEnd (s : State) (cells : List Cell) : State :=
  match s.ks.marchTag with
  | none => s
  | some c =>
    let sel := mtSram s c
    let s := noteCells (updKs s fun k => { k with marchTag := none }) (cells.filter fun x => sel x.sram)
    let found := (failingCells s sel).length
    let before := repairsMade s.toll
    let gone := s.sp.retired.length
    let s := if mtMode c = 0 then marchDestroys s c else marchPreserves s c
    let s := if mtRepair c then marchRepair s sel else s
    let s := finishCmd s c stOk [found, repairsMade s.toll - before, s.sp.retired.length - gone]
    updKs s fun k => { k with marchTag := nextLong s (· == cmdMarchTest) }

/-- Its operands are the cells found failing in banks, in accumulators, and in descriptor queues and slices. -/
def execMarchTestEnd (banks accs others : List Cell) (s : State) : Host.Outcome State Fault Refusal :=
  .next (marchTestEnd s (banks ++ accs ++ others))

end Sys2Proof.Machine
end

