-- ==== Sys2Proof/Machine/Segment.lean ====
section
/-! DEFINITION. Phases and their configuration (R54 to R57), segments and piers: the pier record (Tables 19-1, 19-2), the
carry-forward of R446, contexts (R65), and restoring a segment's start from a record (R380). -/

namespace Sys2Proof.Machine

-- ------------------------------------------------------------------------------------------------ configurations

/-- Circuit entries of a record of kind 1 (R113). -/
def circuitEntries (b : List Byte) : List (Nat × (Nat × Nat)) :=
  (List.range (b.length / 8)).map fun i => (fieldAt b (8 * i) 2, (fieldAt b (8 * i + 2) 1, fieldAt b (8 * i + 3) 1))

/-- A configuration with one setup record written into it (Table 3-13). -/
def withRecord (c : BlockCfg) (r : Setup) : BlockCfg :=
  match r.kind with
  | 1 => { c with routers := tabSet [] c.routers r.target (circuitEntries r.body) }
  | 2 => { c with chans := (List.range 1024).foldl (fun t i => tabSet 0 t i (fieldAt r.body (i / 64) 1)) c.chans }
  | 3 => { c with ports := (List.range 8).foldl (fun t i => tabSet 0 t i (fieldAt r.body i 1)) c.ports }
  | 4 => { c with owners := (List.range 64).foldl (fun t i => tabSet 0 t (64 * r.target + i) (fieldAt r.body i 1)) c.owners }
  | 5 => { c with regs := (List.range 32).foldl (fun t i =>
             tabSet 0 t i (if fieldAt r.body 0 1 = 1 then fieldAt r.body (1 + 2 * i) 2 else 0)) c.regs }
  | _ => c

def withRecords (c : BlockCfg) (rs : List Setup) : BlockCfg := rs.foldl withRecord c

/-- The blocks that a record names (R56); of the channels, those whose stack's preset it changes (R447). -/
def namedBlocks (c : BlockCfg) (r : Setup) : List Block :=
  match r.kind with
  | 1 => [.router r.target]
  | 2 => ((List.range 1024).filter fun i => tabGet 0 c.chans i != fieldAt r.body (i / 64) 1).map .channel
  | 3 => (List.range 8).map .port
  | 4 => (List.range 16).map fun i => .bankTable (16 * r.target + i)
  | 5 => (List.range 32).map .regulator
  | _ => []

/-- Phases in the order in which they run up to phase `i` of a step: from phase 0 in the first step, then from
LOOP_PHASE (R52). -/
def phasePath (p : Plan) (step i : Nat) : List Nat :=
  if step = 0 then List.range (i + 1)
  else List.range p.phases.length ++ (List.range (i + 1)).filter (fun k => decide (p.loopPhase ≤ k))

/-- The configuration as it stands in phase `i` of a step (R55). -/
def configAt (p : Plan) (step i : Nat) : BlockCfg :=
  (phasePath p step i).foldl (fun c k => withRecords c (phaseRecords p k)) .reset

/-- Bank owners as they stand before descriptor `seq` of a step: the records of kind 4 and the handovers before it. -/
def ownersAt (p : Plan) (step seq : Nat) : Tab Nat :=
  let i := phaseIndex p seq
  let first := match p.phases[i]? with | some f => f.firstSeq | none => 1
  let path := phasePath p step i
  let runs := path.zipIdx.map fun k =>
    (k.1, if k.2 + 1 = path.length ∧ first ≤ seq then seq
          else match p.phases[k.1 + 1]? with | some f => f.firstSeq | none => lastSeq p + 1)
  runs.foldl (fun t kr =>
    let k := kr.1
    let t := (phaseRecords p k).foldl (fun t r =>
      if r.kind = 4 then (List.range 64).foldl (fun t j => tabSet 0 t (64 * r.target + j) (fieldAt r.body j 1)) t else t) t
    let lo := match p.phases[k]? with | some f => f.firstSeq | none => 1
    (p.descs.filter fun d => d.opcode == opBankHandover && decide (lo ≤ d.seq) && decide (d.seq < kr.2)).foldl (fun t d =>
      (targets d).foldl (fun t x => (hoEntries d).foldl (fun t e => tabSet 0 t (x * 4 + e.1) e.2.2) t) t) t) []

-- ------------------------------------------------------------------------------------------------ piers

def pierBySeq (p : Plan) (seq : Nat) : Option PierEntry := p.piers.find? (fun e => e.seq == seq)
def pierByIndex (p : Plan) (i : Nat) : Option PierEntry := p.piers.find? (fun e => e.index == i)

/-- The step-closing pier is the plan's last descriptor (R52). -/
def isStepPier (p : Plan) (e : PierEntry) : Bool := e.seq == lastSeq p

def isUpdate (d : Desc) : Bool := d.opcode == opUpdateElem || d.opcode == opUpdateMatrix

/-- The plan's COMMIT. -/
def commitSeq (p : Plan) : Option Nat := (p.descs.find? (fun d => d.opcode == opCommit)).map (·.seq)

/-- The update pier: the last pier before the first update descriptor, or before the COMMIT where there is none. -/
def updatePier (p : Plan) : Option PierEntry :=
  let first := match p.descs.find? isUpdate with | some d => some d.seq | none => commitSeq p
  match first with
  | none => none
  | some q => (p.piers.filter fun e => decide (e.seq < q)).getLast?

/-- Descriptors of the update phase: after the update pier and before the COMMIT. -/
def inUpdatePhase (p : Plan) (seq : Nat) : Bool :=
  match updatePier p, commitSeq p with
  | some e, some c => decide (e.seq < seq) && decide (seq < c)
  | _, _ => false

/-- Bits of the update bitmap (Table 19-2). -/
def updCount (p : Plan) (e : PierEntry) : Nat :=
  match updatePier p, commitSeq p with
  | some u, some c => if u.seq = e.seq then c - e.seq - 1 else 0
  | _, _ => 0

-- ------------------------------------------------------------------------------------------------ the region of Runal

def journalBase : Nat := reservedStart
def mirrorBase (k : Nat) : Nat := reservedStart + 0x80000000 * (k + 1)
def workingBase : Nat := reservedStart + 0x180000000
/-- A slot of the journal (R62, Table 19-1). -/
def slotSize : Nat := 0x80000
def commitArea : Nat := 0x7FF00
def decisionArea : Nat := 0x7FF80
def validWord : Nat := 0x4C494156
def recordMagic : Nat := 0x52454950

def slotAddr (i : Nat) : Nat := journalBase + i * slotSize

/-- The second copy of an item of the working area begins this far behind the first, in another channel (R448). -/
def copyOffset : Nat := 0x40000100

/-- The start record and its second copy, in the working area (R448). -/
def startRecordAddr : Nat := workingBase
def startRecordCopy : Nat := workingBase + copyOffset

/-- Where each copy of the working area keeps norm records and admission staging (assumption 49). -/
def normArea : Nat := 0x10000000
def stagingArea : Nat := 0x20000000
def lostListArea : Nat := 0x30000000
def contextArea : Nat := 0x100000

/-- The earlier of two points of a run, each a step index and a SEQ, or the same. -/
def notAfter (a b : Nat × Nat) : Bool := decide (a.1 < b.1) || (a.1 == b.1 && decide (a.2 ≤ b.2))

def furthest (a b : Nat × Nat) : Nat × Nat := if notAfter a b then b else a

def putMem (s : State) (a : Nat) (b : List Byte) : State := updDram s fun d => { d with mem := tabPut d.mem a b }

/-- An item of the working area is written in both copies (R448). -/
def putWorking (s : State) (off : Nat) (b : List Byte) : State :=
  let a := workingBase + off
  freshSectors (putMem (putMem s a b) (a + copyOffset) b) [(a, b.length), (a + copyOffset, b.length)]

/-- The mirror holder's port (R373): VP1 when it leads to a member of the group, else VP7. Where the member there is lost,
none until it is admitted (R389). -/
def mirrorPort (s : State) : Option Nat :=
  ([1, 7].find? fun n => isTrained s n && (rankAt s (neighbourCoord s n)).isSome
    && (match s.ks.plan with | some p => decide (1 < groupSize p) | none => false)).filter fun n =>
      (rankAt s (neighbourCoord s n)).all fun r => !s.grp.lostRanks.contains r

-- ------------------------------------------------------------------------------------------------ the pier record

/-- STREAMS of Table 19-2: the last MSG_SEQ of each stream up to the pier. -/
def streamSeqs (p : Plan) (seq : Nat) : List Nat :=
  let last := fun (sel : Xfer → Bool) =>
    ((p.xfers.filter fun x => decide (x.seq ≤ seq) && sel x).map (·.msgSeq)).getLast?.getD 0
  ((List.range 64).map fun k =>
    last fun x => x.port == k / 8 && x.cls == k / 2 % 4 && x.kind == k % 2)
    ++ [last (fun x => x.kind == 2), last (fun x => x.kind == 3), 0, 0]

/-- A context that no descriptor has used. -/
def Ctx.fresh (c : Nat) : Ctx := { ctx := c, slot := 0, nextPos := 0, pieces := [], cursor := 0, rngBase := 0, carry := 0 }

def ctxBytes (c : Ctx) : List Byte :=
  leBytes 1 c.ctx ++ leBytes 1 c.slot ++ zeros 2 ++ leBytes 8 c.nextPos ++ leBytes 8 c.cursor.toNat
    ++ leBytes 8 c.rngBase.toNat ++ leBytes 8 c.carry.toNat ++ zeros 28

def ctxOf (b : List Byte) : Ctx :=
  { ctx := fieldAt b 0 1, slot := fieldAt b 1 1, nextPos := fieldAt b 4 8, pieces := [], cursor := BitVec.ofNat 64 (fieldAt b 0xC 8),
    rngBase := BitVec.ofNat 64 (fieldAt b 0x14 8), carry := BitVec.ofNat 64 (fieldAt b 0x1C 8) }

/-- Whether the segment wrote some byte of a buffer (R446). -/
def wroteBuf (s : State) (h : Nat) : Bool := s.ks.written.any fun w => w.handle == h

/-- Generation numbers after the pier's flips (R446). -/
def gensAfter (s : State) (p : Plan) : List Nat :=
  p.bufs.zipIdx.map fun b => tabGet 0 s.ks.gens b.2 + (if b.1.kind == 1 && wroteBuf s b.2 then 1 else 0)

/-- RECORD_SIZE (R375). -/
def recordSize (ctxs bufs upd : Nat) : Nat := 0x210 + 64 * ctxs + 4 * bufs + ceilDiv upd 8

/-- A record of Table 19-2: its bytes with MAGIC and CRC filled in. -/
def recordBytes (s : State) (p : Plan) (index seq flags upd : Nat) (gens : List Nat) : List Byte :=
  let cs := s.ks.resident
  let size := recordSize cs.length gens.length upd
  let head := fun (magic crc : Nat) =>
    leBytes 4 magic ++ leBytes 2 1 ++ leBytes 2 flags ++ leBytes 4 size ++ leBytes 2 index ++ leBytes 2 cs.length
      ++ leBytes 4 s.ks.segmentOf ++ leBytes 4 seq ++ leBytes 8 s.ks.stepIndex ++ leBytes 8 s.beat.number.toNat
      ++ leBytes 4 p.epoch ++ leBytes 4 p.groupTag
      ++ leBytes 8 (if (commitSeq p).isSome then s.ks.tCounter.toNat else s.ks.stepIndex) ++ leBytes 4 gens.length
      ++ leBytes 4 upd ++ leBytes 4 crc ++ zeros 188
  let tail := (streamSeqs p seq).flatMap (leBytes 4) ++ cs.flatMap ctxBytes ++ gens.flatMap (leBytes 4)
    ++ zeros (ceilDiv upd 8)
  head recordMagic (crc32c (head 0 0 ++ tail)) ++ tail

/-- FLAGS of the record of a pier. -/
def recordFlags (s : State) (p : Plan) (e : PierEntry) : Nat :=
  bitNat (isStepPier p e) + 2 * bitNat ((updatePier p).any fun u => u.seq == e.seq) + 4 * bitNat (notAfter (s.ks.stepIndex, s.ks.segmentOf) s.ks.replayTo)
    + 8 * bitNat (mirrorPort s).isNone

def pierRecord (s : State) (p : Plan) (e : PierEntry) : List Byte :=
  recordBytes s p e.index e.seq (recordFlags s p e) (updCount p e) (gensAfter s p)

/-- The start record (R385): PIER 0xFFFF, SEQ 0. -/
def startRecord (s : State) (p : Plan) : List Byte :=
  recordBytes s p 0xFFFF 0 (8 * bitNat (mirrorPort s).isNone) 0 (gensAfter s p)

/-- What restoring needs of a record. -/
structure Rec where
  seq   : Nat
  flags : Nat
  step  : Nat
  t     : Nat
  ctxs  : List Ctx
  gens  : List Nat
  deriving DecidableEq, Repr

/-- Read a record back; one whose MAGIC or CRC does not check is not a record (R376). -/
def readRecord (m : Tab Byte) (a : Nat) : Option Rec :=
  let size := memNat m (a + 8) 4
  let b := tabBytes m a size
  let n := fieldAt b 0xE 2
  let bufs := fieldAt b 0x38 4
  let plain := zeros 4 ++ (b.drop 4).take 0x3C ++ zeros 4 ++ b.drop 0x44
  if fieldAt b 0 4 ≠ recordMagic ∨ slotSize < size ∨ fieldAt b 0x40 4 ≠ crc32c plain then none
  else some
    { seq := fieldAt b 0x14 4, flags := fieldAt b 6 2, step := fieldAt b 0x18 8, t := fieldAt b 0x30 8
      ctxs := (List.range n).map fun i => ctxOf ((b.drop (0x210 + 64 * i)).take 64)
      gens := (List.range bufs).map fun i => fieldAt b (0x210 + 64 * n + 4 * i) 4 }

/-- The record of a pier, or the start record for none. -/
def recordOf (s : State) (pier : Option Nat) : Option Rec :=
  match pier with
  | some i => readRecord s.dram.mem (slotAddr i)
  | none =>
    match readRecord s.dram.mem startRecordAddr with
    | some r => some r
    | none => readRecord s.dram.mem startRecordCopy

-- ------------------------------------------------------------------------------------------------ contexts

/-- Contexts that the segment which begins at `seq` names (R65). Where all of a plan's contexts have slots, every one of
them is taken as named, so that none is ever moved. -/
def segmentContexts (p : Plan) (seq : Nat) : List Nat :=
  if p.contexts ≤ 32 then List.range p.contexts
  else
    let stop := match closingPier p seq with | some e => e.seq | none => lastSeq p
    (p.descs.filter fun d => decide (seq ≤ d.seq) && decide (d.seq ≤ stop) && d.context != 0xFF).foldl
      (fun l d => insertNat d.context l) []

def lowestSlot (cs : List Ctx) : Nat := ((List.range 32).find? fun k => cs.all fun c => c.slot != k).getD 0

/-- What a segment leaves in a context that its descriptors name: free values; where the next piece's start has moved on, the
old one is an earlier piece's (R207, assumption 183). -/
def runContext (s : State) (c : Ctx) : State × Ctx :=
  let v := fun i => Config.contextField s.free i
  let pos := (v 0).toNat % 2 ^ 48
  ({ s with free := s.free + 1 },
   { c with nextPos := pos, pieces := if pos = c.nextPos then c.pieces else c.pieces ++ [c.nextPos], cursor := v 1,
            rngBase := v 2, carry := v 3 })

/-- The contexts that the descriptors of the segment before pier `seq` name, as the segment leaves them. -/
def runContexts (s : State) (p : Plan) (seq : Nat) : State :=
  let named := fun c => p.descs.any fun d => decide (s.ks.segmentOf ≤ d.seq) && decide (d.seq ≤ seq) && d.context == c && c != 0xFF
  let r := s.ks.resident.foldl (fun (r : State × List Ctx) c =>
    if named c.ctx then (let x := runContext r.1 c; (x.1, r.2 ++ [x.2])) else (r.1, r.2 ++ [c])) (s, [])
  updKs r.1 fun k => { k with resident := r.2 }

/-- R65 steps 1 to 3: the resident contexts and the save areas after the contexts of the next segment have been made
resident. A save area keeps what it holds until its context is evicted again, so that a replay can load it anew. -/
def swapContexts (resident saved : List Ctx) (next : List Nat) : List Ctx × List Ctx :=
  let incoming := next.filter fun c => !(resident.any fun r => r.ctx == c)
  let need := incoming.length - (32 - resident.length)
  let evictable := (List.range 255).filter fun c => (resident.any fun r => r.ctx == c) && !next.contains c
  let out := evictable.take need
  let saved := saved.filter (fun c => !out.contains c.ctx) ++ resident.filter (fun c => out.contains c.ctx)
  let resident := resident.filter fun c => !out.contains c.ctx
  let resident := incoming.foldl (fun cs c =>
    let old := (saved.find? fun x => x.ctx == c).getD (Ctx.fresh c)
    cs ++ [{ old with slot := lowestSlot cs }]) resident
  (resident, saved)

/-- Make the contexts of a segment resident. -/
def enterContexts (s : State) (p : Plan) (seq : Nat) : State :=
  let r := swapContexts s.ks.resident s.ks.saved (segmentContexts p seq)
  let s := (r.2.filter fun c => !s.ks.saved.contains c).foldl (fun s c => putWorking s (contextArea + 64 * c.ctx) (ctxBytes c)) s
  updKs s fun k => { k with resident := r.1, saved := r.2 }

-- ------------------------------------------------------------------------------------------------ the segment that runs

/-- The first SEQ after a pier: the next descriptor, or LOOP_PHASE's first after the step-closing pier. -/
def seqAfter (p : Plan) (seq : Nat) : Nat := if seq ≥ lastSeq p then loopSeq p else seq + 1

/-- Descriptors may run: in RUNNING, and on a unit under admission that runs a missed update phase again (R297). -/
def isRunning (s : State) : Bool := planState s == plRunning || s.grp.rerun.isSome

/-- The segment that begins at `seq`: its stamp and bounds. -/
def beginSegment (s : State) (p : Plan) (seq : Nat) : State :=
  updKs s fun k =>
    { k with nextSeq := seq, segmentOf := seq, written := [], segPier := ((closingPier p seq).map (·.index)).getD 0 }

/-- What arming a regulator does beside the copy: the fixed voltage of its record, or PACE_POLICY's where it comes back from
one (R32). `old` is the regulators' armed copy before. -/
def regEffect (s : State) (old : Tab Nat) (i : Nat) : State :=
  let v := tabGet 0 s.ks.armed.regs i
  if v ≠ 0 then updSp s fun q => { q with volts := tabSet 700 q.volts i v }
  else if tabGet 0 old i ≠ 0 ∧ s.ks.pace.1 = 2 then updSp s fun q => { q with volts := tabSet 700 q.volts i s.ks.pace.2 }
  else s

/-- A whole configuration is armed at once, but for the presets of ports that hold an unacknowledged flit: these wait for
their BLOCK_ARM (R327). -/
def armAll (s : State) (c : BlockCfg) : State :=
  let old := s.ks.armed
  let busy := (List.range 8).filter fun n =>
    !(portOf s n).retry.isEmpty && tabGet 0 old.ports n != tabGet 0 c.ports n
  let ports := busy.foldl (fun t n => tabSet 0 t n (tabGet 0 old.ports n)) c.ports
  let s := updKs s fun k =>
    { k with shadow := c, armed := { c with ports := ports }, rearm := [], toArm := busy.map fun n => blockKey (.port n) }
  (List.range 32).foldl (fun s i => regEffect s old.regs i) s

/-- The configuration of the phase of `seq` stands armed on every block. -/
def armAt (s : State) (p : Plan) (seq : Nat) : State :=
  let i := phaseIndex p seq
  let s := armAll s (configAt p s.ks.stepIndex i)
  let s := updKs s fun k => { k with phase := i, shadowed := true, issueOrder := k.order }
  updSp s fun q => { q with owners := ownersAt p s.ks.stepIndex seq }

/-- R380 steps 1 to 3: issue and running work are discarded, working generations are discarded (kind 2 bytes of
descriptors in the update bitmap stand), every bank's VALID is cleared and every accumulator half released. -/
def dropSegment (s : State) (keep : List Nat) : State :=
  let s := updKs s fun k =>
    { k with issued := [], queues := [], xfers := [], collWork := [],
             written := k.written.filter (fun w => keep.contains w.seq), pierWork := none
             updSent := k.updSent.map fun _ => none }
  let s := updDram s fun d => { d with adds := [], window := [], markers := [] }
  let s := updTre s fun t => { t with entries := [], reads := t.reads.filter (·.copy) }
  let s := clearTags s fun _ => true
  updSp s fun p => { p with resid := [], vec := [] }

/-- R380 step 5: contexts, T and the step index from a record, and the context swap of its pier once more (R65); issue resumes
at the descriptor after it. -/
def resumeAt (s : State) (p : Plan) (r : Rec) (keepNorms : Nat → Bool) : State :=
  let closing := r.flags.testBit 0
  let known := fun (c : Ctx) => (((s.ks.resident ++ s.ks.saved).find? fun x => x.ctx == c.ctx).map (·.pieces)).getD []
  let seq := if r.seq = 0 then 1 else seqAfter p r.seq
  let step := r.step + bitNat closing
  let s := updKs s fun k =>
    { k with resident := r.ctxs.map (fun c => { c with pieces := (known c).filter fun n => decide (n < c.nextPos) })
             tCounter := BitVec.ofNat 64 r.t, stepIndex := step, replayTo := furthest k.reach (step, seq)
             norms := k.norms.filter (fun n => keepNorms n.seq), haltIssue := k.pierWork.isSome }
  let w := s.ks.written
  let s := if (pierBySeq p r.seq).any (fun e => e.flags.testBit 0) then enterContexts s p seq else s
  let s := armAt (beginSegment s p seq) p seq
  updKs s fun k => { k with written := w }

end Sys2Proof.Machine
end

