-- ==== Sys2Proof/Machine/Journal.lean ====
section
/-! DEFINITION. The journal, faults and replay (spec 19): writing a pier (Table 19-3), pier actions, lost sectors
(Table 19-7), ending a run (R90, R92), local replay (R380), coordinated rewinds (R381), step restarts (R385). -/

namespace Sys2Proof.Machine

-- ------------------------------------------------------------------------------------------------ ending a run

/-- Bytes that the manual leaves undefined: each a fresh value of Config.undefinedByte. -/
def undefinedBytes (s : State) (a : Nat) : Nat → State
  | 0 => s
  | n + 1 =>
    let v := Config.undefinedByte s.free a
    undefinedBytes { s with free := s.free + 1, dram := { s.dram with mem := tabSet 0 s.dram.mem a v } } (a + 1) n

/-- R92: recomputable buffers are left undefined. -/
def undefineKind0 (s : State) (p : Plan) : State :=
  p.bufs.foldl (fun s b => if b.kind = 0 then undefinedBytes s b.addr b.size else s) s

def beatWords (s : State) : List Nat := [s.beat.number.toNat % 2 ^ 32, s.beat.number.toNat / 2 ^ 32]

/-- Results of START (Table 4-14). -/
def startResults (s : State) : List Nat := [s.ks.stepsClosed, lastPierWord s] ++ beatWords s

/-- Results of PAUSE_AT_PIER. -/
def pauseResults (s : State) : List Nat := [lastPierWord s, s.ks.stepsClosed] ++ beatWords s

/-- The pending START completes. -/
def finishStart (s : State) (status : Nat) : State :=
  finishOpt (updKs s fun k => { k with startTag := none, startStage := none }) s.ks.startTag status (startResults s)

/-- A pending PAUSE_AT_PIER completes. -/
def finishPause (s : State) (status : Nat) : State :=
  match s.ks.pauseReq with
  | none => s
  | some r => finishCmd (updKs s fun k => { k with pauseReq := none }) r.1 status (if status = 0 then pauseResults s else [])

/-- Settings that waited for the pier take effect (R95). -/
def applySetting (s : State) : Setting → State
  | .pace m v =>
    let s := updKs s fun k => { k with pace := (m, v) }
    if m = 2 then updSp s fun p => { p with volts := (List.range 32).foldl (fun t b =>
      if tabGet 0 s.ks.armed.regs b = 0 then tabSet 700 t b v else t) p.volts } else s
  | .commit r f => updKs s fun k => { k with policy := (r, f) }
  | .replay a l => updKs s fun k => { k with replay := (a, l) }

def applyDue (s : State) : State := s.ks.due.foldl applySetting (updKs s fun k => { k with due := [] })

/-- The plan leaves RUNNING for PAUSED: what waits for a pier waits no longer. Settings take effect (R95), and a pending
PAUSE_AT_PIER completes with OK and the pier at which the plan stands (R91; for a hold, assumption 172). -/
def holdPlan (s : State) : State := settleRows (setPlanState (applyDue (finishPause s stOk)) plPaused)

/-- A pending RESHARD completes. -/
def finishReshard (s : State) (status : Nat) (rs : List Nat) : State :=
  match s.ks.reshardW with
  | none => s
  | some w =>
    let c := s.host.long.find? fun c => c.tag == w.tag
    finishOpt (updKs s fun k => { k with reshardW := none, reshardTok := none }) c status rs

def updReshard (s : State) (f : ReshardWork → ReshardWork) : State := updKs s fun k => { k with reshardW := k.reshardW.map f }

/-- Send a control message to a rank of the running plan. -/
def sendOld (s : State) (r status : Nat) (i : Ctl → Instr) : State :=
  match s.via.ranks.find? fun e => e.1 == r with
  | none => s
  | some e => sendTo s e.2 (i (ctlTo s e.2 status))

/-- DIGEST of the re-shard image (Table 17-4). -/
def reshardDigest (s : State) (w : ReshardWork) : List Byte := tabBytes s.dram.mem (w.mapAddr + 0x50) 48

/-- PHASE of the token that a member can join (Table 17-6): 1 at its pier with the plan validated, 2 once it has moved. -/
def tokenPhase (w : ReshardWork) : Option Nat :=
  if w.joined then none
  else if w.phase = 1 ∧ w.plan.isSome = true then some 1
  else if w.phase = 4 then some 2 else none

/-- A token goes to the next rank, or to rank 0 from the last (R358). -/
def passReshardToken (s : State) (p : Plan) (t : ReshardToken) (agree : Bool) : State :=
  sendOld (updKs s fun k => { k with reshardTok := none }) ((rankOf p + 1) % groupSize p) 0 fun c =>
    .reshardToken c (BitVec.ofNat 32 t.epoch) t.phase agree (t.count + 1) t.digest

/-- A member joins (Table 17-5 steps 3 and 7): the leader sends the token, another member passes the one that it holds. -/
def joinToken (s : State) : State :=
  match s.ks.reshardW, s.ks.plan with
  | some w, some p =>
    match tokenPhase w with
    | none => s
    | some k =>
      let join := fun s => updReshard s fun w => { w with joined := true }
      let own := reshardDigest s w
      if groupSize p = 1 then s
      else if rankOf p = 0 then
        sendOld (join s) 1 0 fun c => .reshardToken c (BitVec.ofNat 32 w.epoch) k true 1 own
      else
        match s.ks.reshardTok with
        | none => s
        | some t =>
          if t.phase ≠ k then s
          else passReshardToken (join s) p t (t.agree && t.epoch == w.epoch && t.digest == own)
  | _, _ => s

/-- The old epoch at its pier (R359): what steps 5 to 7 changed is taken back. -/
def restoreEpoch (s : State) (w : ReshardWork) : State :=
  let s := updVia s fun v => { v with forms := [] }
  let s := if w.phase < 3 then s else armPorts s (tabGet 0 w.ports)
  updKs s fun k =>
    { k with xfers := [], readies := []
             reshardTok := k.reshardTok.filter (fun t => t.phase == 1),
             reshardW := some { w with phase := 1, joined := false, ranks := [], seen := [], early := [], moved := 0, bytes := 0 } }

/-- A pending PAUSE_AT_PIER that named the pier of a re-shard that is over is met. -/
def settlePause (s : State) (w : ReshardWork) : State :=
  if w.phase ≠ 0 ∧ (s.ks.pauseReq.any fun r => r.2 == 0xFFFF || r.2 == w.pier) = true then
    holdPlan s
  else s

/-- A fault of some member in steps 5 to 7 (R359): the first is followed by a retry from step 3, the second completes
RESHARD and pauses the old plan. -/
def reshardFails (s : State) (status : Nat) : State :=
  match s.ks.reshardW with
  | none => s
  | some w =>
    let s := restoreEpoch s w
    if w.retried then holdPlan (finishReshard s status [])
    else joinToken (updReshard s fun w => { w with retried := true })

/-- The other members hear of a fault in steps 5 to 7. -/
def tellReshardFault (s : State) (status : Nat) : State :=
  match s.ks.reshardW, s.ks.plan with
  | some w, some p =>
    if w.phase < 2 then s
    else (List.range (groupSize p)).foldl (fun s r =>
      if r = rankOf p then s
      else sendOld s r status fun c => .reshardDecision c (BitVec.ofNat 32 w.epoch) 2 false) s
  | _, _ => s

/-- A fault on this member in steps 5 to 7. -/
def reshardFault (s : State) (status : Nat) : State := reshardFails (tellReshardFault s status) status

/-- A restart that goes back before the pier of a re-shard: it is to be reached anew. -/
def leaveReshardPier (s : State) : State :=
  if s.ks.reshardW.any fun w => w.phase == 1 && s.ks.lastPier != some w.pier then
    updKs (updReshard s fun w => { w with phase := 0, joined := false }) fun k => { k with reshardTok := none }
  else s

/-- What ABORT applies to a loaded plan (R92): issue stops, working generations go, recomputable buffers are
undefined. -/
def stopPlan (s : State) : State :=
  match s.ks.plan with
  | none => s
  | some p =>
    let s := dropSegment s []
    let s := updKs s fun k =>
      { k with haltIssue := true, written := [], norms := [], commitW := none, updMap := [], startStage := none,
               heldRestart := none, pierWork := none, toArm := [], readies := [], token := none, recovery := none }
    let s := updGrp s fun g => { g with rewindW := none, holdAdmit := false, fetches := [], refresh := false, admitting := false }
    undefineKind0 s p

/-- The plan enters ABORTED; what waits on it completes (R90 to R92). -/
def abortRun (s : State) (startStatus : Nat) : State :=
  let s := stopPlan (tellReshardFault s startStatus)
  let s := finishReshard (finishPause (finishStart s startStatus) stBusy) stBusy []
  settleRows (setPlanState (applyDue s) plAborted)

/-- A fault that replay cannot repair ends the run (R90). -/
def endRun (s : State) (status : Nat) : State := abortRun s status

/-- R313: the device can no longer present its memory: a running plan ends. -/
def checkMemory (s : State) : State :=
  if s.dram.gone.isEmpty && s.dram.failedCh.isEmpty then s
  else if planState s = plRunning ∨ planState s = plPaused then endRun s stMemory else s

-- ------------------------------------------------------------------------------------------------ the commit record

/-- STEP, UPDATES and GENERATION of the committed record (R291). -/
def committedRecord (s : State) (p : Plan) : Nat × (Nat × Nat) :=
  match p.descs.find? (fun d => d.opcode == opCommit) with
  | none => (0, 0, 0)
  | some d =>
    let h := (cmRecord d).handle
    match p.bufs[h]? with
    | none => (0, 0, 0)
    | some b =>
      let a := halfAddr b (currentHalf s h)
      (memNat s.dram.mem a 8, memNat s.dram.mem (a + 8) 8, memNat s.dram.mem (a + 0x14) 4)

/-- STATE.NONFINITE of the COMMIT's CLIP (Table 14-2). -/
def clipNonfinite (s : State) (p : Plan) : Bool :=
  match p.descs.find? (fun d => d.opcode == opCommit) with
  | none => false
  | some d => isBuffer (cmClip d) && (readByte s p d.seq 0 (cmClip d) ((cmClip d).offset + 0xC)).toNat.testBit 0

/-- STEP of the pending record: the committed STEP plus 1 (R292), which is T of the running step (R146). -/
def formStep (s : State) (p : Plan) : State :=
  if (commitSeq p).isNone then s
  else updKs s fun k => { k with tCounter := BitVec.ofNat 64 ((committedRecord s p).1 + 1) }

/-- R292: core 3 forms STEP and UPDATES; at an update pier it compares them with the step shadows of the target spans. -/
def formPending (s : State) (p : Plan) (atPier : Bool) : State :=
  if (commitSeq p).isNone then s
  else
    let c := committedRecord s p
    let st : W64 := BitVec.ofNat 64 (c.1 + 1)
    let up : W64 := BitVec.ofNat 64 (c.2.1 + (if clipNonfinite s p then 0 else 1))
    let s := updKs s fun k => { k with tCounter := st, updates := up }
    if !atPier then s
    else
      let spans := (p.descs.filter isUpdate).foldl (fun l d => (targets d).foldl (fun l x => insertNat x l) l) []
      spans.foldl (fun s x =>
        if tabGet (0, 0) s.sp.shadows x = (st, up) then s
        else logEvent (updSp s fun q => { q with shadows := tabSet (0, 0) q.shadows x (st, up) })
          (mkEvent stDivergence srcSpan 0 x evCommit 0 0)) s

-- ------------------------------------------------------------------------------------------------ floods and rewinds

/-- A flood passes each (JTYPE, COUNT, PIER) once (R377). -/
def floodJ (s : State) (except : Option Nat) (jt count pier : Nat) (i : Nat → Instr) : State :=
  if s.grp.flooded.contains (jt, count, pier) then s
  else flood (updGrp s fun g => { g with flooded := g.flooded ++ [(jt, count, pier)] }) except i

def ownRank (s : State) : Nat := match s.ks.plan with | some p => rankOf p | none => 0
def members (s : State) : Nat := match s.ks.plan with | some p => groupSize p | none => 1

def isCoord (s : State) : Bool := s.grp.coord == ownRank s

/-- The last written pier as a message gives it: 0xFFFF for the start record. -/
def pierWord (o : Option Nat) : Nat := o.getD 0xFFFF
def ofPierWord (n : Nat) : Option Nat := if n = 0xFFFF then none else some n

/-- The step index as a message carries it. -/
def stepWord (s : State) : W64 := BitVec.ofNat 64 s.ks.stepIndex

/-- Step 2 of Table 19-6: issue stops, running descriptors stop, sends are abandoned. -/
def joinRewind (s : State) (count : Nat) (cause : Byte) (coord need : Nat) : State :=
  let s := if reshardAt s 5 then reshardFails s (finalStatus cause.toNat) else s
  let s := dropSegment s s.ks.updMap
  let w : RewindWork := { count := count, cause := cause, coord := coord, need := need, stage := .stopping,
                          replaced := none, reports := [] }
  let s := updKs s fun k => { k with haltIssue := true, readies := [] }
  let s := updGrp s fun g => { g with count := count, coord := coord, rewindW := some w }
  (List.range 8).foldl (fun s n =>
    if (portOf s n).queue.isEmpty then s
    else updPort s n fun p =>
      { p with queue := p.queue.filter fun f => !(f.kind == kindData && f.msgSeq != 0 && f.src == ownCoord s) }) s

/-- A member starts a coordinated rewind: COUNT one above the highest it has seen (Table 19-6 step 1). -/
def startRewind (s : State) (cause need : Nat) : State :=
  let count := s.grp.count + 1
  let coord := s.grp.coord
  let s := joinRewind s count (BitVec.ofNat 8 cause) coord need
  let pier := pierWord s.ks.lastPier
  floodJ s none 7 count pier fun port => .rewind (jOf s port) pier (BitVec.ofNat 8 cause) need coord 0xFFFFFFFF

/-- The run of every member ends in REPLAY_FAILED (R385): a member tells the coordinator by a REWIND with that CAUSE, which it
answers by TARGET 3 (assumption 208). -/
def endGroup (s : State) : State :=
  if members s = 1 ∨ s.grp.rewindW.isSome then endRun s stReplayFailed else startRewind s stReplayFailed 1

-- ------------------------------------------------------------------------------------------------ lost sectors

/-- What Table 19-7 asks for a lost sector. -/
inductive LostCase where
  | fetch (handle off : Nat)   -- committed generation of a kind 2 buffer
  | rewritten                  -- the replay writes it
  | restart                    -- step restart
  | hostData (handle : Nat)    -- kind 3
  | journal                    -- own journal slot
  | mirror                     -- mirror slot
  | working                    -- working area
  | nobody                     -- no buffer of the plan
  deriving DecidableEq, Repr

/-- Whether a descriptor of the running segment writes byte `pos` of a buffer. -/
def segmentWrites (s : State) (p : Plan) (h pos : Nat) : Bool :=
  let lo := s.ks.segmentOf
  let hi := match closingPier p lo with | some e => e.seq | none => lastSeq p
  p.descs.any fun d =>
    decide (lo ≤ d.seq) && decide (d.seq ≤ hi) && (descUses p d).any fun u =>
      (u.write || u.add) && u.o.handle == h && (useRanges p.param u).any fun r => overlaps r ((pos : Nat), 32)

def lostCase (s : State) (p : Plan) (sec : Nat) : LostCase :=
  let a := 32 * sec
  if workingBase ≤ a then .working
  else if mirrorBase 0 ≤ a then .mirror
  else if journalBase ≤ a then .journal
  else
    let hit := p.bufs.zipIdx.find? fun b =>
      [0, 1].any fun h => decide (h = 0 ∨ twoHalves b.1) && decide (halfAddr b.1 h ≤ a) && decide (a < halfAddr b.1 h + b.1.size)
    match hit with
    | none => .nobody
    | some (b, h) =>
      let half := if twoHalves b ∧ halfAddr b 1 ≤ a then 1 else 0
      let pos := a - halfAddr b half
      match b.kind with
      | 0 => if segmentWrites s p h pos then .rewritten else .restart
      | 1 => if half = currentHalf s h then .restart else .rewritten
      | 2 => if half = currentHalf s h then .fetch h pos else .rewritten
      | _ => .hostData h

/-- Sectors that are lost, or will be when their failing rows are remapped. -/
def losing (s : State) : List Nat :=
  s.dram.lost ++ s.dram.bad.filter fun sec => rowFails s.dram (rowOf (32 * sec))

/-- R380: some lost sector calls for a step restart. -/
def needsRestart (s : State) (p : Plan) : Bool := (losing s).any fun sec => lostCase s p sec == .restart

def foundSector (s : State) (sec : Nat) : State := updDram s fun d => { d with lost := d.lost.filter (· != sec) }

/-- The neighbour that a fetch goes to: the mirror holder, or VP0 when there is none (Table 19-7). -/
def fetchPort (s : State) : Nat := (mirrorPort s).getD 0

/-- The item of the working area that holds a byte (R448). -/
inductive WorkItem where
  | norms (i : Nat)   -- the norm record of that place in the records held, oldest first
  | staging           -- admission staging
  | other             -- the start record, context save areas, the lost list
  deriving DecidableEq, Repr

def workItem (off : Nat) : WorkItem :=
  if normArea ≤ off ∧ off < stagingArea then .norms ((off - normArea) / 32)
  else if stagingArea ≤ off ∧ off < lostListArea then .staging
  else .other

/-- A norm record that is lost is dropped (R448). -/
def dropNormRecord (s : State) (i : Nat) : State :=
  let drop := s.ks.normHist.foldl (fun (r : Nat × List (Nat × List NormRec)) (e : Nat × List NormRec) =>
    (r.1 + e.2.length, r.2 ++ [(e.1, (e.2.zipIdx.filter fun n => r.1 + n.2 != i).map (·.1))])) (0, [])
  updKs s fun k => { k with normHist := drop.2 }

/-- What a unit under admission last received stands in the admission staging of the working area (assumption 49). -/
def stage (s : State) (b : List Byte) : State := if s.grp.admitting then putWorking s stagingArea b else s

/-- R448: the admission step that wrote the staging runs again: the refresh asks anew, or ADMIT goes out once more. -/
def rerunStep (s : State) : State :=
  if !s.grp.admitting then s
  else if s.grp.refresh then
    s.grp.fetches.foldl (fun s f => sendVia s (fetchPort s) (.fetch (jOf s (Nat.xor (fetchPort s) 1)) f.1 f.2.1 f.2.2)) s
  else
    match s.ks.plan, mirrorPort s, s.ks.startStage with
    | some p, some n, some .journal =>
      let c := committedRecord s p
      sendVia s n (.admitUnit (jOf s (Nat.xor n 1)) (BitVec.ofNat 64 c.1) (BitVec.ofNat 32 c.2.2))
    | _, _, _ => s

/-- R448: a lost sector of the working area is restored from its other copy; where both are lost, the item decides: some ends
the run. -/
def restoreWorking (s : State) (sec : Nat) : State :=
  let off := 32 * sec - workingBase
  let first := decide (off < copyOffset)
  let other := if first then 32 * sec + copyOffset else 32 * sec - copyOffset
  let logged := logEvent s (mkEvent stMemory srcKs 1 0 evFault 0 (32 * sec))
  let both := fun (s : State) => foundSector (foundSector s sec) (other / 32)
  if (losing s).contains (other / 32) = false then foundSector (putMem s (32 * sec) (tabBytes s.dram.mem other 32)) sec
  else
    match workItem (if first then off else off - copyOffset) with
    | .norms i => both (dropNormRecord logged i)
    | .staging => rerunStep (both logged)
    | .other =>
      if planState s ≠ plRunning ∧ planState s ≠ plPaused then both logged
      else if s.grp.rewindW.isSome then s else endGroup s

/-- The working area before a run: what is lost in it is restored, or written afresh when next needed (R448). -/
def settleWorking (s : State) : State :=
  (s.dram.lost.filter fun sec => decide (workingBase ≤ 32 * sec)).foldl restoreWorking s

/-- R384: restore one lost sector, or ask for it. At a step restart the step itself rewrites what it covers. The neighbour
whose journal a mirror slot holds is asked by a MIRROR_READ, which it answers by sending its journal again (assumption 108).
-/
def restoreSector (s : State) (p : Plan) (stepStart : Bool) (sec : Nat) : State :=
  let a := 32 * sec
  match lostCase s p sec with
  | .fetch h off =>
    let s := sendVia s (fetchPort s) (.fetch (jOf s (Nat.xor (fetchPort s) 1)) h off 32)
    updGrp s fun g => { g with fetches := if g.fetches.contains (h, off, 32) then g.fetches else g.fetches ++ [(h, off, 32)] }
  | .rewritten => foundSector s sec
  | .restart => if stepStart then foundSector s sec else s
  | .hostData h =>
    let s := notifyFault s (mkEvent stMemory srcKs 2 h evFault 0 a)
    holdPlan s
  | .journal =>
    match mirrorPort s with
    | some n => sendVia s n (.mirrorRead (jOf s (Nat.xor n 1)) (a - journalBase) 32)
    | none => foundSector (logEvent s (mkEvent stMemory srcKs 2 0 evFault 0 a)) sec
  | .mirror =>
    let n := if a < mirrorBase 1 then 0 else 6
    sendVia s n (.mirrorRead (jOf s (Nat.xor n 1)) (a - (if n = 0 then mirrorBase 0 else mirrorBase 1)) 32)
  | .working => restoreWorking s sec
  | .nobody => foundSector (logEvent s (mkEvent stMemory srcDram 1 0 evFault 0 a)) sec

/-- The lost list stands in the working area (R373). -/
def noteLost (s : State) : State :=
  if s.dram.lost.isEmpty then s else putWorking s lostListArea (s.dram.lost.flatMap (leBytes 8))

def restoreLost (s : State) (p : Plan) (stepStart : Bool) : State :=
  s.dram.lost.foldl (fun s sec => if planState s = plAborted then s else restoreSector s p stepStart sec) s

-- ------------------------------------------------------------------------------------------------ pier actions

/-- Spans with a second fault of their own in one step are repaired (R379); laggards move to spares (R35). -/
def repairSpans (s : State) : State :=
  let twice := (List.range 512).filter fun x => decide (2 ≤ tabGet 0 s.sp.faults x)
  let s := twice.foldl (fun s x => updSp (marchSpan s x) fun q => { q with faults := tabSet 0 q.faults x 0 }) s
  (s.sp.moves.foldl moveSlow (updSp s fun q => { q with moves := [] }))

/-- Step 5 of Table 19-3, in order: remaps and retirements, lost sectors, span repair and substitution, weight-cache
drops, context swap. -/
def pierActions (s : State) (p : Plan) (stepStart : Bool) (swapFor : Option Nat) : State :=
  let s := noteLost (checkMemory (settleRows (retrainDue s)))
  if planState s = plAborted then s
  else
    let s := dropOldLines (repairSpans (restoreLost s p stepStart))
    match swapFor with
    | some seq => enterContexts s p seq
    | none => s

-- ------------------------------------------------------------------------------------------------ restoring

/-- Log REPLAYED with its cause, pier and COUNT (R388). -/
def logReplay (s : State) (cause : Nat) (pier : Option Nat) : State :=
  logEvent s (mkEvent stReplayed srcKs 0 cause evReplay (pierWord pier) s.grp.count)

/-- R386: the replay is held for the host at its pier, in PAUSED with START pending. -/
def holdAtPier (s : State) (pier : Option Nat) : State :=
  holdPlan (updKs s fun k => { k with heldRestart := some (pierWord pier), haltIssue := true })

/-- A member that holds at the pier which it replays from goes on holding there (R378). -/
def holdingAt (s : State) (pier : Option Nat) : Option PierWork :=
  s.ks.pierWork.filter fun w => w.stage == .holding && some w.index == pier

/-- The run has ended, or a new rewind is under way: a replay goes no further. -/
def stopped (s : State) : Bool := planState s == plAborted || s.grp.rewindW.isSome

/-- Replay from a record: steps 1 to 3 of R380, the pier actions, step 5. -/
def replayFrom (s : State) (p : Plan) (pier : Option Nat) (gens : Bool) (hold : Bool) : State :=
  match recordOf s pier with
  | none => endGroup s
  | some r =>
    let upd := r.flags.testBit 1
    let keep := if upd then s.ks.updMap else []
    let holding := if gens then none else holdingAt s pier
    let s := dropSegment s keep
    let s := updKs s fun k =>
      { k with pierWork := holding, commitW := none, lastReplay := pierWord pier, replays := k.replays + 1, updMap := keep,
               lastPier := pier,
               stepsClosed := if gens ∧ k.lastPier ≠ pier ∧ ((k.lastPier.bind (pierByIndex p)).any (isStepPier p))
                 then k.stepsClosed - 1 else k.stepsClosed,
               gens := if gens then p.bufs.zipIdx.foldl (fun t b =>
                   if b.1.kind = 1 then tabSet 0 t b.2 (r.gens.getD b.2 0) else t) k.gens else k.gens }
    let s := leaveReshardPier (pierActions s p false none)
    if stopped s then s
    else if hold then holdAtPier s pier
    else resumeAt s p r fun q => decide (q ≤ r.seq) || keep.contains q

/-- R385: a step restart, to the step pier or the start record; kind 1 numbers keep rising. -/
def stepRestart (s : State) (p : Plan) (hold : Bool) : State :=
  match recordOf s s.ks.stepPier with
  | none => endGroup s
  | some r =>
    let s := dropSegment s []
    let s := updKs s fun k =>
      { k with commitW := none, lastReplay := pierWord k.stepPier, replays := k.replays + 1, updMap := [], lastPier := k.stepPier }
    let s := leaveReshardPier (pierActions s p true none)
    if stopped s then s
    else if hold then holdAtPier s s.ks.stepPier
    else resumeAt s p r fun _ => false

/-- REPLAY_CONTROL's ACTION and LIMIT (R386). -/
def actionHold (s : State) : Bool := s.ks.replay.1 == 1
def replayLimit (s : State) : Nat := s.ks.replay.2

/-- Rewinds to a pier since the last watermark (R386). -/
def rewindsTo (s : State) (pier : Option Nat) : Nat := if s.ks.limitPier = pierWord pier then s.ks.limitCount else 0

/-- A further rewind to a pier would exceed LIMIT (R386). -/
def overLimit (s : State) (pier : Option Nat) : Bool := decide (replayLimit s ≤ rewindsTo s pier)

def countRewind (s : State) (pier : Option Nat) : State :=
  updKs s fun k => { k with limitPier := pierWord pier, limitCount := rewindsTo s pier + 1 }

/-- A step restart on a member alone (R380, R385). -/
def localRestart (s : State) (p : Plan) (cause : Nat) : State :=
  if !p.stepLocal || overLimit s s.ks.stepPier then endGroup s
  else stepRestart (logReplay (countRewind s s.ks.stepPier) cause s.ks.stepPier) p (actionHold s)

/-- This member has started a Viaduct transfer entry with SEQ after its last written pier (R380): those of the running segment,
whose pier is not yet written. -/
def startedTransfer (s : State) : Bool :=
  s.ks.xfers.any (fun x => decide (x.x.kind < 2)) && s.ks.pierWork.all fun w => w.stage == .mirroring

/-- R385: a sector found lost during the pier actions of a replay calls for a step restart. -/
def afterReplay (s : State) (p : Plan) : State :=
  if (planState s = plRunning ∨ planState s = plPaused) ∧ s.grp.rewindW.isNone
      ∧ (s.dram.lost.any fun sec => lostCase s p sec == .restart) = true then
    if groupSize p = 1 then localRestart s p stMemory else startRewind s stMemory 1
  else s

/-- R380: replay on this member alone. -/
def localReplay (s : State) (p : Plan) (cause : Nat) : State :=
  let pier := s.ks.lastPier
  if overLimit s pier then endGroup s
  else afterReplay (replayFrom (logReplay (countRewind s pier) cause pier) p pier false (actionHold s)) p

/-- A fault of class replay (Table 19-5). -/
def replayFault (s : State) (status : Nat) : State :=
  match s.ks.plan with
  | none => s
  | some p =>
    if reshardAt s 5 then reshardFault s status
    else if s.grp.rerun.isSome then localReplay s p status
    else if !(planState s == plRunning || planState s == plPaused) || s.grp.rewindW.isSome then s
    else if groupSize p = 1 then
      if needsRestart s p then localRestart s p status else localReplay s p status
    else if needsRestart s p then startRewind s status 1
    else if startedTransfer s then startRewind s status 0
    else localReplay s p status

/-- A fault of class coordinated (Table 19-5); in a group of one member it is replayed locally. -/
def coordFault (s : State) (status : Nat) : State :=
  match s.ks.plan with
  | none => s
  | some p =>
    if reshardAt s 5 then reshardFault s status
    else if s.grp.rerun.isSome then localReplay s p status
    else if !(planState s == plRunning || planState s == plPaused) || s.grp.rewindW.isSome then s
    else if groupSize p = 1 then localReplay s p status
    else startRewind s status (bitNat (needsRestart s p))

/-- A protocol error (R201, R324, R353): logged, notified, handled as a coordinated fault. -/
def protocolError (s : State) (port : Nat) (seq : Nat) : State :=
  coordFault (notifyFault s (mkEvent stInternal srcVia 2 port evFault seq 0)) stInternal

-- ------------------------------------------------------------------------------------------------ the pier

/-- Keep the last 16 entries. -/
def last16 {α : Type} (l : List α) : List α := l.drop (l.length - 16)

/-- A re-shard that waits for a flagged pier holds at this one (Table 17-5 step 2). -/
def holdReshard (s : State) (e : PierEntry) : State :=
  if e.flags.testBit 1 then updReshard s fun w => if w.phase = 0 then { w with phase := 1, pier := e.index } else w else s

/-- The pier is complete (R91): steps 2 to 6 of Table 19-3 are done. -/
def pierComplete (s : State) (p : Plan) (e : PierEntry) : State :=
  let next := seqAfter p e.seq
  let s := if (descAt p e.seq).any isReport then logEvent s (mkEvent 0 srcKs 0 512 evReport e.seq 0) else s
  let s := updKs s fun k =>
    { k with pierWork := none, issued := k.issued.filter (fun i => i.seq != e.seq), xfers := [],
             collWork := [], written := [], segmentOf := next, limitCount := 0,
             segPier := ((closingPier p next).map (·.index)).getD 0,
             nextSeq := if e.seq ≥ lastSeq p then next else k.nextSeq, haltIssue := k.heldRestart.isSome,
             issueOrder := if e.seq ≥ lastSeq p ∧ k.haltIssue = false then k.issueOrder + 1 else k.issueOrder }
  let s := holdReshard (applyDue s) e
  let steps := isStepPier p e && s.ks.stepsWanted != 0 && decide (s.ks.stepsWanted ≤ s.ks.stepsClosed)
  let named := !(s.ks.reshardW.any fun w => decide (w.phase ≠ 0)) && s.ks.pauseReq.any fun r => r.2 == 0xFFFF || r.2 == e.index
  if steps then
    holdPlan (finishStart s stOk)
  else if named then holdPlan s
  else s

/-- The 32 bytes of a norm record (Table 14-7). -/
def normBytes (r : NormRec) : List Byte :=
  leBytes 4 r.tensorId ++ leBytes 4 r.step.toNat ++ leBytes 8 r.elements ++ leBytes 4 r.wNorm.toNat
    ++ leBytes 4 r.gNorm.toNat ++ leBytes 4 r.uNorm.toNat ++ leBytes 2 r.opcode ++ leBytes 2 r.flags

/-- The step's norm records join those of the last 16 steps, in the working area (R289, R373). -/
def keepNorms (s : State) (step : Nat) : State :=
  let s := updKs s fun k => { k with normHist := last16 (k.normHist ++ [(step, k.norms)]), norms := [] }
  if s.ks.normHist.all (·.2.isEmpty) then s else putWorking s normArea (s.ks.normHist.flatMap fun e => e.2.flatMap normBytes)

/-- The segment time of R29: the largest busy time of a bay; it goes once round the ring. -/
def sendSegmentTime (s : State) (p : Plan) (pier : Nat) : State :=
  let t := ((List.range 32).map fun b => tabGet 0 s.sp.busy b).foldl max 0
  let s := updSp s fun q => { q with lastBusy := q.busy, busy := [], segTimes := q.segTimes.filter (fun x => x.1 == pier && x.2.1 != p.ringPos) ++ [(pier, p.ringPos, t)] }
  match s.via.formed with
  | none => s
  | some f => if p.ringLength = 1 then s else sendNext s f.plusPort fun c => .segmentTime c pier p.ringPos t

/-- A key for a flood (R377); STEP_INDEX tells the piers of two steps apart. -/
def stepKey (pier step : Nat) : Nat := pier + 65536 * step

/-- This member holds WATERMARK(k): the pier completes (R378). -/
def holdWatermark (s : State) (p : Plan) (pier step : Nat) : State :=
  let s := updGrp s fun g => { g with watermark := some pier, wmStep := step, dones := g.dones.filter (fun d => d.2 != pier) }
  match s.ks.pierWork with
  | none => s
  | some w =>
    match pierBySeq p w.seq with
    | none => s
    | some e => if w.stage = .holding ∧ e.index = pier then pierComplete s p e else s

/-- The coordinator floods WATERMARK(k) once it has written pier k and holds PIER_DONE(k) from every other member. -/
def tryWatermark (s : State) (p : Plan) (pier step : Nat) : State :=
  if isCoord s && (List.range (groupSize p)).all (fun r => s.grp.dones.contains (r, pier)) && s.grp.rewindW.isNone then
    let s := floodJ s none 6 s.grp.count (stepKey pier step) fun port => .watermark (jOf s port) pier (BitVec.ofNat 64 step)
    holdWatermark s p pier step
  else s

/-- Step 3 of Table 19-3 has ended: the pier is written. Flips, pier actions, PIER_DONE. -/
def pierWritten (s : State) (p : Plan) (e : PierEntry) : State :=
  let closing := isStepPier p e
  let gens := gensAfter s p
  let step := s.ks.stepIndex
  let s := updKs s fun k =>
    { k with lastPier := some e.index, written := [], segmentOf := seqAfter p e.seq
             stepPier := if closing then some e.index else k.stepPier,
             gens := gens.zipIdx.foldl (fun t g => tabSet 0 t g.2 g.1) k.gens,
             stepIndex := k.stepIndex + bitNat closing, stepsClosed := k.stepsClosed + bitNat closing }
  let s := if closing then updSp s fun q => { q with faults := [] } else s
  let s := updSp s fun q => { q with paceLimit := s.toll.limitW }
  let s := if closing && (commitSeq p).isNone then keepNorms s step else s
  let s := if (updatePier p).any (fun u => u.seq == e.seq) then
      formPending (updKs s fun k => { k with updMap := [] }) p true else s
  let s := sendSegmentTime s p e.index
  let swap := if e.flags.testBit 0 then some (seqAfter p e.seq) else none
  let s := pierActions s p false swap
  if stopped s then s
  else if s.dram.lost.any fun sec => lostCase s p sec == .restart then afterReplay s p
  else if groupSize p = 1 then pierComplete s p e
  else
    let s := updKs s fun k => { k with pierWork := some { seq := e.seq, index := e.index, stage := .holding } }
    if isCoord s then
      tryWatermark (updGrp s fun g => { g with dones := g.dones ++ [(ownRank s, e.index)] }) p e.index step
    else sendJ s s.grp.coord fun j => .pierDone j e.index (BitVec.ofNat 64 step)

/-- R446: before the record is written, the bytes of a kind 1 buffer that the segment did not write are copied. -/
def carryForward (s : State) (p : Plan) : State :=
  p.bufs.zipIdx.foldl (fun s b => if b.1.kind == 1 && wroteBuf s b.2 then fillWorking s b.1 b.2 else s) s

/-- Write journal bytes at an offset of the slot area, and mirror them (Table 19-3 steps 2 and 3). -/
def journalWrite (s : State) (off : Nat) (b : List Byte) : State :=
  let s := freshSectors (putMem s (journalBase + off) b) [(journalBase + off, b.length)]
  match mirrorPort s with
  | none => s
  | some n => sendVia s n (.mirrorWrite (jOf s (Nat.xor n 1)) off b)

/-- The slot offset of the commit entries: the update pier's slot (R374). -/
def commitSlot (p : Plan) : Nat := ((updatePier p).map (·.index)).getD 0 * slotSize
def prepareOff (p : Plan) : Nat := commitSlot p + commitArea
def decisionOff (p : Plan) : Nat := commitSlot p + decisionArea

/-- R373: a device without a mirror holder runs unmirrored, which is logged once per START. -/
def noteUnmirrored (s : State) : State :=
  if s.ks.unmirrored || (mirrorPort s).isSome then s
  else logEvent (updKs s fun k => { k with unmirrored := true }) (mkEvent 0 srcKs 1 0 evState 0 0)

/-- PIER: once every descriptor of lower SEQ has completed, the record is written and mirrored (R376). -/
def pierRun (s : State) (seq : Nat) : State :=
  match running s seq with
  | none => s
  | some (p, d, _) =>
    match pierBySeq p seq with
    | none => s
    | some e =>
      if d.opcode != opPier || s.ks.pierWork.isSome || s.ks.issued.any (fun i => decide (i.seq < seq)) || s.grp.rewindW.isSome
      then s
      else
        let s := runContexts (carryForward (noteUnmirrored s) p) p seq
        let s := if (updatePier p).any (fun u => u.seq == e.seq) then formStep s p else s
        let s := journalWrite s (e.index * slotSize) (pierRecord s p e)
        if (mirrorPort s).isNone then pierWritten s p e
        else updKs s fun k => { k with pierWork := some { seq := seq, index := e.index, stage := .mirroring } }

/-- The start record (R385), in two copies (R448). -/
def writeStartRecord (s : State) (p : Plan) : State :=
  let s := settleWorking s
  let b := startRecord s p
  freshSectors (putMem (putMem s startRecordAddr b) startRecordCopy b)
    [(startRecordAddr, b.length), (startRecordCopy, b.length)]

/-- R276, R376: a completed update-phase descriptor's bit of the update pier's bitmap is written to the journal and its mirror;
it is complete once the mirror holder has acknowledged it, at once on a device without one. -/
def journalUpdate (s : State) (p : Plan) (seq : Nat) : State :=
  match updatePier p with
  | none => s
  | some e =>
    let s := updKs s fun k =>
      if (mirrorPort s).isNone then { k with updMap := insertNat seq k.updMap } else { k with updSent := k.updSent ++ [some seq] }
    let base := slotAddr e.index
    let size := memNat s.dram.mem (base + 8) 4
    let b := tabBytes s.dram.mem base size
    let n := ceilDiv (updCount p e) 8
    let map := ((s.ks.updMap ++ s.ks.updSent.filterMap id).filter fun q => decide (e.seq < q)).foldl (fun v q => v + 2 ^ (q - e.seq - 1)) 0
    let b := b.take (size - n) ++ leBytes n map
    let plain := zeros 4 ++ (b.drop 4).take 0x3C ++ zeros 4 ++ b.drop 0x44
    let b := b.take 0x40 ++ leBytes 4 (crc32c plain) ++ b.drop 0x44
    journalWrite s (e.index * slotSize) b

/-- The oldest bit that waits for its MIRROR_ACK is complete. -/
def updateAcked (s : State) : State :=
  match s.ks.updSent with
  | [] => s
  | x :: xs => updKs s fun k =>
    { k with updSent := xs, updMap := match x with | some q => insertNat q k.updMap | none => k.updMap }

end Sys2Proof.Machine
end

