-- ==== Sys2Proof/Machine/Execute.lean ====
section
/-! DEFINITION. Plan execution by the Keystone (spec 03): setup records and arming (R54 to R57), issue (R50), start,
BANK_HANDOVER (R104, R105), completion (R51). -/

namespace Sys2Proof.Machine

/-- The Keystone as a unit. -/
def ksUnit : Nat := 512

-- ------------------------------------------------------------------------------------------------ setup records

/-- The phase that follows the one in the shadows: the next in the table; after the last, LOOP_PHASE, once issue has
come to the last and another step will run, or the step has closed. -/
def nextPhase (s : State) (p : Plan) : Option Nat :=
  let k := s.ks
  if k.phase + 1 < p.phases.length then some (k.phase + 1)
  else if k.order < k.issueOrder then some p.loopPhase
  else if k.order = k.issueOrder ∧ (k.stepsWanted = 0 ∨ k.stepsClosed + 1 < k.stepsWanted) then some p.loopPhase
  else none

/-- Descriptors of earlier phases than the one in the shadows that have not been issued. -/
def unissuedBefore (s : State) (p : Plan) : List Desc :=
  if s.ks.order ≤ s.ks.issueOrder then []
  else
    let first := match p.phases[s.ks.phase]? with | some f => f.firstSeq | none => 1
    let stop := if s.ks.nextSeq < first then first else lastSeq p + 1
    p.descs.filter fun d => decide (s.ks.nextSeq ≤ d.seq) && decide (d.seq < stop)

/-- Write a phase's records into the shadows (Table 3-14 step 2): every block that no record names arms at once. -/
def writeShadows (s : State) (p : Plan) (i : Nat) : State :=
  let rs := phaseRecords p i
  let named := rs.flatMap (namedBlocks s.ks.shadow)
  updKs s fun k =>
    { k with phase := i, order := k.order + 1, shadowed := true, shadow := withRecords k.shadow rs
             toArm := k.toArm.filter (fun b => !(named.map blockKey).contains b) ++ named.map blockKey }

/-- SETUP_SHADOW_WRITE: once every block has armed the present phase, the Keystone writes the next phase's records
(R57). -/
def setupShadowWrite (s : State) : State :=
  match s.ks.plan with
  | none => s
  | some p =>
    if isRunning s = false ∨ s.ks.haltIssue then s
    else if !s.ks.shadowed then writeShadows s p s.ks.phase
    else if !s.ks.toArm.isEmpty then s
    else match nextPhase s p with
      | none => s
      | some i => writeShadows s p i

def execSetupShadowWrite (s : State) : Host.Outcome State Fault Refusal := .next (setupShadowWrite s)

/-- A block's shadow becomes its armed copy (R56). -/
def armBlock (k : Keystone) (b : Block) : BlockCfg :=
  let a := k.armed
  let h := k.shadow
  match b with
  | .router i => { a with routers := tabSet [] a.routers i (tabGet [] h.routers i) }
  | .channel i => { a with chans := tabSet 0 a.chans i (tabGet 0 h.chans i) }
  | .port i => { a with ports := tabSet 0 a.ports i (tabGet 0 h.ports i) }
  | .regulator i => { a with regs := tabSet 0 a.regs i (tabGet 0 h.regs i) }
  | .bankTable x =>
    { a with owners := [0, 1, 2, 3].foldl (fun t j => tabSet 0 t (x * 4 + j) (tabGet 0 h.owners (x * 4 + j))) a.owners }

/-- What arming does beside the copy: bank owners (R54), bay voltages (R32). -/
def armEffect (s : State) (b : Block) (old : BlockCfg) : State :=
  match b with
  | .bankTable x => updSp s fun q =>
      { q with owners := [0, 1, 2, 3].foldl (fun t j => tabSet 0 t (x * 4 + j) (tabGet 0 s.ks.armed.owners (x * 4 + j))) q.owners }
  | .regulator i => regEffect s old.regs i
  | _ => s

/-- BLOCK_ARM: the records are written, no descriptor of an earlier phase that uses the block is incomplete, and a port
holds no unacknowledged flit (R56, R327). -/
def blockArm (s : State) (b : Block) : State :=
  match s.ks.plan with
  | none => s
  | some p =>
    let used := (s.ks.issued.any fun i =>
        decide (i.order < s.ks.order) && (match descAt p i.seq with | some d => usesBlock s p i.order d b | none => false))
      || (unissuedBefore s p).any fun d => usesBlock s p s.ks.issueOrder d b
    let quiet := match b with | .port n => (portOf s n).retry.isEmpty | _ => true
    let moving := match b with | .port _ => s.ks.reshardW.any (fun w => decide (3 ≤ w.phase)) | _ => false
    if !s.ks.toArm.contains (blockKey b) || used || !quiet || moving then s
    else
      let old := s.ks.armed
      let s := updKs s fun k => { k with toArm := k.toArm.filter (· != blockKey b), armed := armBlock k b }
      armEffect s b old

def execBlockArm (b : Block) (s : State) : Host.Outcome State Fault Refusal := .next (blockArm s b)

-- ------------------------------------------------------------------------------------------------ waits

/-- Issue and start are held: a rewind, a hold for admission, a fetch of a lost sector, a re-shard at its pier. -/
def held (s : State) : Bool :=
  s.ks.haltIssue || s.grp.rewindW.isSome || s.grp.holdAdmit || !s.grp.fetches.isEmpty || s.ks.startStage.isSome
    || s.ks.reshardW.any (fun w => decide (1 ≤ w.phase))

/-- SEQ values that a descriptor depends on (R50). -/
def depSeqs (d : Desc) : List Nat := (d.deps.filter (· != 0)).map fun x => d.seq - x

/-- R266: the first descriptor of a run that targets a span waits there until every descriptor of lower SEQ that targets the
span has completed, but for DEFERRABLE ones. -/
def runBoundary (s : State) (p : Plan) (d : Desc) (x : Nat) : Bool :=
  isDeferrable d || match runOf p d.seq with
    | none => true
    | some r =>
      let here := fun (e : Desc) => !isDeferrable e && (targets e).contains x && decide (e.seq < d.seq)
      p.descs.any (fun e => here e && decide (r.first ≤ e.seq))
        || s.ks.issued.all fun i => !((descAt p i.seq).any here)

/-- Every configurable block. -/
def allBlocks : List Block :=
  (List.range 32).map Block.router ++ (List.range 1024).map Block.channel ++ (List.range 8).map Block.port
    ++ (List.range 32).map Block.regulator ++ (List.range 512).map Block.bankTable

/-- Some block that a descriptor of the `order`th phase uses has yet to arm. -/
def armedWait (s : State) (p : Plan) (order : Nat) (d : Desc) : Bool :=
  allBlocks.any fun b => s.ks.toArm.contains (blockKey b) && usesBlock s p order d b

/-- The descriptors that a descriptor's dependency count names and that are not complete (R50): those of DEPn, with BARRIER all
of lower SEQ, and those of the previous phase that still use a block which it uses and which has yet to arm. -/
def waitsOn (s : State) (p : Plan) (d : Desc) (i : Issued) : List Nat :=
  (s.ks.issued.filter fun j =>
    decide (j.seq < d.seq)
      && ((depSeqs d).contains j.seq || isBarrier d
        || (i.order == s.ks.order && j.order != i.order && (descAt p j.seq).any fun e =>
              allBlocks.any fun b =>
                s.ks.toArm.contains (blockKey b) && usesBlock s p i.order d b && usesBlock s p j.order e b))).map (·.seq)

/-- The dependency count of R50 is zero, the phase's blocks have armed (R56), no pier stands unwritten before it. -/
def mayStart (s : State) (p : Plan) (d : Desc) (i : Issued) : Bool :=
  let lower := s.ks.issued.filter fun j =>
    decide (j.seq < d.seq) && match descAt p j.seq with | some e => !sameSplit p d e | none => true
  isRunning s && !held s
    && (depSeqs d).all (fun q => !(lower.any fun j => j.seq == q))
    && (!(isBarrier d || d.opcode == opPier || d.opcode == opCommit) || lower.isEmpty)
    && !(lower.any fun j => (pierBySeq p j.seq).isSome)
    && (i.order != s.ks.order || s.ks.toArm.isEmpty || !(armedWait s p i.order d))

/-- R105: the FROM master has finished its accesses to a bank for every descriptor of lower SEQ on a span. -/
def masterDone (s : State) (p : Plan) (h : Desc) (pass x bank master : Nat) : Bool :=
  s.ks.issued.all fun i =>
    !decide (i.seq < h.seq) ||
      match descAt p i.seq with
      | none => true
      | some d =>
        !(targets d).contains x || !(i.waiting.contains x || i.running.contains x) || decide (passesOf p i.seq ≤ i.passesRun.length)
          || (sameSplit p h d && decide (pass < i.passesRun.length))
          || !((master == 3 && (d.opcode == opAttnFwd || d.opcode == opAttnBwd))
                || (descUses p d).any fun u => isBank u.o && u.o.bank == bank && u.master == master)

/-- A bank of a span is a slot of a queue of the plan (R269). -/
def isSlot (p : Plan) (x bank : Nat) : Bool :=
  (pipeQueues p).any fun q =>
    let g := plGroup p (q.dest % max 1 (plGroups p))
    q.banks.testBit bank && decide (g.1 ≤ x / 16) && decide (x / 16 < g.1 + g.2)

/-- A descriptor that runs on a span sends into a slot that the Causeway port does not own yet (R270). -/
def sendStalled (s : State) (p : Plan) (d : Desc) (x : Nat) : Bool :=
  d.opcode != opBankHandover && (descUses p d).any fun u =>
    isBank u.o && u.write && u.master == 4 && (useTargets (targets d) u).contains x && isSlot p x u.o.bank
      && tabGet 0 s.sp.owners (x * 4 + u.o.bank) != 4

/-- A handover that runs on a span has an entry that waits for its FROM master, the entry a consume or neither a consume nor
a release (R270). -/
def handoverWaits (s : State) (p : Plan) (d : Desc) (i : Issued) (x : Nat) (consume : Bool) : Bool :=
  d.opcode == opBankHandover && (hoEntries d).any fun e =>
    let takes := isSlot p x e.1 && e.2.1 == 4 && e.2.2 != 4
    let gives := isSlot p x e.1 && e.2.1 != 4 && e.2.2 == 4
    !i.handed.contains (x, e.1) && !masterDone s p d i.passesRun.length x e.1 e.2.1
      && (if consume then takes else !takes && !gives)

/-- The states of Table 13-4 that some span is in, as the counter's index and the bay: QFULL, QEMPTY, HANDOVER, DEFER of the
descriptors that run, RUNGAP of those at the head of a queue. -/
def activityNow (s : State) : List (Nat × Nat) :=
  match s.ks.plan with
  | none => []
  | some p =>
    (s.ks.issued.flatMap fun i =>
      match descAt p i.seq with
      | none => []
      | some d => (i.running.filter (· != ksUnit)).flatMap fun x =>
        ([sendStalled s p d x, handoverWaits s p d i x true, handoverWaits s p d i x false, isDeferrable d].zipIdx.filter (·.1)).map
          fun c => (c.2, x / 16))
    ++ s.ks.queues.filterMap fun q =>
      match q.2.head? with
      | none => none
      | some seq =>
        match descAt p seq, issuedOf s seq with
        | some d, some i => if mayStart s p d i && !runBoundary s p d q.1 then some (4, q.1 / 16) else none
        | _, _ => none

/-- The OFFLOAD and PREFETCH descriptors that are late: a descriptor at the head of a span queue waits for one of them and for
nothing else (R370). -/
def lateSeqs (s : State) (p : Plan) : List Nat :=
  let heads := s.ks.queues.filterMap fun q => q.2.head?
  (s.ks.issued.map (·.seq)).filter fun q =>
    ((descAt p q).any fun d => d.opcode == opOffload || d.opcode == opPrefetch)
      && heads.any fun h => match descAt p h, issuedOf s h with
        | some d, some i => waitsOn s p d i == [q]
        | _, _ => false

/-- The late descriptors of the loaded plan. -/
def lateHere (s : State) : List Nat := (s.ks.plan.map (lateSeqs s)).getD []

/-- What R271 and R370 count of the present beat: a state that some span enters, and a descriptor that becomes late, is kept
until the beat ends. -/
def noteActivity (s : State) : State :=
  let s := updSp s fun q => { q with seen := (activityNow s).foldl (fun l c => if l.contains c then l else l ++ [c]) q.seen }
  updTre s fun t => { t with lateNow := (lateHere s).foldl (fun l c => if l.contains c then l else l ++ [c]) t.lateNow }

-- ------------------------------------------------------------------------------------------------ issue

/-- R50: the issue window: 512 outstanding, 65,536 SEQ values. The descriptors of a run that is executed part by part
(R273) count as one, since none of them completes before all have been issued. -/
def windowOpen (s : State) (p : Plan) (d : Desc) : Bool :=
  let other := s.ks.issued.filter fun i => match descAt p i.seq with | some e => !sameSplit p d e | none => true
  decide (other.length < 512) &&
    match s.ks.issued.head? with
    | none => true
    | some i => decide (s.ks.nextSeq < i.seq + 65536)

/-- DESCRIPTOR_ISSUE: the next descriptor in SEQ order enters the 8-entry queue of each target span (R50). Descriptors
that the update pier's bitmap records as complete are passed over while it is the last pier written (R276). -/
def descriptorIssue (s : State) : State :=
  match s.ks.plan with
  | none => s
  | some p =>
    let seq := s.ks.nextSeq
    match descAt p seq with
    | none => s
    | some d =>
      let ts := targets d
      if !isRunning s || held s || !s.ks.shadowed || decide (s.ks.order < s.ks.issueOrder) || !windowOpen s p d
          || ts.any (fun x => decide (8 ≤ (tabGet [] s.ks.queues x).length)) then s
      else if s.ks.accLost then
        replayFault (notifyFault (updKs s fun k => { k with accLost := false }) (mkEvent stMemory srcSpan 2 0 evFault seq 0)) stMemory
      else
        let after := if phaseIndex p (seq + 1) = phaseIndex p seq then s.ks.issueOrder else s.ks.issueOrder + 1
        let s1 := updKs s fun k => { k with nextSeq := seq + 1, issueOrder := if seq < lastSeq p then after else k.issueOrder }
        let inUpdate := (updatePier p).any fun e => s.ks.lastPier == some e.index
        if inUpdate && s.ks.updMap.contains seq then s1
        else
        let i : Issued := { seq := seq, order := s.ks.issueOrder, waiting := if ts.isEmpty then [ksUnit] else ts, running := [],
                            passesRun := [], handed := [], status := 0, detail := (0, 0) }
        noteActivity (updKs s1 fun k =>
          { k with issued := k.issued ++ [i],
                   queues := ts.foldl (fun t x => tabUpd [] t x (· ++ [seq])) k.queues })

def execDescriptorIssue (s : State) : Host.Outcome State Fault Refusal := .next (descriptorIssue s)

-- ------------------------------------------------------------------------------------------------ start

/-- A send entry starts: a RECEIVE_READY that came before it counts now (R201). -/
def startSend (s : State) (e : Nat × Xfer) : State :=
  let x := e.2
  let mine := fun (r : Nat × (Nat × (Nat × Nat))) => r.1 == x.peer && r.2.1 == x.cls && r.2.2.1 == x.msgSeq
  let hit := s.ks.readies.find? mine
  let s := updKs s fun k =>
    { k with readies := k.readies.filter (fun r => !mine r),
             xfers := k.xfers ++ [{ idx := e.1, x := x, ready := hit.isSome, sent := false, data := none }] }
  if hit.any fun r => r.2.2.2 != x.len then protocolError s x.port x.seq else s

/-- R53: core 3 drives the transfer entries of a descriptor that has started; each receive entry returns a receive-ready
to its peer (R201). -/
def startXfers (s : State) (p : Plan) (seq : Nat) : State :=
  (xfersOf p seq).foldl (fun s e =>
    let x := e.2
    if x.kind = 0 then startSend s e
    else
      let s := updKs s fun k => { k with xfers := k.xfers ++ [{ idx := e.1, x := x, ready := false, sent := false, data := none }] }
      if x.kind = 1 then sendReady s x.port x.peer x.msgSeq x.cls x.len else s) s

/-- A Trestle entry joins its direction (R366, R368). -/
def startTrestle (s : State) (p : Plan) (d : Desc) : State :=
  (xfersOf p d.seq).foldl (fun s e =>
    let x := e.2
    if x.kind ≠ 2 ∧ x.kind ≠ 3 then s
    else match regionAddr s (ofRegion d) (ofRegionOff d) (ofLen d) with
      | some h =>
        if (splitRun p d).isSome then s else
        let t : TEntry := { key := orderKey d.seq 0, seq := d.seq, toHost := x.kind == 2, host := h, pos := (ofLocal d).offset,
                            len := x.len, done := 0 }
        updTre s fun r => { r with entries := r.entries ++ [t] }
      | none => s) s

/-- A span that starts a descriptor clears its LANE_RANGE flag (R238). -/
def clearLane (s : State) (u : Nat) : State :=
  if u = ksUnit ∨ !(tabGet VecEngine.reset s.sp.vec u).lane then s
  else updSp s fun q => { q with vec := tabUpd .reset q.vec u fun e => { e with lane := false, laneAt := none } }

/-- A unit starts a descriptor; when it was the last to start, its transfers start. -/
def startOn (s : State) (p : Plan) (d : Desc) (u : Nat) : State :=
  let s := updKs (clearLane s u) fun k => { k with reach := furthest k.reach (k.stepIndex, d.seq) }
  let s := updIssued s d.seq fun i => { i with waiting := i.waiting.filter (· != u), running := i.running ++ [u] }
  match issuedOf s d.seq with
  | none => s
  | some i => noteActivity (if i.waiting.isEmpty then startTrestle (startXfers s p d.seq) p d else s)

/-- DESCRIPTOR_START: a span starts the descriptor at the head of its queue; the Keystone, of its own descriptors, the
one of lowest SEQ that may start (R50). -/
def descriptorStart (s : State) (u : Option Nat) : State :=
  match s.ks.plan with
  | none => s
  | some p =>
    match u with
    | some x =>
      match (tabGet [] s.ks.queues x).head? with
      | none => s
      | some seq =>
        match descAt p seq, issuedOf s seq with
        | some d, some i =>
          if mayStart s p d i && runBoundary s p d x then
            startOn (updKs s fun k => { k with queues := tabUpd [] k.queues x (·.drop 1) }) p d x
          else s
        | _, _ => s
    | none =>
      match s.ks.issued.find? fun i => i.waiting.contains ksUnit &&
          (match descAt p i.seq with | some d => mayStart s p d i | none => false) with
      | none => s
      | some i => match descAt p i.seq with | some d => startOn s p d ksUnit | none => s

def execDescriptorStart (u : Option Nat) (s : State) : Host.Outcome State Fault Refusal := .next (descriptorStart s u)

-- ------------------------------------------------------------------------------------------------ BANK_HANDOVER

/-- R105: one entry takes effect on one span, once its FROM master owns the bank and has finished with it. -/
def handEntry (p : Plan) (d : Desc) (pass : Nat) (s : State) (x : Nat) (e : Nat × (Nat × Nat)) : State :=
  let key := x * 4 + e.1
  let done := match issuedOf s d.seq with | some i => i.handed.contains (x, e.1) | none => true
  if done || tabGet 0 s.sp.owners key != e.2.1 || !masterDone s p d pass x e.1 e.2.1 then s
  else
    updIssued (updSp s fun q => { q with owners := tabSet 0 q.owners key e.2.2 }) d.seq fun i =>
      { i with handed := i.handed ++ [(x, e.1)] }

/-- An issued descriptor and its plan. -/
def issuedPlan (s : State) (seq : Nat) : Option (Plan × Desc × Issued) :=
  match s.ks.plan with
  | none => none
  | some p => match descAt p seq, issuedOf s seq with
    | some d, some i => some (p, d, i)
    | _, _ => none

/-- R104, R105: the entries that can take effect do, each on its own span once that has started the descriptor; its work is done
once all have. -/
def bankHandover (s : State) (seq : Nat) : State :=
  match issuedPlan s seq with
  | none => s
  | some (p, d, i) =>
    let es := hoEntries d
    let pass := i.passesRun.length
    if d.opcode != opBankHandover || decide (passesOf p seq ≤ pass) || !partTurn s p d pass then s
    else
      let s := ((targets d).filter (i.running.contains ·)).foldl (fun s x => es.foldl (fun s e => handEntry p d pass s x e) s) s
      let all := match issuedOf s seq with
        | some j => (targets d).all fun x => es.all fun e => j.handed.contains (x, e.1)
        | none => false
      if all then passDone (updIssued s seq fun j => { j with handed := [] }) seq pass 0 else s

def execBankHandover (seq : Nat) (s : State) : Host.Outcome State Fault Refusal := .next (bankHandover s seq)

-- ------------------------------------------------------------------------------------------------ completion

/-- Every transfer entry of a descriptor is complete (R201): sent bytes acknowledged by the link, received bytes written,
Trestle bytes moved. -/
def xfersDone (s : State) (p : Plan) (seq : Nat) : Bool :=
  (xfersOf p seq).all fun e => s.ks.xfers.any fun r =>
    r.idx == e.1 && r.sent && (e.2.kind != 0 || (coordOfRank s e.2.peer).any fun c => dataAcked s c e.2.cls e.2.msgSeq)

/-- The descriptor's work is done: every pass has run, every add has been applied, every transfer is complete. -/
def workDone (s : State) (p : Plan) (d : Desc) (i : Issued) : Bool :=
  decide (passesOf p d.seq ≤ i.passesRun.length) && xfersDone s p d.seq
    && !((s.dram.adds ++ s.dram.window).any fun x => x.key / 65536 == d.seq)

/-- A descriptor report in the event log (Table 20-5, DETAIL1). -/
def reportEvent (d : Desc) (i : Issued) (status severity unit : Nat) : Event :=
  mkEvent status (if unit = ksUnit then srcKs else srcSpan) severity unit evReport d.seq
    (i.detail.1 % 256 + i.detail.2 % 2 ^ 40 * 2 ^ 8 + i.passesRun.length % 65536 * 2 ^ 48)

/-- A descriptor is complete on every unit (R51). -/
def completeDesc (s : State) (p : Plan) (d : Desc) : State :=
  let s := updKs s fun k => { k with issued := k.issued.filter (fun i => i.seq != d.seq) }
  let s := updDram s fun m => { m with markers := m.markers.filter (fun x => x.2.2 != d.seq) }
  noteActivity (if inUpdatePhase p d.seq && (isUpdate d || d.opcode == opNormProbe) then journalUpdate s p d.seq else s)

/-- DESCRIPTOR_COMPLETE: an OK or informational report completes the unit's part once the work is done; any other status
fails the descriptor (R51). PIER and COMMIT complete by their own sequences. -/
def descriptorComplete (s : State) (u : Option Nat) (seq : Nat) (status : Byte) : State :=
  let unit := u.getD ksUnit
  match s.ks.plan with
  | none => s
  | some p =>
    match descAt p seq, issuedOf s seq with
    | some d, some i =>
      let st := joinStatus i.status status.toNat
      if !i.running.contains unit then s
      else if st = 0 ∨ isInformational st then
        if d.opcode = opPier ∨ d.opcode = opCommit ∨ !i.waiting.isEmpty ∨ !workDone s p d i then s
        else
          let s := updIssued s seq fun i => { i with running := i.running.filter (· != unit), status := st }
          match issuedOf s seq with
          | none => s
          | some j =>
            if !j.running.isEmpty then s
            else
              let s := if st ≠ 0 ∨ isReport d then logEvent s (reportEvent d i st 0 unit) else s
              completeDesc s p d
      else
        let s := if unit = ksUnit then s else updSp s fun q => { q with faults := tabUpd 0 q.faults unit (· + 1) }
        let st := finalStatus st
        replayFault (notifyFault s (reportEvent d i st 2 unit)) st
    | _, _ => s

def execDescriptorComplete (u : Option Nat) (seq : Nat) (status : Byte) (s : State) :
    Host.Outcome State Fault Refusal := .next (descriptorComplete s u seq status)

end Sys2Proof.Machine
end

