-- ==== Sys2Proof/Machine/Ecdsa.lean ====
section
/-! DEFINITION. ECDSA with Brainpool P-384 and SHA-384 (R410, R414: RFC 5639), and HMAC-SHA-384 (R415). -/

namespace Sys2Proof.Machine

/-- brainpoolP384r1: field prime, coefficient A and B, base point, group order (RFC 5639). -/
def bpP : Nat := 0x8CB91E82A3386D280F5D6F7E50E641DF152F7109ED5456B412B1DA197FB71123ACD3A729901D1A71874700133107EC53
def bpA : Nat := 0x7BC382C63D8C150C3C72080ACE05AFA0C2BEA28E4FB22787139165EFBA91F90F8AA5814A503AD4EB04A8C7DD22CE2826
def bpB : Nat := 0x04A8C7DD22CE28268B39B55416F0447C2FB77DE107DCD2A62E880EA53EEB62D57CB4390295DBC9943AB78696FA504C11
def bpGx : Nat := 0x1D1C64F068CF45FFA2A63A81B7C13F6B8847A3E77EF14FE3DB7FCAFE0CBD10E8E826E03436D646AAEF87B2E247D4AF1E
def bpGy : Nat := 0x8ABE1D7520F9C2A45CB1EB8E95CFD55262B70B29FEEC5864E19C054FF99129280E4646217791811142820341263C5315
def bpQ : Nat := 0x8CB91E82A3386D280F5D6F7E50E641DF152F7109ED5456B31F166E6CAC0425A7CF3AB6AF6B7FC3103B883202E9046565

/-- x^e mod m over the low `n` bits of e. -/
def powMod (m : Nat) : Nat → Nat → Nat → Nat
  | 0, _, _ => 1 % m
  | n + 1, x, e => (if e % 2 = 1 then x else 1) * powMod m n (x * x % m) (e / 2) % m

/-- The inverse modulo a prime of at most 384 bits. -/
def invMod (m x : Nat) : Nat := powMod m 384 (x % m) (m - 2)

def subMod (m x y : Nat) : Nat := (x % m + m - y % m) % m

/-- A point in Jacobian coordinates: x = X ÷ Z², y = Y ÷ Z³; Z = 0 is the neutral element. -/
structure JPoint where
  x : Nat
  y : Nat
  z : Nat
  deriving DecidableEq, Repr

def ecDouble (p : JPoint) : JPoint :=
  let yy := p.y * p.y % bpP
  let zz := p.z * p.z % bpP
  let t := 4 * p.x * yy % bpP
  let m := (3 * p.x * p.x + bpA * (zz * zz % bpP)) % bpP
  let x := subMod bpP (m * m) (2 * t)
  { x := x, y := subMod bpP (m * subMod bpP t x) (8 * yy * yy), z := 2 * p.y * p.z % bpP }

/-- The group law. -/
def ecAdd (p q : JPoint) : JPoint :=
  if p.z = 0 then q
  else if q.z = 0 then p
  else
    let pz := p.z * p.z % bpP
    let qz := q.z * q.z % bpP
    let u := p.x * qz % bpP
    let v := p.y * (qz * q.z % bpP) % bpP
    let h := subMod bpP (q.x * pz) u
    let r := subMod bpP (q.y * (pz * p.z % bpP)) v
    if h = 0 then if r = 0 then ecDouble p else { x := 1, y := 1, z := 0 }
    else
      let hh := h * h % bpP
      let h3 := hh * h % bpP
      let x := subMod bpP (r * r) (h3 + 2 * u * hh)
      { x := x, y := subMod bpP (r * subMod bpP (u * hh) x) (v * h3), z := h * p.z % bpP * q.z % bpP }

/-- k times a point, over the low `n` bits of k. -/
def ecMul : Nat → Nat → JPoint → JPoint
  | 0, _, _ => { x := 1, y := 1, z := 0 }
  | n + 1, k, p => ecAdd (if k % 2 = 1 then p else { x := 1, y := 1, z := 0 }) (ecMul n (k / 2) (ecDouble p))

def onCurve (x y : Nat) : Bool :=
  decide (x < bpP) && decide (y < bpP) && y * y % bpP == (x * x * x + bpA * x + bpB) % bpP

/-- ECDSA verification of a digest under a public point. -/
def ecdsaOk (digest : Nat) (pub : Nat × Nat) (r w : Nat) : Bool :=
  if r = 0 ∨ bpQ ≤ r ∨ w = 0 ∨ bpQ ≤ w ∨ !onCurve pub.1 pub.2 then false
  else
    let i := invMod bpQ w
    let p := ecAdd (ecMul 384 (digest % bpQ * i % bpQ) ⟨bpGx, bpGy, 1⟩) (ecMul 384 (r * i % bpQ) ⟨pub.1, pub.2, 1⟩)
    p.z != 0 && p.x * invMod bpP (p.z * p.z) % bpP % bpQ == r

/-- HMAC-SHA-384 with a key of at most 128 bytes (RFC 2104). -/
def hmac384 (key m : List Byte) : List Byte :=
  let k := key ++ zeros (128 - key.length)
  sha384 (k.map (· ^^^ 0x5C) ++ sha384 (k.map (· ^^^ 0x36) ++ m))

end Sys2Proof.Machine
end

