-- ==== Sys2Proof/Machine/TollOps.lean ====
section
/-! DEFINITION. What the Tollhouse's commands share (spec 20): fuses and the anti-rollback counter (Table 20-1), firmware
images (R410, Table 20-11) and their slots, boot (R415, R419), bay voltages (R433), the snapshot (Tables 20-6, 20-7). -/

namespace Sys2Proof.Machine

-- ------------------------------------------------------------------------------------------------ fuses and images

/-- The anti-rollback counter: steps in which either bit reads 1. -/
def rollbackOf (t : Toll) : Nat :=
  ((List.range 64).filter fun i => t.rollback.toNat.testBit (2 * i) || t.rollback.toNat.testBit (2 * i + 1)).length

/-- Burn steps, lowest first, until the counter reads `n`. -/
def burnTo (t : Toll) (n : Nat) : Toll :=
  let blank := (List.range 64).filter fun i => !t.rollback.toNat.testBit (2 * i) && !t.rollback.toNat.testBit (2 * i + 1)
  (blank.take (n - rollbackOf t)).foldl (fun t i =>
    { t with rollback := BitVec.ofNat 128 (setBit (setBit t.rollback.toNat (2 * i) true) (2 * i + 1) true) }) t

/-- Manifest fields (Table 20-11). -/
def imgComponent (b : List Byte) : Nat := fieldAt b 6 1
def imgSecurity (b : List Byte) : Nat := fieldAt b 7 1
def imgVersion (b : List Byte) : Nat := fieldAt b 8 4
def imgResult (b : List Byte) : Nat := fieldAt b 0xC 4
def imgBuild (b : List Byte) : Nat := fieldAt b 0x10 4
def imgSize (b : List Byte) : Nat := fieldAt b 0x18 8
def imgManifest (b : List Byte) : List Byte := b.take 512
def imgPayload (b : List Byte) : List Byte := (b.drop 512).take (imgSize b)

/-- Bytes of a component's slot (Table 20-2). -/
def slotBytes (comp : Nat) : Nat := if comp = 0 then 0x100000 else if comp = 1 then 0x1000000 else 0x800000

/-- The checks of R410 for a component's slot, in the rule's order. -/
def imageChecks (t : Toll) (comp : Nat) (b : List Byte) : List Bool :=
  let key := (b.drop 0x50).take 97
  [decide (512 ≤ b.length) && fieldAt b 0 4 == 0x4D4E4654 && fieldAt b 4 2 == 1 && fieldAt b 0x14 1 == 0xB0
     && imgComponent b == comp,
   beNat (sha384 key) == t.keyHash.toNat,
   fieldAt key 0 1 == 4
     && ecdsaOk (beNat (sha384 (b.take 0x100))) (beNat ((key.drop 1).take 48), beNat (key.drop 49))
          (beNat ((b.drop 0x100).take 48)) (beNat ((b.drop 0x130).take 48)),
   decide (512 + imgSize b ≤ b.length) && sha384 (imgPayload b) == (b.drop 0x20).take 48,
   decide (rollbackOf t ≤ imgSecurity b),
   decide (512 + imgSize b ≤ slotBytes comp)]

/-- R410: whether the Tollhouse accepts an image for a component's slot. -/
def imageOk (t : Toll) (comp : Nat) (b : List Byte) : Bool := (imageChecks t comp b).all id

/-- The check of R410 that an image fails, numbered from 1 (R411 logs it). -/
def failingCheck (t : Toll) (comp : Nat) (b : List Byte) : Nat := (imageChecks t comp b).findIdx (! ·) + 1

/-- An image slot: component, and 0 for A or 1 for B. -/
def imageSlot (t : Toll) (comp which : Nat) : List Byte := tabGet [] t.slots (2 * comp + which)
def activeWhich (t : Toll) (comp : Nat) : Nat := if t.active.toNat.testBit comp then 1 else 0
def activeImage (t : Toll) (comp : Nat) : List Byte := imageSlot t comp (activeWhich t comp)
def inactiveWhich (t : Toll) (comp : Nat) : Nat := 1 - activeWhich t comp

def setActive (t : Toll) (comp which : Nat) : Toll :=
  { t with active := BitVec.ofNat 3 (setBit t.active.toNat comp (which == 1)) }

/-- R410: the slot that boots: the active one, or the other when it fails. -/
def bootSlot (t : Toll) (comp : Nat) : Option Nat :=
  let a := activeWhich t comp
  if imageOk t comp (imageSlot t comp a) then some a
  else if imageOk t comp (imageSlot t comp (1 - a)) then some (1 - a) else none

/-- Boot a component: the slot that runs becomes the active one; a slot that fails is logged. -/
def bootComponent (s : State) (comp : Nat) : State × Bool :=
  match bootSlot s.toll comp with
  | none => (logEvent s (mkEvent stInternal srcToll 3 comp evImage 0 0), false)
  | some w =>
    if w = activeWhich s.toll comp then (s, true)
    else (logEvent (updToll s fun t => setActive t comp w) (mkEvent stInternal srcToll 2 comp evImage 0 w), true)

/-- HC_STATUS.FW_STAGED (R411). -/
def showStaged (s : State) : State := updHost s fun h => statusBit h bitStaged (s.toll.staged != 0)

def setStaged (s : State) (comp : Nat) (on : Bool) : State :=
  showStaged (updToll s fun t => { t with staged := BitVec.ofNat 3 (setBit t.staged.toNat comp on) })

/-- Stage an image (R411): into the inactive slot of its component, verified there; the status of FW_STAGE. -/
def stageImage (s : State) (comp : Nat) (b : List Byte) : State × Bool :=
  let w := inactiveWhich s.toll comp
  let s := updToll s fun t => { t with slots := tabSet [] t.slots (2 * comp + w) (b.take (slotBytes comp)) }
  let b := imageSlot s.toll comp w
  if imageOk s.toll comp b then (raiseIrq (setStaged s comp true) 7, true)
  else (logEvent (setStaged s comp false) (mkEvent stBadParam srcToll 2 comp evImage (failingCheck s.toll comp b) w), false)

/-- R411: the staged slots that an activation names are verified again; one that fails is no longer staged. -/
def verifyStaged (s : State) (comps : Nat) : State :=
  ([0, 1, 2].filter fun c => comps.testBit c && s.toll.staged.toNat.testBit c).foldl (fun s c =>
    let w := inactiveWhich s.toll c
    let b := imageSlot s.toll c w
    if imageOk s.toll c b then s
    else logEvent (setStaged s c false) (mkEvent stBadParam srcToll 2 c evImage (failingCheck s.toll c b) w)) s

/-- Every component that a command names is staged (R413). -/
def allStaged (s : State) (comps : Nat) : Bool :=
  [0, 1, 2].all fun k => !comps.testBit k || s.toll.staged.toNat.testBit k

/-- The boot ROM's work on the Tollhouse firmware (R415): UDS locked, CDI derived from the image that runs. -/
def deriveKeys (t : Toll) : Toll :=
  let img := activeImage t 0
  let mac := hmac384 (beBytes 32 t.uds.toNat) ((img.drop 0x20).take 48 ++ leBytes 1 (imgSecurity img))
  { t with udsLocked := true, cdi := BitVec.ofNat 384 (beNat mac) }

-- ------------------------------------------------------------------------------------------------ voltages

/-- A hold or floor acts on a bay. -/
def holdOn (b : Nat) (h : Hold) : Bool := h.bays.toNat.testBit b
def floorOn (b : Nat) (f : Floor) : Bool := f.bays.toNat.testBit b

/-- The voltage that pace matching or a fixed policy sets, in mV. -/
def paceVolt (s : State) (b : Nat) : Nat := tabGet 700 s.sp.volts b

/-- R433: the least of the ceilings that act on a bay. -/
def vSet (s : State) (b : Nat) : Nat :=
  let holds := ((s.toll.holds.filter (holdOn b)).map (·.ceil)).foldl Nat.min 850
  let v := Nat.min holds (paceVolt s b)
  if s.toll.floors.any (floorOn b) then Nat.min v 550 else v

/-- A bay is held by the Tollhouse (R33). -/
def bayHeld (s : State) (b : Nat) : Bool := s.toll.holds.any (holdOn b) || s.toll.floors.any (floorOn b)

/-- Some hold, floor or trip lasts (R401). -/
def protecting (s : State) : Bool := !s.toll.holds.isEmpty || !s.toll.floors.isEmpty || s.pw.tripped

/-- PlatformEventMessage of a start or end of Table 20-3, once an event receiver is set (R409). -/
def platformEvent (s : State) (code unit : Nat) (start : Bool) : State :=
  match s.toll.receiver with
  | none => s
  | some r => updToll s fun t =>
      { t with replies := t.replies ++ [[1, r, 2, 0x0A] ++ leBytes 1 code ++ leBytes 2 unit ++ leBytes 1 (bitNat start)] }

/-- A hold, floor or trip starts or ends (R401): HC_STATUS.THERMAL, source 5, a log record, a PLDM event (R409). -/
def protectionEvent (s : State) (code unit reading : Nat) (start : Bool) (severity status : Nat) : State :=
  let s := raiseIrq (updHost s fun h => statusBit h bitThermal (protecting s)) 5
  platformEvent (logEvent s (mkEvent status srcToll severity unit evProtection reading (code + if start then 256 else 0)))
    code unit start

-- ------------------------------------------------------------------------------------------------ floors

/-- Bays of a hot-spot sensor's quadrant, and of a DRAM stack (Table 20-3). -/
def quadrantBays (q : Nat) : List Nat := (List.range 8).map (8 * q + ·)
def stackBays (k : Nat) : List Nat := [2 * k, 2 * k + 1]
def allBays : List Nat := List.range 32
def baysBits (l : List Nat) : BitVec 32 := BitVec.ofNat 32 (l.foldl (fun v b => setBit v b true) 0)

/-- The floor of a comparator (Table 20-3): HOLD code, unit, bays. -/
def floorOf : Comparator → Floor
  | .bay b => ⟨2, b, baysBits [b]⟩
  | .hotSpot q => ⟨2, 32 + q, baysBits (quadrantBays q)⟩
  | .dram k => ⟨4, k, baysBits (stackBays k)⟩
  | .current => ⟨6, 101, baysBits allBays⟩

def sameFloor (f g : Floor) : Bool := f.code == g.code && f.unit == g.unit

/-- A floor starts or ends; the comparators are armed while the rails are on. -/
def addFloor (s : State) (f : Floor) : State :=
  if s.toll.floors.any (sameFloor f) then s
  else protectionEvent (updToll s fun t => { t with floors := t.floors ++ [f] }) f.code f.unit 0 true 2 stThermal

def dropFloor (s : State) (f : Floor) : State :=
  protectionEvent (updToll s fun t => { t with floors := t.floors.filter fun g => !sameFloor f g }) f.code f.unit 0 false 0 stOk

/-- The regulators go off, and with them every hardware floor. -/
def endFloors (s : State) : State := s.toll.floors.foldl dropFloor s

def prochotFloor : Floor := ⟨6, 100, baysBits allBays⟩

-- ------------------------------------------------------------------------------------------------ the snapshot

/-- The value of a signed reading in `n` bytes. -/
def sBytes (n : Nat) (z : Int) : List Byte := leBytes n (unsignedOf (8 * n) z)

/-- Package power in mW: P12V voltage times current, averaged over the sample period (R397); the one reading's where the
sample gives no others. -/
def powerMw (x : Sample) : Nat :=
  let rs := if x.p12Runs.isEmpty then [(x.p12Mv, x.p12Ma)] else x.p12Runs
  (rs.map fun r => r.1 * r.2).sum / (1000 * rs.length)

/-- HOLD of a bay entry: the action that holds its voltage lowest; floors come first. -/
def holdCode (t : Toll) (b : Nat) : Nat :=
  match t.floors.find? (floorOn b) with
  | some f => f.code
  | none =>
    let hs := t.holds.filter (holdOn b)
    let low := (hs.map (·.ceil)).foldl Nat.min 850
    match hs.find? (fun h => h.ceil == low) with
    | some h => h.code
    | none => 0

def oorOf (t : Toll) (id : Nat) : Bool := t.oor.contains id

/-- A bay entry (Table 20-7). -/
def bayEntry (s : State) (b : Nat) : List Byte :=
  let t := s.toll
  let x := t.sample
  let bad := oorOf t (1 + b) || oorOf t (33 + b) || oorOf t (65 + b)
  sBytes 2 (x.bayTemp.getD b 0) ++ leBytes 2 (vSet s b) ++ leBytes 2 (x.bayMv.getD b 0) ++ leBytes 2 (x.bayCur.getD b 0)
    ++ leBytes 1 (holdCode t b) ++ leBytes 1 (bitNat s.pw.rails + 2 * bitNat bad + 4 * bitNat t.stale) ++ zeros 2
    ++ leBytes 4 (tabGet 0 s.sp.lastBusy b)
    ++ (List.range 5).flatMap (fun k => leBytes 4 (tabGet 0 s.sp.counters (5 * b + k)).toNat)
    ++ leBytes 4 (tabGet 0 s.sp.secded b) ++ zeros 24

/-- The logical index of a physical span, 0x3FF for a spare or retired span. -/
def logicalOf (s : State) (phys : Nat) : Nat :=
  (servedBy s phys).getD 0x3FF

def spanPace (s : State) (p : Nat) : List Byte :=
  let t := s.toll
  leBytes 4 (t.sample.pace.getD p 0 % 65536 + logicalOf s p * 2 ^ 16 + bitNat (oorOf t (1000 + p)) * 2 ^ 26
    + bitNat t.stale * 2 ^ 27)

def stackEntry (s : State) (k : Nat) : List Byte :=
  let x := s.toll.sample
  let chans := (List.range 64).map (64 * k + ·)
  sBytes 2 (x.dramTemp.getD (2 * k) 0) ++ sBytes 2 (x.dramTemp.getD (2 * k + 1) 0)
    ++ leBytes 1 (if tabGet false s.dram.fast k then 16 else 32) ++ zeros 3
    ++ leBytes 4 (s.dram.retired.filter fun r => chans.contains (r / 1280)).length
    ++ leBytes 4 ((chans.map fun c => tabGet 0 s.toll.lastCorr c).sum)

def portState (x : PortState) : Nat :=
  match x with | .down => 0 | .training => 1 | .trained => 2 | .disabled => 3 | .miswired => 4

def portEntry (s : State) (p : Nat) : List Byte :=
  let q := portOf s p
  sBytes 2 (s.toll.sample.serdes.getD p 0) ++ leBytes 1 (portState q.st) ++ leBytes 1 (bitNat q.spare)
    ++ leBytes 4 (s.toll.sample.preFec.getD p 0) ++ leBytes 8 q.resends ++ leBytes 4 q.retrains ++ zeros 44

/-- The Trestle counters in the order of Table 18-4. -/
def trestleCounters (s : State) : List Byte :=
  leBytes 4 s.tre.latePref.toNat ++ leBytes 4 s.tre.latePrefBeats.toNat ++ leBytes 4 s.tre.lateOffBeats.toNat
    ++ leBytes 8 s.tre.toHostBytes.toNat ++ leBytes 8 s.tre.fromHostBytes.toNat ++ leBytes 4 s.tre.sharedBeats.toNat

def packageHold (s : State) : Nat :=
  let t := s.toll
  bitNat (t.floors.any fun f => f.unit == 100) + 2 * bitNat (t.holds.any fun h => h.code == 5)
    + 4 * bitNat (t.floors.any fun f => f.unit == 101) + 8 * bitNat s.pw.tripped

def padTo (n : Nat) (b : List Byte) : List Byte := b ++ zeros (n - b.length)

/-- The snapshot of Table 20-6, as bytes at their offsets; `seq` is TH_SNAP_SEQ. -/
def snapshot (s : State) (seq : W32) : Tab Byte :=
  let t := s.toll
  let x := t.sample
  let head := leBytes 4 seq.toNat ++ leBytes 4 1 ++ leBytes 8 t.sampleBeat.toNat ++ leBytes 1 (rollbackOf t)
    ++ leBytes 1 t.active.toNat
  let pkg := leBytes 4 x.p12Mv ++ leBytes 4 x.p12Ma ++ leBytes 4 (powerMw x / 10) ++ leBytes 4 x.auxMv
    ++ leBytes 4 t.limitW ++ leBytes 4 (packageHold s)
  let bays := (List.range 32).flatMap (bayEntry s)
  let paces := (List.range 528).flatMap (spanPace s)
  let stackPart := (List.range 16).flatMap (stackEntry s)
  let hot := (List.range 4).flatMap fun q =>
    sBytes 2 (x.hotSpot.getD q 0) ++ leBytes 2 (s.sp.cacheOff.filter fun c => c.1 == q).length ++ zeros 12
  let ports := (List.range 8).flatMap (portEntry s)
  let ks := leBytes 1 (planState s) ++ leBytes 1 (lastFault s.host) ++ leBytes 1 (bitNat s.beat.locked) ++ zeros 1
    ++ leBytes 4 (lastPierWord s) ++ leBytes 4 s.ks.stepsClosed ++ leBytes 4 s.ks.replays ++ leBytes 4 s.ks.rewinds
    ++ leBytes 8 s.beat.root.toNat
  let chans := (List.range 1024).flatMap fun c =>
    leBytes 4 (tabGet 0 s.dram.corrected c) ++ leBytes 4 (tabGet 0 s.dram.uncorr c)
  let low := padTo 64 head ++ padTo 64 pkg ++ bays ++ paces ++ stackPart ++ hot ++ ports ++ padTo 64 (trestleCounters s)
    ++ padTo 64 ks
  tabPut (tabPut [] 0 low) 0x2000 chans

end Sys2Proof.Machine
end

