-- ==== Sys2Proof/Machine/Commands.lean ====
section
/-! DEFINITION. Mailbox commands on the plan and on settings (spec 04, Tables 4-13, 4-14; R90 to R95, R41, R344): each is
served in the order of taking, checked for reserved fields, plan state and ranges, and completed. -/

namespace Sys2Proof.Machine

/-- Bytes from the Tollhouse random source (R394): each is a free value. -/
def drawRandom (s : State) (n : Nat) : State × List Byte :=
  (updToll s fun t => { t with drbg := t.drbg + n }, (List.range n).map fun i => Config.randomByte (s.toll.drbg + i))

-- ------------------------------------------------------------------------------------------------ queries

/-- GET_INFO's results by page (Table 4-14). -/
def infoPage (s : State) (page : Nat) : List Nat :=
  let h := s.host
  let t := s.toll
  match page with
  | 0 => [0x1280, t.stepping.toNat, h.resultVer.toNat, 0, t.deviceId.toNat % 2 ^ 32, t.deviceId.toNat / 2 ^ 32]
  | 1 => [h.runalVer.toNat, imgBuild (activeImage t 1), h.tollVer.toNat, h.ucodeVer.toNat, t.active.toNat, rollbackOf t]
  | 2 => [512 - s.sp.missing.length, sparesLeft s, 1310720, s.dram.retired.length, 32]
  | _ =>
    let ports := (linkedPorts s).foldl (fun v p => v + 2 ^ p) 0
    match s.via.formed with
    | none => [ports]
    | some f => [ports, f.tag, f.length, f.pos, f.groups, f.epoch]

def getInfo (s : State) (tag : Nat) : State :=
  serve s cmdGetInfo tag fun s c =>
    if !payClean c [(4, 1)] || decide (3 < payAt c 4 1) then finishCmd s c stBadParam []
    else finishCmd s c stOk (infoPage s (payAt c 4 1))

def execGetInfo (tag : Nat) (s : State) : Host.Outcome State Fault Refusal := .next (getInfo s tag)

/-- The SEQ of the oldest incomplete descriptor: the lowest issued, else the next to issue; a free value with no plan
(assumption 28). -/
def oldestSeq (s : State) : Nat :=
  match s.ks.plan with
  | none => Config.noDescriptor.toNat
  | some _ => (s.ks.issued.map (·.seq)).foldl Nat.min s.ks.nextSeq

def getStatus (s : State) (tag : Nat) : State :=
  serve s cmdGetStatus tag fun s c =>
    if !payClean c [] then finishCmd s c stBadParam []
    else finishCmd s c stOk ([s.host.status.toNat, oldestSeq s, lastPierWord s, s.ks.stepsClosed] ++ beatWords s)

def execGetStatus (tag : Nat) (s : State) : Host.Outcome State Fault Refusal := .next (getStatus s tag)

def nopCmd (s : State) (tag : Nat) : State :=
  serve s cmdNop tag fun s c => finishCmd s c (if payClean c [] then stOk else stBadParam) []

def execNop (tag : Nat) (s : State) : Host.Outcome State Fault Refusal := .next (nopCmd s tag)

-- ------------------------------------------------------------------------------------------------ LOAD, UNLOAD, ABORT

/-- R26: the log tells why the device cannot present its spans or its memory: each span that is missing, each region that could
not retire, each channel that has failed. -/
def logUnfit (s : State) : State :=
  let s := s.sp.missing.foldl (fun s x => logEvent s (mkEvent stInternal srcSpan 2 x evState 0 x)) s
  let s := s.dram.gone.foldl (fun s r => logEvent s (mkEvent stInternal srcDram 2 (r / 1280) evState 0 r)) s
  s.dram.failedCh.foldl (fun s c => logEvent s (mkEvent stInternal srcDram 2 c evState 0 0)) s

/-- LOAD_PLAN is accepted in NONE; a device that cannot present its resources completes it with INTERNAL (R26, R313). -/
def loadPlan (s : State) (tag : Nat) : State :=
  serve s cmdLoadPlan tag fun s c =>
    if !payClean c [(8, 8)] then finishCmd s c stBadParam []
    else if planState s ≠ plNone then finishCmd s c stBusy []
    else
      let s := acceptCmd s c
      if !presents s then finishCmd (logUnfit s) c stInternal []
      else setPlanState (updKs s fun k => { k with loading := some (payAt c 8 8) }) plLoading

def execLoadPlan (tag : Nat) (s : State) : Host.Outcome State Fault Refusal := .next (loadPlan s tag)

/-- No plan is loaded: what belonged to it goes; settings, the prefix key and the norm records stay. -/
def forgetPlan (s : State) : State :=
  let s := armAll (dropSegment s []) .reset
  let s := updKs s fun k =>
    { k with plan := none, loading := none, gens := [], written := [], nextSeq := 1, order := 0, issueOrder := 1, phase := 0,
             shadowed := false, toArm := [], lastPier := none, stepIndex := 0,
             segPier := 0, stepsWanted := 0, stepsClosed := 0, startStage := none, haltIssue := false, resident := [],
             saved := [], segmentOf := 1, tCounter := 0, updates := 0, updMap := [], norms := [], commitW := none,
             aborts := 0, attempt := 0, heldRestart := none, reach := (0, 0), replayTo := (0, 0), updSent := [],
             limitCount := 0, stepPier := none,
             due := [], reshardTok := none, reshardBad := none }
  let s := updSp s fun q => { q with owners := [] }
  updGrp s fun g =>
    { g with watermark := none, dones := [], rewindW := none, holdAdmit := false, admitting := false, rerun := none, fetches := [],
             refresh := false, lostRanks := [], mirrored := [], alive := [] }

def unloadPlan (s : State) (tag : Nat) : State :=
  serve s cmdUnloadPlan tag fun s c =>
    let st := planState s
    if !payClean c [] then finishCmd s c stBadParam []
    else if !(st == plLoaded || st == plPaused || st == plAborted) then finishCmd s c stBusy []
    else
      let s := finishReshard (finishStart (applyDue s) stBusy) stBusy []
      finishCmd (setPlanState (forgetPlan s) plNone) c stOk []

def execUnloadPlan (tag : Nat) (s : State) : Host.Outcome State Fault Refusal := .next (unloadPlan s tag)

/-- The pending command of a code completes with a status. -/
def finishLong (s : State) (cmd status : Nat) : State := finishOpt s (nextLong s (· == cmd)) status []

/-- STEP of the committed record, or 0 (ABORT's RESULT1). -/
def committedStep (s : State) : Nat := match s.ks.plan with | some p => (committedRecord s p).1 | none => 0

/-- ABORT's effect on the plan (R92). -/
def applyAbort (s : State) : State :=
  let st := planState s
  if st = plNone then s
  else if st = plLoading then
    setPlanState (finishLong (updKs s fun k => { k with loading := none }) cmdLoadPlan stBusy) plNone
  else abortRun s stBusy

def abortCmd (s : State) (tag : Nat) : State :=
  serve s cmdAbort tag fun s c =>
    if !payClean c [] then finishCmd s c stBadParam []
    else
      let s := applyAbort (acceptCmd s c)
      finishCmd s c stOk [lastPierWord s, committedStep s]

def execAbort (tag : Nat) (s : State) : Host.Outcome State Fault Refusal := .next (abortCmd s tag)

-- ------------------------------------------------------------------------------------------------ START

/-- Counters that START resets: Table 13-4, Table 18-4, replays since START. -/
def resetCounters (s : State) : State :=
  let s := updSp s fun q => { q with counters := [], seen := [] }
  let s := updTre s fun t =>
    { t with latePref := 0, latePrefBeats := 0, lateOffBeats := 0, toHostBytes := 0, fromHostBytes := 0, sharedBeats := 0,
             lateSeen := [], lateNow := [], sharedNow := false }
  updKs s fun k => { k with replays := 0 }

/-- The attempts of a run are numbered anew, so no decision of an earlier run is to be found again (R293; assumption 209): VALID of
the decision entries in the own journal and in the mirrors held is cleared. -/
def clearDecisions (s : State) (p : Plan) : State :=
  if (commitSeq p).isNone then s
  else
    let off := decisionOff p + 16
    [mirrorBase 0, mirrorBase 1].foldl (fun s b => freshSectors (putMem s (b + off) (zeros 4)) [(b + off, 4)])
      (journalWrite s off (zeros 4))

/-- R313, before the first descriptor of a run: what the segments of the run write needs no restoring where the plan is
step-local (R385). -/
def lostAtStart (s : State) (p : Plan) : State :=
  let s := restoreLost s p p.stepLocal
  if !p.stepLocal && s.dram.lost.any fun sec => lostCase s p sec == .restart then endGroup s else s

/-- R313, before a paused plan goes on. -/
def lostAtResume (s : State) : State :=
  match s.ks.plan with
  | some p => if s.dram.lost.isEmpty then s else afterReplay (restoreLost s p false) p
  | none => s

/-- The plan begins at phase 0 (R90): the start record is written, the contexts of the first segment are resident, issue
may begin. -/
def beginRun (s : State) (p : Plan) : State :=
  let s := updKs (armAll s .reset) fun k =>
    { k with startStage := none, haltIssue := false, order := 0, issueOrder := 1, phase := 0, shadowed := false
             lastPier := none, stepPier := none, updMap := [], updSent := [], norms := []
             commitW := none, limitCount := 0, reach := (0, 0), replayTo := (0, 0), attempt := 0, aborts := 0 }
  let s := updVia (updSp s fun q => { q with owners := [] }) fun v => { v with digests := [] }
  let s := updGrp s fun g => { g with watermark := none, wmStep := 0, dones := [], flooded := [], rewindW := none, mirrored := [] }
  let s := enterContexts (beginSegment s p 1) p 1
  let s := writeStartRecord (formPending (clearDecisions s p) p false) p
  lostAtStart (setPlanState (noteUnmirrored s) plRunning) p

/-- R41: send the digest to every other member, and record it. -/
def startCompare (s : State) (p : Plan) : State :=
  let s := updKs s fun k => { k with startStage := some .compare }
  let own := rankOf p
  let s := updVia s fun v =>
    { v with digests := (own, p.digest) :: v.digests.filter (fun e => e.1 != own) }
  (List.range (groupSize p)).foldl (fun s r =>
    if r = own then s else sendCtl s r 0 fun c => .groupDigest c own p.digest) s

/-- START fails before the first descriptor: the plan stays in LOADED (R41, R344); the next one learns ranks and digests
anew. -/
def failStart (s : State) (status : Nat) : State :=
  finishStart (updVia s fun v => { v with ranks := [], digests := [] }) status

/-- START on a unit under admission (Table 19-9 step 4): ADMIT goes to the mirror holder. A unit without one cannot be
admitted (R389). -/
def startAdmission (s : State) (p : Plan) : State :=
  match mirrorPort s with
  | none => failStart (updGrp s fun g => { g with admitting := false }) stPlanInvalid
  | some n =>
    let c := committedRecord s p
    let s := writeStartRecord (formPending s p false) p
    sendVia (updKs s fun k => { k with startStage := some .journal }) n
      (.admitUnit (jOf s (Nat.xor n 1)) (BitVec.ofNat 64 c.1) (BitVec.ofNat 32 c.2.2))

/-- The digests held decide once all are in (R41). -/
def checkDigests (s : State) (p : Plan) : State :=
  if s.ks.startStage ≠ some .compare then s
  else if s.via.digests.any fun e => e.2 != p.digest then failStart s stPlanInvalid
  else if (List.range (groupSize p)).all fun r => s.via.digests.any fun e => e.1 == r then
    (if s.grp.admitting then startAdmission s p else beginRun s p)
  else s

/-- The flood has ended on this member once it holds an entry for every rank (R344). -/
def floodEnded (s : State) (p : Plan) : State :=
  if s.ks.startStage = some .flood ∧ (List.range (groupSize p)).all (fun r => (coordOfRank s r).isSome) = true then
    checkDigests (startCompare s p) p
  else s

/-- An adjacent member has said that its plan runs or pauses: this START is that of a unit under admission (R390). -/
def groupRuns (s : State) : Bool := s.grp.alive.any fun e => e.2.1 == plRunning || e.2.1 == plPaused

/-- Two coordinates have been claimed for one rank (R344). -/
def ranksClash (s : State) : Bool := s.via.ranks.any fun e => s.via.ranks.any fun f => e.1 == f.1 && e.2 != f.2

/-- R344: the rank flood begins: this member's own RANK on every trained port. Ranks already recorded in the epoch stand; a
rank that has come with two coordinates, or the own rank claimed by another, fails the START. -/
def startFlood (s : State) (p : Plan) : State :=
  let own := rankOf p
  let s := updKs s fun k => { k with startStage := some .flood }
  let s := updGrp s fun g => { g with admitting := groupRuns s && decide (1 < groupSize p) }
  let s := updVia s fun v =>
    { v with ranks := v.ranks.filter (fun e => e != (own, ownCoord s) && v.ranksEpoch == BitVec.ofNat 32 p.epoch) ++ [(own, ownCoord s)]
             ranksEpoch := BitVec.ofNat 32 p.epoch }
  let s := flood s none fun n => .rank (ctlOf s n 0) own (BitVec.ofNat 32 p.epoch) (ownCoord s)
  if ranksClash s then failStart s stPlanInvalid else floodEnded s p

/-- START and RESUME (R90, R119, R129, R26). -/
def startCmd (s : State) (tag : Nat) : State :=
  serve s cmdStart tag fun s c =>
    let st := planState s
    if !payClean c [(4, 4)] then finishCmd s c stBadParam []
    else if !(st == plLoaded || st == plPaused) || s.ks.startTag.isSome || s.ks.marchTag.isSome then
      finishCmd s c stBusy []
    else
      let s := acceptCmd s c
      match s.ks.plan with
      | none => finishCmd s c stInternal []
      | some p =>
        if !presents s then finishCmd s c stInternal []
        else
          let s := updKs s fun k => { k with startTag := some c, stepsWanted := payAt c 4 4, stepsClosed := 0, unmirrored := false }
          let s := dropCache (resetCounters s)
          if st = plPaused then lostAtResume (setPlanState (formPending s p false) plRunning)
          else startFlood (updKs s fun k => { k with accLost := false }) p

def execStart (tag : Nat) (s : State) : Host.Outcome State Fault Refusal := .next (startCmd s tag)

/-- The hold of R386 ends: step 5 of R380. -/
def releaseHold (s : State) : State :=
  match s.ks.heldRestart, s.ks.plan with
  | some w, some p =>
    match recordOf s (ofPierWord w) with
    | none => endRun s stReplayFailed
    | some r =>
      let s := updKs s fun k => { k with heldRestart := none }
      let keep := if r.flags.testBit 1 then s.ks.updMap else []
      setPlanState (resumeAt s p r fun q => decide (q ≤ r.seq) || keep.contains q) plRunning
  | _, _ => setPlanState s plRunning

def resumeCmd (s : State) (tag : Nat) : State :=
  serve s cmdResume tag fun s c =>
    if !payClean c [] then finishCmd s c stBadParam []
    else if planState s ≠ plPaused ∨ s.ks.startTag.isNone ∨ s.ks.marchTag.isSome then finishCmd s c stBusy []
    else if !presents s then finishCmd s c stInternal []
    else finishCmd (lostAtResume (releaseHold (dropCache s))) c stOk []

def execResume (tag : Nat) (s : State) : Host.Outcome State Fault Refusal := .next (resumeCmd s tag)

/-- R91: whether a PIER value names a pier that can still be written. -/
def pierAhead (s : State) (p : Plan) (w : Nat) : Bool :=
  w == 0xFFFF ||
    match pierByIndex p w with
    | none => false
    | some e => decide (loopSeq p ≤ e.seq) || (s.ks.stepIndex == 0 && decide (s.ks.segmentOf ≤ e.seq))

def pauseAtPier (s : State) (tag : Nat) : State :=
  serve s cmdPauseAtPier tag fun s c =>
    if !payClean c [(4, 2)] then finishCmd s c stBadParam []
    else if planState s ≠ plRunning ∨ s.ks.pauseReq.isSome ∨ reshardAt s 3 = true then finishCmd s c stBusy []
    else
      match s.ks.plan with
      | none => finishCmd s c stBusy []
      | some p =>
        if !pierAhead s p (payAt c 4 2) then finishCmd s c stBadParam []
        else updKs (acceptCmd s c) fun k => { k with pauseReq := some (c, payAt c 4 2) }

def execPauseAtPier (tag : Nat) (s : State) : Host.Outcome State Fault Refusal := .next (pauseAtPier s tag)

-- ------------------------------------------------------------------------------------------------ ranks and digests

/-- RANK (R344): recorded and forwarded once; two coordinates for one rank fail the START. A running member answers an
adjacent unit's RANK from the values it holds (R41). -/
def rankMsg (s : State) (c : Ctl) (r : Nat) (epoch : W32) (x : Coord) : State :=
  match s.ks.plan with
  | none => s
  | some p =>
    if c.tag ≠ BitVec.ofNat 32 p.groupTag ∨ epoch.toNat ≠ p.epoch ∨ groupSize p ≤ r ∨ !isTrained s c.port then s
    else
      match coordOfRank s r with
      | some y =>
        if y ≠ x then
          (if s.ks.startStage.isSome then failStart s stPlanInvalid
           else if planState s = plLoaded then updVia s fun v => { v with ranks := v.ranks ++ [(r, x)] }
           else s)
        else if s.ks.startStage.isNone && x == neighbourCoord s c.port && (planState s == plRunning || planState s == plPaused)
          then s.via.ranks.foldl (fun t e => sendVia t c.port (.rank (ctlOf s (Nat.xor c.port 1) 0) e.1 epoch e.2)) s
        else s
      | none =>
        let s := updVia s fun v => { v with ranks := v.ranks ++ [(r, x)], ranksEpoch := epoch }
        floodEnded (flood s (some c.port) fun n => .rank { c with port := n } r epoch x) p

def rankFloodTimeout (s : State) : State :=
  if s.ks.startStage = some .flood then failStart s stLinkDown else s

/-- GROUP_DIGEST (R41): recorded; a member that no longer compares answers with its own. -/
def groupDigest (s : State) (c : Ctl) (r : Nat) (d : List Byte) : State :=
  match s.ks.plan with
  | none => s
  | some p =>
    if c.tag ≠ BitVec.ofNat 32 p.groupTag ∨ groupSize p ≤ r then s
    else
      let s := updVia s fun v => { v with digests := (r, d) :: v.digests.filter (fun e => e.1 != r) }
      if s.ks.startStage.isSome then checkDigests s p
      else if planState s = plRunning ∨ planState s = plPaused then
        sendCtl s r 0 fun c => .groupDigest c (rankOf p) p.digest
      else s

def execGroupDigest (c : Ctl) (r : Nat) (d : List Byte) (s : State) : Host.Outcome State Fault Refusal :=
  .next (groupDigest s c r d)

def groupDigestTimeout (s : State) : State :=
  if s.ks.startStage = some .compare then failStart s stLinkDown else s

def execGroupDigestTimeout (s : State) : Host.Outcome State Fault Refusal := .next (groupDigestTimeout s)

-- ------------------------------------------------------------------------------------------------ settings

/-- A setting takes effect at the next pier while the plan runs, and at once otherwise (R95). -/
def setSetting (s : State) (x : Setting) : State :=
  if planState s = plRunning then updKs s fun k => { k with due := k.due ++ [x] } else applySetting s x

def pacePolicy (s : State) (tag : Nat) : State :=
  serve s cmdPacePolicy tag fun s c =>
    let m := payAt c 4 1
    let v := payAt c 6 2
    let ok := if m = 2 then decide (550 ≤ v ∧ v ≤ 850 ∧ v % 5 = 0) else decide (m < 2 ∧ v = 0)
    if !payClean c [(4, 1), (6, 2)] then finishCmd s c stBadParam []
    else if reshardAt s 3 then finishCmd s c stBusy []
    else if !ok then finishCmd s c stBadParam []
    else finishCmd (setSetting s (.pace m v)) c stOk [m, v]

def execPacePolicy (tag : Nat) (s : State) : Host.Outcome State Fault Refusal := .next (pacePolicy s tag)

def commitPolicy (s : State) (tag : Nat) : State :=
  serve s cmdCommitPolicy tag fun s c =>
    let r := payAt c 4 1
    let f := payAt c 5 1
    if !payClean c [(4, 1), (5, 1)] || decide (3 < f) then finishCmd s c stBadParam []
    else if reshardAt s 3 then finishCmd s c stBusy []
    else if 15 < r then finishCmd s c stBadParam []
    else finishCmd (setSetting s (.commit r f)) c stOk [r, f]

def execCommitPolicy (tag : Nat) (s : State) : Host.Outcome State Fault Refusal := .next (commitPolicy s tag)

/-- A segment is held under ACTION 1 (R386). -/
def segmentHeld (s : State) : Bool := s.ks.heldRestart.isSome && planState s == plPaused

def replayResults (s : State) : List Nat := [s.ks.replays, s.ks.lastReplay, bitNat (segmentHeld s)]

def replayControl (s : State) (tag : Nat) : State :=
  serve s cmdReplayControl tag fun s c =>
    let a := payAt c 4 1
    let l := payAt c 5 1
    if !payClean c [(4, 1), (5, 1)] || decide (3 < a) || decide (a < 2 ∧ (l = 0 ∨ 15 < l)) then finishCmd s c stBadParam []
    else if a = 3 then finishCmd s c stOk (replayResults s)
    else if a = 2 then
      if !segmentHeld s then finishCmd s c stBusy []
      else let s := releaseHold s; finishCmd s c stOk (replayResults s)
    else let s := setSetting s (.replay a l); finishCmd s c stOk (replayResults s)

def execReplayControl (tag : Nat) (s : State) : Host.Outcome State Fault Refusal := .next (replayControl s tag)

-- ------------------------------------------------------------------------------------------------ host regions

/-- The loaded plan uses a region (R93): an OFFLOAD or PREFETCH with TARGET 0 names it. -/
def planUsesRegion (s : State) (id : Nat) : Bool :=
  match s.ks.plan with
  | none => false
  | some p => p.descs.any fun d => (d.opcode == opOffload || d.opcode == opPrefetch) && ofTarget d == 0 && ofRegion d == id

def bindHostRegion (s : State) (tag : Nat) : State :=
  serve s cmdBind tag fun s c =>
    let id := payAt c 4 1
    let a := payAt c 8 8
    let n := payAt c 0x10 8
    let others := s.host.regions.filter fun r => r.id != id
    let clash := n != 0 && others.any fun r => decide (r.addr < a + n) && decide (a < r.addr + r.len)
    if !payClean c [(4, 1), (8, 8), (0x10, 8)] then finishCmd s c stBadParam []
    else if planUsesRegion s id then finishCmd s c stBusy []
    else if 63 < id ∨ a % 4096 ≠ 0 ∨ n % 4096 ≠ 0 ∨ clash = true then finishCmd s c stBadParam []
    else
      let s := updHost s fun h =>
        { h with regions := if n = 0 then others else others ++ [{ id := id, addr := a, len := n }] }
      finishCmd s c stOk [id]

def execBindHostRegion (tag : Nat) (s : State) : Host.Outcome State Fault Refusal := .next (bindHostRegion s tag)

-- ------------------------------------------------------------------------------------------------ norm records

/-- The records of the step STEP_BACK steps before the last one kept; none where fewer are held. -/
def normsBack (s : State) (k : Nat) : Nat × List NormRec := s.ks.normHist.reverse.getD k (0, [])

def normRecordsRead (s : State) (tag : Nat) : State :=
  serve s cmdNormRecordsRead tag fun s c =>
    let n := payAt c 0x10 4
    if !payClean c [(4, 1), (6, 1), (8, 8), (0x10, 4)] || decide (15 < payAt c 4 1) then finishCmd s c stBadParam []
    else
      match regionAddr s (payAt c 6 1) (payAt c 8 8) n with
      | none => finishCmd s c stBadParam []
      | some a =>
        let s := acceptCmd s c
        let r := normsBack s (payAt c 4 1)
        let rs := r.2.take (n / 32)
        finishCmd (hostWrite s a (rs.flatMap normBytes)) c stOk [rs.length, r.1 % 2 ^ 32]

def execNormRecordsRead (tag : Nat) (s : State) : Host.Outcome State Fault Refusal := .next (normRecordsRead s tag)

-- ------------------------------------------------------------------------------------------------ PREFIX_TABLE

/-- IN_USE of the loaded table's current generation; 0 if there is none or it belongs to another epoch (Table 10-8). -/
def prefixInUse (s : State) : Nat :=
  match s.ks.plan with
  | none => 0
  | some p =>
    match p.descs.find? (fun d => d.opcode == opPrefixLookup || d.opcode == opPrefixInsert) with
    | none => 0
    | some d =>
      let h := (pfTable d).handle
      match p.bufs[h]? with
      | none => 0
      | some b =>
        let a := halfAddr b (if twoHalves b then currentHalf s h else 0) + (pfTable d).offset
        if memNat s.dram.mem a 4 = prefixMagic ∧ memNat s.dram.mem (a + 4) 4 = s.ks.prefixEpoch.toNat then
          memNat s.dram.mem (a + 0xC) 4
        else 0

/-- A new device key and table epoch from the random source (R224). -/
def newPrefixKey (s : State) : State :=
  let r := drawRandom s 20
  updKs r.1 fun k =>
    { k with prefixKey := BitVec.ofNat 128 (leNat (r.2.take 16)), prefixEpoch := BitVec.ofNat 32 (leNat (r.2.drop 16)) }

def prefixTable (s : State) (tag : Nat) : State :=
  serve s cmdPrefixTable tag fun s c =>
    let a := payAt c 4 1
    let n := payAt c 8 4
    let st := planState s
    if !payClean c [(4, 1), (8, 4)] then finishCmd s c stBadParam []
    else if a != 0 && !(st == plNone || st == plLoaded || st == plPaused) then finishCmd s c stBusy []
    else if 3 < a ∨ (a = 2 ∧ (n = 0 ∨ 1048576 < n)) then finishCmd s c stBadParam []
    else
      let s := match a with
        | 1 => updKs s fun k => { k with prefixEpoch := k.prefixEpoch + 1 }
        | 2 => updKs s fun k => { k with prefixCap := n, prefixEpoch := k.prefixEpoch + 1 }
        | 3 => newPrefixKey s
        | _ => s
      finishCmd s c stOk [prefixInUse s, s.ks.prefixCap]

def execPrefixTable (tag : Nat) (s : State) : Host.Outcome State Fault Refusal := .next (prefixTable s tag)

-- ------------------------------------------------------------------------------------------------ MEMORY_SCRUB

/-- R317, R319: one pass over a range: errors met are corrected or counted, uncorrectable sectors logged. -/
def scrubRange (s : State) (a n : Nat) (ecc : List SectorErr) : State :=
  scrubSectors s (fun x => decide (a ≤ x) && decide (x < a + n)) ecc true

def clearScrub (s : State) : State := updDram s fun d => { d with scrubRes := (0, 0, 0) }

def memoryScrub (s : State) (tag : Nat) (ecc : List SectorErr) : State :=
  serve s cmdMemoryScrub tag fun s c =>
    let m := payAt c 4 1
    let a := payAt c 8 8
    let n := payAt c 0x10 8
    let bad := m == 0 && (a % mib != 0 || n % mib != 0 || decide (reservedStart < a + n))
    if !payClean c [(4, 1), (8, 8), (0x10, 8)] || decide (2 < m) || bad then finishCmd s c stBadParam []
    else
      let s := acceptCmd s c
      let s := match m with
        | 0 => scrubRange (clearScrub s) a n ecc
        | 1 => updDram s fun d => { d with scrubOn := true }
        | _ => updDram s fun d => { d with scrubOn := false }
      let r := s.dram.scrubRes
      finishCmd (clearScrub s) c stOk [r.1, r.2.1, r.2.2]

def execMemoryScrub (tag : Nat) (ecc : List SectorErr) (s : State) : Host.Outcome State Fault Refusal :=
  .next (memoryScrub s tag ecc)

end Sys2Proof.Machine
end

