-- ==== Sys2Proof/Machine/Comm.lean ====
section
/-! DEFINITION. What the moving operators share (spec 09, 16, 17): transfer entries that send and receive DATA messages
(R53, R201, R324), RECEIVE_READY, DATA_MESSAGE_RECEIVE, RING_PASS (R198 to R201), WEIGHT_CHAIN (R120 to R123). -/

namespace Sys2Proof.Machine

-- ------------------------------------------------------------------------------------------------ transfer entries

/-- The started transfer entry at an index of the transfer table. -/
def xferRun (s : State) (idx : Nat) : Option XferRun := s.ks.xfers.find? (fun r => r.idx == idx)

def updXfer (s : State) (idx : Nat) (f : XferRun → XferRun) : State :=
  updKs s fun k => { k with xfers := k.xfers.map fun r => if r.idx == idx then f r else r }

/-- A send entry sends its bytes once its peer is ready (R201), by its PORT; with no way to the peer they wait. -/
def trySend (s : State) (idx : Nat) (b : List Byte) : State :=
  match xferRun s idx with
  | none => s
  | some r =>
    if r.sent || r.dropped || !r.ready then s
    else
      match coordOfRank s r.x.peer with
      | none => s
      | some c =>
        match sendData s r.x.port c r.x.cls r.x.msgSeq b with
        | none =>
          logEvent (updXfer s idx fun r => { r with dropped := true }) (mkEvent stLinkDown srcVia 2 0 evFault r.x.seq (coordBits c))
        | some t => updXfer t idx fun r => { r with sent := true }

/-- The message that a receive entry holds and that has not been used. -/
def received (s : State) (idx : Nat) : Option (List Byte) :=
  match xferRun s idx with
  | some r => if r.sent then none else r.data
  | none => none

/-- The bytes of a receive entry have been written. -/
def markRecv (s : State) (idx : Nat) : State := updXfer s idx fun r => { r with sent := true }

/-- Whether an entry has been sent, or received and used. -/
def xferUsed (s : State) (idx : Nat) : Bool := (xferRun s idx).any (·.sent)

/-- Every transfer entry of a descriptor has been used. -/
def allUsed (s : State) (p : Plan) (seq : Nat) : Bool := (xfersOf p seq).all fun e => xferUsed s e.1

/-- The entry of a descriptor with a kind. -/
def entryOf (p : Plan) (seq kind : Nat) : Option (Nat × Xfer) := (xfersOf p seq).find? fun e => e.2.kind == kind

/-- Send and receive for a descriptor whose entries are at most one send of `out` and one receive written by `land`. -/
def exchange (s : State) (p : Plan) (seq : Nat) (out : List Byte) (land : State → List Byte → State) : State :=
  let s := match entryOf p seq 0 with | some e => trySend s e.1 out | none => s
  match entryOf p seq 1 with
  | none => s
  | some e =>
    match received s e.1 with
    | none => s
    | some b => markRecv (land s b) e.1

/-- A moving operator makes what progress it can each time its row comes; with `f` answering that it is finished, its
writes are noted and its pass is done. A read or partial write that meets an uncorrectable sector, or a stale bank,
gives the failing status instead. -/
def progress (ops : List Nat) (seq pass : Nat) (f : State → Plan → Desc → State × Bool) (s : State) : State :=
  match running s seq with
  | none => s
  | some (p, d, i) =>
    if !ops.contains d.opcode || pass != i.passesRun.length || decide (passesOf p seq ≤ pass) || !partTurn s p d pass then s
    else
      let d := partDesc p d pass
      let us := descUses p d
      if !banksOwned s d us then s
      else
        let s := touchSectors s (usesSector s p d us)
        let rd := readsStatus s p d us
        let st := if rd = 0 then writesStatus s p us else rd
        if st ≠ 0 then passDone s seq pass st
        else
          let r := f (cacheReads s p seq (unitSpans d) us) p d
          if r.2 then passDone (freshSectors (noteWrites r.1 p seq (unitSpans d) us) (writeRanges r.1 p us)) seq pass 0
          else r.1

-- ------------------------------------------------------------------------------------------------ messages

/-- DATA messages and RECEIVE_READY are discarded from REWIND to RESTART (Table 19-6 step 2). -/
def discarding (s : State) : Bool := s.grp.rewindW.any fun w => w.stage != .restarting

/-- RECEIVE_READY (R201): the matching send entry may send; one that comes before its entry is kept. Where this device
holds for a re-shard, it belongs to the new epoch, whose ranks are known at step 6. -/
def receiveReadyMsg (s : State) (c : Ctl) (msgSeq cls len : Nat) : State :=
  match s.ks.plan with
  | none => s
  | some p =>
    if c.tag ≠ BitVec.ofNat 32 p.groupTag ∨ discarding s = true then s
    else if s.ks.reshardW.any (fun w => w.phase == 1 || w.phase == 2) then
      updKs s fun k => { k with reshardW := k.reshardW.map fun w => { w with early := w.early ++ [(c.src, cls, msgSeq, len)] } }
    else
      match rankAt s c.src with
      | none => s
      | some r =>
        match s.ks.xfers.find? fun x => x.x.kind == 0 && x.x.peer == r && x.x.cls == cls && x.x.msgSeq == msgSeq && !x.ready with
        | some x =>
          if x.x.len ≠ len then protocolError s c.port x.x.seq else updXfer s x.idx fun x => { x with ready := true }
        | none => updKs s fun k => { k with readies := k.readies ++ [(r, cls, msgSeq, len)] }

def execReceiveReady (c : Ctl) (msgSeq cls len : Nat) (s : State) : Host.Outcome State Fault Refusal :=
  .next (receiveReadyMsg s c msgSeq cls len)

/-- DATA_MESSAGE_RECEIVE (R324, R353): delivered to the started receive entry of its class, peer and MSG_SEQ; refused
with another length, tag or epoch, or with no such entry. -/
def dataMessageReceive (s : State) (m : DataMsg) : State :=
  if discarding s then s
  else
    match s.ks.plan with
    | none => protocolError s m.port 0
    | some p =>
      let hit := s.ks.xfers.find? fun x =>
        x.x.kind == 1 && x.x.cls == m.cls && rankAt s m.src == some x.x.peer && x.x.msgSeq == m.msgSeq && x.data.isNone
      match hit with
      | none => protocolError s m.port 0
      | some x =>
        if m.bytes.length ≠ x.x.len ∨ m.tag.toNat ≠ p.groupTag ∨ m.epoch.toNat ≠ epochNow s then protocolError s m.port x.x.seq
        else updXfer s x.idx fun x => { x with data := some m.bytes }

def execDataMessageReceive (m : DataMsg) (s : State) : Host.Outcome State Fault Refusal := .next (dataMessageReceive s m)

-- ------------------------------------------------------------------------------------------------ RING_PASS

/-- R198 to R201: bytes of SRC to the peer, the peer's bytes to DST; in the bank form target span i holds part i. -/
def ringPassWork (s : State) (p : Plan) (d : Desc) : State × Bool :=
  let n := rpLen d
  let k := if rpBank d then n / max 1 d.spanCount else n
  let ts := if rpBank d then targets d else [0]
  let out := if isNone (rpSrc d) then [] else ts.flatMap fun x => readBytes s p d.seq x (rpSrc d) (rpSrc d).offset k
  let s := exchange s p d.seq out fun s b =>
    if isNone (rpDst d) then s
    else ts.zipIdx.foldl (fun s x => writeBytes s p x.1 (rpDst d) (rpDst d).offset ((b.drop (x.2 * k)).take k)) s
  (s, allUsed s p d.seq)

def execRingPass (seq : Nat) (s : State) : Host.Outcome State Fault Refusal :=
  .next (progress [opRingPass] seq 0 ringPassWork s)

-- ------------------------------------------------------------------------------------------------ WEIGHT_CHAIN

/-- The stream has come through the chain: kept parts, and from the tail span DST and DIGEST_OUT, are written (R122). -/
def chainLand (s : State) (p : Plan) (d : Desc) (b : List Byte) : State :=
  let s := if wcKeepLen d = 0 then s
    else (chainOrder d).zipIdx.foldl (fun s x =>
      writeBytes s p x.1 (wcKept d) (wcKeepOff d) ((b.drop (x.2 * wcKeepStride d)).take (wcKeepLen d))) s
  let s := if isNone (wcDst d) then s else writeBytes s p (chainTail d) (wcDst d) (wcDst d).offset b
  if !wcDigest d then s else writeBytes s p (chainTail d) (wcDigestOut d) (wcDigestOut d).offset (sha384 b)

/-- R121, R122: the stream comes from SRC or from the receive entry, passes the chain, and is forwarded once the peer is
ready. -/
def weightChainWork (s : State) (p : Plan) (d : Desc) : State × Bool :=
  let stream := match entryOf p d.seq 1 with
    | some e => if isNone (wcSrc d) then ((xferRun s e.1).bind (·.data)) else some (readBytes s p d.seq (chainHead d) (wcSrc d) (wcSrc d).offset (wcLen d))
    | none => if isNone (wcSrc d) then none else some (readBytes s p d.seq (chainHead d) (wcSrc d) (wcSrc d).offset (wcLen d))
  match stream with
  | none => (s, false)
  | some b =>
    let s := match entryOf p d.seq 1 with | some e => markRecv s e.1 | none => s
    let s := match entryOf p d.seq 0 with | some e => if wcForward d = 1 then trySend s e.1 b else s | none => s
    if allUsed s p d.seq then (chainLand s p d b, true) else (s, false)

def execWeightChain (seq : Nat) (s : State) : Host.Outcome State Fault Refusal :=
  .next (progress [opWeightChain] seq 0 weightChainWork s)

end Sys2Proof.Machine
end

