-- ==== Sys2Proof/Machine/Trestle.lean ====
section
/-! DEFINITION. Trestle (spec 18): OFFLOAD and PREFETCH (R364 to R367), COPY_TO_DEVICE and COPY_TO_HOST (R94, R372), the
service of both directions in 4 KiB chunks (R368), completions and failures (R371). -/

namespace Sys2Proof.Machine

-- ------------------------------------------------------------------------------------------------ OFFLOAD, PREFETCH

/-- The next part of a Trestle entry joins its direction (R273), unless it is there or done. -/
def partEntry (s : State) (d : Desc) (pass : Nat) : State :=
  if s.tre.entries.any fun e => e.seq == d.seq then s
  else
    match regionAddr s (ofRegion d) (ofRegionOff d) (ofLen d) with
    | none => s
    | some h =>
      let t : TEntry := { key := orderKey d.seq pass, seq := d.seq, toHost := d.opcode == opOffload, host := h,
                          pos := (ofLocal d).offset, len := ofLen d, done := 0 }
      updTre s fun r => { r with entries := r.entries ++ [t] }

/-- TARGET 0 of a split run, part by part: each part has its own turn on the link. -/
def partTrestle (s : State) (p : Plan) (d : Desc) (pass : Nat) : State × Bool :=
  if !allUsed s p d.seq then (partEntry s d pass, false)
  else if pass + 1 < passesOf p d.seq then
    (updKs s fun k => { k with xfers := k.xfers.map fun r => if r.x.seq == d.seq then { r with sent := false } else r }, true)
  else (s, true)

/-- Table 18-2, TARGET 1: OFFLOAD sends LOCAL and receives into STASH, PREFETCH sends STASH and receives into LOCAL. -/
def peerTrestle (s : State) (p : Plan) (d : Desc) : State :=
  let pre := d.opcode == opPrefetch
  let src := if pre then ofStash d else ofLocal d
  let dst := if pre then ofLocal d else ofStash d
  exchange s p d.seq (if ofSend d then readBytes s p d.seq 0 src src.offset (ofLen d) else [])
    fun s b => writeBytes s p 0 dst dst.offset b

/-- One part of an exchange of TARGET 1 in a split run (R273): the part's bytes of what has come are written; those that go
are gathered part by part, and the message leaves with the last. -/
def partPeer (s : State) (p : Plan) (whole d : Desc) (pass : Nat) : State × Bool :=
  let pre := d.opcode == opPrefetch
  let src := if pre then ofStash d else ofLocal d
  let dst := if pre then ofLocal d else ofStash d
  let last := decide (passesOf p d.seq ≤ pass + 1)
  let recv := entryOf p d.seq 1
  if !(recv.all fun e => (received s e.1).isSome || xferUsed s e.1) then (s, false)
  else
    let s := match recv with
      | none => s
      | some e => match received s e.1 with
        | none => s
        | some b =>
          let s := writeBytes s p 0 dst dst.offset ((b.drop ((ofLocal d).offset - (ofLocal whole).offset)).take (ofLen d))
          if last then markRecv s e.1 else s
    let s := match entryOf p d.seq 0 with
      | none => s
      | some e =>
        let b := ((xferRun s e.1).bind (·.data)).getD [] ++ readBytes s p d.seq 0 src src.offset (ofLen d)
        if last then trySend s e.1 b else updXfer s e.1 fun r => { r with data := some b }
    (s, !last || allUsed s p d.seq)

/-- TARGET 0 moves by chunks; the descriptor is done once its entry is, and TARGET 1 through its peer (R367). -/
def trestleWork (s : State) (p : Plan) (d : Desc) : State × Bool :=
  match descAt p d.seq, splitRun p d with
  | some whole, some _ =>
    let pass := match issuedOf s d.seq with | some i => i.passesRun.length | none => 0
    if ofTarget d = 0 then partTrestle s p d pass else partPeer s p whole d pass
  | _, _ =>
    let s := if ofTarget d = 0 then s else peerTrestle s p d
    (s, allUsed s p d.seq)

def execOffload (seq pass : Nat) (s : State) : Host.Outcome State Fault Refusal :=
  .next (progress [opOffload] seq pass trestleWork s)

def execPrefetch (seq pass : Nat) (s : State) : Host.Outcome State Fault Refusal :=
  .next (progress [opPrefetch] seq pass trestleWork s)

-- ------------------------------------------------------------------------------------------------ copies

def cpRegion (c : Taken) : Nat := payAt c 4 1
def cpOffset (c : Taken) : Nat := payAt c 8 8
def cpDev (c : Taken) : Nat := payAt c 0x10 8
def cpLen (c : Taken) : Nat := payAt c 0x18 8

/-- R372: the copy's region range overlaps region bytes of an OFFLOAD or PREFETCH of the running plan. -/
def copyClash (s : State) (c : Taken) : Bool :=
  planState s == plRunning &&
    match s.ks.plan with
    | none => false
    | some p => p.descs.any fun d =>
        (d.opcode == opOffload || d.opcode == opPrefetch) && ofTarget d == 0 && ofRegion d == cpRegion c
          && decide (ofRegionOff d < cpOffset c + cpLen c) && decide (cpOffset c < ofRegionOff d + ofLen d)

/-- R79: a copy waits behind those of its priority and above; the one in service keeps its place. -/
def queueCopy (l : List Copy) (x : Copy) : List Copy :=
  match l with
  | [] => [x]
  | h :: t =>
    h :: (t.takeWhile (fun y => decide (x.cmd.prio ≤ y.cmd.prio)) ++ [x]
          ++ t.dropWhile (fun y => decide (x.cmd.prio ≤ y.cmd.prio)))

/-- R94, Table 4-14. -/
def copyCmd (s : State) (cmd tag : Nat) (toHost : Bool) : State :=
  serve s cmd tag fun s c =>
    let sizes := cpLen c != 0 && cpOffset c % 64 == 0 && cpDev c % 64 == 0 && cpLen c % 64 == 0
    if !payClean c [(4, 1), (8, 8), (0x10, 8), (0x18, 8)] then finishCmd s c stBadParam []
    else if copyClash s c then finishCmd s c stBusy []
    else if !sizes || decide (reservedStart < cpDev c + cpLen c) then finishCmd s c stBadParam []
    else
      match regionAddr s (cpRegion c) (cpOffset c) (cpLen c) with
      | none => finishCmd s c stBadParam []
      | some a =>
        updTre (acceptCmd s c) fun t =>
          { t with copies := queueCopy t.copies { cmd := c, toHost := toHost, host := a, dev := cpDev c, len := cpLen c, done := 0 } }

def execCopyToDevice (tag : Nat) (s : State) : Host.Outcome State Fault Refusal :=
  .next (copyCmd s cmdCopyToDevice tag false)

def execCopyToHost (tag : Nat) (s : State) : Host.Outcome State Fault Refusal := .next (copyCmd s cmdCopyToHost tag true)

/-- The results of a copy: bytes copied. -/
def copyResults (n : Nat) : List Nat := [n % 2 ^ 32, n / 2 ^ 32]

/-- A copy ends; its reads go with it. -/
def endCopy (s : State) (c : Copy) (status n : Nat) : State :=
  let s := updTre s fun t => { t with copies := t.copies.filter (fun x => x.cmd.tag != c.cmd.tag), reads := t.reads.filter (!·.copy) }
  finishCmd s c.cmd status (copyResults n)

-- ------------------------------------------------------------------------------------------------ chunks

def chunkSize : Nat := 4096

/-- The plan entry that a direction serves next: the lowest order key (R368). -/
def lowestEntry : List TEntry → Option TEntry
  | [] => none
  | x :: xs =>
    match lowestEntry xs with
    | none => some x
    | some y => if y.key < x.key then some y else some x

def nextEntry (s : State) (toHost : Bool) : Option TEntry :=
  lowestEntry (s.tre.entries.filter fun e => e.toHost == toHost && decide (e.done < e.len))

/-- The copy in service, when it uses this direction and has bytes to go. -/
def nextCopy (s : State) (toHost : Bool) : Option Copy :=
  match s.tre.copies.head? with
  | none => none
  | some c => if c.toHost = toHost ∧ c.done < c.len then some c else none

/-- Chunks that plan entries of a direction have taken since the copy's last. -/
def turnOf (t : Trestle) (toHost : Bool) : Nat := if toHost then t.turnTo else t.turnFrom
def setTurn (s : State) (toHost : Bool) (n : Nat) : State :=
  updTre s fun t => if toHost then { t with turnTo := n } else { t with turnFrom := n }

def updEntry (s : State) (seq : Nat) (f : TEntry → TEntry) : State :=
  updTre s fun t => { t with entries := t.entries.map fun e => if e.seq == seq then f e else e }

def dropEntry (s : State) (seq : Nat) : State :=
  updTre s fun t => { t with entries := t.entries.filter (fun e => e.seq != seq), reads := t.reads.filter fun r => r.copy || r.seq != seq }

/-- The transfer entry of a Trestle descriptor is complete. -/
def entryDone (s : State) (seq : Nat) : State :=
  let s := dropEntry s seq
  updKs s fun k => { k with xfers := k.xfers.map fun r => if r.x.seq == seq then { r with sent := true } else r }

/-- A Trestle transfer fails its descriptor with MEMORY_UNCORRECTABLE (R371, R307). -/
def entryFails (s : State) (seq : Nat) : State :=
  let s := dropEntry s seq
  updIssued s seq fun i => { i with passesRun := if i.passesRun.isEmpty then [0] else i.passesRun
                                    status := if i.status = 0 ∨ isInformational i.status then stMemory else i.status }

def countTo (s : State) (n : Nat) : State := updTre s fun t => { t with toHostBytes := t.toHostBytes + BitVec.ofNat 64 n }
/-- The write that a failure the link reports is of (R371). -/
def noteWrite (s : State) (copy : Bool) (id host : Nat) : State := updTre s fun t => { t with lastWrite := some ⟨copy, id, host⟩ }

def countFrom (s : State) (n : Nat) : State := updTre s fun t => { t with fromHostBytes := t.fromHostBytes + BitVec.ofNat 64 n }

/-- Issue the reads of a chunk (R364). -/
def issueReads (s : State) (copy : Bool) (seq host dev n : Nat) : State :=
  (requestsOf s.host.mrrs host n n).foldl (fun s r =>
    sendPcie (updTre s fun t => { t with reads := t.reads ++ [{ copy := copy, seq := seq, host := r.1, dev := dev + (r.1 - host),
                                                                len := r.2, last := false }] }) (.read r.1 r.2)) s

/-- The zero-length read that ends an OFFLOAD (R364). -/
def lastRead (s : State) (e : TEntry) : State :=
  let a := e.host + e.len - 1
  sendPcie (updTre s fun t => { t with reads := t.reads ++ [{ copy := false, seq := e.seq, host := a, dev := 0, len := 0, last := true }] })
    (.read a 0)

/-- One chunk of a plan entry. -/
def entryChunk (s : State) (e : TEntry) : State :=
  let n := min chunkSize (e.len - e.done)
  match s.ks.plan with
  | none => s
  | some p =>
    match descAt p e.seq with
    | none => s
    | some d =>
      if e.toHost then
        let u := { useReadRaw (ofLocal d) n 0 with start := e.pos - (ofLocal d).offset + e.done }
        let s := touchSectors s (usesSector s p { d with spanCount := 0 } [u])
        if readStatus s p e.seq none u ≠ 0 then entryFails s e.seq
        else
          let b := readBytes s p e.seq 0 (ofLocal d) (e.pos + e.done) n
          let s := noteWrite (countTo (hostWrite s (e.host + e.done) b) n) false e.seq (e.host + e.done)
          let s := updEntry s e.seq fun x => { x with done := x.done + n }
          if e.done + n = e.len then lastRead s e else s
      else
        updEntry (issueReads s false e.seq (e.host + e.done) (e.pos + e.done) n) e.seq fun x => { x with done := x.done + n }

/-- Bytes of a device range before the first sector that cannot be read. -/
def goodBytes (s : State) (a n : Nat) : Nat :=
  match (List.range ((a + n - 1) / 32 - a / 32 + 1)).find? fun i =>
      let x := (a / 32 + i) * 32
      s.dram.bad.contains (x / 32) || lostMemory s x with
  | none => n
  | some i => (a / 32 + i) * 32 - a

/-- One chunk of the copy in service (R94). -/
def copyChunk (s : State) (c : Copy) : State :=
  let n := min chunkSize (c.len - c.done)
  if c.done = 0 ∧ copyClash s c.cmd = true then endCopy s c stBusy 0
  else if c.toHost then
    let s := touchSectors s (rangeHits (c.dev + c.done) n)
    let g := goodBytes s (c.dev + c.done) n
    let s := countTo (hostWrite s (c.host + c.done) (tabBytes s.dram.mem (c.dev + c.done) g)) g
    let s := noteWrite s true c.cmd.tag (c.host + c.done)
    let s := updTre s fun t => { t with copies := t.copies.map fun x => if x.cmd.tag == c.cmd.tag then { x with done := x.done + g } else x }
    if g < n then
      let x := c.dev + c.done + g
      endCopy (logEvent (failRow s (rowOf x)) (mkEvent stMemory srcTre 2 (channelOf x) evFault 0 x)) c stMemory (c.done + g)
    else s
  else
    let s := issueReads s true 0 (c.host + c.done) (c.dev + c.done) n
    updTre s fun t => { t with copies := t.copies.map fun x => if x.cmd.tag == c.cmd.tag then { x with done := x.done + n } else x }

/-- A COPY_TO_HOST whose last write has gone out and was not reported as failed by the next turn of its direction is done
(DESIGN CHOICE, assumption 214). -/
def settleCopy (s : State) (toHost : Bool) : State :=
  match s.tre.copies.head? with
  | none => s
  | some c => if toHost && c.toHost && c.done == c.len then endCopy s c stOk c.len else s

/-- TRESTLE_CHUNK (R368): while a copy and a plan entry wait in one direction, the copy takes one chunk in four. -/
def trestleChunk (s : State) (toHost : Bool) : State :=
  if !s.host.linkUp || s.host.pm == .d3hot then s
  else
    let s := settleCopy s toHost
    match nextEntry s toHost, nextCopy s toHost with
    | none, none => s
    | some e, none => entryChunk (setTurn s toHost 0) e
    | none, some c => copyChunk (setTurn s toHost 0) c
    | some e, some c =>
      let s := updTre s fun t => { t with sharedNow := true }
      if turnOf s.tre toHost ≥ 3 then copyChunk (setTurn s toHost 0) c
      else entryChunk (setTurn s toHost (turnOf s.tre toHost + 1)) e

def execTrestleChunk (toHost : Bool) (s : State) : Host.Outcome State Fault Refusal := .next (trestleChunk s toHost)

-- ------------------------------------------------------------------------------------------------ completions

/-- A failed request (R371): the PCIe status and the host address go to the event log. -/
def requestFails (s : State) (copy : Bool) (seq host pcieStatus : Nat) : State :=
  let s := logEvent s (mkEvent stMemory srcTre 2 0 evFault pcieStatus host)
  if copy then
    match s.tre.copies.head? with
    | none => s
    | some c => endCopy s c stMemory (host - c.host)
  else entryFails s seq

/-- A write that the link reports as failed (R371): its transfer fails, where it still goes on. -/
def writeFails (s : State) (w : TWrite) (pcieStatus : Nat) : State :=
  let log := logEvent s (mkEvent stMemory srcTre 2 0 evFault pcieStatus w.host)
  if w.copy then
    match s.tre.copies.head? with
    | some c => if c.toHost && c.cmd.tag == w.id then requestFails s true 0 w.host pcieStatus else log
    | none => log
  else if s.tre.entries.any fun e => e.toHost && e.seq == w.id then requestFails s false w.id w.host pcieStatus
  else log

/-- A read's data have come. -/
def readLands (s : State) (r : TRead) (data : List Byte) : State :=
  let s := countFrom (updTre s fun t => { t with reads := t.reads.drop 1 }) r.len
  if r.copy then
    let w := putSectors s r.dev data
    let s := settleIdle w.1
    match s.tre.copies.head? with
    | none => s
    | some c =>
      if !w.2.isEmpty then endCopy s c stMemory (r.dev - c.dev)
      else if c.done = c.len ∧ (s.tre.reads.any (·.copy)) = false then endCopy s c stOk c.len else s
  else
    match s.ks.plan with
    | none => s
    | some p =>
      match descAt p r.seq with
      | none => s
      | some d =>
        let at_ := match p.bufs[(ofLocal d).handle]? with | some b => writeAddr s b (ofLocal d).handle r.dev | none => 0
        let w := putSectors s at_ data
        if !w.2.isEmpty then entryFails w.1 r.seq
        else
        let s := w.1
        let served := s.tre.entries.any fun e => e.seq == r.seq && e.done == e.len
        if served && !(s.tre.reads.any fun x => !x.copy && x.seq == r.seq) then entryDone s r.seq else s

/-- TRESTLE_COMPLETION: answers the oldest outstanding read, or says that the write last sent has failed. -/
def trestleCompletion (s : State) (how : Completion) (pcieStatus : Nat) (data : List Byte) : State :=
  let ok := how == .data
  let s := match how with
    | .poisoned => logAer s .poisonedTlp
    | .timeout => logAer s .completionTimeout
    | _ => s
  if how = .writeFailed then
    match s.tre.lastWrite with
    | none => s
    | some w => writeFails (updTre s fun t => { t with lastWrite := none }) w pcieStatus
  else
    match s.tre.reads with
    | [] => s
    | r :: _ =>
      if !ok || decide (data.length < r.len) then requestFails s r.copy r.seq r.host pcieStatus
      else if r.last then entryDone (updTre s fun t => { t with reads := t.reads.drop 1 }) r.seq
      else readLands s r (data.take r.len)

def execTrestleCompletion (how : Completion) (pcieStatus : Nat) (data : List Byte) (s : State) :
    Host.Outcome State Fault Refusal := .next (trestleCompletion s how pcieStatus data)

end Sys2Proof.Machine
end

