-- ==== Sys2Proof/Machine/BeatClock.lean ====
section
/-! DEFINITION. The beat (spec 02): beat boundaries and correction (R13 to R15), beat markers (R335), what is counted by
beats (R29, R271, R370), bearing timeouts (R22), segment times and pace matching (R29 to R35). -/

namespace Sys2Proof.Machine

-- ------------------------------------------------------------------------------------------------ beat boundaries

/-- The timing root keeps its own beat (R14 rule 1). -/
def isRoot (s : State) : Bool := s.beat.upstream.isNone

/-- Length of the next beat: one period less while the own boundary comes more than 2 periods late, one more while it
comes as early, at most once in 16 beats (R14 rule 4). -/
def nextLength (s : State) : Nat :=
  let b := s.beat
  if isRoot s || decide (b.sinceCorr < 16) then 160
  else if 2 < b.diff then 159 else if b.diff < -2 then 161 else 160

/-- Lock at a difference of at most 2 periods from an upstream that has been compared with (R14 rule 4); at the first lock
its beat number is adopted, and what is counted from the own number moves with it (R13). -/
def lockBeat (b : Beat) : Beat :=
  match b.lead with
  | none => b
  | some l =>
    if b.upstream.isNone || b.locked || decide (2 < b.diff.natAbs) then b
    else
      let by_ := if b.adopted then 0 else l
      { b with locked := true, adopted := true, number := b.number + by_, lead := some (l - by_)
               markerAt := b.markerAt.map (· + by_) }

/-- Lock where it is due; the log's windows move with the beat number (R404). -/
def lockNow (s : State) : State :=
  let t := updBeat s lockBeat
  let by_ := t.beat.number - s.beat.number
  showLock (if by_ = 0 then t
            else updToll t fun q => { q with windows := q.windows.map fun w => { w with opened := w.opened + by_ } })

/-- The beat number advances; the correction that the next beat takes is counted, and may bring the lock. -/
def advanceBeat (s : State) : State :=
  let n := nextLength s
  lockNow (updBeat s fun b =>
    { b with number := b.number + 1, ticks := b.ticks + b.length, length := n
             sinceCorr := if n = 160 then b.sinceCorr + 1 else 1
             corrections := b.corrections + (if n = 160 then 0 else 1)
             diff := b.diff + ((n : Int) - 160) })

/-- One more in each bay whose bit is set. -/
def addBays (t : Tab Nat) (m : BitVec 32) : Tab Nat := (bitsToBays m).foldl (fun t b => tabUpd 0 t b (· + 1)) t

/-- Busy time (R29), corrections (R100) and the counters of Table 13-4, each of them toward which the beat counts (R271). -/
def countActivity (s : State) (a : BeatActivity) : State :=
  updSp (noteActivity s) fun q =>
    { q with busy := addBays q.busy a.busy
             secded := a.secded.foldl (fun t x => tabUpd 0 t (bayOf x) (· + 1)) q.secded
             counters := q.seen.foldl (fun t c => tabUpd 0 t (5 * c.2 + c.1) (· + 1)) q.counters
             seen := activityNow s }

/-- R119: a line whose ECC reports an uncorrectable error is dropped and refilled from DRAM; the event is counted. -/
def refillLine (q : Spans) (slice line : Nat) : Spans :=
  match q.cache.find? fun l => l.slice == slice && l.line == line with
  | none => q
  | some l => { q with cache := q.cache.erase l ++ [l], cacheEcc := q.cacheEcc + 1 }

/-- Errors that sectors come to hold, to be met when the sector is read, and lanes whose margin falls below the training
limit (R307, R309). -/
def noteSectors (s : State) (a : BeatActivity) : State :=
  if a.sectors.isEmpty && a.weakLanes.isEmpty then s
  else updDram s fun d =>
    { d with flaws := d.flaws ++ a.sectors.filter fun e => !d.bad.contains (e.addr / 32)
             weak := d.weak ++ a.weakLanes }

/-- What the hardware met in the beat beside what its spans did. -/
def noteEvents (s : State) (a : BeatActivity) : State :=
  let s := noteSectors (noteCells s a.cells) a
  let s := updSp s fun q => a.badLines.foldl (fun q l => refillLine q l.1 l.2) q
  updHost s fun h => { h with aer := h.aer ++ (if h.linkUp then a.pcie else []), accepts := a.accepts }

/-- The counters of Table 18-4 that count by beats: what of R370 held in any part of the beat that ends; what still holds
counts for the next one too. -/
def countLate (s : State) : State :=
  let shared := [true, false].any fun d => (nextEntry s d).isSome && (nextCopy s d).isSome
  let here := lateHere s
  let op := fun q => match s.ks.plan.bind fun p => descAt p q with | some d => d.opcode | none => 0
  updTre s fun t =>
    let pre := t.lateNow.filter fun q => op q == opPrefetch
    let fresh := pre.filter fun q => !t.lateSeen.contains q
    { t with
      sharedBeats := if t.sharedNow || shared then t.sharedBeats + 1 else t.sharedBeats
      sharedNow := shared
      lateSeen := (t.lateSeen ++ fresh).filter fun q => here.contains q || s.ks.issued.any fun i => i.seq == q
      latePref := t.latePref + BitVec.ofNat 32 fresh.length
      latePrefBeats := if pre.isEmpty then t.latePrefBeats else t.latePrefBeats + 1
      lateOffBeats := if t.lateNow.any fun q => op q == opOffload then t.lateOffBeats + 1 else t.lateOffBeats
      lateNow := here }

/-- BEAT_BOUNDARY (R13): beats run while P3V3_AUX is present. -/
def beatBoundary (s : State) (a : BeatActivity) : State :=
  if s.pw.stage = .off then s else countLate (noteEvents (countActivity (ageHits (advanceBeat s)) a) a)

def execBeatBoundary (act : BeatActivity) (s : State) : Host.Outcome State Fault Refusal := .next (beatBoundary s act)

-- ------------------------------------------------------------------------------------------------ beat markers

/-- The marker that leaves on a port: with an echo where one is due, and a request while the link delay is not known. -/
def markerFor (s : State) (n tx : Nat) : Marker :=
  let due := s.beat.echoDue.find? fun e => e.1 == n
  { beat := s.beat.number, txOffset := tx, hops := s.beat.hops, locked := s.beat.locked
    echoReq := !(s.beat.delays.any fun d => d.1 == n), echo := due.isSome, rootId := s.beat.root
    echoBeat := match due with | some e => e.2.1 | none => 0
    echoHold := match due with | some e => s.beat.ticks + tx - e.2.2 | none => 0 }

/-- BEAT_MARKER_SEND (R14 rule 2): on every trained port, once every 1,024 beats. -/
def beatMarkerSend (s : State) (tx : Nat) : State :=
  let early := s.beat.markerAt.any fun m => decide (s.beat.number.toNat < m.toNat + 1024)
  let ports := linkedPorts s
  if early || ports.isEmpty then s
  else
    let s := retime s
    let t := ports.foldl (fun t n => sendPlain t n kindMarker (markerBytes (markerFor s n tx))) s
    updBeat t fun b =>
      { b with markerAt := some b.number, echoDue := b.echoDue.filter (fun e => !ports.contains e.1)
               asked := (ports.filter fun n => (markerFor s n tx).echoReq).map fun n => (n, b.number, b.ticks + tx) }

def execBeatMarkerSend (txOffset : Nat) (s : State) : Host.Outcome State Fault Refusal := .next (beatMarkerSend s txOffset)

/-- The one-way delay of a port from an echo: half of (round trip − ECHO_HOLD) (R335). -/
def noteEcho (s : State) (n : Nat) (m : Marker) (at' : Nat) : State :=
  match s.beat.asked.find? fun a => a.1 == n && a.2.1 == m.echoBeat with
  | none => s
  | some a =>
    updBeat s fun b => { b with delays := (b.delays.filter fun d => d.1 != n) ++ [(n, (at' - a.2.2 - m.echoHold) / 2)]
                                asked := b.asked.filter (· != a) }

/-- The nearest of the sender's boundaries to the own one: its offset from the own boundary, and its beat number. -/
def nearestBeat (pos : Int) (beat : W64) : Int × W64 :=
  let k := (pos + 80) / 160
  (pos - 160 * k, beat - BitVec.ofInt 64 k)

/-- The marker of the upstream is compared with the own boundary, less the link's delay (R14 rule 4). -/
def compareMarker (s : State) (n : Nat) (m : Marker) (arrival : Int) : State :=
  if s.beat.upstream ≠ some n then s
  else
    match s.beat.delays.find? fun d => d.1 == n with
    | none => s
    | some d =>
      let near := nearestBeat (arrival - m.txOffset - d.2) m.beat
      lockNow (updBeat s fun b => { b with diff := -near.1, lead := some (near.2 - b.number) })

/-- BEAT_MARKER (R335): `arrival` counts REFCLK periods from the own last boundary. -/
def beatMarker (s : State) (n : Nat) (m : Marker) (arrival : Int) : State :=
  if !isLinked s n || s.pw.stage == .off then s
  else
    let at' := ((s.beat.ticks : Int) + arrival).toNat
    let s := updBeat s fun b =>
      { b with portHops := (b.portHops.filter fun e => e.1 != n) ++ [(n, (m.hops, m.rootId))]
               echoDue := if m.echoReq then (b.echoDue.filter fun e => e.1 != n) ++ [(n, (m.beat, at'))] else b.echoDue }
    let s := if m.echo then noteEcho s n m at' else s
    compareMarker (retime s) n m arrival

def execBeatMarker (port : Nat) (m : Marker) (arrival : Int) (s : State) : Host.Outcome State Fault Refusal :=
  .next (beatMarker s port m arrival)

-- ------------------------------------------------------------------------------------------------ bearings

/-- A number for a bearing in the event log. -/
def bearingUnit : Bearing → Nat
  | .dram c => c
  | .viaduct p => 1024 + p
  | .pcie => 1032
  | .keystone q => 1033 + q
  | .tollhouse b => 1037 + b
  | .refclk => 1069

/-- R422: one side of a bearing is without power or held in reset, which suspends its watchdog. -/
def bearingHeld (s : State) (b : Bearing) : Bool :=
  let core := !s.pw.rails || s.pw.stage == .warmHeld
  match b with
  | .refclk => false
  | .pcie => core || s.pw.perst
  | .keystone _ => core || s.pw.stage == .keystoneHeld || s.pw.stage == .sramFailed
  | .dram _ | .viaduct _ | .tollhouse _ => core

/-- BEARING_TIMEOUT (R22): logged and notified, the waiting operation fails, the fault is handled as a local one. -/
def bearingTimeout (s : State) (b : Bearing) (waiting : Option Nat) : State :=
  if s.pw.stage = .off ∨ bearingHeld s b = true then s
  else
    let s := notifyFault s (mkEvent stBearing srcToll 2 (bearingUnit b) evFault (waiting.getD 0) 0)
    let s := match waiting with
      | none => s
      | some q => updIssued s q fun i => { i with status := stBearing }
    replayFault s stBearing

def execBearingTimeout (b : Bearing) (waiting : Option Nat) (s : State) : Host.Outcome State Fault Refusal :=
  .next (bearingTimeout s b waiting)

-- ------------------------------------------------------------------------------------------------ segment times

/-- SEGMENT_TIME (R29): recorded, and forwarded to the plus successor until it reaches its origin's predecessor. -/
def segmentTimeMsg (s : State) (c : Ctl) (pier origin time : Nat) : State :=
  match s.ks.plan with
  | none => s
  | some p =>
    if c.tag ≠ BitVec.ofNat 32 p.groupTag ∨ origin = p.ringPos ∨ p.ringLength ≤ origin then s
    else
      let s := updSp s fun q =>
        { q with segTimes := q.segTimes.filter (fun x => !(x.1 == pier && x.2.1 == origin)) ++ [(pier, origin, time)] }
      match s.via.formed with
      | none => s
      | some f =>
        if (p.ringPos + 1) % p.ringLength = origin then s
        else sendNext s f.plusPort fun c => .segmentTime c pier origin time

def execSegmentTime (c : Ctl) (pier origin time : Nat) (s : State) : Host.Outcome State Fault Refusal :=
  .next (segmentTimeMsg s c pier origin time)

-- ------------------------------------------------------------------------------------------------ pace matching

/-- Fifty times the pace of Table 2-1 in M ops/s at a voltage in mV, on straight lines between its points. -/
def pace50 (v : Nat) : Nat :=
  let pts : List (Nat × Nat) := [(550, 950), (600, 1130), (650, 1320), (700, 1500), (750, 1630), (800, 1750), (850, 1850)]
  let k := min 5 ((v - 550) / 50)
  let a := pts.getD k (550, 950)
  let b := pts.getD (k + 1) (850, 1850)
  50 * a.2 + (b.2 - a.2) * (v - a.1)

/-- R31: package power stays within 0.98 of the limit with the bay one step higher; powers in µW. -/
def powerAllows (s : State) (bay v : Nat) : Bool :=
  let x := s.toll.sample
  let draw := x.bayMv.getD bay 0 * x.bayCur.getD bay 0 * 50
  let total := x.p12Mv * x.p12Ma
  let d := v * v * pace50 v
  let n := (v + 5) * (v + 5) * pace50 (v + 5)
  decide (100 * (total * d + draw * n) ≤ 98 * s.sp.paceLimit * 1000000 * d + 100 * draw * d)

/-- Ascending order. -/
def insertSorted (x : Nat) : List Nat → List Nat
  | [] => [x]
  | h :: t => if x ≤ h then x :: h :: t else h :: insertSorted x t
def sortNat (l : List Nat) : List Nat := l.foldr insertSorted []

/-- T_max and T_med (R29). -/
def groupTimes (ts : List Nat) : Nat × Nat := (ts.foldl max 0, (sortNat ts).getD ((ts.length - 1) / 2) 0)

/-- One bay's step of R30. -/
def stepBay (tmax tmed : Nat) (s : State) (b : Nat) : State :=
  let busy := tabGet 0 s.sp.lastBusy b
  let v := paceVolt s b
  if tabGet 0 s.ks.armed.regs b ≠ 0 ∨ bayHeld s b = true then s
  else if 100 * busy < 98 * tmax ∧ 550 < v then updSp s fun q => { q with volts := tabSet 700 q.volts b (v - 5) }
  else if 102 * tmed < 100 * busy ∧ v < 850 then
    if powerAllows s b v then updSp s fun q => { q with volts := tabSet 700 q.volts b (v + 5) }
    else updSp s fun q => { q with powerHeld := insertNat b q.powerHeld }
  else s

/-- R35: a span more than 8 % below the median of the other 15 of its bay. -/
def slowSpan (s : State) (x : Nat) : Bool :=
  let paceOf := fun y => s.toll.sample.pace.getD (physOf s y) 0
  let others := ((List.range 16).map fun i => 16 * (x / 16) + i).filter (· != x)
  decide (100 * paceOf x < 92 * (sortNat (others.map paceOf)).getD 7 0)

def countSlow (s : State) : State :=
  updSp s fun q => { q with slow := (List.range 512).foldl (fun t x =>
    tabSet 0 t x (if slowSpan s x then tabGet 0 q.slow x + 1 else 0)) q.slow }

/-- Whether this device meets both conditions of R34 at this pier. -/
def lagsNow (s : State) (own tmed : Nat) : Bool :=
  decide (106 * tmed < 100 * own) && (List.range 32).all fun b =>
    decide (100 * tabGet 0 s.sp.lastBusy b ≤ 102 * tmed) || decide (850 ≤ vSet s b) || s.sp.powerHeld.contains b

/-- R34, R35: after 8 piers the laggard is logged and notified; a single span that is the cause moves to a spare at the
next pier. -/
def laggard (s : State) (own tmed : Nat) : State :=
  let n := if lagsNow s own tmed then s.sp.lag + 1 else 0
  let s := countSlow s
  if n < 8 then updSp s fun q => { q with lag := n }
  else
    let s := raiseIrq (logEvent (updSp s fun q => { q with lag := 0 }) (mkEvent 0 srcKs 1 0 evReport own tmed)) 2
    match (List.range 512).filter fun x => decide (8 ≤ tabGet 0 s.sp.slow x) with
    | [x] => if s.sp.spares.contains (x / 32) then s else updSp s fun q => { q with moves := [x] }
    | _ => s

/-- The segment times held for a pier. -/
def timesOf (s : State) (pier : Nat) : List (Nat × Nat) := (s.sp.segTimes.filter fun x => x.1 == pier).map (·.2)

/-- PACE_MATCH_DECISION (R30, R32 to R35): once all the group's times for the last segment are held. -/
def paceMatchDecision (s : State) : State :=
  match s.ks.plan, s.ks.lastPier with
  | some p, some pier =>
    let ts := timesOf s pier
    if planState s ≠ plRunning ∨ ((List.range p.ringLength).all fun r => ts.any fun x => x.1 == r) = false then s
    else
      let g := groupTimes (ts.map (·.2))
      let own := ((ts.find? fun x => x.1 == p.ringPos).map (·.2)).getD 0
      let s := updSp s fun q => { q with powerHeld := [], segTimes := q.segTimes.filter fun x => x.1 != pier }
      let s := if s.ks.pace.1 = 0 then (List.range 32).foldl (stepBay g.1 g.2) s else s
      laggard s own g.2
  | _, _ => s

def execPaceMatchDecision (s : State) : Host.Outcome State Fault Refusal := .next (paceMatchDecision s)

end Sys2Proof.Machine
end

