-- ==== Sys2Proof/Machine/Collective.lean ====
section
/-! DEFINITION. COLLECTIVE (spec 17, R343 to R352) and GLOBAL_NORM (R277 to R279): the groups, the messages in the order of
R351, the combines of R347, the tree of FINISH. -/

namespace Sys2Proof.Machine

-- ------------------------------------------------------------------------------------------------ combining

/-- One combine (R347): the arriving partial `a` and the own value `b`, as element bits, at element index e. -/
def clCombine (p : Plan) (T : Nat) (d : Desc) (pos t e a b : Nat) : Nat :=
  match fmtOf (clDst d).fmt with
  | none => b
  | some f =>
    if fmtInt f then
      if clOp d = 0 then (a + b) % 2 ^ 32
      else if (if clOp d = 1 then decide (signedOf 32 b < signedOf 32 a) else decide (signedOf 32 a < signedOf 32 b)) then a else b
    else
      let x := decodeNum f a
      let y := decodeNum f b
      if clOp d = 0 then
        let site := { siteOf p T d 1 with stream := 16384 * (pos + 1) + t }
        narrow f (accRound d) (bitsFor site (accRound d) e) false (numAdd x y)
      else if numIsNan x || numIsNan y then nanBits f
      else
        let first := if numIsZero x && numIsZero y then numSign x != (clOp d == 1)
          else if clOp d = 1 then numLt y x else numLt x y
        narrow f 0 0 false (if first then x else y)

/-- Elements of a message as bytes, and back. -/
def clBytes (d : Desc) : Nat := elemBytes (clDst d).fmt
def packElems (n : Nat) (l : List W32) : List Byte := l.flatMap fun v => leBytes n v.toNat
def unpackElems (n len : Nat) (b : List Byte) : List W32 :=
  (List.range len).map fun i => BitVec.ofNat 32 (fieldAt b (n * i) n)

/-- Elements `off` on of the work array replaced. -/
def putSlice (w : List W32) (off : Nat) (x : List W32) : List W32 := w.take off ++ x ++ w.drop (off + x.length)

/-- What an arriving message makes of the work array. -/
def clArrive (p : Plan) (T : Nat) (d : Desc) (m : CMsg) (w : List W32) (b : List Byte) : List W32 :=
  let x := unpackElems (clBytes d) m.len b
  match m.comb with
  | none => putSlice w m.off x
  | some (pos, t) =>
    let own := (w.drop m.off).take m.len
    putSlice w m.off ((List.zip x own).zipIdx.map fun v =>
      BitVec.ofNat 32 (clCombine p T d pos t (elemIndex p.param (clDst d) (m.off + v.2)) v.1.1.toNat v.1.2.toNat))

/-- What progress messages can make: within a stripe each waits for the one before. -/
def clRun (p : Plan) (d : Desc) (T : Nat) : List (CMsg × Nat) → List Nat → State → List W32 → State × List W32
  | [], _, s, w => (s, w)
  | (m, idx) :: ms, held, s, w =>
    if held.contains m.stripe then clRun p d T ms held s w
    else if xferUsed s idx then clRun p d T ms held s w
    else if m.send then
      let s := trySend s idx (packElems (clBytes d) ((w.drop m.off).take m.len))
      clRun p d T ms (if xferUsed s idx then held else m.stripe :: held) s w
    else
      match received s idx with
      | none => clRun p d T ms (m.stripe :: held) s w
      | some b =>
        let w := clArrive p T d m w b
        clRun p d T ms held (keep p d m w (stage p d m b (markRecv s idx))) w
where
  /-- The running partials of kinds 0 to 2 are kept in DST (R348). -/
  keep (p : Plan) (d : Desc) (m : CMsg) (w : List W32) (s : State) : State :=
    if 2 < clKind d then s
    else ((w.drop m.off).take m.len).zipIdx.foldl (fun t v =>
      writeRaw t p ((targets d).headD 0) (clDst d) (m.off + v.2) v.1.toNat) s
  /-- An arriving message lands in STAGING, in the slot of its step's parity (R347). -/
  stage (p : Plan) (d : Desc) (m : CMsg) (b : List Byte) (s : State) : State :=
    if m.step = 0 then s
    else writeBytes s p 0 (clStaging d) ((clStaging d).offset + m.step % 2 * clLargest p d) b

-- ------------------------------------------------------------------------------------------------ COLLECTIVE

/-- The span that holds bank operands. -/
def clSpan (d : Desc) : Nat := (targets d).headD 0

/-- Whether this member owns an element after the reduce phases. -/
def clOwns (d : Desc) (own e : Nat) : Bool :=
  (List.range (clStripes d)).any fun s =>
    let q := ownedPart d own s
    decide (q.1 ≤ e) && decide (e < q.1 + q.2)

/-- The work array at the start: SRC; of an ALL_GATHER only the owned elements count. For a PERMUTE the array that
arrives takes SRC's place at once, so the local copy is SRC too. -/
def clInit (s : State) (p : Plan) (d : Desc) : List W32 :=
  (List.range (clCount d)).map fun i => BitVec.ofNat 32 (readRaw s p d.seq (clSpan d) (clSrc d) i)

/-- Bits of an element that the manual leaves undefined (R348): fresh free values. -/
def undefinedElem (s : State) (n i : Nat) : State × Nat :=
  ({ s with free := s.free + n }, leNat ((List.range n).map fun j => Config.undefinedByte (s.free + j) i))

/-- DST at completion (R348 to R350). -/
def clFinish (s : State) (p : Plan) (d : Desc) (w : List W32) : State :=
  let own := clOwn p (clGroup d)
  w.zipIdx.foldl (fun s v =>
    if clKind d = 1 ∧ clOwns d own v.2 = false then
      let u := undefinedElem s (clBytes d) v.2
      writeRaw u.1 p (clSpan d) (clDst d) v.2 u.2
    else writeRaw s p (clSpan d) (clDst d) v.2 v.1.toNat) s

/-- Elements of a COLLECTIVE that this member owns, in ascending index (R278). -/
def ownedElems (p : Plan) (d : Desc) : List Nat :=
  (List.range (clCount d)).filter fun e => clOwns d (clOwn p (clGroup d)) e

/-- The sum of the squares of the reduced elements that this member owns, as the final combine writes them (R278); none for a
COLLECTIVE that reduces no floating elements. -/
def clSquares (p : Plan) (d : Desc) (w : List W32) : Option W32 :=
  match fmtOf (clDst d).fmt with
  | none => none
  | some f =>
    if 1 < clKind d ∨ fmtInt f = true then none
    else
      let es := ownedElems p d
      some (fbits (sumSquares es.length fun i => decodeNum f (w.getD (es.getD i 0) 0).toNat))

/-- A COLLECTIVE has made its last combine: DST and the squares of its owned elements. -/
def clComplete (s : State) (p : Plan) (d : Desc) (w : List W32) : State :=
  clFinish (updKs s fun k =>
    { k with collWork := tabSet [] k.collWork d.seq [], squares := tabSet none k.squares d.seq (clSquares p d w) }) p d w

/-- COLLECTIVE: its work array, SRC with the running partials of R347, stands beside the descriptor until it completes. -/
def collectiveWork (s : State) (p : Plan) (d : Desc) : State × Bool :=
  let w := tabGet [] s.ks.collWork d.seq
  let w := if w.isEmpty then clInit s p d else w
  let ms := List.zip (clMessages p d) ((xfersOf p d.seq).map (·.1))
  let r := clRun p d (stepT s p) ms [] s w
  if allUsed r.1 p d.seq then (clComplete r.1 p d r.2, true)
  else (updKs r.1 fun k => { k with collWork := tabSet [] k.collWork d.seq r.2 }, false)

def execCollective (seq : Nat) (s : State) : Host.Outcome State Fault Refusal :=
  .next (progress [opCollective] seq 0 collectiveWork s)

-- ------------------------------------------------------------------------------------------------ GLOBAL_NORM

/-- The device's partial of an ACCUMULATE (R278): as the final combine of its COLLECTIVE summed it; from DST where the device
has been reset since (assumption 211). -/
def accumulatePartial (s : State) (p : Plan) (d : Desc) : Num :=
  match descAt p (d.seq - d.deps.headD 0) with
  | none => numZero
  | some c =>
    match tabGet none s.ks.squares c.seq with
    | some x => decodeNum .fp32 x.toNat
    | none =>
      let es := ownedElems p c
      sumSquares es.length fun i => readElem s p d.seq (clSpan c) (clDst c) (es.getD i 0)

/-- The span that holds ACC when it is a bank. -/
def gnSpan (d : Desc) : Nat := (targets d).headD 0

def accumulate (s : State) (p : Plan) (d : Desc) : State :=
  let x := accumulatePartial s p d
  let old := decodeNum .fp32 (readRaw s p d.seq (gnSpan d) (gnAcc d) (gnSlot d))
  let v := if gnFirst d then x else add32 old x
  writeRaw s p (gnSpan d) (gnAcc d) (gnSlot d) (fbits v).toNat

/-- Table 14-2 from the global sum of squares. -/
def clipOutput (d : Desc) (sq : Num) : List W32 :=
  let norm := sqrt32 sq
  let bad := numIsNan sq || (numIsInf sq && !numSign sq)
  let mx := decodeNum .fp32 (gnMax d)
  let q := div32 mx (add32 norm (decodeNum .fp32 (gnEps d)))
  let factor := if bad then Num.nan else if numIsZero mx then numOne else if numLt q numOne then q else numOne
  [fbits factor, fbits norm, fbits sq, if bad then 1 else 0]

/-- FINISH's messages: one word while the tree combines, four words once the output is known. Rank 0 forms the output
when its tree messages are in. -/
def finishRun (d : Desc) : List (CMsg × Nat) → State → List W32 → State × List W32
  | [], s, w => (s, w)
  | (m, idx) :: ms, s, w =>
    if xferUsed s idx then finishRun d ms s w
    else
      let w := if m.len = 4 ∧ m.send = true ∧ w.length = 1 then clipOutput d (decodeNum .fp32 (w.headD 0).toNat) else w
      if m.send then
        let s := trySend s idx (packElems 4 w)
        if xferUsed s idx then finishRun d ms s w else (s, w)
      else
        match received s idx with
        | none => (s, w)
        | some b =>
          let x := unpackElems 4 m.len b
          let w := if m.len = 4 then x
            else [fbits (add32 (decodeNum .fp32 (w.headD 0).toNat) (decodeNum .fp32 (x.headD 0).toNat))]
          finishRun d ms (markRecv s idx) w

def finishNorm (s : State) (p : Plan) (d : Desc) : State × Bool :=
  let w := tabGet [] s.ks.collWork d.seq
  let w := if w.isEmpty then [BitVec.ofNat 32 (readRaw s p d.seq (gnSpan d) (gnAcc d) (gnSlot d))] else w
  let ms := List.zip (finishMsgs (groupSize p) (rankOf p)) ((xfersOf p d.seq).map (·.1))
  let r := finishRun d ms s w
  if allUsed r.1 p d.seq then
    let out := if r.2.length = 1 then clipOutput d (decodeNum .fp32 (r.2.headD 0).toNat) else r.2
    let s := updKs r.1 fun k => { k with collWork := tabSet [] k.collWork d.seq [] }
    (writeBytes s p (gnSpan d) (gnClip d) (gnClip d).offset (packElems 4 out), true)
  else (updKs r.1 fun k => { k with collWork := tabSet [] k.collWork d.seq r.2 }, false)

def globalNormWork (s : State) (p : Plan) (d : Desc) : State × Bool :=
  if gnMode d = 0 then (accumulate s p d, true) else finishNorm s p d

def execGlobalNorm (seq pass : Nat) (s : State) : Host.Outcome State Fault Refusal :=
  .next (progress [opGlobalNorm] seq pass globalNormWork s)

end Sys2Proof.Machine
end

