-- ==== Sys2Proof/Machine/Admission.lean ====
section
/-! DEFINITION. The commit area of the journal (R374), and the admission of a unit (R297, R390, R391): its generation numbers,
the update phase that it missed, the generation check, the refresh. -/

namespace Sys2Proof.Machine

-- ------------------------------------------------------------------------------------------------ journal entries

def prepareEntry (a : Attempt) (d : List Byte) : List Byte :=
  leBytes 8 a.step.toNat ++ leBytes 4 a.gen.toNat ++ leBytes 1 a.att ++ zeros 3 ++ d ++ leBytes 4 validWord

def decisionEntry (a : Attempt) (o : Bool) : List Byte :=
  leBytes 8 a.step.toNat ++ leBytes 4 a.gen.toNat ++ leBytes 1 (if o then 1 else 2) ++ leBytes 1 a.att ++ zeros 2
    ++ leBytes 4 validWord

/-- The decision entry of an attempt at an address: 0 none, 1 COMMIT, 2 ABORT. -/
def decisionAt (m : Tab Byte) (addr : Nat) (a : Attempt) : Nat :=
  if memNat m addr 8 = a.step.toNat ∧ memNat m (addr + 8) 4 = a.gen.toNat ∧ memNat m (addr + 13) 1 = a.att % 256
      ∧ memNat m (addr + 16) 4 = validWord then memNat m (addr + 12) 1 else 0

/-- A decision for an attempt in the own journal or in a mirror held (R295). -/
def heldDecision (s : State) (p : Plan) (a : Attempt) : Nat :=
  ([journalBase, mirrorBase 0, mirrorBase 1].map fun b => decisionAt s.dram.mem (b + decisionOff p) a).find? (· != 0) |>.getD 0

/-- Kind 2 buffers that a step writes (R294). -/
def stepKind2 (p : Plan) : List Nat :=
  (p.bufs.zipIdx.filter fun b => b.1.kind == 2 && p.descs.any fun d =>
    (descUses p d).any fun u => u.write && u.o.handle == b.2).map (·.2)

-- ------------------------------------------------------------------------------------------------ admission

/-- Steps 8 and 9 of Table 19-9: the destructive march test of all SRAM, then ADMITTED. -/
def refreshDone (s : State) : State :=
  let s := marchSpans (updGrp s fun g => { g with refresh := false }) fun _ => true
  sendJ (dropCache s) s.grp.coord fun j => .admitted j (stepWord s)

/-- Step 7 of Table 19-9: both halves of every kind 2 buffer's committed generation are asked of the VP1 and VP0 neighbours;
`refreshHalf` compares digests and takes the bytes where they differ. -/
def askRefresh (s : State) (p : Plan) : State :=
  let s := updGrp s fun g => { g with refresh := true }
  let s := p.bufs.zipIdx.foldl (fun s b =>
    if b.1.kind ≠ 2 then s
    else
      let half := b.1.size / 2
      [(1, 0, half), (0, half, b.1.size - half)].foldl (fun s (r : Nat × (Nat × Nat)) =>
        let port := if isTrained s r.1 then r.1 else fetchPort s
        sendVia (updGrp s fun g => { g with fetches := g.fetches ++ [(b.2, (r.2.1, r.2.2))] }) port
          (.fetch (jOf s (Nat.xor port 1)) b.2 r.2.1 r.2.2)) s) s
  if s.grp.fetches.isEmpty then refreshDone s else s

/-- The unit's generation numbers from its step pier's vector (Table 19-9 step 5). -/
def gensFromStepPier (s : State) (p : Plan) : State :=
  match p.piers.find? (isStepPier p) with
  | none => s
  | some e =>
    match recordOf s (some e.index) with
    | none => s
    | some r =>
      updKs s fun k => { k with gens := r.gens.zipIdx.foldl (fun t g => tabSet 0 t g.2 g.1) k.gens, stepPier := some e.index
                                lastPier := some e.index }

/-- R297: a void COMMIT is taken back: every kind 2 buffer flips back. -/
def flipBack (s : State) (p : Plan) : State :=
  updKs s fun k => { k with gens := (stepKind2 p).foldl (fun t h => tabUpd 0 t h (· - 1)) k.gens }

/-- The mirror holder's journal of the unit holds ABORT for a generation. -/
def journalAborts (s : State) (p : Plan) (gen : Nat) : Bool :=
  let a := journalBase + decisionOff p
  memNat s.dram.mem (a + 8) 4 == gen && memNat s.dram.mem (a + 12) 1 == 2 && memNat s.dram.mem (a + 16) 4 == validWord

/-- A half of a kind 2 buffer has come from a neighbour: it is written unless its digest is that of the unit's own copy
(Table 19-10: with the same STEP and GENERATION and agreeing digests step 7 is omitted). A copy with a sector that cannot be
read has no digest. -/
def refreshHalf (s : State) (a : Nat) (data : List Byte) : State :=
  let unread := (s.dram.bad ++ s.dram.lost).any fun sec => rangeHits a data.length sec
  if unread = false ∧ sha384 (tabBytes s.dram.mem a data.length) = sha384 data then s
  else freshSectors (putMem s a data) [(a, data.length)]

/-- The generation check on the unit, against the STEP and GENERATION of its mirror holder (R391, Table 19-10). After a void
COMMIT is taken back, the record is checked again by the first two rows, whose outcome `refreshHalf` decides. -/
def checkGeneration (s : State) (p : Plan) (step gen : Nat) : State :=
  let c := committedRecord s p
  if c.1 = step + 1 ∧ journalAborts s p c.2.2 = true then askRefresh (flipBack s p) p
  else if step < c.1 ∨ (c.1 = step ∧ c.2.2 ≠ gen) then
    failStart (logEvent (updGrp s fun g => { g with admitting := false }) (mkEvent stPlanInvalid srcKs 2 0 evState c.1 step)) stPlanInvalid
  else askRefresh s p

/-- R297: the record of the update pier of a step that the group has committed and this unit has not, where its DRAM still
holds the generation before it and what the update reads. -/
def missedCommit (s : State) (p : Plan) : Option (PierEntry × Rec) :=
  match updatePier p with
  | none => none
  | some e =>
    let c := committedRecord s p
    let a := journalBase + decisionOff p
    match recordOf s (some e.index) with
    | none => none
    | some r =>
      if r.t = c.1 + 1 ∧ memNat s.dram.mem a 8 = c.1 + 1 ∧ memNat s.dram.mem (a + 8) 4 = c.2.2 + 1
          ∧ memNat s.dram.mem (a + 12) 1 = 1 ∧ memNat s.dram.mem (a + 16) 4 = validWord
          ∧ (s.dram.lost ++ s.dram.bad).isEmpty = true then some (e, r) else none

/-- R297: the unit runs the update phase again from the update pier, with its current generations and the kept gradients; the
COMMIT behind it finds the decision in the journal and flips. The plan stays in LOADED, with START pending. -/
def rerunUpdate (s : State) (p : Plan) (e : PierEntry) (r : Rec) (mark : Nat × Nat) : State :=
  let s := updGrp s fun g => { g with rerun := some mark }
  let s := updKs s fun k =>
    { k with startStage := none, lastPier := some e.index, updMap := [], norms := [], commitW := none,
             gens := p.bufs.zipIdx.foldl (fun t b => if b.1.kind = 1 then tabSet 0 t b.2 (r.gens.getD b.2 0) else t) k.gens }
  formPending (resumeAt s p r fun _ => false) p false

/-- The update phase has been run again and its step has flipped: the admission goes on with its generation check. -/
def rerunDone (s : State) (p : Plan) : State :=
  match s.grp.rerun with
  | none => s
  | some (step, gen) =>
    let s := dropSegment (updGrp s fun g => { g with rerun := none }) []
    checkGeneration (updKs s fun k => { k with haltIssue := true, written := [], startStage := some .journal }) p step gen

/-- Steps 5 and 6 of Table 19-9 on the unit: its generation numbers, a commit that it missed, the generation check. -/
def generationCheck (s : State) (p : Plan) (step gen : Nat) : State :=
  let s := gensFromStepPier s p
  match missedCommit s p with
  | some (e, r) => rerunUpdate s p e r (step, gen)
  | none => checkGeneration s p step gen

end Sys2Proof.Machine
end

