-- ==== Sys2Proof/Machine/Commit.lean ====
section
/-! DEFINITION. The commit record and two-phase commit (spec 14, R291 to R298): COMMIT's PREPARE, the vote token, the
decision, recovery, and what COMMIT and ABORT do to the generations. -/

namespace Sys2Proof.Machine

-- ------------------------------------------------------------------------------------------------ the pending record

/-- UPDATE_SQ and WEIGHT_SQ (Table 14-8): exact squares added in ascending SEQ, each sum rounded once. -/
def normSquares (l : List W32) : Num :=
  l.foldl (fun a v => let x := decodeNum .fp32 v.toNat; add32 a (numMul x x)) numZero

/-- The 64 bytes of the pending record (Table 14-8, R292). -/
def pendingRecord (s : State) (p : Plan) (d : Desc) : List Byte :=
  let none' := isNone (cmClip d)
  let clip := if none' then [] else readBytes s p d.seq 0 (cmClip d) (cmClip d).offset 16
  let c := committedRecord s p
  let one : Nat := 0x3F800000
  leBytes 8 s.ks.tCounter.toNat ++ leBytes 8 s.ks.updates.toNat ++ leBytes 4 p.epoch ++ leBytes 4 (c.2.2 + 1)
    ++ leBytes 4 (fieldAt clip 4 4) ++ leBytes 4 (if none' then one else fieldAt clip 0 4)
    ++ leBytes 4 (fieldAt clip 0xC 1 % 2 + 2 * bitNat none' + 4 * bitNat (cmNorms d)) ++ leBytes 4 p.groupTag
    ++ (if cmNorms d then leBytes 4 (fbits (normSquares (s.ks.norms.map (·.uNorm)))).toNat
          ++ leBytes 4 (fbits (normSquares (s.ks.norms.map (·.wNorm)))).toNat else zeros 8)
    ++ zeros 16

-- ------------------------------------------------------------------------------------------------ the decision acts

/-- The COMMIT's completion, with its report. -/
def commitDone (s : State) (p : Plan) (seq status : Nat) (i : Issued) : State :=
  let s := updKs s fun k => { k with commitW := none, issued := k.issued.filter (fun x => x.seq != seq) }
  match descAt p seq with
  | none => s
  | some d =>
    let log := s.ks.policy.2.testBit 1 || isReport d
    if status = 0 then (if log then logEvent s (reportOf d i status) else s)
    else notifyFault s (reportOf d i status)
where reportOf (d : Desc) (i : Issued) (status : Nat) : Event :=
  mkEvent status srcKs (if status = 0 then 0 else 1) 512 evReport d.seq (i.passesRun.length % 65536 * 2 ^ 48)

/-- COMMIT (R294): every kind 2 buffer that the step wrote flips; the step's norm records are kept (R289); the next step's
STEP is formed. -/
def applyCommit (s : State) (p : Plan) (seq : Nat) : State :=
  match issuedOf s seq with
  | none => s
  | some i =>
    let hs := stepKind2 p
    let s := updKs s fun k =>
      { k with gens := hs.foldl (fun t h => tabUpd 0 t h (· + 1)) k.gens
               written := k.written.filter (fun w => !hs.contains w.handle)
               aborts := 0, attempt := 0 }
    rerunDone (formStep (commitDone (keepNorms s s.ks.tCounter.toNat) p seq stOk i) p) p

/-- ABORT of the attempt in which a member stands (R294, R298): working generations of kind 2 and the step's norm records go;
the member rewinds to the update pier, which is logged (R388), and the update phase runs again, at most RETRIES times. -/
def abortAttempt (s : State) (p : Plan) : State :=
  let hs := stepKind2 p
  let s := updKs s fun k =>
    { k with written := k.written.filter (fun w => !hs.contains w.handle), norms := [], updMap := []
             aborts := k.aborts + 1, attempt := k.attempt + 1 }
  let again := fun hold => replayFrom (logReplay s stCommitAborted s.ks.lastPier) p s.ks.lastPier false hold
  if needsRestart s p then (if groupSize p = 1 then localRestart s p stMemory else startRewind s stMemory 1)
  else if s.ks.aborts ≤ s.ks.policy.1 then again false
  else if s.ks.policy.2.testBit 0 then again true
  else endRun s stCommitAborted

/-- A member stands in the update phase of the running plan. -/
def behindUpdate (s : State) (p : Plan) : Bool :=
  (updatePier p).any (fun e => s.ks.segmentOf == e.seq + 1) && isRunning s

/-- The decision of a COMMIT takes effect; of one that has not begun here, an ABORT that is joined sends the update phase back,
and anything else waits in the journal for the COMMIT. -/
def applyDecision (s : State) (p : Plan) (w : CommitWork) (o : Bool) : State :=
  match w.begun, issuedOf s w.seq with
  | true, some i => if o then applyCommit s p w.seq else abortAttempt (commitDone s p w.seq stCommitAborted i) p
  | _, _ =>
    let s := updKs s fun k => { k with commitW := none }
    if w.join.isSome && behindUpdate s p then abortAttempt s p else s

-- ------------------------------------------------------------------------------------------------ deciding

/-- Broadcast a decision: the acting leader to every rank; else down the tree of R349 with ROOT 0 (Table 14-9). -/
def sendDecision (s : State) (p : Plan) (a : Attempt) (o : Bool) (all : Bool) : State :=
  let own := rankOf p
  let rs := if all then (List.range (groupSize p)).filter (· != own)
    else treeChildren (groupSize p) own
  rs.foldl (fun s r => sendCtl s r 0 fun c => .decision c a o) s

/-- The decision stands in the journal and, where there is one, in the mirror: it is broadcast and acted on; a later attempt that
caused it is joined. -/
def decisionRecorded (s : State) (p : Plan) (w : CommitWork) (o : Bool) : State :=
  let s := match w.lead with | some all => sendDecision s p w.a o all | none => s
  let s := applyDecision s p w o
  match w.join with | some n => updKs s fun k => { k with attempt := n } | none => s

/-- Write the decision to the own journal, and mirror it (Table 14-9 steps 5 and 7). -/
def recordDecision (s : State) (p : Plan) (w : CommitWork) (o : Bool) (lead : Option Bool) : State :=
  let w := { w with deciding := some o, lead := lead }
  let s := journalWrite (updKs s fun k => { k with commitW := some w }) (decisionOff p) (decisionEntry w.a o)
  if (mirrorPort s).isNone then decisionRecorded s p w o else s

/-- The leader's decision at step 4. -/
def leaderVote (s : State) (p : Plan) (w : CommitWork) (count : Nat) (agree : Bool) : State :=
  recordDecision s p w (agree && count == groupSize p) (some false)

/-- The token is passed on, or decides at the leader, once the own step 1 has ended (Table 14-9 steps 3 and 4). -/
def passToken (s : State) (p : Plan) : State :=
  match s.ks.token, s.ks.commitW with
  | some t, some w =>
    if !w.prepared || w.deciding.isSome || t.a ≠ w.a then s
    else
      let s := updKs s fun k => { k with token := none }
      if rankOf p = 0 then leaderVote s p w t.count t.agree
      else sendCtl s ((rankOf p + 1) % groupSize p) 0 fun c => .vote c w.a (t.count + 1) (t.agree && t.digest == w.digest) t.digest
  | _, _ => s

/-- Step 1 has ended: a group of one decides; the leader sends the token; a member that holds it passes it on. -/
def preparedNow (s : State) (p : Plan) (w : CommitWork) : State :=
  let w := { w with prepared := true }
  let s := updKs s fun k => { k with commitW := some w }
  if groupSize p = 1 then leaderVote s p w 1 (!w.digest.isEmpty)
  else if rankOf p = 0 then
    passToken (sendCtl (updKs s fun k => { k with token := none }) 1 0 fun c => .vote c w.a 1 (!w.digest.isEmpty) w.digest) p
  else passToken s p

/-- The pending record is written to RECORD's working generation, with zeros behind it (R293). -/
def writePending (s : State) (p : Plan) (d : Desc) : State :=
  let o := cmRecord d
  let size := match p.bufs[o.handle]? with | some b => b.size | none => 64
  let us := [useWriteRaw o size 0]
  let s := writeBytes s p 0 o o.offset (pendingRecord s p d ++ zeros (size - 64))
  freshSectors (noteWrites s p d.seq [] us) (writeRanges s p us)

/-- Table 14-9 step 1. -/
def prepare (s : State) (p : Plan) (d : Desc) (a : Attempt) : State :=
  let w : CommitWork := { seq := d.seq, a := a, digest := sha384 (pendingRecord s p d), prepared := false, deciding := none, lead := none, begun := true, join := none }
  let s := updKs (writePending s p d) fun k => { k with commitW := some w }
  let s := journalWrite s (decisionOff p + 16) (zeros 4)
  let s := journalWrite s (prepareOff p) (prepareEntry a w.digest)
  if (mirrorPort s).isNone then preparedNow s p w else s

/-- A prepare that fails: the member holds no prepare entry, and clears AGREE (Table 14-9 step 3). -/
def prepareFailed (s : State) (p : Plan) (d : Desc) (a : Attempt) (st : Nat) : State :=
  let w : CommitWork := { seq := d.seq, a := a, digest := [], prepared := true, deciding := none, lead := none, begun := true, join := none }
  preparedNow (notifyFault s (mkEvent st srcKs 2 0 evCommit d.seq 0)) p w

/-- The attempt that a COMMIT of this member makes now (R293). -/
def ownAttempt (s : State) (p : Plan) : Attempt :=
  { step := s.ks.tCounter, gen := BitVec.ofNat 32 ((committedRecord s p).2.2 + 1), att := s.ks.attempt }

/-- COMMIT (R293): a member that has committed this step already, or whose journal or mirror holds the decision, needs no
vote (Table 19-8). -/
def commitRun (s : State) (seq : Nat) : State :=
  match running s seq with
  | none => s
  | some (p, d, i) =>
    if d.opcode != opCommit || s.ks.commitW.isSome || decide (i.status ≠ 0) || s.grp.rewindW.isSome then s
    else
      let us := descUses p d
      let rd := readsStatus s p d us
      let st := if rd = 0 then writesStatus s p us else rd
      let a := ownAttempt s p
      let w : CommitWork := { seq := seq, a := a, digest := [], prepared := true, deciding := none, lead := none, begun := true, join := none }
      if (committedRecord s p).1 = s.ks.tCounter.toNat then formStep (commitDone s p seq stOk i) p
      else
        match heldDecision s p a with
        | 0 => if st = 0 then prepare s p d a else prepareFailed s p d a st
        | o => recordDecision (if o = 1 then writePending s p d else s) p w (o == 1) none

def execCommit (seq : Nat) (s : State) : Host.Outcome State Fault Refusal := .next (commitRun s seq)

/-- MIRROR_ACK of a commit entry: it is complete (R376). -/
def commitAck (s : State) (p : Plan) (off : Nat) : State :=
  match s.ks.commitW with
  | none => s
  | some w =>
    match w.deciding with
    | some o => if off = decisionOff p then decisionRecorded s p w o else s
    | none => if off = prepareOff p ∧ w.prepared = false then preparedNow s p w else s

-- ------------------------------------------------------------------------------------------------ messages

/-- Order of attempts. -/
def attBefore (a b : Attempt) : Bool :=
  decide (a.step.toNat < b.step.toNat)
    || (a.step == b.step && (decide (a.gen.toNat < b.gen.toNat) || (a.gen == b.gen && decide (a.att < b.att))))

/-- The attempt that a member stands in: that of its COMMIT, the one that it is joining, or the next it will make. -/
def standing (s : State) (p : Plan) : Attempt :=
  match s.ks.commitW with
  | some w => { w.a with att := w.join.getD w.a.att }
  | none => ownAttempt s p

/-- The work of a decision that is recorded here while no COMMIT of the attempt has begun. -/
def decisionWork (p : Plan) (a : Attempt) (join : Option Nat) : CommitWork :=
  { seq := (commitSeq p).getD 0, a := a, digest := [], prepared := true, deciding := none, lead := none, begun := false, join := join }

/-- An attempt of the same GENERATION with a higher number (R293). -/
def laterAttempt (own a : Attempt) : Bool := own.step == a.step && own.gen == a.gen && decide (own.att < a.att)

/-- R293: a message of a later attempt than the own: the own is decided ABORT, which is complete once its decision entry is
mirrored (R376), and the later one is joined. A member whose COMMIT has not begun goes back to the update pier where it stands
behind it. -/
def joinAttempt (s : State) (p : Plan) (a : Attempt) : State :=
  let own := standing s p
  if !laterAttempt own a then s
  else
    match s.ks.commitW with
    | some w =>
      let w := { w with join := some a.att }
      if w.deciding.isSome then updKs s fun k => { k with commitW := some w } else recordDecision s p w false none
    | none => recordDecision s p (decisionWork p own (some a.att)) false none

/-- Whether a message of the commit belongs to this member's group, and its plan. -/
def commitPlan (s : State) (c : Ctl) : Option Plan :=
  match s.ks.plan with
  | none => none
  | some p => if c.tag = BitVec.ofNat 32 p.groupTag ∧ (commitSeq p).isSome = true then some p else none

/-- VOTE (Table 14-9 step 3). -/
def voteMsg (s : State) (c : Ctl) (a : Attempt) (count : Nat) (agree : Bool) (digest : List Byte) : State :=
  match commitPlan s c with
  | none => s
  | some p =>
    if attBefore a (standing s p) then s
    else
      let s := joinAttempt s p a
      passToken (updKs s fun k => { k with token := some { a := a, count := count, agree := agree, digest := digest } }) p

def execVote (c : Ctl) (a : Attempt) (count : Nat) (agree : Bool) (digest : List Byte) (s : State) :
    Host.Outcome State Fault Refusal := .next (voteMsg s c a count agree digest)

/-- VOTE_TIMEOUT: the token has not returned to the leader (Table 14-9 step 4). -/
def voteTimeout (s : State) : State :=
  match s.ks.plan, s.ks.commitW with
  | some p, some w =>
    if rankOf p = 0 ∧ 1 < groupSize p ∧ w.prepared = true ∧ w.deciding.isNone = true then recordDecision s p w false (some false)
    else s
  | _, _ => s

def execVoteTimeout (s : State) : Host.Outcome State Fault Refusal := .next (voteTimeout s)

/-- The decision goes also into the mirror held of the X+ neighbour (Table 14-9 step 7). -/
def mirrorDecision (s : State) (p : Plan) (a : Attempt) (o : Bool) : State :=
  if isTrained s 0 && (rankAt s (neighbourCoord s 0)).isSome then
    let at' := mirrorBase 0 + decisionOff p
    freshSectors (putMem s at' (decisionEntry a o)) [(at', 20)]
  else s

/-- DECISION (Table 14-9 step 7): forwarded down the tree, recorded, then acted on; a member whose COMMIT has not begun acts on
it there. -/
def decisionMsg (s : State) (c : Ctl) (a : Attempt) (o : Bool) : State :=
  match commitPlan s c with
  | none => s
  | some p =>
    if attBefore a (standing s p) then s
    else
      let s := joinAttempt s p a
      match s.ks.commitW.filter fun w => w.begun && w.join.isNone with
      | none =>
        if standing s p ≠ a ∨ heldDecision s p a ≠ 0 then s
        else journalWrite (mirrorDecision (sendDecision s p a o false) p a o) (decisionOff p) (decisionEntry a o)
      | some w =>
        if w.a ≠ a ∨ w.deciding.isSome = true then s
        else recordDecision (mirrorDecision (sendDecision s p a o false) p a o) p w o none

def execDecision (c : Ctl) (a : Attempt) (o : Bool) (s : State) : Host.Outcome State Fault Refusal :=
  .next (decisionMsg s c a o)

-- ------------------------------------------------------------------------------------------------ recovery (R295)

/-- The attempt whose recovery this member takes part in: the one in which it stands, or one that it has decided. -/
def answers (s : State) (p : Plan) (a : Attempt) : Bool := standing s p == a || heldDecision s p a != 0

/-- The replies noted for an attempt. -/
def repliesOf (s : State) (a : Attempt) : List (Nat × Nat) :=
  match s.ks.recovery with
  | some (b, l) => if b = a then l else []
  | none => []

/-- Note one reply; answers whether it is new. -/
def noteReply (s : State) (p : Plan) (a : Attempt) (r o : Nat) : State × Bool :=
  let l := repliesOf s a
  if !answers s p a || l.any (fun e => e.1 == r) then (s, false)
  else (updKs s fun k => { k with recovery := some (a, l ++ [(r, o)]) }, true)

/-- This member has taken up the query of an attempt: its own reply stands among those noted. -/
def joinedRecovery (s : State) (p : Plan) (a : Attempt) : Bool := (repliesOf s a).any fun e => e.1 == rankOf p

/-- This member joins a recovery: it floods its reply. -/
def joinRecovery (s : State) (p : Plan) (a : Attempt) : State :=
  let own := rankOf p
  let o := heldDecision s p a
  let s := updKs s fun k => { k with recovery := some (a, repliesOf s a ++ [(own, o)]) }
  flood s none fun port => .recoveryReply (ctlOf s port 0) a o own

/-- RECOVERY_START: a member that holds a prepare entry and no decision floods its query. -/
def recoveryStart (s : State) : State :=
  match s.ks.plan, s.ks.commitW with
  | some p, some w =>
    if !w.prepared || w.digest.isEmpty || w.deciding.isSome || joinedRecovery s p w.a then s
    else
      let s := flood s none fun port => .recoveryQuery (ctlOf s port 0) w.a (rankOf p)
      joinRecovery s p w.a
  | _, _ => s

def execRecoveryStart (s : State) : Host.Outcome State Fault Refusal := .next (recoveryStart s)

/-- RECOVERY_QUERY: forwarded once, answered once; one of an earlier attempt than the own is dropped (R293). -/
def recoveryQueryMsg (s : State) (c : Ctl) (a : Attempt) (asker : Nat) : State :=
  match commitPlan s c with
  | none => s
  | some p =>
    if laterAttempt a (standing s p) then s
    else
    let s := joinAttempt s p a
    if !answers s p a || joinedRecovery s p a then s
    else
      let s := flood s (some c.port) fun port => .recoveryQuery { c with port := port } a asker
      joinRecovery s p a

def execRecoveryQuery (c : Ctl) (a : Attempt) (asker : Nat) (s : State) : Host.Outcome State Fault Refusal :=
  .next (recoveryQueryMsg s c a asker)

/-- RECOVERY_REPLY: recorded and forwarded once, whether or not its query has been heard. -/
def recoveryReplyMsg (s : State) (c : Ctl) (a : Attempt) (o r : Nat) : State :=
  match commitPlan s c with
  | none => s
  | some p =>
    if laterAttempt a (standing s p) then s
    else
    let n := noteReply (joinAttempt s p a) p a r o
    if n.2 then flood n.1 (some c.port) fun port => .recoveryReply { c with port := port } a o r else n.1

def execRecoveryReply (c : Ctl) (a : Attempt) (outcome rank : Nat) (s : State) : Host.Outcome State Fault Refusal :=
  .next (recoveryReplyMsg s c a outcome rank)

/-- RECOVERY_WINDOW_END: 10 ms after the first query heard, the live member of lowest rank acts as leader: it broadcasts
a decision that some reply or mirror carries, else decides ABORT. A decision that it does not hold yet it records as in step 5 of
Table 14-9 and broadcasts when that is complete. -/
def recoveryWindowEnd (s : State) : State :=
  match s.ks.plan, s.ks.recovery with
  | some p, some (a, rs) =>
    if !joinedRecovery s p a then s else
    let s := updKs s fun k => { k with recovery := none }
    let lowest := (rs.map (·.1)).foldl Nat.min (rankOf p)
    let o := match rs.find? fun e => e.2 != 0 with | some e => e.2 | none => heldDecision s p a
    if lowest ≠ rankOf p then s
    else
      match s.ks.commitW with
      | some w =>
        if w.a ≠ a then s
        else if w.deciding.isSome then updKs s fun k => { k with commitW := some { w with lead := some true } }
        else recordDecision s p w (o == 1) (some true)
      | none =>
        if heldDecision s p a ≠ 0 then sendDecision s p a (o == 1) true
        else recordDecision s p (decisionWork p a none) (o == 1) (some true)
  | _, _ => s

def execRecoveryWindowEnd (s : State) : Host.Outcome State Fault Refusal := .next (recoveryWindowEnd s)

end Sys2Proof.Machine
end

