-- ==== Sys2Proof/Machine/HostIface.lean ====
section
/-! DEFINITION. BAR 0 (spec 04): mailbox slots (R75 to R80), the identity and host control registers (Tables 4-4 to 4-9),
the MSI-X table, the beat registers (R73), interrupt coalescing (R86). -/

namespace Sys2Proof.Machine

-- ------------------------------------------------------------------------------------------------ mailbox slots

/-- Dword 0 of a slot (Table 4-10). -/
def slotHead (h : HostIf) (n : Nat) : Nat := leNat (tabBytes h.slots (128 * n) 4)

def slotOwned (h : HostIf) (n : Nat) : Bool := (slotHead h n).testBit 31
def headTag (v : Nat) : Nat := bitsOf v 27 19
def headPrio (v : Nat) : Nat := bitsOf v 18 16
def headCmd (v : Nat) : Nat := bitsOf v 15 0

/-- A byte of the ownership bitmap (R76). -/
def ownByte (h : HostIf) (i : Nat) : Nat :=
  (List.range 8).foldl (fun v b => v + (if slotOwned h (8 * i + b) then 2 ^ b else 0)) 0

/-- Slots that a write of `n` bytes at an offset reaches. -/
def slotsReached (off n : Nat) : List Nat :=
  (List.range 256).filter fun k => decide (128 * k < off + n) && decide (off < 128 * k + 128)

/-- Whether a write covers some byte of dword 0 of a slot and is not that dword alone (R77). -/
def partialWrite (off n : Nat) : Bool :=
  (slotsReached off n).any fun k =>
    decide (off < 128 * k + 4) && decide (128 * k < off + n) && !(off == 128 * k && n == 4)

/-- A tag becomes outstanding with the dword-0 write that carries it (R78). -/
def noteTag (h : HostIf) (slot tag : Nat) : HostIf :=
  if h.inUse.contains tag then { h with collided := insertNat slot h.collided }
  else { h with inUse := insertNat tag h.inUse }

/-- Store bytes in the slots; a dword 0 with OWN 1 is a command (R75). -/
def storeSlot (h : HostIf) (off : Nat) (data : List Byte) : HostIf :=
  let h := { h with slots := tabPut h.slots off data }
  let n := off / 128
  if off % 128 = 0 ∧ data.length = 4 ∧ slotOwned h n = true then noteTag h n (headTag (slotHead h n)) else h

/-- The slots take a write (R77); a payload write of any other size or alignment that reaches no dword 0 is stored as it
comes (assumption 165). -/
def slotWrite (s : State) (off : Nat) (data : List Byte) : State :=
  let owned := (slotsReached off data.length).any (slotOwned s.host)
  let part := partialWrite off data.length
  let s := if owned then setErr s errOwned else s
  let s := if part then setErr s errPartial else s
  if owned || part then s else updHost s fun h => storeSlot h off data

/-- MAILBOX_SLOT_WRITE: `off` counts from BAR 0 offset 0x0001_0000; the bitmap behind the slots is read-only. -/
def mailboxSlotWrite (s : State) (off : Nat) (data : List Byte) (poisoned : Bool) : State :=
  let data := data.take (0x8000 - off)
  barWrite s poisoned fun s => if data.isEmpty then s else slotWrite s off data

def execMailboxSlotWrite (off : Nat) (write : Posted (List Byte)) (s : State) : Host.Outcome State Fault Refusal :=
  .next (mailboxSlotWrite s off write.data write.poisoned)

/-- The slot that core 0 takes next: highest PRIO, then lowest number (R79). -/
def nextSlot (h : HostIf) : Option Nat :=
  let l := (List.range 256).filter (slotOwned h)
  let best := (l.map fun n => headPrio (slotHead h n)).foldl Nat.max 0
  l.find? fun n => headPrio (slotHead h n) == best

/-- The slot as copied into Keystone SRAM (R76). -/
def copySlot (h : HostIf) (n : Nat) : Taken :=
  let v := slotHead h n
  { tag := headTag v, prio := headPrio v, cmd := headCmd v, payload := tabBytes h.slots (128 * n + 4) 124 }

/-- Clear OWN: the acknowledgement (R76). -/
def acknowledge (h : HostIf) (n : Nat) : HostIf :=
  { h with slots := tabPut h.slots (128 * n) (leBytes 4 (setBit (slotHead h n) 31 false)),
           collided := h.collided.filter (· != n) }

/-- MAILBOX_TAKE (R76 to R80, R88, R6). -/
def mailboxTake (s : State) : State :=
  if !mboxLive s.host || !cqEn s.host then s
  else
    match nextSlot s.host with
    | none => s
    | some n =>
      let v := slotHead s.host n
      let c := copySlot s.host n
      let hit := s.host.collided.contains n
      let s := updHost s fun h => acknowledge h n
      if hit then setErr s errTag
      else if notReady s.host && c.cmd != cmdGetInfo && c.cmd != cmdGetStatus then finishCmd s c stBusy []
      else if !commands.contains c.cmd then finishCmd s c stBadCommand []
      else if bitsOf v 30 28 ≠ 0 then finishCmd s c stBadParam []
      else updHost s fun h => { h with taken := h.taken ++ [c] }

def execMailboxTake (s : State) : Host.Outcome State Fault Refusal := .next (mailboxTake s)

-- ------------------------------------------------------------------------------------------------ registers

/-- HC_CTRL (Table 4-6): when CQ_EN rises, the next final record of every tag carries PHASE 1 (R82). -/
def ctrlWrite (s : State) (v : Nat) : State :=
  updHost s fun h =>
    let rise := !cqEn h && v.testBit 0
    { h with ctrl := BitVec.ofNat 32 (v % 8), flipped := if rise then [] else h.flipped }

/-- CQ_ENABLE: a host write of HC_CTRL. -/
def cqEnable (s : State) (value : W32) (poisoned : Bool) : State := barWrite s poisoned fun s => ctrlWrite s value.toNat

def execCqEnable (write : Posted W32) (s : State) : Host.Outcome State Fault Refusal :=
  .next (cqEnable s write.data write.poisoned)

/-- Messages of vectors that are no longer masked leave the PBA (R72: the base specification's rule). -/
def flushMsix (s : State) : State :=
  (List.range 16).foldl (fun s v =>
    if s.host.msixEn && s.host.pba.toNat.testBit v && !vectorMasked s.host v then
      sendPcie (updHost s fun h => { h with pba := BitVec.ofNat 16 (setBit h.pba.toNat v false) }) (.msix v)
    else s) s

def msixBase : Nat := 0x100000
def msixSize : Nat := 256

/-- A write to the MSI-X table: aligned dwords and quadwords; of a Vector Control dword only the Mask bit is stored. -/
def msixWrite (s : State) (off : Nat) (data : List Byte) : State :=
  let o := off - msixBase
  if (data.length = 4 ∨ data.length = 8) ∧ off % data.length = 0 then
    let keep := data.zipIdx.map fun b =>
      let k := (o + b.2) % 16
      if k < 12 then b.1 else if k = 12 then b.1 &&& 1 else 0
    flushMsix (updHost s fun h => { h with msixTable := tabPut h.msixTable o keep })
  else s

/-- The writable registers (Table 4-5), their reserved bits kept zero. -/
def regStore (s : State) (off v : Nat) : State :=
  if off = 0x1000 then ctrlWrite s v
  else updHost s fun h =>
    if off = 0x1008 then { h with err := h.err &&& ~~~(BitVec.ofNat 32 v) }
    else if off = 0x1010 then if cqEn h then h else { h with cqBaseLo := BitVec.ofNat 32 (v / 4096 * 4096) }
    else if off = 0x1014 then if cqEn h then h else { h with cqBaseHi := BitVec.ofNat 32 v }
    else if off = 0x101C then { h with coal := BitVec.ofNat 32 (v % 2 ^ 24) }
    else if off = 0x1020 then { h with msixMap := BitVec.ofNat 32 v }
    else if off = 0x1024 then { h with bar2Lo := BitVec.ofNat 32 (v / 2 ^ 30 * 2 ^ 30) }
    else if off = 0x1028 then { h with bar2Hi := BitVec.ofNat 32 (v % 512) }
    else h

/-- REGISTER_WRITE (R72): an aligned 4-byte write; any other size is ignored. -/
def registerWrite (s : State) (off : Nat) (data : List Byte) (poisoned : Bool) : State :=
  barWrite s poisoned fun s =>
    if msixBase ≤ off ∧ off + data.length ≤ msixBase + msixSize then msixWrite s off data
    else if data.length ≠ 4 ∨ off % 4 ≠ 0 then s
    else regStore s off (leNat data)

def execRegisterWrite (off : Nat) (write : Posted (List Byte)) (s : State) : Host.Outcome State Fault Refusal :=
  .next (registerWrite s off write.data write.poisoned)

/-- What HC_STATUS reads: its reset value until MBOX_LIVE is set, but for a core restart (R420, Table 20-12 step 3). -/
def hcStatus (s : State) : W32 :=
  if s.host.status.toNat.testBit bitMbox || s.pw.restart then s.host.status else HostIf.reset.status

/-- What an aligned 4-byte read of BAR 0 returns (Tables 4-3 to 4-5). -/
def bar0Read (s : State) (off : Nat) : Nat :=
  let h := s.host
  if off = 0x0 then 0x1280
  else if off = 0x4 then s.toll.stepping.toNat
  else if off = 0x8 then h.runalVer.toNat
  else if off = 0xC then h.resultVer.toNat
  else if off = 0x10 then h.tollVer.toNat
  else if off = 0x14 then h.ucodeVer.toNat
  else if off = 0x18 then s.toll.deviceId.toNat % 2 ^ 32
  else if off = 0x1C then s.toll.deviceId.toNat / 2 ^ 32
  else if off = 0x1000 then h.ctrl.toNat
  else if off = 0x1004 then (hcStatus s).toNat
  else if off = 0x1008 then h.err.toNat
  else if off = 0x1010 then h.cqBaseLo.toNat
  else if off = 0x1014 then h.cqBaseHi.toNat
  else if off = 0x1018 then 0x200
  else if off = 0x101C then h.coal.toNat
  else if off = 0x1020 then h.msixMap.toNat
  else if off = 0x1024 then h.bar2Lo.toNat
  else if off = 0x1028 then h.bar2Hi.toNat
  else if off = 0x1030 then s.beat.number.toNat % 2 ^ 32
  else if off = 0x1034 then h.beatHi.toNat
  else if 0x10000 ≤ off ∧ off < 0x18000 then leNat (tabBytes h.slots (off - 0x10000) 4)
  else if 0x18000 ≤ off ∧ off < 0x18020 then
    leNat ((List.range 4).map fun i => BitVec.ofNat 8 (ownByte h (off - 0x18000 + i)))
  else if 0x20000 ≤ off ∧ off < 0x30000 then leNat (tabBytes s.toll.snap (off - 0x20000) 4)
  else if msixBase ≤ off ∧ off < msixBase + msixSize then leNat (tabBytes h.msixTable (off - msixBase) 4)
  else if off = 0x101000 then h.pba.toNat
  else 0

/-- What a read of BAR 0 returns (R72): registers and slots answer aligned 4-byte reads, the MSI-X table and PBA aligned
reads of 4 or 8 bytes; any other read returns zero. -/
def bar0Bytes (s : State) (off len : Nat) : List Byte :=
  if len = 4 ∧ off % 4 = 0 then leBytes 4 (bar0Read s off)
  else if len = 8 ∧ off % 8 = 0 ∧ msixBase ≤ off ∧ off < 0x101008 then
    leBytes 4 (bar0Read s off) ++ leBytes 4 (bar0Read s (off + 4))
  else zeros len

/-- HC_BEAT_LO_READ: the 4-byte read of the register latches the high half (R73). A read of another size only returns
zeros (R72, `bar0Bytes`). -/
def hcBeatLoRead (s : State) : State :=
  barRead s fun s =>
    sendPcie (updHost s fun h => { h with beatHi := BitVec.ofNat 32 (s.beat.number.toNat / 2 ^ 32) })
      (.readData (bar0Bytes s 0x1030 4))

def execHcBeatLoRead (s : State) : Host.Outcome State Fault Refusal := .next (hcBeatLoRead s)

-- ------------------------------------------------------------------------------------------------ coalescing

/-- COALESCE_TIMER_EXPIRY: TIME after the first record not yet signalled, source 0 or 1 sends its message (R86). -/
def coalesceTimerExpiry (s : State) (src : Nat) : State :=
  if 2 ≤ src ∨ tabGet 0 s.host.coalCount src = 0 ∨ irqLive s.host = false then s
  else raiseIrq (updHost s fun h => { h with coalCount := tabSet 0 h.coalCount src 0 }) src

def execCoalesceTimerExpiry (src : Nat) (s : State) : Host.Outcome State Fault Refusal :=
  .next (coalesceTimerExpiry s src)

end Sys2Proof.Machine
end

