-- ==== Sys2Proof/Machine/JtagOps.lean ====
section
/-! DEFINITION. The JTAG port (R440): a scan of the data register under each instruction. It runs from P3V3_AUX; while any
rail supplied from P12V is on, every instruction but BYPASS and IDCODE acts as BYPASS. -/

namespace Sys2Proof.Machine

/-- Codes of `ir`. -/
def irBypass : Nat := 0
def irIdcode : Nat := 1
def irSample : Nat := 2
def irExtest : Nat := 3
def irClamp : Nat := 4
def irHighz : Nat := 5

/-- The identification code (R440). -/
def idcodeWord : Nat := 0xB * 2 ^ 28 + 0x1280 * 2 ^ 12 + Config.jep106.toNat * 2 + 1

def idcodeBits : List Bool := (List.range 32).map idcodeWord.testBit

/-- Cells of the boundary-scan register: the low-speed lands of Table 22-6 in the table's order. -/
def bsrCells : Nat := 28

/-- The level of a land at capture: from the state where it holds one, else a free value. -/
def landNow (s : State) (k : Nat) : Bool :=
  match k with
  | 0 => !s.pw.perst
  | 3 => !s.pw.thermtrip
  | 4 => !s.pw.prochot
  | 5 => !s.pw.faultN
  | _ => Config.landLevel s.free k

/-- Shift bits through a register: what comes out, and what stays. -/
def shiftReg (reg tdi : List Bool) : List Bool × List Bool :=
  let l := reg ++ tdi
  (l.take tdi.length, l.drop tdi.length)

/-- An instruction acts as BYPASS. -/
def bypassed (s : State) (ir : Nat) : Bool := s.pw.rails && ir != irBypass && ir != irIdcode

/-- One data-register scan under an instruction. -/
def jtagScan (s : State) (ir : Nat) (tdi : List Bool) : State :=
  if s.pw.stage = .off then s
  else
    let ir := if bypassed s ir then irBypass else ir
    let j := s.jtag
    let out := fun (bits : List Bool) (j : Jtag) => { s with jtag := { j with ir := ir, tdo := j.tdo ++ bits } }
    if ir = irIdcode then out (shiftReg idcodeBits tdi).1 { j with driving := false, floating := false }
    else if ir = irSample ∨ ir = irExtest then
      let r := shiftReg ((List.range bsrCells).map (landNow s)) tdi
      let j := { j with bsr := r.2, driving := ir == irExtest, floating := false, pinsOut := if ir = irExtest then r.2 else j.pinsOut }
      { out r.1 j with free := s.free + 1 }
    else
      let bits := (shiftReg [false] tdi).1
      if ir = irClamp then out bits { j with driving := true, floating := false, pinsOut := j.bsr }
      else if ir = irHighz then out bits { j with driving := false, floating := true }
      else out bits { j with driving := false, floating := false }

def execBypass (tdi : List Bool) (s : State) : Host.Outcome State Fault Refusal := .next (jtagScan s irBypass tdi)
def execIdcode (tdi : List Bool) (s : State) : Host.Outcome State Fault Refusal := .next (jtagScan s irIdcode tdi)
def execSamplePreload (tdi : List Bool) (s : State) : Host.Outcome State Fault Refusal := .next (jtagScan s irSample tdi)
def execExtest (tdi : List Bool) (s : State) : Host.Outcome State Fault Refusal := .next (jtagScan s irExtest tdi)
def execClamp (tdi : List Bool) (s : State) : Host.Outcome State Fault Refusal := .next (jtagScan s irClamp tdi)
def execHighz (tdi : List Bool) (s : State) : Host.Outcome State Fault Refusal := .next (jtagScan s irHighz tdi)

end Sys2Proof.Machine
end

