-- ==== Sys2Proof/Machine/Fec.lean ====
section
/-! DEFINITION. What a port puts on its lanes (spec 16, R321): the flit stream in codewords of RS(544,514) over GF(2^10), two of
them interleaved symbol by symbol and dealt to the eight active lanes, two Gray-coded bits to a PAM4 level. Where its flits
arrive, decoding is the operand `fecOk` of FLIT_RECEIVE. The field, the generator polynomial and the place of the parity
symbols are those of IEEE 802.3 Clause 91 (PRESUMED, assumption 212). -/

namespace Sys2Proof.Machine

/-- A product of GF(2^10), its primitive polynomial x^10 + x^3 + 1. -/
def gfMul (a b : Nat) : Nat :=
  (List.range 10).foldl (fun r i =>
    let r := 2 * r
    let r := if 1024 ≤ r then Nat.xor r 0x409 else r
    if b.testBit (9 - i) then Nat.xor r a else r) 0

/-- Powers of the primitive element α = x. -/
def gfPow : Nat → Nat
  | 0 => 1
  | n + 1 => gfMul (gfPow n) 2

/-- A polynomial, highest coefficient first, times (x + r). -/
def gfTimes (l : List Nat) (r : Nat) : List Nat :=
  List.zipWith Nat.xor (l ++ [0]) (0 :: l.map (gfMul r))

/-- The generator polynomial: (x + α^0) to (x + α^29). -/
def rsGenerator : List Nat := (List.range 30).foldl (fun g j => gfTimes g (gfPow j)) [1]

/-- The 30 parity symbols of a message: what its division by the generator leaves. -/
def rsParity (msg : List Nat) : List Nat :=
  msg.foldl (fun reg m =>
    let q := Nat.xor m (reg.headD 0)
    List.zipWith Nat.xor (reg.drop 1 ++ [0]) ((rsGenerator.drop 1).map (gfMul q))) (List.replicate 30 0)

/-- A codeword: 514 message symbols, then 30 of parity. -/
def rsCodeword (msg : List Nat) : List Nat := msg ++ rsParity msg

/-- The 10-bit symbols of a stretch of the flit stream, its first bits first. -/
def streamSymbols (n : Nat) (b : List Byte) : List Nat := (List.range n).map fun i => leNat b / 1024 ^ i % 1024

/-- Two codewords interleaved symbol by symbol: 1,028 message symbols make 1,088. -/
def codewordPair (l : List Nat) : List Nat :=
  (List.zip (rsCodeword (l.take 514)) (rsCodeword (l.drop 514))).flatMap fun x => [x.1, x.2]

/-- The symbols of a codeword pair that an active lane carries: they are dealt round-robin to the eight. -/
def laneSymbols (lane : Nat) (l : List Nat) : List Nat :=
  (List.range 136).map fun i => (codewordPair l).getD (8 * i + lane) 0

/-- The PAM4 level of two bits, Gray-coded. -/
def pamLevel (x : Nat) : Nat := if x = 2 then 3 else if x = 3 then 2 else x

/-- The levels that an active lane of a port carries for a stretch of 1,285 bytes of its flit stream, five levels to a
symbol. -/
def laneLevels (lane : Nat) (b : List Byte) : List Nat :=
  (laneSymbols lane (streamSymbols 1028 b)).flatMap fun x => (List.range 5).map fun i => pamLevel (x / 4 ^ i % 4)

/-- A codeword as a receiver takes it: the syndromes of what arrived are all zero where no symbol is in error. -/
def rsSyndromes (c : List Nat) : List Nat := (List.range 30).map fun j => c.foldl (fun a x => Nat.xor (gfMul a (gfPow j)) x) 0

end Sys2Proof.Machine
end

