-- ==== Sys2Proof/Machine/LinkRows.lean ====
section
/-! DEFINITION. The Viaduct link layer's events (R325 to R334), LINK_CONTROL (R337) and RING_FORM (R338 to R341). -/

namespace Sys2Proof.Machine

-- ------------------------------------------------------------------------------------------------ acknowledgement

/-- An ACK of a class (R325): the flits that it covers leave the retry buffer. -/
def ackClass (p : Port) (c ack : Nat) : Port :=
  let live := p.retry.any fun f => f.cls == c && f.lseq == ack
  if !live then p
  else
    let first := (p.retry.filter fun f => f.cls == c).head?
    let gone := match first with | some f => (ack + 4096 - f.lseq) % 4096 + 1 | none => 0
    let keep := (p.retry.filter fun f => f.cls == c).drop gone
    let live := fun (f : Flit) => f.cls != c || keep.any fun g => g.lseq == f.lseq
    { p with retry := p.retry.filter live, again := p.again.filter live, acked := listSet p.acked c ack
             resent := tabKeep (fun k => k / 4096 != c || keep.any fun g => flitKey g == k) p.resent }

def takeAcks (p : Port) (acks : List Nat) : Port :=
  [0, 1, 2, 3].foldl (fun p c => ackClass p c (acks.getD c 4095)) p

/-- Flits of a class are to be sent again (R326). -/
def resend (p : Port) (c : Nat) (fs : List Flit) : Port := { p with again := p.again.filter (fun f => f.cls != c) ++ fs }

-- ------------------------------------------------------------------------------------------------ flow control

/-- T of R329: the class rate in flits per 2,560 ns is 125 per slot. -/
def xoffLevel (s : State) (n c : Nat) : Nat := ceilDiv ((portOf s n).rtt * classSlots s n c * 125) 2560 + 16

/-- Free entries of a forwarding lane. -/
def laneFree (s : State) (n c l : Nat) : Nat :=
  1024 - ((portOf s n).lanes.filter fun f => f.cls == c && laneOf f == l).length

/-- XOFF below the threshold, XON above it by 192 (R329). -/
def flowCheck (s : State) (n c l : Nat) : State :=
  let t := xoffLevel s n c
  let sent := (portOf s n).xoffSent.contains (c, l)
  if laneFree s n c l < t ∧ sent = false then
    sendLink (updPort s n fun p => { p with xoffSent := p.xoffSent ++ [(c, l)] }) n (.xoff (Nat.xor n 1) c l)
  else if t + 192 < laneFree s n c l ∧ sent = true then
    sendLink (updPort s n fun p => { p with xoffSent := p.xoffSent.filter (· != (c, l)) }) n (.xon (Nat.xor n 1) c l)
  else s

-- ------------------------------------------------------------------------------------------------ receiving

/-- Flits of one message. -/
def sameMsg (f g : Flit) : Bool := f.kind == g.kind && f.cls == g.cls && f.src == g.src && f.msgSeq == g.msgSeq

/-- An accepted flit: kept until its message is whole, or put in a forwarding lane (R324, R329). -/
def acceptFlit (s : State) (n : Nat) (f : Flit) : State :=
  let s := updPort s n fun p =>
    { p with rx := listSet p.rx f.cls ((p.rx.getD f.cls 0 + 1) % 4096)
             suspect := p.suspect.filter (· != f.cls) }
  if f.dest = ownCoord s then
    updPort s n fun p => { p with parts := if f.last then p.parts.filter (fun g => !sameMsg f g) else p.parts ++ [f] }
  else flowCheck (updPort s n fun p => { p with lanes := p.lanes ++ [f] }) n f.cls (laneOf f)

/-- R322, R325: a port sends an IDLE flit when it has nothing that may leave: what waits on it is held, and no forwarded
flit is for it. The first after a flit has come carries the ACKs of now. -/
def idleAck (s : State) (n : Nat) : State :=
  if [0, 1, 2, 3].any (forwardWaits s n) then s else sendPlain s n 0 []

/-- FLIT_RECEIVE (R326): what does not decode or check is discarded; after a discard, the next good flit of a class that is
not the expected one draws a NACK. -/
def flitReceive (s : State) (n : Nat) (fecOk : Bool) (f : Flit) (crc : W32) : State :=
  if !isTrained s n then s
  else if !fecOk || crc != flitCrc f then updPort s n fun p => { p with suspect := [0, 1, 2, 3] }
  else
    let s := pump (armWaiting (updPort s n fun p => takeAcks p f.acks) n) n
    if !sequenced f then s
    else
      let p := portOf s n
      if f.lseq = p.rx.getD f.cls 0 then idleAck (acceptFlit s n f) n
      else if p.suspect.contains f.cls then
        sendLink (updPort s n fun p => { p with suspect := p.suspect.filter (· != f.cls) }) n
          (.nack (Nat.xor n 1) f.cls (p.rx.getD f.cls 0))
      else idleAck s n

def execFlitReceive (port : Nat) (fecOk : Bool) (f : Flit) (crc : W32) (s : State) : Host.Outcome State Fault Refusal :=
  .next (flitReceive s port fecOk f crc)

/-- FLIT_FORWARD (R330, R331): the oldest flit of a class and lane of an input port leaves in its turn, or is dropped and
logged. -/
def flitForward (s : State) (n c l : Nat) : State :=
  match (portOf s n).lanes.find? fun f => f.cls == c && laneOf f == l with
  | none => s
  | some f =>
    let gone := fun s => flowCheck (updPort s n fun p => { p with lanes := p.lanes.erase f }) n c l
    match routeTo s f.dest (some n) f.around f.dateline with
    | none => gone (logEvent s (mkEvent stLinkDown srcVia 2 n evFault 0 (coordBits f.dest)))
    | some e =>
      let g := { f with around := e.around, dateline := e.dateline }
      if maySend s e.port (portOf s e.port) g && forwardTurn s n c e.port then
        pump (gone (updPort s e.port fun p => { sendFlit p g with served := listSet p.served c n })) e.port
      else s

def execFlitForward (port cls lane : Nat) (s : State) : Host.Outcome State Fault Refusal :=
  .next (flitForward s port cls lane)

/-- R326: a class is sent again. -/
def resendClass (s : State) (n c : Nat) (fs : List Flit) : State := pump (updPort s n fun p => resend p c fs) n

/-- CLASS_RESEND_TIMEOUT (R326): a class is resent from its oldest unacknowledged flit. -/
def classResendTimeout (s : State) (n c : Nat) : State :=
  if !isTrained s n then s else resendClass s n c ((portOf s n).retry.filter fun f => f.cls == c)

def execClassResendTimeout (port cls : Nat) (s : State) : Host.Outcome State Fault Refusal :=
  .next (classResendTimeout s port cls)

/-- NACK (R326): the sender resends the class from the named LSEQ. -/
def nackMsg (s : State) (n c expected : Nat) : State :=
  if !isTrained s n then s
  else resendClass s n c (((portOf s n).retry.filter fun f => f.cls == c).dropWhile fun f => f.lseq != expected)

def execNack (port cls expected : Nat) (s : State) : Host.Outcome State Fault Refusal := .next (nackMsg s port cls expected)

def xoffMsg (s : State) (n c l : Nat) : State :=
  if !isTrained s n then s
  else updPort s n fun p => { p with stopped := if p.stopped.contains (c, l) then p.stopped else p.stopped ++ [(c, l)] }

def execXoff (port cls lane : Nat) (s : State) : Host.Outcome State Fault Refusal := .next (xoffMsg s port cls lane)

def xonMsg (s : State) (n c l : Nat) : State :=
  if !isTrained s n then s else pump (updPort s n fun p => { p with stopped := p.stopped.filter (· != (c, l)) }) n

def execXon (port cls lane : Nat) (s : State) : Host.Outcome State Fault Refusal := .next (xonMsg s port cls lane)

-- ------------------------------------------------------------------------------------------------ training

def execPortRetrain (port : Nat) (s : State) : Host.Outcome State Fault Refusal := .next (portRetrain s port)

def retrainRequestMsg (s : State) (n : Nat) : State := if !isTrained s n then s else beginRetrain s n

def execRetrainRequest (port : Nat) (s : State) : Host.Outcome State Fault Refusal := .next (retrainRequestMsg s port)

/-- Sequence spaces and retry buffers reset (Table 16-4 step 3); flits of messages in flight are gone. -/
def freshPort (p : Port) : Port :=
  { p with tx := [0, 0, 0, 0], rx := [0, 0, 0, 0], acked := [4095, 4095, 4095, 4095], retry := [], resent := [], again := [],
           stopped := [], xoffSent := [], suspect := [], parts := [] }

/-- The link trainer is free: the next command that waits for it starts (R79). -/
def isLinkCmd (cmd : Nat) : Bool := cmd == cmdLinkControl || cmd == cmdRingForm

def linkBusy (s : State) : Bool := s.via.linkTag.isSome || s.via.formW.isSome

/-- Ports that have trained, miswired ones among them (R333), and those using the spare lane, as LINK_CONTROL reports them. -/
def linkResults (s : State) : List Nat :=
  [(linkedPorts s).foldl (fun v p => v + 2 ^ p) 0,
   ((linkedPorts s).filter fun p => (portOf s p).spare).foldl (fun v p => v + 2 ^ p) 0]

def lcPorts (c : Taken) : List Nat := (List.range 8).filter fun p => (payAt c 4 1).testBit p
def lcAction (c : Taken) : Nat := payAt c 5 1

/-- A port takes a state; a change of it raises source 6 (Table 4-12a). -/
def portChange (s : State) (n : Nat) (st : PortState) : State :=
  let was := (portOf s n).st
  let s := updPort s n fun p => { p with st := st }
  if was = st then s else raiseIrq s 6

/-- Flits that wait on a port leave by another way (R330). -/
def rerouteFlit (s : State) (f : Flit) : State := routeFlits s f.dest [f]

/-- R341: a RING_FORM in hand whose hop port is down or miswired is lost. -/
def formHopLost (s : State) : Bool := s.via.formW.any fun w => !portUp s w.f.plusPort || !portUp s w.f.minusPort

/-- What waits on a port leaves by another way (R330). -/
def rerouteQueue (s : State) (n : Nat) : State :=
  let waiting := (portOf s n).queue
  waiting.foldl rerouteFlit (updPort s n fun p => { p with queue := [] })

/-- A port that held for a retraining or was trained is so no longer: what it had heard of the beat is void (R15), and what
waits on it is rerouted. -/
def leaveService (s : State) (n : Nat) : State := rerouteQueue (forgetMarkers (armWaiting s n) n) n

/-- A port stops: its unacknowledged flits are lost. -/
def stopPort (s : State) (n : Nat) (st : PortState) : State :=
  leaveService (updPort (portChange s n st) n fun p => { freshPort p with retrain := false, peer := none }) n

/-- LINK_CONTROL's action on its ports: the ports that now train. -/
def linkAct (s : State) (c : Taken) : State × List Nat :=
  let ps := lcPorts c
  match lcAction c with
  | 1 =>
    let l := ps.filter fun p => (portOf s p).st == .down || (portOf s p).st == .disabled
    (l.foldl (fun s p => portChange (updPort s p fun q => { q with retrain := false }) p .training) s, l)
  | 2 =>
    let l := ps.filter (isLinked s)
    (l.foldl portRetrain s, l)
  | 3 => (ps.foldl (fun s p => stopPort s p .disabled) s, [])
  | _ => (s, [])

-- ------------------------------------------------------------------------------------------------ RING_FORM

/-- The formation body (Table 16-8). -/
def formationOf (c : Taken) : Formation :=
  { tag := payAt c 4 4, dims := ⟨payAt c 8 1, payAt c 9 1, payAt c 0xA 1⟩, coord := ⟨payAt c 0xC 1, payAt c 0xD 1, payAt c 0xE 1⟩
    length := payAt c 0x10 2, groups := payAt c 0x12 2, groupIdx := payAt c 0x14 2, head := payAt c 0x16 2
    shape := payAt c 0x18 1, snakeW := payAt c 0x19 1, origin := ⟨payAt c 0x1C 1, payAt c 0x1D 1, payAt c 0x1E 1⟩
    epoch := payAt c 0x20 4, exclude := BitVec.ofNat 64 (payAt c 0x24 8), pos := 0, plusPort := 0, minusPort := 1 }

def formFields : List (Nat × Nat) :=
  [(4, 4), (8, 3), (0xC, 3), (0x10, 2), (0x12, 2), (0x14, 2), (0x16, 2), (0x18, 1), (0x19, 1), (0x1C, 3), (0x20, 4), (0x24, 8)]

def inDims (d c : Coord) : Bool := decide (c.x < d.x) && decide (c.y < d.y) && decide (c.z < d.z)

/-- X coordinates of an X line's ring, upward from ORIGIN (R339). -/
def lineXs (f : Formation) : List Nat :=
  ((List.range f.dims.x).map fun i => (f.origin.x + i) % f.dims.x).filter fun x => !f.exclude.toNat.testBit x

/-- Rows of a snake. -/
def snakeRows (f : Formation) : Nat := f.length / max 1 f.snakeW

/-- Column and row offsets of ring position i of a snake (R339). -/
def snakeAt (f : Formation) (i : Nat) : Nat × Nat :=
  let w := f.snakeW
  let k := snakeRows f
  if i < w then (i, 0)
  else
    let j := i - w
    let r := j / (w - 1) + 1
    if r < k then (if r % 2 = 1 then (w - 1 - j % (w - 1), r) else (1 + j % (w - 1), r))
    else (0, k - 1 - (j - (k - 1) * (w - 1)))

/-- The coordinate of a ring position. -/
def ringCoord (f : Formation) (i : Nat) : Coord :=
  if f.shape = 0 then f.coord
  else if f.shape = 1 then ⟨(lineXs f).getD i 0, f.origin.y, f.origin.z⟩
  else
    let o := snakeAt f i
    ⟨(f.origin.x + o.1) % f.dims.x, (f.origin.y + o.2) % f.dims.y, f.origin.z⟩

/-- The port of the hop from ring position i to the next (R340). -/
def hopPort (f : Formation) (i : Nat) : Nat :=
  if f.shape = 1 then
    let a := (lineXs f).getD i 0
    let b := (lineXs f).getD ((i + 1) % f.length) 0
    if (b + f.dims.x - a) % f.dims.x = 2 % f.dims.x ∧ f.exclude.toNat.testBit ((a + 1) % f.dims.x) then 6 else 0
  else
    let a := snakeAt f i
    let b := if i + 1 = f.length then (0, 0) else snakeAt f (i + 1)
    if a.2 < b.2 then 2 else if b.2 < a.2 then 3 else if a.1 < b.1 then 0 else 1

/-- R339: the shape rules. -/
def shapeOk (f : Formation) : Bool :=
  match f.shape with
  | 0 => f.length == 1 && f.snakeW == 0 && f.exclude == 0
  | 1 =>
    let xs := lineXs f
    f.snakeW == 0 && decide (f.exclude.toNat < 2 ^ f.dims.x) && f.length == xs.length && decide (2 ≤ f.length)
      && !f.exclude.toNat.testBit f.origin.x
      && (List.range f.dims.x).all fun x => !(f.exclude.toNat.testBit x && f.exclude.toNat.testBit ((x + 1) % f.dims.x))
  | 2 =>
    let k := snakeRows f
    f.exclude == 0 && decide (2 ≤ f.snakeW ∧ f.snakeW ≤ 64 ∧ f.snakeW ≤ f.dims.x) && k * f.snakeW == f.length
      && k % 2 == 0 && decide (2 ≤ k ∧ k ≤ f.dims.y)
  | _ => false

/-- R341 step 1: the ranges of Table 16-8, the shape, and an own coordinate on the ring; the formation with position and
hop ports filled in. -/
def checkFormation (f : Formation) : Option Formation :=
  if f.tag = 0 ∨ f.dims.x = 0 ∨ 64 < f.dims.x ∨ f.dims.y = 0 ∨ 16 < f.dims.y ∨ f.dims.z = 0 ∨ 16 < f.dims.z ∨ f.length = 0
      ∨ 1024 < f.length ∨ f.groups = 0 ∨ 16384 < f.groups ∨ f.groups ≤ f.groupIdx ∨ f.head = 0 ∨ 64 < f.head
      ∨ !inDims f.dims f.coord ∨ !inDims f.dims f.origin ∨ !shapeOk f then none
  else
    match (List.range f.length).find? fun i => ringCoord f i == f.coord with
    | none => none
    | some i =>
      some { f with pos := i, plusPort := hopPort f i
                    minusPort := Nat.xor (hopPort f ((i + f.length - 1) % f.length)) 1 }

/-- A ring over which R340 can record a bypass link. -/
def bypassRing (f : Formation) : Bool := f.shape == 1 && decide (3 ≤ f.length) && f.exclude == 0

/-- R340: a bypass link may be recorded. -/
def bypassMay (s : State) (f : Formation) : Bool :=
  bypassRing f && isTrained s 6 && isTrained s 7

/-- The FORM that this device sends over a port. -/
def formMsg (s : State) (f : Formation) (n status : Nat) : Instr :=
  .form { port := Nat.xor n 1, src := f.coord, tag := BitVec.ofNat 32 f.tag, status := BitVec.ofNat 8 status } f.length f.pos
    s.host.resultVer s.toll.stepping (decide (6 ≤ n) && n != f.plusPort && n != f.minusPort) s.toll.deviceId

/-- The position that a neighbour over a port should report. -/
def formPos (f : Formation) (n : Nat) : Nat :=
  if n = f.plusPort then (f.pos + 1) % f.length
  else if n = f.minusPort then (f.pos + f.length - 1) % f.length
  else if n = 6 then (f.pos + 2) % f.length else (f.pos + f.length - 2 % f.length) % f.length

/-- The STATUS that a FORM carries. -/
def formStatus : Instr → Nat
  | .form c .. => c.status.toNat
  | _ => stOk

/-- R341 step 3: a FORM agrees with the own position and values. -/
def formAgrees (s : State) (f : Formation) (n : Nat) (i : Instr) : Nat :=
  match i with
  | .form c len pos ver step _ _ =>
    if c.status = 0 ∧ len = f.length ∧ pos = formPos f n ∧ ver = s.host.resultVer ∧ step = s.toll.stepping then stOk
    else stBadParam
  | _ => stBadParam

/-- Bypass ports are seen apart from ring hops. -/
def hopOf (f : Formation) (n : Nat) : Bool := n == f.plusPort || n == f.minusPort

/-- The group ends: no values are held (R341). -/
def ungroup (s : State) : State :=
  resendIdent (updVia s fun v => { v with formed := none, given := none, formW := none, bypass := false, bypassSeen := [] }) s

/-- RING_FORM fails. -/
def formFails (s : State) (w : FormWork) (status : Nat) (rs : List Nat) : State := finishCmd (ungroup s) w.cmd status rs

/-- RING_FORM fails on a FORM: the neighbours hear of it, and the sender's STATUS goes into the completion (R341 step 3), as
its first result word without another meaning (DEDUCED, assumption 216). -/
def formRefused (s : State) (w : FormWork) (i : Instr) : State :=
  let s := (List.range 8).foldl (fun s n => if hopOf w.f n then sendVia s n (formMsg s w.f n stBadParam) else s) s
  formFails s w stBadParam [0, 0, 0, formStatus i]

/-- Both bypass FORMs agree (R340). -/
def noteBypass (s : State) : State :=
  updVia s fun v => { v with bypass := v.bypassSeen.contains 6 && v.bypassSeen.contains 7 }

/-- RING_FORM succeeds: coordinate, dimensions and group values are the body's. -/
def formDone (s : State) (c : Taken) (f : Formation) : State :=
  let t := noteBypass (updVia s fun v =>
    { v with formed := some f, given := some f, formW := none, coord := some f.coord, dims := some f.dims,
             ranks := [], ranksEpoch := 0 })
  finishCmd (resendIdent t s) c stOk [f.tag, f.length, f.pos]

/-- A FORM on a port during RING_FORM: every one that comes over a hop port or a bypass port of such a ring is compared. -/
def formHere (s : State) (w : FormWork) (n : Nat) (i : Instr) : State :=
  let st := formAgrees s w.f n i
  if !hopOf w.f n && !(bypassRing w.f && decide (6 ≤ n)) then s
  else if st ≠ 0 then formRefused s w i
  else if hopOf w.f n then
    let seen := if w.seen.contains n then w.seen else w.seen ++ [n]
    if seen.contains w.f.plusPort ∧ seen.contains w.f.minusPort then formDone s w.cmd w.f
    else updVia s fun v => { v with formW := some { w with seen := seen } }
  else if bypassMay s w.f then updVia s fun v => { v with bypassSeen := insertNat n v.bypassSeen }
  else s

/-- FORMs that came early are taken up (R341). -/
def replayForms (s : State) : State :=
  let early := s.via.forms
  early.foldl (fun s e =>
    match s.via.formW with
    | some w => formHere s w e.1 e.2
    | none => s) (updVia s fun v => { v with forms := [] })

/-- RING_FORM begins (R341 steps 1 and 2). -/
def beginForm (s : State) (c : Taken) : State :=
  match checkFormation (formationOf c) with
  | none => finishCmd (ungroup s) c stBadParam []
  | some f =>
    let s := ungroup s
    if f.shape = 0 then formDone s c f
    else if !portUp s f.plusPort || !portUp s f.minusPort then finishCmd s c stLinkDown []
    else
      let ports := (List.range 8).filter fun n => hopOf f n || (decide (6 ≤ n) && bypassMay s f)
      let s := updVia s fun v => { v with formW := some { cmd := c, f := f, seen := [] } }
      replayForms (ports.foldl (fun s n => sendVia s n (formMsg s f n 0)) s)

/-- LINK_CONTROL begins. -/
def beginLink (s : State) (c : Taken) : State :=
  let st := planState s
  if lcAction c ≠ 0 ∧ st = plRunning ∨ lcAction c ≠ 0 ∧ st = plLoading then finishCmd s c stBusy []
  else
    let r := linkAct s c
    let s := resendIdent r.1 s
    if r.2.isEmpty then finishCmd s c stOk (linkResults s)
    else updVia s fun v => { v with linkTag := some c, linkLeft := r.2 }

/-- The next command that waits for the link trainer, while none holds it; at most `n` in turn. -/
def nextLink : Nat → State → State
  | 0, s => s
  | n + 1, s =>
    if linkBusy s then s
    else
      match nextLong s isLinkCmd with
      | none => s
      | some c =>
        if c.cmd = cmdRingForm then
          nextLink n (if planState s = plNone then beginForm s c else finishCmd s c stBusy [])
        else nextLink n (beginLink s c)

def linkQueue (s : State) : State := nextLink (s.host.long.length) s

def linkControl (s : State) (tag : Nat) : State :=
  serve s cmdLinkControl tag fun s c =>
    let st := planState s
    if !payClean c [(4, 1), (5, 1)] then finishCmd s c stBadParam []
    else if lcAction c ≠ 0 ∧ (st = plLoading ∨ st = plRunning) then finishCmd s c stBusy []
    else if payAt c 4 1 = 0 ∨ 3 < lcAction c then finishCmd s c stBadParam []
    else
      let s := acceptCmd s c
      if lcAction c = 0 then finishCmd s c stOk (linkResults s) else linkQueue s

def execLinkControl (tag : Nat) (s : State) : Host.Outcome State Fault Refusal := .next (linkControl s tag)

def ringForm (s : State) (tag : Nat) : State :=
  serve s cmdRingForm tag fun s c =>
    if !payClean c formFields then finishCmd (if planState s = plNone then ungroup s else s) c stBadParam []
    else if planState s ≠ plNone then finishCmd s c stBusy []
    else if (checkFormation (formationOf c)).isNone then finishCmd (ungroup s) c stBadParam []
    else linkQueue (acceptCmd s c)

def execRingForm (tag : Nat) (s : State) : Host.Outcome State Fault Refusal := .next (ringForm s tag)

/-- FORM (R341): compared now, or kept for the RING_FORM to come; a bypass FORM counts after completion too. A member
that holds for admission answers the FORM of the unit (Table 19-9 step 2). -/
def formRow (s : State) (c : Ctl) (len pos : Nat) (ver : W32) (step : Byte) (bypass : Bool) (id : W64) : State :=
  let i : Instr := .form c len pos ver step bypass id
  let n := c.port
  if !isTrained s n then s
  else
    match s.via.formW, s.via.formed with
    | some w, _ => linkQueue (formHere s w n i)
    | none, some f =>
      if bypass && !hopOf f n && formAgrees s f n i == 0 && bypassMay s f then
        noteBypass (updVia s fun v => { v with bypassSeen := insertNat n v.bypassSeen })
      else if s.grp.holdAdmit && hopOf f n then sendVia s n (formMsg s f n (formAgrees s f n i))
      else updVia s fun v => { v with forms := v.forms.filter (fun e => e.1 != n) ++ [(n, i)] }
    | none, none => updVia s fun v => { v with forms := v.forms.filter (fun e => e.1 != n) ++ [(n, i)] }

/-- R341: a hop port that is down or miswired ends the RING_FORM in hand. -/
def checkForm (s : State) : State :=
  match s.via.formW with
  | some w => if formHopLost s then linkQueue (formFails s w stLinkDown []) else s
  | none => s

def formTimeout (s : State) : State :=
  match s.via.formW with
  | none => s
  | some w => linkQueue (formFails s w stLinkDown [])

-- ------------------------------------------------------------------------------------------------ training ends

/-- A port of a LINK_CONTROL has trained or failed. -/
def linkPortDone (s : State) (n : Nat) : State :=
  match s.via.linkTag with
  | none => s
  | some c =>
    let left := s.via.linkLeft.filter (· != n)
    if left.isEmpty then
      let s := updVia s fun v => { v with linkTag := none, linkLeft := [] }
      linkQueue (finishCmd s c stOk (linkResults s))
    else updVia s fun v => { v with linkLeft := left }

/-- Training has failed: the port is down, LINK_DOWN is logged and notified (R328, R332). -/
def portFails (s : State) (n : Nat) : State :=
  let was := (portOf s n).retrain
  let s := stopPort s n .down
  let e := mkEvent stLinkDown srcVia 2 n evFault 0 0
  if was then coordFault (notifyFault s e) stLinkDown else logEvent s e

/-- R334: with no group formed, the coordinate follows from the lowest-numbered torus port whose peer has one. -/
def learnCoord (s : State) : State :=
  if s.via.formed.isSome then s
  else
    match [0, 1, 2, 3, 4, 5].findSome? fun n =>
        match (portOf s n).peer with
        | some i => if i.coordValid && isTrained s n then some (n, i) else none
        | none => none with
    | none => s
    | some (n, i) =>
      let d := n / 2
      let m := max 1 (axisOf i.dims d)
      let a := axisOf i.coord d
      let own := withAxis i.coord d (if n % 2 = 0 then (a + m - 1) % m else (a + 1) % m)
      updVia s fun v => { v with coord := some own, dims := some i.dims }

/-- Training has succeeded (Table 16-4): spare lane, round trip, sequence spaces, IDENT, resends after a retraining. -/
def portTrains (s : State) (n : Nat) (spare : Bool) (rtt : Nat) : State :=
  let s := updPort s n fun p =>
    let q := if p.retrain then { p with again := p.retry, resent := [] } else freshPort p
    { q with st := if miswired n p then .miswired else .trained, retrain := false, spare := spare, rtt := rtt }
  let s := if (portOf s n).st = .miswired then leaveService (logEvent s (mkEvent stLinkDown srcVia 2 n evFault 0 0)) n else s
  let t := raiseIrq (pump (sendLink (forgetDelay (armWaiting s n) n) n (.ident (Nat.xor n 1) (identOf s n))) n) 6
  resendIdent (learnCoord t) t

/-- PORT_TRAINING_COMPLETE: one failed active lane takes the spare; two or more leave the port down (R332). A peer of
another LINK_VERSION is not trained beyond step 2 (R333). -/
def portTrainingComplete (s : State) (n : Nat) (failed : List Nat) (rtt : Nat) : State :=
  let p := portOf s n
  if p.st ≠ .training then s
  else
    let bad := (failed.filter (· < 9)).eraseDups
    let odd := p.peer.any fun i => i.version != 1
    let s := if 2 ≤ bad.length then portFails s n
             else if odd then leaveService (updPort s n fun p => { freshPort p with retrain := false }) n
             else portTrains s n (bad.any (· < 8)) rtt
    linkPortDone (checkForm s) n

def execPortTrainingComplete (port : Nat) (failed : List Nat) (rtt : Nat) (s : State) :
    Host.Outcome State Fault Refusal := .next (portTrainingComplete s port failed rtt)

/-- IDENT (R333, R334): the peer's identity; a wrong port number makes the port miswired (R320). -/
def identMsg (s : State) (n : Nat) (i : Ident) : State :=
  let p := portOf s n
  if p.st = .down ∨ p.st = .disabled then s
  else
    let wrong := decide (i.port ≠ Nat.xor n 1)
    let st := if i.version ≠ 1 then PortState.training
              else if p.st = .trained ∧ wrong = true then .miswired
              else if p.st = .miswired ∧ wrong = false then .trained else p.st
    let up := portUp s n
    let t := portChange (updPort s n fun p => { p with peer := some i, retrain := p.retrain && i.version == 1 }) n st
    let t := if up && !portUp t n then leaveService t n else t
    let t := if wrong && p.st == .trained then logEvent t (mkEvent stLinkDown srcVia 2 n evFault 0 0) else t
    checkForm (resendIdent (learnCoord t) s)

def execIdent (port : Nat) (i : Ident) (s : State) : Host.Outcome State Fault Refusal := .next (identMsg s port i)

end Sys2Proof.Machine
end

