-- ==== Sys2Proof/Machine/ConfigSpace.lean ====
section
/-! DEFINITION. What configuration space shows of the function (R67 to R69, Tables 4-1 and 4-2). No row of the opcode
table reads it; PCIE_LINK_TRAINED carries what the host sets in it. -/

namespace Sys2Proof.Machine

/-- The protocols of the Data Object Exchange mailbox. -/
inductive DoeProtocol where
  | discovery | cmaSpdm
  deriving DecidableEq, Repr

/-- The capabilities of Table 4-2; the function implements these and no others. -/
inductive Capability where
  | pcieEndpoint (mps mrrs tagBits : List Nat) (flitMode functionReset : Bool)
  | powerManagement (states : List PmState) (pme : Bool)
  | msix (vectors tableOffset pbaOffset : Nat)
  | advancedErrors (errors : List AerError)
  | dataObjects (protocols : List DoeProtocol)
  | resizableBar (bar : Nat) (sizes : List Nat)     -- log2 of each size offered
  | serialNumber (id : W64)
  | physicalLayer (gigatransfers : Nat)
  | laneMargining
  | dataLinkFeature
  deriving DecidableEq, Repr

def aerErrors : List AerError :=
  [.dataLinkProtocol, .poisonedTlp, .flowControlProtocol, .completionTimeout, .completerAbort, .unexpectedCompletion,
   .receiverOverflow, .malformedTlp, .ecrc, .unsupportedRequest, .uncorrectableInternal, .receiver, .badTlp, .badDllp,
   .replayNumRollover, .replayTimerTimeout, .advisoryNonFatal, .correctedInternal, .headerLogOverflow]

def doeProtocols : List DoeProtocol := [.discovery, .cmaSpdm]

/-- Table 4-2; the serial number is the device identity. -/
def capabilities (id : W64) : List Capability :=
  [.pcieEndpoint [128, 256, 512] [128, 256, 512, 1024, 2048, 4096] [10, 14] true true,
   .powerManagement [.d0, .d3hot] false, .msix 16 0x100000 0x101000, .advancedErrors aerErrors, .dataObjects doeProtocols,
   .resizableBar 2 (List.range' 30 12), .physicalLayer 16, .physicalLayer 32, .physicalLayer 64, .physicalLayer 128,
   .laneMargining, .dataLinkFeature, .serialNumber id]

/-- The one physical function (R68), with what the host has set in it. -/
structure PcieFunction where
  vendorId  : BitVec 16
  deviceId  : BitVec 16
  classCode : BitVec 24
  caps      : List Capability
  set       : PcieConfig
  errors    : List AerError    -- what AER has logged
  deriving DecidableEq, Repr

/-- What configuration space shows. -/
def pcieFunction (s : State) : PcieFunction :=
  let h := s.host
  { vendorId := Config.vendorId, deviceId := 0x1280, classCode := 0x120000, caps := capabilities s.toll.deviceId
    set := { msixEn := h.msixEn, bar2Bits := h.bar2Bits, mps := h.mps, mrrs := h.mrrs, tagBits := h.tagBits, pm := h.pm }
    errors := h.aer }

/-- Trestle's sustained throughput per direction in units of 1/4 GB/s (Table 4-1). -/
def trestleRate (h : HostIf) : Nat :=
  let full := match h.rate with | .gt32 => 55 | .gt64 => 110 | .gt128 => 220
  let lanes := match h.width with | .x4 => 1 | .x8 => 2 | .x16 => 4
  full * lanes

end Sys2Proof.Machine
end

