-- ==== Sys2Proof/Machine/PowerReset.lean ====
section
/-! DEFINITION. Supplies, the start sequence and the resets (spec 21, 22: R417 to R427, R431, R442). Each reset keeps or
clears state by its column of Table 21-4; the lists of what the device has sent are outputs and are never cleared. -/

namespace Sys2Proof.Machine

-- ------------------------------------------------------------------------------------------------ what resets clear

/-- Function state of the PCIe controller (Table 21-4, FLR). -/
def clearConfig (h : HostIf) : HostIf :=
  let r := HostIf.reset
  { h with pm := r.pm, tagBits := r.tagBits, msixEn := r.msixEn, bar2Bits := r.bar2Bits, mps := r.mps, mrrs := r.mrrs, msixTable := r.msixTable,
           pba := 0, aer := [] }

/-- R71: outstanding commands are discarded, every tag is free. -/
def clearTagsInUse (h : HostIf) : HostIf :=
  { h with slots := [], inUse := [], collided := [], taken := [], long := [] }

/-- Host-control registers (Tables 4-5 to 4-9); readiness, plan state and alerts show what they show. -/
def clearHostRegs (h : HostIf) : HostIf :=
  let r := HostIf.reset
  statusField { clearTagsInUse h with
    ctrl := 0, err := 0, cqBaseLo := 0, cqBaseHi := 0, coal := r.coal, msixMap := r.msixMap, bar2Lo := 0, bar2Hi := 0,
    beatHi := 0, flipped := [], coalCount := [] } 15 8 0

/-- A reset during FW_STAGE leaves the slot that it was writing unstaged (R411, R426); the image's manifest has not come, and
with it the component, which is a free value. -/
def unstage (s : State) : State :=
  match s.toll.update with
  | .inBand _ =>
    let t := { s with free := s.free + 1 }
    setStaged (updToll t fun t => { t with update := .none }) ((Config.stagedComponent s.free).toNat % 3) false
  | _ => s

/-- No engine holds a command; an activation in progress goes on (Table 20-12). -/
def dropHeld (s : State) : State :=
  let s := updKs s fun k =>
    { k with loading := none, startTag := none, startStage := none, pauseReq := none, marchTag := none,
             reshardW := none, reshardTok := none, reshardBad := none }
  unstage (updVia s fun v => { v with linkTag := none, linkLeft := [], formW := none })

/-- No command is held by any engine: tags are freed. -/
def dropCommands (s : State) : State :=
  updToll (dropHeld s) fun t => { t with actW := t.actW.map fun w => { w with cmd := none } }

/-- What the repair table re-establishes on spans and weight cache (R127, R312), and the counts since power-up (Table 20-7). -/
def repairedSpans (q : Spans) : Spans :=
  { Spans.reset with phys := q.phys, secded := q.secded, retired := q.retired, spares := q.spares, missing := q.missing, cacheOff := q.cacheOff, defects := q.defects, paceLimit := q.paceLimit }

/-- Keystone cleared; what lies in DRAM (norm records, decisions of the journal) stays. -/
def clearedKs (k : Keystone) : Keystone := { Keystone.reset with normHist := k.normHist }

/-- Ports keep training, forwarding and retry state; the traffic that this device originates goes (Table 21-4). -/
def clearOwnTraffic (v : Viaduct) : Viaduct :=
  { v with coord := none, dims := none, formed := none, given := none, bypass := false, formW := none, forms := [], bypassSeen := [], ranks := [], ranksEpoch := 0,
           digests := [], linkTag := none, linkLeft := []
           ports := v.ports.map fun e => (e.1, { e.2 with queue := [], parts := [] }) }

/-- NOT_READY set, MBOX_LIVE clear, no plan; versions that wait on MBOX_LIVE read zero (R420). -/
def notYetReady (h : HostIf) : HostIf :=
  let h := statusField (statusBit (statusBit h bitReady true) bitMbox false) 4 2 plNone
  { h with runalVer := 0, resultVer := 0, ucodeVer := 0 }

/-- Keystone, spans, Causeway, weight cache and Trestle are reset (Table 21-3): plan, settings, regions and bank contents
go; DRAM and Viaduct training stay. -/
def coreReset (s : State) : State :=
  let s := dropHeld s
  let s := { s with ks := clearedKs s.ks, sp := repairedSpans s.sp, grp := .reset, tre := .reset,
                    via := clearOwnTraffic s.via }
  let s := updDram s fun d => { d with adds := [], window := [], markers := [] }
  updHost s fun h => { notYetReady h with regions := [] }

/-- Everything supplied from P12V is off (R431, R400): the P12V column of Table 21-4. -/
def powerOff (s : State) : State :=
  let s := coreReset (dropCommands s)
  let wires : Tab Port := s.via.ports.map fun e => (e.1, { Port.reset with wire := e.2.wire })
  let d := s.dram
  { s with
    ks := .reset
    sp := { s.sp with secded := [] }
    via := { Viaduct.reset with ports := tabKeep (fun _ => true) (wires.filter fun e => e.2 != Port.reset)
                                sent := s.via.sent, routed := s.via.routed }
    dram := { Dram.reset with remaps := d.remaps, spareRows := d.spareRows, reserve := d.reserve, retired := d.retired }
    beat := { s.beat with diff := 0, lead := none, upstream := none, hops := 0, root := 0, locked := false,
                          portHops := [], delays := [], asked := [], echoDue := [] }
    host := { clearHostRegs (clearConfig s.host) with linkUp := false, rate := HostIf.reset.rate, width := HostIf.reset.width, flitMode := false }
    toll := { s.toll with floors := [], stale := true, corrAt := [], lastCorr := [] }
    pw := { s.pw with rails := false, restart := false, warmPending := false, warmEnv := none,
                      stage := if s.pw.stage = .off ∨ s.pw.stage = .romOnly then s.pw.stage else .firmware } }

/-- The links that stay trained hear of what a reset or a boot has changed, and the coordinate is learnt anew (R333, R334). -/
def announce (s : State) (old : State) : State := resendIdent (learnCoord s) old

/-- HC_STATUS.BEAT_UNLOCKED and THERMAL show what holds. -/
def showAlerts (s : State) : State :=
  updHost s fun h => statusBit (statusBit h bitBeat (!s.beat.locked)) bitThermal (protecting s)

-- ------------------------------------------------------------------------------------------------ the Tollhouse boots

/-- SEQNO continues from the flash log (R403). -/
def nextSeqno (t : Toll) : W32 := match t.flashLog.getLast? with | none => 0 | some r => r.seqno + 1

/-- Steps B and C of Table 21-1 (R418, R419): boot ROM, Tollhouse firmware. The flag says whether firmware runs. -/
def bootToll (s : State) : State × Bool :=
  let s := updToll s fun t =>
    { t with seqno := nextSeqno t, sramLog := [], persistLost := t.persistLost || !t.unsaved.isEmpty, unsaved := [],
             windows := [], update := .none, staging := [], receiver := none,
             negotiated := false, stale := true }
  let s := updPw s fun p => { p with stage := .romOnly, faultN := false }
  let b := bootComponent s 0
  if b.2 then
    let s := updToll b.1 deriveKeys
    let s := updHost s fun h => { h with tollVer := BitVec.ofNat 32 (imgVersion (activeImage s.toll 0)) }
    (showStaged (updPw s fun p => { p with stage := .firmware }), true)
  else (updPw b.1 fun p => { p with faultN := true }, false)

/-- P3V3_AUX_RISE (steps A to C): a cold start clears everything but fuses and flash. -/
def p3v3AuxRise (s : State) (straps : Byte) : State :=
  if s.pw.stage ≠ .off then s
  else
    let t := s.toll
    let keep : Toll :=
      { Toll.reset with uds := t.uds, deviceId := t.deviceId, keyHash := t.keyHash, rollback := t.rollback,
                        stepping := t.stepping, spareMap := t.spareMap, slots := t.slots, active := t.active,
                        staged := t.staged, limitW := t.limitW, repair := t.repair, flashLog := t.flashLog,
                        persistLost := t.persistLost, unsaved := t.unsaved, drbg := t.drbg, eid := t.eid, dynAddr := t.dynAddr, replies := t.replies }
    let off := powerOff s
    let s : State :=
      { off with beat := .reset, toll := keep, jtag := { Jtag.reset with tdo := s.jtag.tdo }
                 pw := { Power.reset with p12v := s.pw.p12v, perst := s.pw.perst, prochot := s.pw.prochot,
                                          straps := straps, uart := s.pw.uart, stage := .romOnly } }
    showAlerts (bootToll s).1

def execP3v3AuxRise (straps : Byte) (s : State) : Host.Outcome State Fault Refusal := .next (p3v3AuxRise s straps)

/-- P3V3_AUX_LOSS: the Tollhouse is off, and with it every rail that it controls; the trip latch is clear (R442). -/
def p3v3AuxLoss (s : State) : State :=
  if s.pw.stage = .off then s
  else
    let s := powerOff s
    let s := updToll s fun t =>
      { t with persistLost := t.persistLost || !t.unsaved.isEmpty, unsaved := [], sramLog := [], windows := [], holds := [],
               udsLocked := false, update := .none, actW := none }
    updPw s fun p => { p with stage := .off, tripped := false, thermtrip := false, faultN := false }

def execP3v3AuxLoss (s : State) : Host.Outcome State Fault Refusal := .next (p3v3AuxLoss s)

-- ------------------------------------------------------------------------------------------------ the core starts

/-- A start failure (Table 21-2): logged, FAULT_N asserted. -/
def startFails (s : State) (stage : Stage) : State :=
  logEvent (updPw s fun p => { p with stage := stage, faultN := true }) (mkEvent stInternal srcToll 3 0 evState 0 0)

/-- SPARE_MAP (Table 20-1): spares found failing at manufacture are unusable, other failing spans give way to spares. -/
def applySpareMap (s : State) : State :=
  let failing := (List.range 528).filter fun p => s.toll.spareMap.toNat.testBit p
  let s := updSp s fun q =>
    { q with spares := (failing.filter fun p => p % 33 == 32).foldl (fun l p => insertNat (p / 33) l) q.spares }
  (failing.filter fun p => p % 33 != 32).foldl (fun s p =>
    let x := 32 * (p / 33) + p % 33
    if physOf s x = p then substitute s x else s) s

/-- Steps 3 and 6 to 8 of Table 21-1: images verified, Keystone and Runal, microcode, march test with repair. -/
def bootCore (s : State) (env : StartEnv) : State :=
  let a := bootComponent s 1
  let b := bootComponent a.1 2
  let s := b.1
  if !(a.2 && b.2) then startFails s .keystoneHeld
  else if !env.keystoneSramOk then startFails s .sramFailed
  else
    let t := s.toll
    let u := updHost s fun h =>
      { statusBit h bitMbox true with
        runalVer := 0x00030002
        resultVer := BitVec.ofNat 32 (max (imgResult (activeImage t 1)) (imgResult (activeImage t 2)))
        ucodeVer := BitVec.ofNat 32 (imgVersion (activeImage t 2)) }
    let s := announce u s
    let s := raiseIrq (newPrefixKey s) 4
    let inService := fun a => match physSram a with | some q => !s.sp.retired.contains q | none => true
    let s := marchRepair (noteCells (marchSpans (applySpareMap s) fun _ => true) env.cells) inService
    updPw s fun p => { p with stage := .booted }

/-- Step 4 of a cold DRAM: repair table applied, channels trained, every sector zero, scrubbing on. -/
def startDram (s : State) (env : StartEnv) : State :=
  let d := s.dram
  trainAll { s with dram := { Dram.reset with remaps := d.remaps, spareRows := d.spareRows, reserve := d.reserve
                                              retired := d.retired, scrubOn := true } } env.weakLanes

/-- Step 5: all ports train. -/
def startPorts (s : State) : State := (List.range 8).foldl (fun s p => updPort s p fun q => { q with st := .training }) s

/-- Steps 1 to 8 of Table 21-1 from power good. -/
def startRails (s : State) (env : StartEnv) (again : Bool) : State :=
  let s := updPw s fun p => { p with faultN := false }
  if !env.railsOk then
    let s := updPw s fun p => { p with rails := false }
    if again then startFails s .railsDead
    else logEvent (updPw s fun p => { p with stage := .railFailed }) (mkEvent stInternal srcToll 2 0 evState 0 0)
  else
    let s := updPw s fun p => { p with rails := true, restart := false }
    let s := { s with jtag := { s.jtag with ir := 0, driving := false, floating := false } }
    let s := if s.pw.prochot then addFloor s prochotFloor else s
    bootCore (startPorts (startDram s env)) env

-- ------------------------------------------------------------------------------------------------ resets

/-- R423: blocks of a warm reset; stacks in self-refresh; the PCIe controller too. -/
def warmReset (s : State) : State :=
  let s := announce (coreReset (dropCommands s)) s
  let s := updDram s fun d => { d with selfRef := true }
  let s := updHost s fun h => { clearHostRegs (clearConfig h) with linkUp := false }
  showAlerts (updPw s fun p => { p with stage := .warmHeld, restart := false, warmPending := false })

/-- The warm reset's end: DRAM retrained, steps 3 and 6 to 8 run. -/
def warmRelease (s : State) (env : StartEnv) : State :=
  let s := updPw s fun p => { p with faultN := false, warmEnv := none }
  let s := trainAll (updDram s fun d => { d with selfRef := false }) env.weakLanes
  bootCore (settleIdle s) env

/-- Before readiness PERST_N holds only the PCIe controller and Trestle (R423, R71). -/
def holdPcie (s : State) : State :=
  let s := dropCommands s
  let s := { s with tre := .reset }
  showAlerts (updHost s fun h => { clearHostRegs (clearConfig h) with linkUp := false, regions := [] })

def perstNAssert (s : State) : State :=
  if s.pw.perst then s
  else
    let s := updPw s fun p => { p with perst := true }
    if s.pw.stage = .ready then warmReset s
    else if !s.pw.rails then s
    else holdPcie (updPw s fun p => { p with warmPending := p.restart })

def execPerstNAssert (s : State) : Host.Outcome State Fault Refusal := .next (perstNAssert s)

def perstNRelease (s : State) (env : StartEnv) : State :=
  if !s.pw.perst then s
  else
    let s := updPw s fun p => { p with perst := false }
    if s.pw.stage = .warmHeld then warmRelease s env
    else if s.pw.warmPending then updPw s fun p => { p with warmEnv := some env }
    else s

def execPerstNRelease (env : StartEnv) (s : State) : Host.Outcome State Fault Refusal := .next (perstNRelease s env)

/-- Steps 5 and 6 of Table 20-12: the counter is raised, FW_ACTIVATE completes. -/
def finishActivate (s : State) (w : ActivateWork) : State :=
  let least := [1, 2].foldl (fun m c => Nat.min m (imgSecurity (activeImage s.toll c))) (imgSecurity (activeImage s.toll 0))
  let s := updToll s fun t => { burnTo t least with actW := none }
  let s := [0, 1, 2].foldl (fun s c => if w.comps.toNat.testBit c then setStaged s c false else s) s
  raiseIrq (finishOpt s w.cmd stOk [w.comps.toNat, rollbackOf s.toll]) 7

/-- READINESS (R418 step 9, Table 4-12a source 4). -/
def readiness (s : State) : State :=
  if s.pw.stage ≠ .booted then s
  else
    let s := updPw s fun p => { p with stage := .ready, restart := false }
    let s := raiseIrq (updHost s fun h => statusBit h bitReady false) 4
    let s := match s.toll.actW with | some w => finishActivate s w | none => s
    if !s.pw.warmPending then s
    else
      let s := warmReset s
      match s.pw.warmEnv with
      | some e => if s.pw.perst then s else warmRelease s e
      | none => s

def execReadiness (s : State) : Host.Outcome State Fault Refusal := .next (readiness s)

/-- P12V_LOSS (R431): a core power cycle begins. -/
def p12vLoss (s : State) : State :=
  if !s.pw.p12v then s
  else
    let s := updPw s fun p => { p with p12v := false }
    if !s.pw.rails then (if s.pw.stage = .railFailed ∨ s.pw.stage = .railsDead then updPw s fun p => { p with stage := .firmware } else s)
    else showAlerts (showStaged (logEvent (powerOff (endFloors s)) (mkEvent 0 srcToll 2 0 evState 0 0)))

def execP12vLoss (s : State) : Host.Outcome State Fault Refusal := .next (p12vLoss s)

/-- R425: ABORT without a completion record, then unload; Trestle, regions and host registers are reset. -/
def flrEffect (s : State) : State :=
  let s := dropCommands s
  let s := if planState s = plNone then s else forgetPlan (applyDue (stopPlan s))
  let s := { s with tre := .reset }
  settleIdle (showAlerts (updHost s fun h => { statusField (clearHostRegs h) 4 2 plNone with regions := [] }))

/-- HOT_RESET: also a surprise link down; the link trains again. -/
def hotReset (s : State) : State :=
  if !s.host.linkUp then s else updHost (flrEffect s) fun h => { h with linkUp := false }

def execHotReset (s : State) : Host.Outcome State Fault Refusal := .next (hotReset s)

def functionLevelReset (s : State) : State :=
  if !s.host.linkUp then s else updHost (flrEffect s) clearConfig

def execFunctionLevelReset (s : State) : Host.Outcome State Fault Refusal := .next (functionLevelReset s)

/-- A core restart (R423): blocks as a warm reset but the PCIe controller; steps 3 and 6 to 8 run at once. -/
def coreRestart (s : State) (env : StartEnv) : State :=
  let s := announce (coreReset s) s
  let s := updPw s fun p => { p with restart := true, faultN := false }
  bootCore (settleIdle (trainAll s env.weakLanes)) env

/-- Table 20-12 step 4 fails: the previous slots are active again and boot; FW_ACTIVATE completes with INTERNAL. -/
def restoreActive (s : State) (w : ActivateWork) (env : StartEnv) : State :=
  let s := updToll s fun t => { t with active := w.prev, actW := none }
  let s := if w.comps.toNat.testBit 0 then (bootToll s).1 else s
  let s := if s.pw.rails then coreRestart s env else s
  finishOpt s w.cmd stInternal [0, rollbackOf s.toll]

/-- A boot that an activation waits for has ended without reaching step 8. -/
def checkActivation (s : State) (env : StartEnv) : State :=
  match s.toll.actW with
  | none => s
  | some w => if s.pw.stage = .booted ∨ s.pw.rails = false then s else restoreActive s w env

/-- POWER_GOOD (R417). -/
def powerGood (s : State) (env : StartEnv) : State :=
  if s.pw.stage ≠ .firmware ∨ s.pw.tripped ∨ s.pw.rails then s
  else checkActivation (startRails (updPw s fun p => { p with p12v := true }) env false) env

def execPowerGood (env : StartEnv) (s : State) : Host.Outcome State Fault Refusal := .next (powerGood s env)

/-- RAIL_RETRY: one second after the first failure (Table 21-2). -/
def railRetry (s : State) (env : StartEnv) : State :=
  if s.pw.stage ≠ .railFailed then s else checkActivation (startRails s env true) env

def execRailRetry (env : StartEnv) (s : State) : Host.Outcome State Fault Refusal := .next (railRetry s env)

/-- TOLLHOUSE_RESET (R394): log, Tollhouse restart, then a core restart that clears CQ_EN and frees every tag
(Table 21-4). -/
def tollhouseReset (s : State) (cause : TollCause) (env : StartEnv) : State :=
  if s.pw.stage = .off then s
  else
    let rails := s.pw.rails
    let code := match cause with | .lockstep => 0 | .sramWord => 1 | .watchdog => 2
    let s := announce (coreReset (dropCommands (setPlanState s plNone))) s
    let b := bootToll s
    let s := logEvent b.1 (mkEvent stInternal srcToll 2 0 evFault 0 code)
    let s := updHost s fun h => statusBit { clearTagsInUse h with flipped := [], ctrl := 0 } bitReady true
    if !b.2 || !rails then s else checkActivation (coreRestart s env) env

def execTollhouseReset (cause : TollCause) (env : StartEnv) (s : State) : Host.Outcome State Fault Refusal :=
  .next (tollhouseReset s cause env)

/-- THERMTRIP_N_RELEASE (R442): P12V is below 1.0 V; the next power good begins a core power cycle. -/
def thermtripNRelease (s : State) : State :=
  if !s.pw.thermtrip then s
  else
    let s := updPw s fun p => { p with thermtrip := false, tripped := false, p12v := false }
    protectionEvent s 7 0 0 false 1 0

def execThermtripNRelease (s : State) : Host.Outcome State Fault Refusal := .next (thermtripNRelease s)

/-- PCIE_LINK_TRAINED (R420): BAR 0 and configuration space answer; the host has enumerated the function. The link runs in
Flit mode at 128 and 64 GT/s, at 32 GT/s where the partner supports it (R67). -/
def pcieLinkTrained (s : State) (rate : PcieRate) (width : PcieWidth) (partnerFlit : Bool) (cfg : PcieConfig) : State :=
  if !s.pw.rails || s.pw.perst then s
  else updHost s fun h =>
    { h with linkUp := true, rate := rate, width := width, flitMode := rate != .gt32 || partnerFlit, msixEn := cfg.msixEn,
             bar2Bits := cfg.bar2Bits, mps := cfg.mps, mrrs := cfg.mrrs, tagBits := cfg.tagBits, pm := cfg.pm }

def execPcieLinkTrained (rate : PcieRate) (width : PcieWidth) (partnerFlit : Bool) (cfg : PcieConfig) (s : State) :
    Host.Outcome State Fault Refusal := .next (pcieLinkTrained s rate width partnerFlit cfg)

end Sys2Proof.Machine
end

