-- ==== Sys2Proof/Machine/Tollhouse.lean ====
section
/-! DEFINITION. The Tollhouse at work (spec 20): samples, holds and floors (R397 to R402), trips (R400, R442), the event
log (R403 to R405), TELEMETRY_READ (R407), staging and activation of images (R411 to R413). -/

namespace Sys2Proof.Machine

/-- Tollhouse firmware runs (step C has ended). -/
def fwRuns (s : State) : Bool := s.pw.stage != .off && s.pw.stage != .romOnly

-- ------------------------------------------------------------------------------------------------ readings

def clampI (lo hi x : Int) : Int := max lo (min hi x)
def clampN (lo hi x : Nat) : Nat := max lo (min hi x)

/-- Readings held to the ranges of Table 20-4 (R398). -/
def clampSample (x : Sample) : Sample :=
  { bayTemp := x.bayTemp.map (clampI (-320) 1200), hotSpot := x.hotSpot.map (clampI (-320) 1200)
    dramTemp := x.dramTemp.map (clampI (-320) 1000), serdes := x.serdes.map (clampI (-320) 1200), preFec := x.preFec
    bayMv := x.bayMv.map (clampN 400 1000), bayCur := x.bayCur.map (clampN 0 3000), pace := x.pace.map (clampN 0 2500)
    p12Mv := clampN 0 16000 x.p12Mv, p12Ma := clampN 0 400000 x.p12Ma, auxMv := clampN 0 4000 x.auxMv
    p12Runs := x.p12Runs.map fun r => (clampN 0 16000 r.1, clampN 0 400000 r.2) }

/-- Sensors of a list that read outside their range, numbered from `id`. -/
def outside {α : Type} [DecidableEq α] (id : Nat) (f : α → α) (l : List α) : List Nat :=
  l.zipIdx.filterMap fun e => if f e.1 = e.1 then none else some (id + e.2)

/-- OUT_OF_RANGE flags, by PLDM sensor ID (Table 20-10), and 1000 + p for a pace counter. -/
def outOfRange (x : Sample) : List Nat :=
  outside 1 (clampI (-320) 1200) x.bayTemp ++ outside 33 (clampN 400 1000) x.bayMv ++ outside 65 (clampN 0 3000) x.bayCur
    ++ outside 97 (clampI (-320) 1000) x.dramTemp ++ outside 129 (clampI (-320) 1200) x.hotSpot
    ++ outside 133 (clampI (-320) 1200) x.serdes ++ outside 141 (clampN 0 16000) [x.p12Mv]
    ++ outside 142 (clampN 0 400000) [x.p12Ma] ++ outside 144 (clampN 0 4000) [x.auxMv]
    ++ outside 1000 (clampN 0 2500) x.pace

-- ------------------------------------------------------------------------------------------------ holds

/-- The firmware conditions of Table 20-3: HOLD code, unit, bays, reading, whether it holds, whether it is released. -/
structure HoldCond where
  code    : Nat
  unit    : Nat
  bays    : List Nat
  reading : Int
  on      : Bool
  off     : Bool
  deriving DecidableEq, Repr

/-- The 4 bays of highest current, lower bays first among equals. -/
def hotBays (x : Sample) : List Nat :=
  (allBays.filter fun b => decide ((allBays.filter fun a =>
    decide (x.bayCur.getD b 0 < x.bayCur.getD a 0) || (x.bayCur.getD a 0 == x.bayCur.getD b 0 && decide (a < b))).length < 4))

def holdConds (s : State) : List HoldCond :=
  let x := s.toll.sample
  let bay := allBays.map fun b =>
    let t := x.bayTemp.getD b 0
    HoldCond.mk 1 b [b] t (decide (800 < t)) (decide (t < 784))
  let hot := [0, 1, 2, 3].map fun q =>
    let t := x.hotSpot.getD q 0
    HoldCond.mk 1 (32 + q) (quadrantBays q) t (decide (800 < t)) (decide (t < 784))
  let dram := (List.range 16).map fun k =>
    let t := stackTemp x k
    HoldCond.mk 3 k (stackBays k) t (decide (720 < t)) (decide (t < 704))
  let p := powerMw x
  let lim := s.toll.limitW * 1000
  bay ++ hot ++ dram
    ++ [HoldCond.mk 5 0 (hotBays x) (p : Int) (decide (lim < p)) (decide (100 * p < 97 * lim)),
        HoldCond.mk 6 101 allBays (x.p12Ma : Int) false (decide (x.p12Ma < 260000))]

/-- One sample's move of a hold: down 5 mV while its condition persists; released after 16 samples; then up 5 mV every
16 samples until 850 mV. -/
def moveHold (c : HoldCond) (h : Hold) : Hold :=
  if c.on then { h with ceil := max 550 (h.ceil - 5), calm := 0, releasing := false }
  else if h.releasing then
    if h.calm + 1 = 16 then { h with ceil := min 850 (h.ceil + 5), calm := 0 } else { h with calm := h.calm + 1 }
  else if c.off then
    if h.calm + 1 = 16 then { h with calm := 0, releasing := true } else { h with calm := h.calm + 1 }
  else { h with calm := 0 }

/-- A hold whose ceiling has come back to 850 mV has ended. -/
def holdOver (h : Hold) : Bool := h.releasing && h.ceil == 850

def ofCond (c : HoldCond) (h : Hold) : Bool := h.code == c.code && h.unit == c.unit

/-- R399: at the release of a hold, what pace matching had decided for its bay gives way to the voltage that the bay then has; a
fixed policy stays (R32). -/
def settleVolt (s : State) (b : Nat) : State :=
  if s.ks.pace.1 = 2 ∨ tabGet 0 s.ks.armed.regs b ≠ 0 then s
  else updSp s fun q => { q with volts := tabSet 700 q.volts b (vSet s b) }

/-- One condition at a sample: while it persists, holds start on those of its bays that it does not hold yet; its holds move
and end bay by bay. Every start and every end is announced (R401). -/
def sampleCond (s : State) (c : HoldCond) : State :=
  let mine := s.toll.holds.filter (ofCond c)
  let freed := mine.filter fun h => !h.releasing && (moveHold c h).releasing
  let s := (allBays.filter fun b => freed.any (holdOn b)).foldl settleVolt s
  let bays := if c.on then c.bays.filter fun b => !mine.any (holdOn b) else []
  let new := bays.map fun b => Hold.mk c.code c.unit (baysBits [b]) (max 550 (vSet s b - 5)) 0 false
  let left := (mine.map (moveHold c)).filter fun h => !holdOver h
  if mine.isEmpty && new.isEmpty then s
  else
    let s := updToll s fun t => { t with holds := t.holds.filter (fun h => !ofCond c h) ++ left ++ new }
    let s := if new.isEmpty then s else protectionEvent s c.code c.unit (unsignedOf 32 c.reading) true 1 stThermal
    if left.length < mine.length then protectionEvent s c.code c.unit (unsignedOf 32 c.reading) false 0 stOk else s

/-- Bays and hot-spots with their temperatures, by the UNIT of their records. -/
def logicTemps (x : Sample) : List (Nat × Int) :=
  allBays.map (fun b => (b, x.bayTemp.getD b 0)) ++ [0, 1, 2, 3].map (fun q => (32 + q, x.hotSpot.getD q 0))

/-- The 95 °C row of Table 20-3: a warning at every sample above it; its start and end are announced (R409). -/
def warnHot (s : State) : State :=
  (logicTemps s.toll.sample).foldl (fun s e =>
    let hot := decide (760 < e.2)
    let s := if hot then logEvent s (mkEvent stThermal srcToll 1 e.1 evReport (unsignedOf 32 e.2) 0) else s
    if hot = s.toll.warm.contains e.1 then s
    else
      platformEvent (updToll s fun t => { t with warm := if hot then insertNat e.1 t.warm else t.warm.filter (· != e.1) }) 9 e.1 hot) s

/-- Refresh doubles above 85 °C (R308): a hardware action, with or without firmware; its start and end are announced
(R409). -/
def refreshRate (s : State) (x : Sample) : State :=
  (List.range 16).foldl (fun s k =>
    let hot := decide (680 < stackTemp x k)
    if hot = tabGet false s.dram.fast k then s
    else platformEvent (updDram s fun d => { d with fast := tabSet false d.fast k hot }) 8 k hot) s

/-- Spares and retired spans are not powered: their pace counters read 0 (R398). -/
def poweredPace (s : State) (x : Sample) : Sample :=
  { x with pace := x.pace.zipIdx.map fun e => if (servedBy s e.2).isSome then e.1 else 0 }

/-- SENSOR_SAMPLE (R397 to R399, R406): core sensors keep their last values, STALE, while no core rail is on. -/
def sensorSample (s : State) (x : Sample) : State :=
  if !fwRuns s then (if s.pw.rails then refreshRate s (clampSample x) else s)
  else
    let old := s.toll.sample
    let x := poweredPace s x
    let y := clampSample x
    let z := if s.pw.rails then y else { old with p12Mv := y.p12Mv, p12Ma := y.p12Ma, auxMv := y.auxMv, p12Runs := y.p12Runs }
    let s := updToll s fun t =>
      { t with sample := z, stale := !s.pw.rails, sampleBeat := s.beat.number
               oor := if s.pw.rails then outOfRange x else t.oor
               lastCorr := s.dram.corrected.foldl (fun m e => tabSet 0 m e.1 (e.2 - tabGet 0 t.corrAt e.1)) []
               corrAt := s.dram.corrected }
    let s := if s.pw.rails then (holdConds s).foldl sampleCond (refreshRate (warnHot s) s.toll.sample) else s
    let seq := s.toll.snapSeq + 2
    let b := snapshot s seq
    updToll s fun t => { t with snapSeq := seq, snap := b }

def execSensorSample (x : Sample) (s : State) : Host.Outcome State Fault Refusal := .next (sensorSample s x)

-- ------------------------------------------------------------------------------------------------ floors and trips

def hardwareFloor (s : State) (c : Comparator) : State := if !s.pw.rails then s else addFloor s (floorOf c)

def execHardwareFloor (c : Comparator) (s : State) : Host.Outcome State Fault Refusal := .next (hardwareFloor s c)

/-- The floor ends; after the current floor a hold on all bays begins, at the floor's voltage. -/
def hardwareFloorRelease (s : State) (c : Comparator) : State :=
  if !(s.toll.floors.any (sameFloor (floorOf c))) then s
  else
    let s := dropFloor s (floorOf c)
    if c ≠ .current then s
    else
      let new := allBays.map fun b => Hold.mk 6 101 (baysBits [b]) 550 0 false
      let s := updToll s fun t => { t with holds := t.holds.filter (fun h => !(h.code == 6 && h.unit == 101)) ++ new }
      protectionEvent s 6 101 0 true 1 stThermal

def execHardwareFloorRelease (c : Comparator) (s : State) : Host.Outcome State Fault Refusal :=
  .next (hardwareFloorRelease s c)

def prochotNAssert (s : State) : State :=
  let s := updPw s fun p => { p with prochot := true }
  if !s.pw.rails then s else addFloor s prochotFloor

def execProchotNAssert (s : State) : Host.Outcome State Fault Refusal := .next (prochotNAssert s)

def prochotNDeassert (s : State) : State :=
  let s := updPw s fun p => { p with prochot := false }
  if s.toll.floors.any (sameFloor prochotFloor) then dropFloor s prochotFloor else s

def execProchotNDeassert (s : State) : Host.Outcome State Fault Refusal := .next (prochotNDeassert s)

/-- Records of a severity reach the flash log (R405): pages of the circular log, the oldest 2,048 erased when full. -/
def persist (t : Toll) : Toll :=
  let rs := t.sramLog.filter fun r => t.unsaved.contains r.seqno
  let log := t.flashLog ++ rs
  let log := if 131072 < log.length then log.drop ((log.length - 131072 + 2047) / 2048 * 2048) else log
  { t with flashLog := log, unsaved := [] }

/-- UNIT of a tripping sensor in the log. -/
def tripUnit : TripSensor → Nat
  | .bay b => b
  | .hotSpot q => 32 + q
  | .dram k => 64 + k
  | .serdes p => 96 + p

/-- TRIP (R400): THERMAL is announced and logged, every P12V regulator goes off, THERMTRIP_N is asserted, the record is
persisted. -/
def trip (s : State) (x : TripSensor) (reading : Int) : State :=
  if !s.pw.rails then s
  else
    let s := updPw s fun p => { p with tripped := true, thermtrip := true }
    let s := protectionEvent s 7 (tripUnit x) (unsignedOf 32 reading) true 3 stThermal
    showStaged (updToll (showAlerts (powerOff (endFloors s))) persist)

def execTrip (x : TripSensor) (reading : Int) (s : State) : Host.Outcome State Fault Refusal := .next (trip s x reading)

-- ------------------------------------------------------------------------------------------------ the log

def eventRecord (s : State) (e : Event) : State :=
  let st := e.status.toNat
  logEvent s { e with status := BitVec.ofNat 8 (if st = stAccepted ∨ isInformational st then st else finalStatus st) }

def execEventRecord (e : Event) (s : State) : Host.Outcome State Fault Refusal := .next (eventRecord s e)

/-- COALESCE_WINDOW_END (R404). -/
def coalesceWindowEnd (s : State) (source code unit : Nat) : State :=
  match windowOf s source code unit with
  | some w => if windowOver s w then closeWindow s w else s
  | none => s

def execCoalesceWindowEnd (source code unit : Nat) (s : State) : Host.Outcome State Fault Refusal :=
  .next (coalesceWindowEnd s source code unit)

/-- LOG_PERSIST (R405). -/
def logPersist (s : State) : State := if !fwRuns s then s else updToll s persist

def execLogPersist (s : State) : Host.Outcome State Fault Refusal := .next (logPersist s)

-- ------------------------------------------------------------------------------------------------ TELEMETRY_READ

/-- A record of the event log (Table 20-5). -/
def recordOut (r : EventRec) : List Byte :=
  leBytes 8 r.beat.toNat ++ leBytes 4 r.seqno.toNat ++ [r.ev.status] ++ leBytes 1 r.ev.source ++ leBytes 1 r.ev.severity
    ++ [r.flags] ++ leBytes 2 r.ev.unit ++ leBytes 2 r.ev.code ++ leBytes 4 r.ev.detail0.toNat
    ++ leBytes 8 r.ev.detail1.toNat

/-- A number for an SRAM, as the repair table names it. -/
def sramIndex : Sram → Nat
  | .bank p b => 4 * p + b
  | .acc p => 2112 + p
  | .queue p => 2640 + p
  | .slice q a => 3168 + 16 * q + a

/-- An entry of the repair table. The manual gives the table no layout: kind and index, 8 bytes. -/
def repairOut : Repair → List Byte
  | .row k => leBytes 1 1 ++ leBytes 7 k
  | .region k => leBytes 1 2 ++ leBytes 7 k
  | .sramRow a n => leBytes 1 3 ++ leBytes 3 (sramIndex a) ++ leBytes 4 n
  | .sramCol a n => leBytes 1 6 ++ leBytes 3 (sramIndex a) ++ leBytes 4 n
  | .span p => leBytes 1 4 ++ leBytes 7 p
  | .cacheSet q n => leBytes 1 5 ++ leBytes 3 q ++ leBytes 4 n

/-- A page of the flash log: 128 records, where its SEQNO puts them in the circular log. -/
def flashPage (t : Toll) (k : Nat) : List EventRec := t.flashLog.filter fun r => r.seqno.toNat / 128 % 1024 == k

/-- The newest records that a length holds. -/
def newest (n : Nat) (l : List EventRec) : List EventRec := l.drop (l.length - n)

/-- The bytes of a data set and the beat that goes with them (R407). -/
def telemetrySet (s : State) (set len : Nat) : Option (List Byte × Nat) :=
  let t := s.toll
  let beat := t.sampleBeat.toNat
  let beatOf := fun (l : List EventRec) => match l.getLast? with | some r => r.beat.toNat | none => 0
  if set = 0 then some (tabBytes t.snap 0 (Nat.min len 65536), beat)
  else if set = 1 then let l := newest (len / 32) t.sramLog; some (l.flatMap recordOut, beatOf l)
  else if set = 2 then some ((t.repair.flatMap repairOut).take len, beat)
  else if 0x8000 ≤ set ∧ set ≤ 0x83FF then
    let l := flashPage t (set - 0x8000)
    some ((l.flatMap recordOut).take len, beatOf (l.take (len / 32)))
  else none

def telemetryRead (s : State) (tag : Nat) : State :=
  serve s cmdTelemetryRead tag fun s c =>
    let n := payAt c 0x10 4
    if !payClean c [(4, 2), (6, 1), (8, 8), (0x10, 4)] || decide (65536 < n) then finishCmd s c stBadParam []
    else
      match telemetrySet s (payAt c 4 2) n, regionAddr s (payAt c 6 1) (payAt c 8 8) n with
      | some d, some a =>
        finishCmd (hostWrite s a d.1) c stOk [d.1.length, d.2 % 2 ^ 32, d.2 / 2 ^ 32]
      | _, _ => finishCmd s c stBadParam []

def execTelemetryRead (tag : Nat) (s : State) : Host.Outcome State Fault Refusal := .next (telemetryRead s tag)

-- ------------------------------------------------------------------------------------------------ staging

/-- The resource of the update path (R79): the next command that waits for it starts. -/
def isUpdateCmd (cmd : Nat) : Bool := cmd == cmdFwStage || cmd == cmdFwActivate

/-- Read requests for a range of host memory, at most Max_Read_Request_Size each (R364). -/
def hostReads (s : State) (a n : Nat) : State :=
  (requestsOf s.host.mrrs a (n + 1) n).foldl (fun s r => sendPcie s (.read r.1 r.2)) s

/-- FW_STAGE begins: the image is read from the bound region. -/
def beginStage (s : State) (c : Taken) : State :=
  match regionAddr s (payAt c 4 1) (payAt c 8 8) (payAt c 0x10 8) with
  | none => finishCmd s c stBadParam []
  | some a => hostReads (updToll s fun t => { t with update := .inBand c }) a (payAt c 0x10 8)

/-- The update path is free (R79): of the commands that wait for it, an FW_STAGE whose turn it is begins; an FW_ACTIVATE
begins by its own row. -/
def nextUpdate (s : State) : State :=
  match s.toll.update, nextLong s isUpdateCmd with
  | .none, some c => if c.cmd = cmdFwStage then beginStage s c else s
  | _, _ => s

/-- FW_STAGE (R411, R412): BUSY during an out-of-band update; waits for the update path otherwise. -/
def fwStage (s : State) (tag : Nat) : State :=
  serve s cmdFwStage tag fun s c =>
    let ok := (regionAddr s (payAt c 4 1) (payAt c 8 8) (payAt c 0x10 8)).isSome
    if !payClean c [(4, 1), (8, 8), (0x10, 8)] then finishCmd s c stBadParam []
    else if s.toll.update = .oob then finishCmd s c stBusy []
    else if !ok then finishCmd s c stBadParam []
    else nextUpdate (acceptCmd s c)

def execFwStage (tag : Nat) (s : State) : Host.Outcome State Fault Refusal := .next (fwStage s tag)

/-- FW_STAGE_DONE: the bytes that the host's memory returned, written to the inactive slot of the component that their
manifest names, and verified there. -/
def fwStageDone (s : State) (image : List Byte) : State :=
  match s.toll.update with
  | .inBand c =>
    if c.cmd ≠ cmdFwStage then s
    else
      let n := payAt c 0x10 8
      let b := image.take n ++ zeros (n - image.length)
      let comp := imgComponent b
      let r := if comp < 3 then stageImage s comp b
               else (logEvent s (mkEvent stBadParam srcToll 2 comp evImage 0 0), false)
      let s := updToll r.1 fun t => { t with update := .none }
      nextUpdate (if r.2 then finishCmd s c stOk [comp, imgVersion b] else finishCmd s c stBadParam [])
  | _ => s

def execFwStageDone (image : List Byte) (s : State) : Host.Outcome State Fault Refusal := .next (fwStageDone s image)

-- ------------------------------------------------------------------------------------------------ activation

/-- Every other outstanding tag completes with BUSY (Table 20-12 step 1), also of commands not yet taken. -/
def busyOthers (s : State) (keep : Option Nat) : State :=
  let s := (s.host.taken ++ s.host.long).foldl (fun s c => if some c.tag = keep then s else finishCmd s c stBusy []) s
  (List.range 256).foldl (fun s n =>
    if !slotOwned s.host n then s
    else
      let c := copySlot s.host n
      let hit := s.host.collided.contains n
      let s := updHost s fun h => acknowledge h n
      if hit then setErr s errTag else finishCmd s c stBusy []) s

/-- Steps 2 to 4 of Table 20-12; with the rails off, what is named of the core boots at the next power good. -/
def activateImages (s : State) (cmd : Option Taken) (comps : BitVec 3) (env : StartEnv) : State :=
  let w : ActivateWork := { cmd := cmd, comps := comps, prev := s.toll.active }
  let s := updToll s fun t =>
    { [0, 1, 2].foldl (fun t c => if comps.toNat.testBit c then setActive t c (inactiveWhich t c) else t) t with
      actW := some w }
  let s := updHost s fun h => statusBit h bitReady true
  let was := s.pw.stage
  let b := if comps.toNat.testBit 0 then bootToll s else (s, true)
  let img := activeImage b.1.toll 0
  let b := if comps.toNat.testBit 0 && b.2 then ((b.1.sp.retired.filter (Config.clearsSpan img)).foldl unretire b.1, true) else b
  if !b.2 then restoreActive b.1 w env
  else if !s.pw.rails then b.1
  else if comps.toNat / 2 = 0 then updPw b.1 fun p => { p with stage := if was = .ready then .booted else was }
  else checkActivation (coreRestart b.1 env) env

/-- FW_ACTIVATE begins: its images are verified again (R411); one that fails is not staged, and nothing is activated. -/
def activateStaged (s : State) (c : Taken) (env : StartEnv) : State :=
  let comps := payAt c 4 1
  let s := verifyStaged s comps
  if !allStaged s comps then nextUpdate (finishCmd s c stBadParam [])
  else if comps = 0 then nextUpdate (finishCmd s c stOk [0, rollbackOf s.toll])
  else activateImages (dropCommands (busyOthers s (some c.tag))) (some c) (BitVec.ofNat 3 comps) env

/-- FW_ACTIVATE (R413): at once, or when the update path is free again for a command that waits for it. -/
def fwActivate (s : State) (tag : Nat) (env : StartEnv) : State :=
  match (nextLong s isUpdateCmd).filter (fun c => c.tag == tag && c.cmd == cmdFwActivate && s.toll.update == .none) with
  | some c =>
    if planState s ≠ plNone then nextUpdate (finishCmd s c stBusy [])
    else activateStaged s c env
  | none => serve s cmdFwActivate tag fun s c =>
    let comps := payAt c 4 1
    if !payClean c [(4, 1)] || decide (7 < comps) then finishCmd s c stBadParam []
    else if planState s ≠ plNone ∨ s.toll.update = .oob then finishCmd s c stBusy []
    else if !allStaged s comps then finishCmd s c stBadParam []
    else
      let s := acceptCmd s c
      if s.toll.update = .none ∧ nextLong s isUpdateCmd = some c then activateStaged s c env else s

def execFwActivate (tag : Nat) (env : StartEnv) (s : State) : Host.Outcome State Fault Refusal :=
  .next (fwActivate s tag env)

end Sys2Proof.Machine
end

