-- ==== Sys2Proof/Machine/Oob.lean ====
section
/-! DEFINITION. Out-of-band management (R402, R408, R409, R412) and attestation (R414 to R416). A reply is the response
message as bytes: message type, command, completion code, data; the layouts are those of the DMTF standards that the
manual names. -/

namespace Sys2Proof.Machine

/-- Send a reply. -/
def answer (s : State) (b : List Byte) : State := updToll s fun t => { t with replies := t.replies ++ [b] }

/-- The interface answers: boot ROM or firmware runs (R409). -/
def oobUp (s : State) : Bool := s.pw.stage != .off

-- ------------------------------------------------------------------------------------------------ MCTP control

/-- A response to an MCTP control request. -/
def mctp (s : State) (cmd code : Nat) (data : List Byte) : State :=
  if oobUp s then answer s (leBytes 1 0 ++ leBytes 1 cmd ++ leBytes 1 code ++ data) else s

/-- Set Endpoint ID: 0x00 and 0xFF are refused. -/
def setEndpointId (s : State) (eid : Byte) : State :=
  if eid = 0 ∨ eid = 0xFF then mctp s 1 2 []
  else if oobUp s then mctp (updToll s fun t => { t with eid := eid }) 1 0 [0, eid, 0] else s

def execSetEndpointId (eid : Byte) (s : State) : Host.Outcome State Fault Refusal := .next (setEndpointId s eid)

def execGetEndpointId (s : State) : Host.Outcome State Fault Refusal := .next (mctp s 2 0 [s.toll.eid, 0, 0])

def execGetEndpointUuid (s : State) : Host.Outcome State Fault Refusal :=
  .next (mctp s 3 0 ((List.range 16).map (Config.uuidByte s.toll.deviceId)))

/-- Versions by message type: MCTP base and control 1.3.1, PLDM and SPDM over MCTP 1.0.0 (DSP0236, DSP0241, DSP0275). -/
def mctpVersions (s : State) (ty : Byte) : State :=
  if ty = 0xFF ∨ ty = 0 then mctp s 4 0 [1, 0xF1, 0xF3, 0xF1, 0]
  else if ty = 1 ∨ ty = 5 then mctp s 4 0 [1, 0xF1, 0xF0, 0xF0, 0]
  else mctp s 4 0x80 []

def execGetMctpVersionSupport (ty : Byte) (s : State) : Host.Outcome State Fault Refusal := .next (mctpVersions s ty)

def execGetMessageTypeSupport (s : State) : Host.Outcome State Fault Refusal := .next (mctp s 5 0 [3, 0, 1, 5])

/-- ENTDAA or SETDASA: on I3C only (STRAP[0] 0, R439). -/
def dynamicAddress (s : State) (a : BitVec 7) : State :=
  if !oobUp s || s.pw.straps.toNat.testBit 0 then s else updToll s fun t => { t with dynAddr := some a }

def execDynamicAddressAssignment (a : BitVec 7) (s : State) : Host.Outcome State Fault Refusal :=
  .next (dynamicAddress s a)

-- ------------------------------------------------------------------------------------------------ PLDM

/-- A response to a PLDM request of a type. -/
def pldm (s : State) (ty cmd code : Nat) (data : List Byte) : State :=
  if oobUp s then answer s (leBytes 1 1 ++ leBytes 1 ty ++ leBytes 1 cmd ++ leBytes 1 code ++ data) else s

/-- The version under which the device serves a PLDM type (Table 20-9), as DSP0240 writes it. -/
def pldmVersion (ty : Byte) : Option (List Byte) :=
  if ty = 0 then some [0, 0xF0, 0xF0, 0xF1]
  else if ty = 2 then some [0, 0xF0, 0xF2, 0xF1]
  else if ty = 5 then some [0, 0xF0, 0xF1, 0xF1] else none

/-- The commands of a PLDM type that the device serves (R408, R409, R412). -/
def pldmCommands (ty : Byte) : List Nat :=
  if ty = 0 then [2, 3, 4, 5]
  else if ty = 2 then [0x04, 0x11, 0x31, 0x32, 0x50, 0x51]
  else [0x10, 0x1A]

/-- Type 0 discovery: GetTID, GetPLDMVersion, GetPLDMTypes (types 0, 2 and 5), GetPLDMCommands. -/
def pldmDiscovery (s : State) (q : Type0Request) : State :=
  let n := q.cmd.toNat
  if n = 2 then pldm s 0 2 0 [0]
  else if n = 3 then
    match pldmVersion q.ty with
    | some v => pldm s 0 3 0 ([0, 0, 0, 0, 5] ++ v)
    | none => pldm s 0 3 0x83 []
  else if n = 4 then pldm s 0 4 0 [0x25, 0, 0, 0, 0, 0, 0, 0]
  else if n = 5 then
    if (pldmVersion q.ty).isNone then pldm s 0 5 0x83 []
    else pldm s 0 5 0 (leBytes 32 (((pldmCommands q.ty).map (2 ^ ·)).sum))
  else pldm s 0 n 5 []

def execPldmDiscovery (q : Type0Request) (s : State) : Host.Outcome State Fault Refusal := .next (pldmDiscovery s q)

/-- A type 2 request: ERROR_NOT_READY while the boot ROM alone runs (R409). -/
def pldm2 (s : State) (cmd code : Nat) (data : List Byte) : State :=
  if fwRuns s then pldm s 2 cmd code data else pldm s 2 cmd 4 []

/-- What the PDR of a sensor says (Tables 20-4, 20-10): base unit, unit modifier, resolution (a real32), range of its readings,
tolerance in readings, accuracy in 1/100 %. -/
structure SensorKind where
  unit  : Nat
  scale : Int
  res   : Nat
  low   : Int
  high  : Int
  tol   : Nat
  acc   : Nat
  deriving DecidableEq, Repr

def sensorKind (id : Nat) : SensorKind :=
  let one := 0x3F800000
  let eighth := 0x3E000000
  if id ≤ 32 then ⟨2, 0, eighth, -320, 1200, 12, 0⟩
  else if id ≤ 64 then ⟨5, -3, one, 400, 1000, 5, 0⟩
  else if id ≤ 96 then ⟨6, -3, 0x42480000, 0, 3000, 0, 200⟩
  else if id ≤ 128 then ⟨2, 0, eighth, -320, 1000, 16, 0⟩
  else if id ≤ 140 then ⟨2, 0, eighth, -320, 1200, 16, 0⟩
  else if id = 141 then ⟨5, -3, one, 0, 16000, 0, 100⟩
  else if id = 142 then ⟨6, -3, one, 0, 400000, 0, 150⟩
  else if id = 143 then ⟨7, -3, one, 0, 6400000, 0, 0⟩
  else ⟨5, -3, one, 0, 4000, 0, 100⟩

/-- The sample period as a real32 in seconds (R397). -/
def samplePeriod : List Byte := leBytes 4 0x3889705F

/-- The head of a PDR (DSP0248): handle, version, type, change number, length. -/
def pdrHead (h ty : Nat) (body : List Byte) : List Byte :=
  leBytes 4 h ++ leBytes 1 1 ++ leBytes 1 ty ++ leBytes 2 0 ++ leBytes 2 body.length ++ body

/-- The numeric sensor PDR of a sensor ID (R409), in the form of DSP0248 with 32-bit readings. -/
def sensorPdr (id : Nat) : List Byte :=
  let k := sensorKind id
  pdrHead id 2 (leBytes 2 0 ++ leBytes 2 id ++ leBytes 2 0 ++ leBytes 2 id ++ leBytes 2 0 ++ [0, 0]
    ++ leBytes 1 k.unit ++ sBytes 1 k.scale ++ zeros 7 ++ [1, 5] ++ leBytes 4 k.res ++ zeros 4 ++ leBytes 2 k.acc
    ++ leBytes 1 k.tol ++ leBytes 1 k.tol ++ zeros 4 ++ [0, 0] ++ zeros 4 ++ samplePeriod ++ sBytes 4 k.high
    ++ sBytes 4 k.low ++ [5, 0] ++ zeros 36)

/-- The numeric effecter PDR of the power limit (R402, R409). -/
def effecterPdr : List Byte :=
  pdrHead 145 9 (leBytes 2 0 ++ leBytes 2 1 ++ leBytes 2 0 ++ leBytes 2 1 ++ leBytes 2 0 ++ leBytes 2 0 ++ [0, 0, 7]
    ++ zeros 7 ++ [1, 2] ++ leBytes 4 0x3F800000 ++ zeros 4 ++ zeros 4 ++ zeros 4 ++ samplePeriod ++ leBytes 2 3000
    ++ leBytes 2 1500 ++ [2, 0] ++ zeros 10)

/-- The PDR of a record handle: 1 to 144 are the sensors, 145 the effecter. -/
def pdrOf (h : Nat) : List Byte := if h = 145 then effecterPdr else sensorPdr h

/-- Sizes of the records of the repository. -/
def pdrSizes : List Nat := (List.range 145).map fun i => (pdrOf (i + 1)).length

def execGetPdrRepositoryInfo (s : State) : Host.Outcome State Fault Refusal :=
  .next (pldm2 s 0x50 0 ([0] ++ zeros 26 ++ leBytes 4 145 ++ leBytes 4 pdrSizes.sum ++ leBytes 4 (pdrSizes.foldl Nat.max 0) ++ [0]))

def getPdr (s : State) (h : Nat) : State :=
  let h := if h = 0 then 1 else h
  let b := pdrOf h
  if 145 < h then pldm2 s 0x51 0x82 []
  else pldm2 s 0x51 0 (leBytes 4 (if h = 145 then 0 else h + 1) ++ leBytes 4 0 ++ [5] ++ leBytes 2 b.length ++ b)

def execGetPdr (h : Nat) (s : State) : Host.Outcome State Fault Refusal := .next (getPdr s h)

/-- The last reading of a sensor of Table 20-10, in its unit. -/
def readingOf (x : Sample) (id : Nat) : Int :=
  if id ≤ 32 then x.bayTemp.getD (id - 1) 0
  else if id ≤ 64 then (x.bayMv.getD (id - 33) 0 : Nat)
  else if id ≤ 96 then (x.bayCur.getD (id - 65) 0 : Nat)
  else if id ≤ 128 then x.dramTemp.getD (id - 97) 0
  else if id ≤ 132 then x.hotSpot.getD (id - 129) 0
  else if id ≤ 140 then x.serdes.getD (id - 133) 0
  else if id = 141 then (x.p12Mv : Nat)
  else if id = 142 then (x.p12Ma : Nat)
  else if id = 143 then (powerMw x : Nat)
  else (x.auxMv : Nat)

def getSensorReading (s : State) (id : Nat) : State :=
  if id = 0 ∨ 144 < id then pldm2 s 0x11 0x80 []
  else pldm2 s 0x11 0 ([5, 0, 0, 0, 0, 0] ++ sBytes 4 (readingOf s.toll.sample id))

def execGetSensorReading (id : Nat) (s : State) : Host.Outcome State Fault Refusal := .next (getSensorReading s id)

def getNumericEffecterValue (s : State) (id : Nat) : State :=
  if id ≠ 1 then pldm2 s 0x32 0x80 []
  else pldm2 s 0x32 0 ([2, 0] ++ leBytes 2 s.toll.limitW ++ leBytes 2 s.toll.limitW)

def execGetNumericEffecterValue (id : Nat) (s : State) : Host.Outcome State Fault Refusal :=
  .next (getNumericEffecterValue s id)

/-- R402: 1,500 W to 3,000 W in steps of 10 W. -/
def setNumericEffecterValue (s : State) (id v : Nat) : State :=
  if id ≠ 1 then pldm2 s 0x31 0x80 []
  else if v < 1500 ∨ 3000 < v ∨ v % 10 ≠ 0 then pldm2 s 0x31 2 []
  else if fwRuns s then pldm2 (updToll s fun t => { t with limitW := v }) 0x31 0 []
  else pldm2 s 0x31 0 []

def execSetNumericEffecterValue (id v : Nat) (s : State) : Host.Outcome State Fault Refusal :=
  .next (setNumericEffecterValue s id v)

def setEventReceiver (s : State) (eid : Byte) : State :=
  if fwRuns s then pldm2 (updToll s fun t => { t with receiver := some eid }) 4 0 [] else pldm2 s 4 0 []

def execSetEventReceiver (eid : Byte) (s : State) : Host.Outcome State Fault Refusal := .next (setEventReceiver s eid)

-- ------------------------------------------------------------------------------------------------ PLDM type 5

/-- RequestUpdate: ALREADY_IN_UPDATE_MODE while the update path is taken (R412). -/
def requestUpdate (s : State) : State :=
  if !oobUp s then s
  else if s.toll.update ≠ .none ∨ s.toll.actW.isSome then pldm s 5 0x10 0x80 []
  else pldm (updToll s fun t => { t with update := .oob, staging := [] }) 5 0x10 0 [0, 0, 0]

def execRequestUpdate (s : State) : Host.Outcome State Fault Refusal := .next (requestUpdate s)

/-- The image pulled so far is whole: its manifest and payload, or more than its slot holds. -/
def imageWhole (comp : Nat) (b : List Byte) : Bool :=
  decide (512 ≤ b.length) && (decide (512 + imgSize b ≤ b.length) || decide (slotBytes comp ≤ b.length))

/-- The component that PLDM type 5 names by classification and identifier (R412): 1, 2 and 3 are the Tollhouse firmware, Runal
and the span microcode. -/
def componentOf (cls id : Nat) : Option Nat := if cls = 0x000A ∧ 1 ≤ id ∧ id ≤ 3 then some (id - 1) else none

/-- Image data arrives and, once whole, is staged (R412); with no firmware the ROM takes Tollhouse images only and
reboots after one is staged (Table 21-2). -/
def firmwareData (s : State) (comp : Nat) (data : List Byte) : State :=
  if s.toll.update ≠ .oob ∨ 2 < comp ∨ (!fwRuns s ∧ comp ≠ 0) then s
  else
    let b := (if s.toll.stageComp = comp then s.toll.staging else []) ++ data
    if !imageWhole comp b then
      pldm (setStaged (updToll s fun t => { t with staging := b, stageComp := comp }) comp false) 5 0x15 0 (leBytes 4 b.length)
    else
      let r := stageImage (updToll s fun t => { t with staging := [], stageComp := comp }) comp b
      if r.2 && !fwRuns s then (bootToll (updToll r.1 fun t => { t with update := .none })).1 else r.1

/-- RequestFirmwareData: the component by its identifier. -/
def requestFirmwareData (s : State) (id : Nat) (data : List Byte) : State :=
  match componentOf 0x000A id with
  | some c => firmwareData s c data
  | none => s

def execRequestFirmwareData (id : Nat) (data : List Byte) (s : State) : Host.Outcome State Fault Refusal :=
  .next (requestFirmwareData s id data)

/-- ActivateFirmware: as FW_ACTIVATE in plan state NONE, ERROR_NOT_READY in any other. -/
def activateFirmware (s : State) (env : StartEnv) : State :=
  let busy := match s.toll.update with | .inBand _ => true | _ => false
  if !fwRuns s || planState s != plNone || busy || s.toll.actW.isSome then pldm s 5 0x1A 4 []
  else
    let s := verifyStaged s s.toll.staged.toNat
    let comps := s.toll.staged
    let s := pldm (updToll s fun t => { t with update := .none }) 5 0x1A 0 [0, 0]
    if comps = 0 then s
    else activateImages (dropCommands (busyOthers s none)) none comps env

def execActivateFirmware (env : StartEnv) (s : State) : Host.Outcome State Fault Refusal := .next (activateFirmware s env)

-- ------------------------------------------------------------------------------------------------ SPDM

/-- The transport answers: DOE over the trained link, MCTP out of band; the firmware responds (R414). -/
def spdmUp (s : State) (ch : OobChannel) : Bool :=
  fwRuns s && match ch with | .mctp => true | .doe => s.host.linkUp && doeProtocols.contains .cmaSpdm

/-- A response: SPDM version 1.3, code, two parameters, data. -/
def spdm (s : State) (ch : OobChannel) (code p1 p2 : Nat) (data : List Byte) : State :=
  if spdmUp s ch then answer s (leBytes 1 5 ++ leBytes 1 0x13 ++ leBytes 1 code ++ leBytes 1 p1 ++ leBytes 1 p2 ++ data) else s

/-- ERROR: UnexpectedRequest before negotiation, InvalidRequest for what is not offered. -/
def spdmError (s : State) (ch : OobChannel) (e : Nat) : State := spdm s ch 0x7F e 0 []

def setNegotiated (s : State) (ch : OobChannel) (b : Bool) : State :=
  if spdmUp s ch then updToll s fun t => { t with negotiated := b } else s

/-- GET_VERSION restarts the exchange. -/
def getVersion (s : State) (ch : OobChannel) : State :=
  spdm (setNegotiated s ch false) ch 0x04 0 0 [0, 1, 0, 0x13]

def execGetVersion (ch : OobChannel) (s : State) : Host.Outcome State Fault Refusal := .next (getVersion s ch)

/-- CERT, CHAL and MEAS with signature; no secured sessions, no mutual authentication. -/
def execGetCapabilities (ch : OobChannel) (s : State) : Host.Outcome State Fault Refusal :=
  .next (spdm s ch 0x61 0 0 ([0, 0, 0, 0] ++ leBytes 4 0x16))

/-- ALGORITHMS (DSP0274) after its head: SHA-384 for measurements and hashes, no base asymmetric algorithm, one extended one,
ECDSA with Brainpool P-384 and SHA-384 under its IANA number. -/
def algorithms : List Byte :=
  [36, 0, 1, 0] ++ leBytes 4 4 ++ leBytes 4 0 ++ leBytes 4 2 ++ zeros 12 ++ [1, 0, 0, 0] ++ [4, 0] ++ leBytes 2 0x081B

/-- NEGOTIATE_ALGORITHMS: a requester that offers the extended algorithm is served. -/
def negotiate (s : State) (ch : OobChannel) (brainpool : Bool) : State :=
  if !brainpool then spdmError s ch 1
  else spdm (setNegotiated s ch true) ch 0x63 0 0 algorithms

def execNegotiateAlgorithms (ch : OobChannel) (brainpool : Bool) (s : State) : Host.Outcome State Fault Refusal :=
  .next (negotiate s ch brainpool)

/-- The public keys of R415: DeviceID from the UDS alone, Alias from the CDI. -/
def deviceKey (t : Toll) : List Byte := (List.range 96).map (Config.deviceKeyByte t.uds)
def aliasKey (t : Toll) : List Byte := (List.range 96).map (Config.aliasKeyByte t.cdi)

/-- Root, intermediate and DeviceID certificates: the same for the life of the device. -/
def deviceCerts (t : Toll) : List Byte := (List.range (Config.certLength (deviceKey t))).map (Config.certByte (deviceKey t))

/-- The Alias certificate, issued at each boot and signed by the DeviceID key. -/
def aliasCert (t : Toll) : List Byte :=
  let m := imgManifest (activeImage t 0)
  (List.range (Config.aliasCertLength (deviceKey t) (aliasKey t) m)).map (Config.aliasCertByte (deviceKey t) (aliasKey t) m)

/-- The certificate chain of slot 0: root, intermediate, DeviceID, Alias (R415). -/
def certChain (t : Toll) : List Byte := deviceCerts t ++ aliasCert t

def getDigests (s : State) (ch : OobChannel) : State :=
  if !s.toll.negotiated then spdmError s ch 4 else spdm s ch 0x01 0 1 (sha384 (certChain s.toll))

def execGetDigests (ch : OobChannel) (s : State) : Host.Outcome State Fault Refusal := .next (getDigests s ch)

def getCertificate (s : State) (ch : OobChannel) (slot off len : Nat) : State :=
  let c := certChain s.toll
  if !s.toll.negotiated then spdmError s ch 4
  else if slot ≠ 0 ∨ c.length ≤ off then spdmError s ch 1
  else
    let part := (c.drop off).take len
    spdm s ch 0x02 0 0 (leBytes 2 part.length ++ leBytes 2 (c.length - off - part.length) ++ part)

def execGetCertificate (ch : OobChannel) (slot off len : Nat) (s : State) : Host.Outcome State Fault Refusal :=
  .next (getCertificate s ch slot off len)

/-- A signature of the Alias key over a message. -/
def aliasSign (s : State) (m : List Byte) : List Byte :=
  (List.range 96).map (Config.signByte s.toll.cdi (beNat (sha384 m)) s.toll.drbg)

/-- The digest of a measurement (R416). -/
def measurement (t : Toll) (i : Nat) : List Byte :=
  if i ≤ 3 then sha384 (imgManifest (activeImage t (i - 1)))
  else if i = 4 then sha384 (leBytes 1 (rollbackOf t) ++ beBytes 48 t.keyHash.toNat)
  else sha384 (t.repair.flatMap repairOut)

/-- A DMTF measurement block with a digest. -/
def measureBlock (t : Toll) (i : Nat) : List Byte :=
  leBytes 1 i ++ [1] ++ leBytes 2 51 ++ leBytes 1 (if i = 4 then 4 else 1) ++ leBytes 2 48 ++ measurement t i

/-- CHALLENGE: signed by the Alias key, under a fresh nonce. -/
def challenge (s : State) (ch : OobChannel) (slot : Nat) (nonce : List Byte) : State :=
  if !spdmUp s ch then s
  else if !s.toll.negotiated then spdmError s ch 4
  else if slot ≠ 0 then spdmError s ch 1
  else
    let r := drawRandom s 32
    let body := sha384 (certChain s.toll) ++ r.2 ++ leBytes 2 0
    spdm r.1 ch 0x03 0 1 (body ++ aliasSign r.1 (nonce ++ body))

def execChallenge (ch : OobChannel) (slot : Nat) (nonce : List Byte) (s : State) : Host.Outcome State Fault Refusal :=
  .next (challenge s ch slot nonce)

/-- GET_MEASUREMENTS: index 0 asks for the count, 0xFF for all blocks. -/
def getMeasurements (s : State) (ch : OobChannel) (i : Nat) (signed : Bool) (nonce : List Byte) : State :=
  if !spdmUp s ch then s
  else if !s.toll.negotiated then spdmError s ch 4
  else if 5 < i ∧ i ≠ 0xFF then spdmError s ch 1
  else
    let is := if i = 0 then [] else if i = 0xFF then [1, 2, 3, 4, 5] else [i]
    let blocks := is.flatMap (measureBlock s.toll)
    let r := drawRandom s 32
    let body := leBytes 1 is.length ++ leBytes 3 blocks.length ++ blocks ++ r.2 ++ leBytes 2 0
    spdm r.1 ch 0x60 (if i = 0 then 5 else 0) 0 (body ++ if signed then aliasSign r.1 (nonce ++ body) else [])

def execGetMeasurements (ch : OobChannel) (i : Nat) (signed : Bool) (nonce : List Byte) (s : State) :
    Host.Outcome State Fault Refusal := .next (getMeasurements s ch i signed nonce)

end Sys2Proof.Machine
end

