-- ==== Sys2Proof/Machine/Replay.lean ====
section
/-! DEFINITION. Journal messages and the group's replay (spec 19): the mirror (R373, R376), piers' watermarks (R378),
coordinated rewinds (R381, R382, R385), ALIVE (R383), fetches (R384), device loss and admission (R389 to R391). -/

namespace Sys2Proof.Machine

-- ------------------------------------------------------------------------------------------------ the mirror

/-- A message of another GROUP_TAG is dropped (R377). -/
def jOk (s : State) (j : JMsg) : Bool := j.tag == (ctlOf s j.port 0).tag && isTrained s j.port

/-- The mirror slot of the device on a port (Table 19-1). -/
def mirrorOf (port : Nat) : Option Nat := if port = 0 then some (mirrorBase 0) else if port = 6 then some (mirrorBase 1) else none

/-- The offset range lies in a slot area. -/
def slotRange (off len : Nat) : Bool := decide (off + len ≤ 0x80000000)

/-- MIRROR_WRITE: written to the same offset of the mirror slot, then acknowledged (Table 19-3 step 3). -/
def mirrorWriteMsg (s : State) (j : JMsg) (off : Nat) (data : List Byte) : State :=
  match mirrorOf j.port with
  | none => s
  | some b =>
    if !jOk s j || !slotRange off data.length then s
    else
      let s := freshSectors (putMem s (b + off) data) [(b + off, data.length)]
      let s := updGrp s fun g => { g with mirrored := insertNat j.port g.mirrored }
      sendVia s j.port (.mirrorAck (jOf s (Nat.xor j.port 1)) off data.length)

def execMirrorWrite (j : JMsg) (off : Nat) (data : List Byte) (s : State) : Host.Outcome State Fault Refusal :=
  .next (mirrorWriteMsg s j off data)

/-- MIRROR_ACK: a pier is written, or a bit of the update bitmap or a commit entry is complete (R376). -/
def mirrorAckMsg (s : State) (j : JMsg) (off _len : Nat) : State :=
  match s.ks.plan with
  | none => s
  | some p =>
    if !jOk s j || mirrorPort s != some j.port then s
    else
      let rest := fun s => if (updatePier p).any fun e => off == e.index * slotSize then updateAcked s else commitAck s p off
      match s.ks.pierWork with
      | some w =>
        match w.stage, pierBySeq p w.seq with
        | .mirroring, some e => if off = e.index * slotSize then pierWritten s p e else rest s
        | _, _ => rest s
      | none => rest s

/-- Journal bytes of a neighbour, from its mirror slot. -/
def sendMirror (s : State) (port b off len : Nat) : State :=
  sendVia s port (.mirrorData (jOf s (Nat.xor port 1)) off (tabBytes s.dram.mem (b + off) len))

/-- R384: the own mirror holder has lost a sector of its mirror slot: every pier record that the journal holds, and the commit
area, go to it again. -/
def resendJournal (s : State) (port : Nat) : State :=
  match s.ks.plan with
  | none => s
  | some p =>
    let send := fun (s : State) (off len : Nat) =>
      sendVia s port (.mirrorWrite (jOf s (Nat.xor port 1)) off (tabBytes s.dram.mem (journalBase + off) len))
    let s := p.piers.foldl (fun s e =>
      match readRecord s.dram.mem (slotAddr e.index) with
      | some _ => send s (e.index * slotSize) (memNat s.dram.mem (slotAddr e.index + 8) 4)
      | none => s) s
    if (updatePier p).isSome then send s (prepareOff p) 0x100 else s

/-- MIRROR_READ: of the member whose journal this device mirrors, its bytes; of the own mirror holder, the request of R384. -/
def mirrorReadMsg (s : State) (j : JMsg) (off len : Nat) : State :=
  if !jOk s j || !slotRange off len then s
  else
    match mirrorOf j.port with
    | some b => sendMirror s j.port b off len
    | none => if mirrorPort s = some j.port then resendJournal s j.port else s

def execMirrorRead (j : JMsg) (off len : Nat) (s : State) : Host.Outcome State Fault Refusal :=
  .next (mirrorReadMsg s j off len)

/-- MIRROR_DATA: the own journal takes the bytes (R384, R390). -/
def mirrorDataMsg (s : State) (j : JMsg) (off : Nat) (data : List Byte) : State :=
  if !jOk s j || mirrorPort s != some j.port || !slotRange off data.length then s
  else freshSectors (putMem (stage s data) (journalBase + off) data) [(journalBase + off, data.length)]

def execMirrorData (j : JMsg) (off : Nat) (data : List Byte) (s : State) : Host.Outcome State Fault Refusal :=
  .next (mirrorDataMsg s j off data)

-- ------------------------------------------------------------------------------------------------ watermarks

/-- PIER_DONE (R378). -/
def pierDoneMsg (s : State) (j : JMsg) (pier : Nat) (step : W64) : State :=
  match s.ks.plan with
  | none => s
  | some p =>
    if !jOk s j || !isCoord s || decide (j.count < s.grp.count) then s
    else
      let d := (j.sender, pier)
      let s := updGrp s fun g => { g with dones := if g.dones.contains d then g.dones else g.dones ++ [d] }
      tryWatermark s p pier step.toNat

/-- WATERMARK: forwarded once; a member that holds at the pier goes on. -/
def watermarkMsg (s : State) (j : JMsg) (pier : Nat) (step : W64) : State :=
  match s.ks.plan with
  | none => s
  | some p =>
    if !jOk s j || s.grp.flooded.contains (6, j.count, stepKey pier step.toNat) || decide (j.count < s.grp.count) then s
    else
      let s := floodJ s (some j.port) 6 j.count (stepKey pier step.toNat) fun port => .watermark { j with port := port } pier step
      holdWatermark s p pier step.toNat

-- ------------------------------------------------------------------------------------------------ REWIND, QUIESCED

/-- This member takes part in its group: its plan runs or pauses. -/
def takesPart (s : State) : Bool := planState s == plRunning || planState s == plPaused

/-- The coordinator's or a member's own report. -/
def ownReport (s : State) (need : Nat) : Nat × (Nat × (Nat × Nat)) :=
  (ownRank s, (s.grp.wmStep, (pierWord s.grp.watermark, need)))

/-- A takeover claim is followed (R382): it replaces the coordinator followed, or a lower claim replaces the same one. -/
def followsClaim (s : State) (w : RewindWork) (coord replaces : Nat) : Bool :=
  replaces != 0xFFFFFFFF && (replaces == s.grp.coord || (w.replaced == some replaces && decide (coord < s.grp.coord)))

/-- REWIND (Table 19-6 step 2, R382): a COUNT above the highest seen is joined, following the claim of a takeover that replaces the
coordinator followed; a COUNT already seen adds its NEED. -/
def rewindMsg (s : State) (j : JMsg) (pier : Nat) (cause : Byte) (need coord replaces : Nat) : State :=
  if !jOk s j || !takesPart s then s
  else
    let key := if replaces = 0xFFFFFFFF then pier else pier + 65536 * (coord + 1)
    let fwd := fun s => floodJ s (some j.port) 7 j.count key fun port => .rewind { j with port := port } pier cause need coord replaces
    if s.grp.count < j.count then
      let s := fwd s
      if replaces = 0xFFFFFFFF then joinRewind s j.count cause coord need
      else if replaces = s.grp.coord then
        updGrp (joinRewind s j.count cause coord need) fun g =>
          { g with rewindW := g.rewindW.map fun w => { w with replaced := some replaces } }
      else joinRewind s j.count cause s.grp.coord need
    else if j.count < s.grp.count then s
    else
      let s := fwd s
      match s.grp.rewindW with
      | none => s
      | some w =>
        let w := { w with need := max w.need need }
        if followsClaim s w coord replaces then
          updGrp s fun g => { g with coord := coord, rewindW := some { w with coord := coord, stage := .stopping, replaced := some replaces } }
        else updGrp s fun g => { g with rewindW := some w }

def execRewind (j : JMsg) (pier : Nat) (cause : Byte) (need coord replaces : Nat) (s : State) :
    Host.Outcome State Fault Refusal := .next (rewindMsg s j pier cause need coord replaces)

/-- Note a report at the coordinator. -/
def addReport (w : RewindWork) (r : Nat × (Nat × (Nat × Nat))) : RewindWork :=
  { w with reports := w.reports.filter (fun x => x.1 != r.1) ++ [r] }

/-- QUIESCE (Table 19-6 step 3): no port holds an unacknowledged flit; the member reports. -/
def quiesce (s : State) : State :=
  match s.ks.plan, s.grp.rewindW with
  | some p, some w =>
    if w.stage ≠ .stopping ∨ ((List.range 8).all fun n => (portOf s n).retry.isEmpty) = false then s
    else
      let need := max w.need (bitNat (needsRestart s p))
      let w := { w with stage := .quiet, need := need }
      if isCoord s then updGrp s fun g => { g with rewindW := some (addReport w (ownReport s need)) }
      else
        let s := updGrp s fun g => { g with rewindW := some w }
        sendJ s s.grp.coord fun j => .quiesced j (pierWord s.grp.watermark) need (BitVec.ofNat 64 s.grp.wmStep)
  | _, _ => s

def execQuiesce (s : State) : Host.Outcome State Fault Refusal := .next (quiesce s)

/-- QUIESCED: the coordinator collects it. -/
def quiescedMsg (s : State) (j : JMsg) (pier need : Nat) (step : W64) : State :=
  match s.grp.rewindW with
  | none => s
  | some w =>
    if !jOk s j || !isCoord s || j.count != w.count then s
    else updGrp s fun g => { g with rewindW := some (addReport w (j.sender, (step.toNat, (pier, need)))) }

def execQuiesced (j : JMsg) (pier need : Nat) (step : W64) (s : State) : Host.Outcome State Fault Refusal :=
  .next (quiescedMsg s j pier need step)

-- ------------------------------------------------------------------------------------------------ RESTART

/-- A pending PAUSE_AT_PIER that names the rewind pier, or any, is met (Table 19-8). -/
def pauseAfterRestart (s : State) (pier : Nat) : State :=
  if planState s = plRunning ∧ (s.ks.pauseReq.any fun r => r.2 == 0xFFFF || r.2 == pier) = true
  then holdPlan s else s

/-- The watermark after a restart: the pier that the member stands at. -/
def standAt (s : State) (pier : Option Nat) : State :=
  updGrp s fun g => { g with watermark := pier, dones := [],
                             wmStep := match recordOf s pier with | some r => r.step | none => 0 }

/-- A hold of TARGET 4 is that of a step restart where the rewind needs one (R386): this member knows of the need, or stands
behind its step pier. -/
def holdsRestart (s : State) (need : Nat) (r : Option Nat) : Bool := need == 1 || (r == s.ks.stepPier && s.grp.watermark != r)

/-- RESTART's effect on one member (R381, R385, R386, R389). -/
def applyRestart (s : State) (p : Plan) (pier target : Nat) : State :=
  let cause := match s.grp.rewindW with | some w => w.cause.toNat | none => stLinkDown
  let need := match s.grp.rewindW with | some w => w.need | none => 1
  let s := updGrp s fun g => { g with rewindW := none, holdAdmit := false, lostRanks := if target = 2 then g.lostRanks else [] }
  let s := updKs s fun k => { k with rewinds := k.rewinds + 1 }
  let s := if s.grp.admitting && (target == 1 || target == 4) then finishAdmit s else s
  match target with
  | 0 =>
    let r := ofPierWord pier
    afterReplay (pauseAfterRestart (replayFrom (standAt (logReplay s cause r) r) p r true false) pier) p
  | 1 =>
    let s := stepRestart (standAt (logReplay s cause s.ks.stepPier) s.ks.stepPier) p false
    pauseAfterRestart s (pierWord s.ks.stepPier)
  | 2 =>
    let s := stepRestart (standAt (logReplay s cause s.ks.stepPier) s.ks.stepPier) p false
    updGrp (notifyFault s (mkEvent stLinkDown srcKs 2 0 evState 0 0)) fun g => { g with holdAdmit := true }
  | 3 => endRun s stReplayFailed
  | _ =>
    let r := ofPierWord pier
    if holdsRestart s need r then stepRestart (standAt (logReplay s cause s.ks.stepPier) s.ks.stepPier) p true
    else afterReplay (replayFrom (standAt (logReplay s cause r) r) p r true true) p
where finishAdmit (s : State) : State :=
  setPlanState (updGrp (updKs s fun k => { k with startStage := none }) fun g => { g with admitting := false }) plRunning

/-- RESTART (Table 19-6 step 5): forwarded once, then carried out. A unit that is admitted by it takes the group's step index,
and its STEP from the record that it now holds (R292). -/
def restartMsg (s : State) (j : JMsg) (pier target : Nat) (step : W64) : State :=
  match s.ks.plan with
  | none => s
  | some p =>
    let key := pier + 65536 * target
    let waits := (s.grp.rewindW.any fun w => w.count == j.count) || s.grp.holdAdmit || s.grp.admitting
    if !jOk s j || s.grp.flooded.contains (9, j.count, key) || !waits || !(takesPart s || s.grp.admitting) then s
    else
      let s := updGrp s fun g => { g with count := max g.count j.count }
      let s := floodJ s (some j.port) 9 j.count key fun port => .restart { j with port := port } pier target step
      let admitted := s.grp.admitting && (target == 1 || target == 4)
      let s := applyRestart s p pier target
      if admitted then formStep (updKs s fun k => { k with stepIndex := step.toNat }) p else s

def execRestart (j : JMsg) (pier target : Nat) (step : W64) (s : State) : Host.Outcome State Fault Refusal :=
  .next (restartMsg s j pier target step)

/-- The coordinator floods RESTART and carries it out. -/
def sendRestart (s : State) (p : Plan) (pier target : Nat) : State :=
  let s := floodJ s none 9 s.grp.count (pier + 65536 * target) fun port => .restart (jOf s port) pier target (stepWord s)
  applyRestart s p pier target

/-- The later of two watermarks, by step index and pier; the start record comes first. -/
def laterMark (a b : Nat × Nat) : Nat × Nat :=
  if a.2 = 0xFFFF then b
  else if b.2 = 0xFFFF then a
  else if a.1 < b.1 ∨ (a.1 = b.1 ∧ a.2 < b.2) then b else a

/-- The highest watermark reported (R381). -/
def rewindPier (w : RewindWork) : Nat :=
  ((w.reports.map fun r => (r.2.1, r.2.2.1)).foldl laterMark (0, 0xFFFF)).2

/-- The TARGET that the coordinator floods for a rewind to a pier (R381, R385, R386); 3 also where a member cannot go on
(`endGroup`). -/
def rewindTarget (s : State) (p : Plan) (restart : Bool) (pier : Option Nat) : Nat :=
  if (restart && !p.stepLocal) || overLimit s pier || s.grp.rewindW.any (fun w => w.cause.toNat == stReplayFailed) then 3
  else if actionHold s then 4
  else if restart then 1 else 0

/-- QUIET_PERIOD_END: the coordinator holds every QUIESCED and a quiet millisecond has passed (Table 19-6 step 4). -/
def quietPeriodEnd (s : State) : State :=
  match s.ks.plan, s.grp.rewindW with
  | some p, some w =>
    let all := (List.range (groupSize p)).all fun r => w.reports.any fun x => x.1 == r
    if !isCoord s || w.stage != .quiet || !all then s
    else
      let restart := w.need == 1 || w.reports.any fun r => r.2.2.2 == 1
      let pier := if restart then s.ks.stepPier else ofPierWord (rewindPier w)
      let t := rewindTarget s p restart pier
      let s := updGrp s fun g => { g with rewindW := some { w with need := bitNat restart, stage := .restarting } }
      sendRestart (if t = 3 then s else countRewind s pier) p (pierWord pier) t
  | _, _ => s

def execQuietPeriodEnd (s : State) : Host.Outcome State Fault Refusal := .next (quietPeriodEnd s)

/-- COORDINATOR_LOSS_TIMEOUT: members without QUIESCED are lost; RESTART goes out with TARGET 2, or 3 where the plan is not
step-local (R382, R385, R389). -/
def coordinatorLossTimeout (s : State) : State :=
  match s.ks.plan, s.grp.rewindW with
  | some p, some w =>
    let lost := (List.range (groupSize p)).filter fun r => !(w.reports.any fun x => x.1 == r)
    if !isCoord s || w.stage != .quiet || lost.isEmpty then s
    else
      let s := updGrp s fun g => { g with lostRanks := lost }
      let t := if p.stepLocal && !overLimit s s.ks.stepPier then 2 else 3
      sendRestart (if t = 3 then s else countRewind s s.ks.stepPier) p (pierWord s.ks.stepPier) t
  | _, _ => s

def execCoordinatorLossTimeout (s : State) : Host.Outcome State Fault Refusal := .next (coordinatorLossTimeout s)

/-- COORDINATOR_TAKEOVER: a member that has reported and holds no RESTART claims the coordinator's part (R382). -/
def coordinatorTakeover (s : State) : State :=
  match s.ks.plan, s.grp.rewindW with
  | some p, some w =>
    if isCoord s || w.stage != .quiet then s
    else
      let old := s.grp.coord
      let own := rankOf p
      let pier := pierWord s.ks.lastPier
      let w := addReport { w with coord := own, replaced := some old, reports := [] } (ownReport s w.need)
      let s := updGrp s fun g => { g with coord := own, rewindW := some w }
      floodJ s none 7 w.count (pier + 65536 * (own + 1)) fun port => .rewind (jOf s port) pier w.cause w.need own old
  | _, _ => s

def execCoordinatorTakeover (s : State) : Host.Outcome State Fault Refusal := .next (coordinatorTakeover s)

-- ------------------------------------------------------------------------------------------------ ALIVE

/-- The rank on a trained port, where it belongs to the group. -/
def adjacentRank (s : State) (port : Nat) : Option Nat := if isTrained s port then rankAt s (neighbourCoord s port) else none

/-- ALIVE_SEND (R383). -/
def aliveSend (s : State) : State :=
  if !takesPart s || decide (members s ≤ 1) then s
  else (List.range 8).foldl (fun s n =>
    match adjacentRank s n with
    | none => s
    | some _ => sendVia s n (.alive (jOf s (Nat.xor n 1)) (pierWord s.ks.lastPier) (planState s) s.beat.number)) s

def execAliveSend (s : State) : Host.Outcome State Fault Refusal := .next (aliveSend s)

/-- ALIVE: the watch of the adjacent member starts anew; RESTART does not name the members that are lost, so one that this watcher
has found silent is lost to it until it is heard again (R383; assumption 210). -/
def aliveMsg (s : State) (j : JMsg) (_pier ps : Nat) (beat : W64) : State :=
  if !jOk s j then s
  else updGrp s fun g =>
    { g with alive := g.alive.filter (fun e => e.1 != j.sender) ++ [(j.sender, (ps, beat))]
             lostRanks := if g.coord == ownRank s then g.lostRanks else g.lostRanks.filter (· != j.sender) }

def execAlive (j : JMsg) (pier planState : Nat) (beat : W64) (s : State) : Host.Outcome State Fault Refusal :=
  .next (aliveMsg s j pier planState beat)

/-- SILENT_MEMBER: the watcher floods REWIND for a member that the group has not yet declared lost, unless a rewind is under
way (R383). -/
def silentMember (s : State) (r : Nat) : State :=
  let adjacent := (List.range 8).any fun n => adjacentRank s n == some r
  if !takesPart s || decide (members s ≤ 1) || !adjacent || r == ownRank s || s.grp.lostRanks.contains r then s
  else
    let s := updGrp s fun g => { g with alive := g.alive.filter (fun e => e.1 != r) }
    let noted := fun s => updGrp s fun g => { g with lostRanks := g.lostRanks ++ [r] }
    let told := notifyFault s (mkEvent stLinkDown srcKs 2 r evFault r 0)
    if s.grp.rewindW.isSome then noted s
    else if reshardAt s 5 then reshardFault told stLinkDown
    else startRewind (noted told) stLinkDown 0

def execSilentMember (r : Nat) (s : State) : Host.Outcome State Fault Refusal := .next (silentMember s r)

-- ------------------------------------------------------------------------------------------------ fetches

/-- FETCH (R384): bytes of the committed generation by handle and offset; BAD_PARAM where the own buffer does not match. -/
def fetchMsg (s : State) (j : JMsg) (h off len : Nat) : State :=
  match s.ks.plan with
  | none => s
  | some p =>
    if !jOk s j then s
    else
      let answer := fun st b => sendVia s j.port (.fetchData (jOf s (Nat.xor j.port 1)) h (BitVec.ofNat 8 st) off b)
      match p.bufs[h]? with
      | none => answer stBadParam []
      | some b =>
        if b.kind ≠ 2 ∨ b.size < off + len then answer stBadParam []
        else
          let a := halfAddr b (currentHalf s h) + off
          if (s.dram.bad ++ s.dram.lost).any fun sec => decide (a < 32 * sec + 32) && decide (32 * sec < a + len) then answer stMemory []
          else answer stOk (tabBytes s.dram.mem a len)

def execFetch (j : JMsg) (handle off len : Nat) (s : State) : Host.Outcome State Fault Refusal :=
  .next (fetchMsg s j handle off len)

/-- FETCH_DATA (R384): the bytes stand in the committed generation; a refusal ends the run. -/
def fetchDataMsg (s : State) (j : JMsg) (h : Nat) (st : Byte) (off : Nat) (data : List Byte) : State :=
  match s.ks.plan with
  | none => s
  | some p =>
    match s.grp.fetches.find? fun f => f.1 == h && f.2.1 == off with
    | none => s
    | some f =>
      if !jOk s j then s
      else
        let s := updGrp s fun g => { g with fetches := g.fetches.filter (· != f) }
        if st ≠ 0 ∨ data.length ≠ f.2.2 then endGroup s
        else
          match p.bufs[h]? with
          | none => s
          | some b =>
            let a := halfAddr b (currentHalf s h) + off
            let s := if s.grp.refresh then refreshHalf (stage s data) a data else freshSectors (putMem s a data) [(a, data.length)]
            if s.grp.refresh && s.grp.fetches.isEmpty then refreshDone s else s

def execFetchData (j : JMsg) (handle : Nat) (status : Byte) (off : Nat) (data : List Byte) (s : State) :
    Host.Outcome State Fault Refusal := .next (fetchDataMsg s j handle status off data)

/-- FETCH_NO_ANSWER (Table 19-7): the mirror holder does not answer, so the VP0 neighbour is asked; when it was VP0
already, the fetch has failed and the run ends (R448). -/
def fetchNoAnswer (s : State) : State :=
  match s.grp.fetches with
  | [] => s
  | _ =>
    if fetchPort s = 0 ∨ isTrained s 0 = false then endGroup (updGrp s fun g => { g with fetches := [] })
    else s.grp.fetches.foldl (fun s f => sendVia s 0 (.fetch (jOf s 1) f.1 f.2.1 f.2.2)) s

def execFetchNoAnswer (s : State) : Host.Outcome State Fault Refusal := .next (fetchNoAnswer s)

-- ------------------------------------------------------------------------------------------------ admission

/-- The journal of the unit: every pier record and the commit area of its mirror slot. -/
def returnJournal (s : State) (p : Plan) (port b : Nat) : State :=
  let s := p.piers.foldl (fun s e =>
    let off := e.index * slotSize
    if memNat s.dram.mem (b + off) 4 = recordMagic then sendMirror s port b off (min slotSize (memNat s.dram.mem (b + off + 8) 4))
    else s) s
  if (updatePier p).isSome then sendMirror s port b (prepareOff p) 0x100 else s

/-- R389: the mirror slot holds the journal of a member that ran mirrored: once a step has closed, the record of its
step-closing pier; before, some record, unless no segment after a pier has begun. -/
def mirrorsUnit (s : State) (p : Plan) (port b : Nat) : Bool :=
  match s.ks.stepPier.bind (pierByIndex p) with
  | none => s.grp.mirrored.contains port || (p.piers.head?).all fun e => notAfter s.ks.reach (0, e.seq)
  | some e =>
    match readRecord s.dram.mem (slotAddr e.index), readRecord s.dram.mem (b + e.index * slotSize) with
    | some own, some r => decide (own.step ≤ r.step)
    | _, _ => false

/-- ADMIT: the mirror holder returns the unit's journal and names its own committed STEP and GENERATION; on the unit that
answer begins the generation check (Table 19-9 steps 4 to 6). -/
def admitMsg (s : State) (j : JMsg) (step : W64) (gen : W32) : State :=
  match s.ks.plan with
  | none => s
  | some p =>
    if !jOk s j then s
    else if s.grp.admitting then
      if s.ks.startStage = some .journal then generationCheck s p step.toNat gen.toNat else s
    else
      match mirrorOf j.port with
      | none => s
      | some b =>
        if !s.grp.holdAdmit then s
        else
          if !mirrorsUnit s p j.port b then logEvent s (mkEvent stPlanInvalid srcKs 1 j.port evState j.sender 0)
          else
          let c := committedRecord s p
          sendVia (returnJournal s p j.port b) j.port
            (.admitUnit (jOf s (Nat.xor j.port 1)) (BitVec.ofNat 64 c.1) (BitVec.ofNat 32 c.2.2))

def execAdmitUnit (j : JMsg) (step : W64) (gen : W32) (s : State) : Host.Outcome State Fault Refusal :=
  .next (admitMsg s j step gen)

/-- ADMITTED: once every lost rank is back the coordinator floods RESTART with TARGET 1 (Table 19-9 step 9), under ACTION 1 as
TARGET 4 (R386). -/
def admittedMsg (s : State) (j : JMsg) : State :=
  match s.ks.plan with
  | none => s
  | some p =>
    if !jOk s j || !isCoord s || !s.grp.holdAdmit then s
    else
      let left := s.grp.lostRanks.filter (· != j.sender)
      let s := updGrp s fun g => { g with lostRanks := left }
      if left.isEmpty then sendRestart s p (pierWord s.ks.stepPier) (if actionHold s then 4 else 1) else s

def execAdmitted (j : JMsg) (_step : W64) (s : State) : Host.Outcome State Fault Refusal := .next (admittedMsg s j)

end Sys2Proof.Machine
end

