-- ==== Sys2Proof/Machine/Check.lean ====
section
/-! DEFINITION. Validation, what every check shares (R59, R66, Tables 3-15 and 3-15a), the checks of the header and of
the tables (1 to 4, 7, 11), and the byte-range arithmetic that the hazard checks use. -/

namespace Sys2Proof.Machine

/-- What validation looks at: the image, its plan, and the device constants and group values that it compares with. -/
structure VCtx where
  mem       : Tab Byte
  bad       : List Nat               -- uncorrectable sectors (R59)
  p         : Plan
  resultVer : Nat
  group     : Option (List Nat)      -- R9: the seven values, in the order of `groupFields`
  formed    : Option Formation       -- the ring whose ports transfer entries name
  bypass    : Bool
  trained   : List Nat               -- ports with a trained neighbour in the group (R58)
  regions   : List Region
  hops      : List (Nat × Nat)       -- first hop toward each rank of the own ring (R330)
  deriving DecidableEq, Repr

/-- A failure (R66). -/
structure VFail where
  check   : Nat
  status  : Nat
  sect    : Nat
  index   : Nat
  deriving DecidableEq, Repr

/-- Status of a check of Table 3-15. -/
def checkStatus (c : Nat) : Nat := if c = 7 then stBadParam else if c = 8 then stShapeInvalid else stPlanInvalid

/-- SECTION of a failure in the header. -/
def secHeader : Nat := 0xFFFF

def failAt (c sect index : Nat) : VFail := ⟨c, checkStatus c, sect, index⟩

/-- A range of device memory holds an uncorrectable sector. -/
def rangeBad (bad : List Nat) (a n : Nat) : Bool := bad.any fun x => decide (32 * x < a + n) && decide (a < 32 * x + 32)

/-- The first entry of a table that fails a check; while the check reads the table from the image, an entry that holds an
uncorrectable sector stops it there (R59). -/
def tableFail (v : VCtx) (check sect size n : Nat) (reads : Bool) (bad : Nat → Bool) : Option VFail :=
  let base := v.p.base + secOffset v.mem v.p.base sect
  (List.range n).findSome? fun i =>
    if reads && rangeBad v.bad (base + size * i) size then some ⟨check, stMemory, sect, i⟩
    else if bad i then some (failAt check sect i) else none

-- ------------------------------------------------------------------------------------------------ check 1 to 3

/-- Entry sizes and largest counts (Table 3-3). -/
def sections : List (Nat × Nat) :=
  [(32, 65535), (16, 65536), (256, 1048576), (128, 4294967294), (16, 4096), (32, 16777216), (1, 1073741824)]

/-- R38: where an image may lie. -/
def imageEnd : Nat := reservedStart

def hdr (m : Tab Byte) (base o n : Nat) : Nat := memNat m (base + o) n

/-- A section entry of the header (R39, R40): entry size and count as Table 3-3, a 256-byte-aligned offset behind the
header, an end within IMAGE_SIZE, no overlap with an earlier section. -/
def sectionBad (m : Tab Byte) (base i : Nat) : Bool :=
  let t := sections.getD i (0, 0)
  let span := fun k => (secOffset m base k, secOffset m base k + secCount m base k * (sections.getD k (0, 0)).1)
  let r := span i
  secEntry m base i != t.1 || decide (t.2 < secCount m base i) || r.1 % 256 != 0 || decide (r.1 < 256)
    || decide (hdr m base 0x10 8 < r.2)
    || (List.range i).any fun k => decide (r.1 < (span k).2) && decide ((span k).1 < r.2)

/-- Check 1, field by field in the order of Table 3-2 (R209 for RING_LENGTH): offset and whether it fails. -/
def headerConds (m : Tab Byte) (base : Nat) : List (Nat × Bool) :=
  let h := hdr m base
  let size := h 0x10 8
  [(0x00, base % 4096 != 0 || h 0 4 != 0x4E414C50),
   (0x04, h 4 2 != 3), (0x06, decide (2 < h 6 2)), (0x08, h 8 4 != 256),
   (0x10, decide (size < 256 ∨ 64 * 2 ^ 30 < size ∨ imageEnd < base + size)),
   (0x20, decide (h 0x20 2 = 0 ∨ 1024 < h 0x20 2)),
   (0x22, decide (h 0x20 2 ≤ h 0x22 2)),
   (0x24, decide (h 0x24 2 = 0 ∨ 16384 < h 0x24 2)),
   (0x26, decide (h 0x24 2 ≤ h 0x26 2)),
   (0x28, decide (h 0x28 2 = 0 ∨ 64 < h 0x28 2)),
   (0x2A, decide (h 0x2A 2 = 0 ∨ 255 < h 0x2A 2)),
   (0x34, decide (secCount m base 1 ≤ h 0x34 4)),
   (0x38, h 0x38 8 != 0)]
    ++ (List.range 7).map (fun i => (0x40 + 16 * i, sectionBad m base i))
    ++ [(0xB0, h 0xB0 8 % 256 != 0 || decide (h 0xB0 8 < 256 ∨ size < h 0xB0 8 + h 0xB8 4)),
        (0xB8, decide (h 0xB8 4 < 4096)), (0xBC, h 0xBC 4 != 0), (0xF0, (tabBytes m (base + 0xF0) 16).any (· != 0))]

/-- Check 1. The header is read whole first, so an uncorrectable sector in it stops the check (R59). -/
def headerFail (m : Tab Byte) (bad : List Nat) (base : Nat) : Option VFail :=
  match bad.find? fun x => decide (32 * x < base + 256) && decide (base < 32 * x + 32) with
  | some x => some ⟨1, stMemory, secHeader, 32 * x - base⟩
  | none =>
    match (headerConds m base).find? (·.2) with
    | some c => some (failAt 1 secHeader c.1)
    | none => none

/-- Offsets and sizes of the group values (check 3, R9): RING_LENGTH, RING_POSITION, RING_GROUPS, RING_GROUP_INDEX,
HEAD_GROUP_SIZE, LAYOUT_EPOCH, GROUP_TAG. -/
def groupFields : List (Nat × Nat) := [(0x20, 2), (0x22, 2), (0x24, 2), (0x26, 2), (0x28, 2), (0x2C, 4), (0x30, 4)]

def formedValues (f : Formation) : List Nat := [f.length, f.pos, f.groups, f.groupIdx, f.head, f.epoch, f.tag]

def check2 (v : VCtx) : Option VFail :=
  if hdr v.mem v.p.base 0xC 4 = v.resultVer then none else some (failAt 2 secHeader 0xC)

def check3 (v : VCtx) : Option VFail :=
  match v.group with
  | none => some (failAt 3 secHeader 0x20)
  | some g =>
    match (groupFields.zip g).find? fun x => hdr v.mem v.p.base x.1.1 x.1.2 != x.2 with
    | some x => some (failAt 3 secHeader x.1.1)
    | none => none

-- ------------------------------------------------------------------------------------------------ check 4

/-- Bytes of device memory that a buffer takes, both halves counted (R43). -/
def bufExtent (b : Buf) : Nat := if twoHalves b then 2 * (ceilDiv b.size mib * mib) else b.size

/-- The range that a PLACEMENT allows (R303), the reserved region left out (R38). -/
def placeRange (pl : Nat) : Nat × Nat :=
  if pl = 0 then (0, interleavedEnd)
  else
    let lo := interleavedEnd + (pl - 1) * 0x1000000000
    (lo, min (lo + 0x1000000000) reservedStart)

/-- Two ranges of device memory meet. -/
def meets (a n b m : Nat) : Bool := decide (a < b + m) && decide (b < a + n) && decide (0 < n) && decide (0 < m)

/-- Check 4 on buffer i (R42, R117, R303, R443). A SIZE of zero is left to check 7. -/
def bufferBad (v : VCtx) (i : Nat) : Bool :=
  match v.p.bufs[i]? with
  | none => false
  | some b =>
    let raw := v.p.base + secOffset v.mem v.p.base 0 + 32 * i
    let r := placeRange b.placement
    decide (3 < b.kind) || decide (4 < b.placement) || decide (1 < b.flags) || memNat v.mem (raw + 0x18) 8 != 0
      || (isWeight b && decide (b.kind < 2)) || b.addr % mib != 0 || b.size % 256 != 0
      || decide (b.addr < r.1 ∨ r.2 < b.addr + bufExtent b)
      || meets b.addr (bufExtent b) v.p.base (hdr v.mem v.p.base 0x10 8)
      || (v.p.bufs.take i).any fun c => meets b.addr (bufExtent b) c.addr (bufExtent c)

def check4 (v : VCtx) : Option VFail := tableFail v 4 0 32 v.p.bufs.length true (bufferBad v)

-- ------------------------------------------------------------------------------------------------ check 11

/-- The bytes of setup record i. -/
def setupRaw (v : VCtx) (i : Nat) : List Byte := tabBytes v.mem (v.p.base + secOffset v.mem v.p.base 2 + 256 * i) 256

/-- R58 on record i, once a phase names it: its KIND and TARGET stand in an earlier record of that phase, or a fixed voltage
is out of range. -/
def setupNamedBad (v : VCtx) (i : Nat) : Bool :=
  match v.p.setups[i]? with
  | none => false
  | some r => v.p.phases.any fun f =>
      decide (f.setupFirst ≤ i) && decide (i < f.setupFirst + f.setupCount) &&
        ((v.p.setups.take i).drop f.setupFirst).any fun q => q.kind == r.kind && q.target == r.target

/-- A code that Table 5-6 defines; the others are reserved (R113). -/
def portCode (c : Nat) : Bool :=
  decide (c < 0x10) || (decide (0x20 ≤ c) && decide (c < 0x40)) || (decide (0x48 ≤ c) && decide (c < 0x4C))

/-- Setup record i, entry by entry (R54, R443): KIND, TARGET, BODY_LENGTH, reserved bytes, codes. -/
def setupBad (v : VCtx) (i : Nat) : Bool :=
  let b := setupRaw v i
  let kind := fieldAt b 0 1
  let target := fieldAt b 2 2
  let len := fieldAt b 4 2
  let body := (b.drop 8).take len
  fieldAt b 1 1 != 0 || fieldAt b 6 2 != 0 || decide (248 < len) || ((b.drop (8 + len)).any (· != 0))
    || match kind with
       | 1 => decide (31 < target ∨ len = 0 ∨ len % 8 ≠ 0) ||
                (List.range (len / 8)).any fun k =>
                  fieldAt body (8 * k) 2 == 0 || fieldAt body (8 * k + 4) 4 != 0
                    || !portCode (fieldAt body (8 * k + 2) 1) || !portCode (fieldAt body (8 * k + 3) 1)
       | 2 => target != 0 || len != 16 || body.any fun c => decide (3 < c.toNat)
       | 3 => target != 0 || len != 8 || body.any fun c => decide (3 < c.toNat)
       | 4 => decide (31 < target) || len != 64 || body.any fun c => decide (4 < c.toNat)
       | 5 => target != 0 || len != 65 || decide (1 < fieldAt body 0 1)
                || (List.range 32).any fun j =>
                    let mv := fieldAt body (1 + 2 * j) 2
                    if fieldAt body 0 1 = 0 then mv != 0 else decide (mv < 550 ∨ 850 < mv ∨ mv % 5 ≠ 0)
       | _ => true

/-- A phase entry (R55). -/
def phaseBad (v : VCtx) (i : Nat) : Bool :=
  match v.p.phases[i]? with
  | none => false
  | some f =>
    let raw := v.p.base + secOffset v.mem v.p.base 1 + 16 * i
    (tabBytes v.mem (raw + 0xA) 6).any (· != 0)
      || (match (if i = 0 then none else v.p.phases[i - 1]?) with
          | none => f.firstSeq != 1
          | some g => decide (f.firstSeq ≤ g.firstSeq))
      || decide (v.p.descs.length < f.firstSeq) || decide (64 < f.setupCount)
      || decide (v.p.setups.length < f.setupFirst + f.setupCount)

/-- R114 on one circuit: a single source that is a span port or a lane, every hop matched, every entry reached once. -/
def circuitOk (all : List (Nat × (Nat × (Nat × Nat)))) (id : Nat) : Bool :=
  let mine := all.filter fun e => e.2.1 == id
  let sources := (mine.filter fun e => endCode e.2.2.1).foldl (fun l e =>
    if l.contains (e.1, e.2.2.1) then l else l ++ [(e.1, e.2.2.1)]) []
  let hops := mine.all fun e =>
    endCode e.2.2.2 || match linkPeer e.1 e.2.2.2 with
      | none => false
      | some q => mine.any fun f => f.1 == q.1 && f.2.2.1 == q.2
  hops && sources.length == 1 && (circuitReach all id (mine.length + 1) sources).length == mine.length

/-- R114 and R58 on the configuration of a phase: known ports, no port or link shared by two circuits, every circuit a
tree. -/
def circuitsBad (c : BlockCfg) : Bool :=
  let all := circuitList c
  let ids := all.foldl (fun l e => insertNat e.2.1 l) []
  all.any (fun e => !routerPortOk e.1 e.2.2.1 || !routerPortOk e.1 e.2.2.2)
    || all.any (fun e => all.any fun f =>
        e.1 == f.1 && ((e.2.1 != f.2.1 && (e.2.2.1 == f.2.2.1 || e.2.2.2 == f.2.2.2))))
    || all.any (fun e => decide (1 < (all.filter fun f => e.1 == f.1 && e.2.2.2 == f.2.2.2).length))
    || ids.any fun i => !circuitOk all i

/-- R58, R114 on a phase: its circuits as they stand after arming, in the first step and in a later one. -/
def phaseConfigBad (v : VCtx) (i : Nat) : Bool :=
  circuitsBad (configAt v.p 0 i) || (decide (v.p.loopPhase ≤ i) && circuitsBad (configAt v.p 1 i))

/-- The routers' circuits that a descriptor's phase has armed. -/
def configsOf (v : VCtx) (seq : Nat) : List BlockCfg :=
  let i := phaseIndex v.p seq
  configAt v.p 0 i :: (if v.p.loopPhase ≤ i then [configAt v.p 1 i] else [])

/-- A circuit that a descriptor must have is not armed in its phase (R188, R200): the dQ relay of ATTN_BWD, the lanes of a
bank-form RING_PASS. -/
def descCircuitsBad (v : VCtx) (d : Desc) : Bool :=
  (d.opcode == opAttnBwd || (d.opcode == opRingPass && rpBank d))
    && (configsOf v d.seq).any fun c => (dataPaths v.p d).any fun x => !circuitJoins c x.1 x.2

/-- Check 11: phases, setup records, then descriptors and transfer entries, in section order (R55, R54, R58, R114). -/
def check11 (v : VCtx) : Option VFail :=
  (tableFail v 11 1 16 v.p.phases.length true (phaseBad v)).or <|
  (tableFail v 11 2 256 v.p.setups.length true fun i => setupBad v i || setupNamedBad v i).or <|
  (tableFail v 11 1 16 v.p.phases.length false (phaseConfigBad v)).or <|
  (tableFail v 11 3 128 v.p.descs.length false fun i => match v.p.descs[i]? with | some d => descCircuitsBad v d | none => false).or <|
  tableFail v 11 5 32 v.p.xfers.length false fun i =>
    match v.p.xfers[i]? with
    | some x => decide (x.kind < 2) && decide (x.port < 8) && !v.trained.contains x.port
    | none => false

-- ------------------------------------------------------------------------------------------------ byte ranges

/-- What is left of a range, first byte and end, after the ranges of a list are taken out. -/
def cutRange (r : Int × Int) : List (Int × Int) → List (Int × Int)
  | [] => if r.1 < r.2 then [r] else []
  | c :: cs =>
    if r.2 ≤ c.1 ∨ c.2 ≤ r.1 then cutRange r cs
    else cutRange (r.1, min r.2 c.1) cs ++ cutRange (max r.1 c.2, r.2) cs

/-- Ranges of `rs` outside the ranges of `cs`. -/
def cutRanges (rs cs : List (Int × Int)) : List (Int × Int) := rs.flatMap fun r => cutRange r cs

def meetRanges (as bs : List (Int × Int)) : Bool := as.any fun a => bs.any fun b => meetRange a b

end Sys2Proof.Machine
end

