-- ==== Sys2Proof/Machine/CheckOps.lean ====
section
/-! DEFINITION. Validation, descriptor by descriptor: reserved fields and codes (check 5), operands (check 6), zeros
(check 7), shapes and formats (check 8), as the operators' chapters list them. -/

namespace Sys2Proof.Machine

-- ------------------------------------------------------------------------------------------------ items

/-- The first parameter-area offset that an item may have (R261). -/
def paramLow (p : Plan) : Nat := if hasPipeline p then 4096 else 0

def itemOutside (p : Plan) (x : Nat × (Nat × Nat)) : Bool :=
  x.1 % x.2.2 != 0 || decide (x.1 < paramLow p) || decide (p.param.length < x.1 + x.2.1)

/-- An item of the descriptor holds an uncorrectable sector (R59). -/
def itemsUnread (v : VCtx) (d : Desc) : Bool :=
  (descItems v.p d).any fun x =>
    !itemOutside v.p x && rangeBad v.bad (v.p.base + secOffset v.mem v.p.base 6 + x.1) x.2.1

/-- The stream descriptions of a descriptor that lie in the area, with their operands. -/
def descStreams (p : Plan) (d : Desc) : List (Operand × Stream) :=
  ((descOperands p d).filter fun o => o.stream != 0 && !isNone o
      && !itemOutside p (o.stream, (16 + 48 * fieldAt p.param o.stream 4, 16))).map fun o => (o, streamOf p.param o.stream)

-- ------------------------------------------------------------------------------------------------ check 5

/-- Some byte of the ranges (offset, length) of a byte string is not zero. -/
def anySet (b : List Byte) (rs : List (Nat × Nat)) : Bool := rs.any fun r => ((b.drop r.1).take r.2).any (· != 0)

/-- Some bit of a mask is set in a byte. -/
def maskSet (b : List Byte) (ms : List (Nat × Nat)) : Bool := ms.any fun m => fieldAt b m.1 1 &&& m.2 != 0

/-- Reserved bits, or a reserved format code, in an operand reference (Table 3-7, R47). -/
def operandReserved (b : List Byte) (o : Nat) : Bool := decide (9 < fieldAt b (o + 2) 1) || decide (3 < fieldAt b (o + 3) 1)

/-- Reserved bytes and bits of a body, by opcode. -/
def bodyReserved (op : Nat) : List (Nat × Nat) × List (Nat × Nat) :=
  if isMatmul op then ([(0x5A, 6)], [(0x56, 0xFC), (0x57, 0xC0), (0x58, 0xF0)])
  else if op = opMatvec then ([(0x5C, 4)], [(0x56, 0xFC), (0x57, 0xC0), (0x58, 0xF0)])
  else if op = opAttnFwd ∨ op = opAttnBwd then ([(0x5C, 4)], [])
  else if op = opAttnDecode then ([(0x44, 28)], [])
  else if op = opScan ∨ op = opSegScan then ([(0x5E, 2)], [(0x5D, 0xFC)])
  else if op = opAffineScan then ([(0x5D, 3)], [(0x5C, 0xFE)])
  else if op = opConvTaps ∨ op = opPool then ([(0x49, 23)], [])
  else if op = opReduce then ([(0x3E, 34)], [])
  else if op = opGlobalNorm then ([(0x2C, 52)], [(0x2B, 0xFE)])
  else if op = opNormProbe then ([(0x18, 72)], [])
  else if op = opUpdateElem then ([(0x56, 2)], [(0x55, 0xF8)])
  else if op = opUpdateMatrix then ([(0x30, 16), (0x56, 2)], [(0x55, 0xFA)])
  else if op = opCommit then ([(0x21, 63)], [(0x20, 0xFE)])
  else if op = opCopyConvert then ([(0x2D, 51)], [(0x2C, 0xFE)])
  else if op = opRingPass then ([(0x2C, 52)], [])
  else if op = opCollective then ([(0x46, 2), (0x4C, 20)], [])
  else if op = opOffload ∨ op = opPrefetch then ([(0x33, 1), (0x3C, 36)], [(0x32, 0xFC)])
  else if op = opWeightChain then ([(0x4B, 21)], [(0x49, 0xFC), (0x4A, 0xFE)])
  else if op = opPrefixLookup ∨ op = opPrefixInsert then ([(0x5C, 4)], [])
  else if op = opBankHandover then ([(1, 3), (0x14, 76)], [])
  else if op = opPier then ([(0, 96)], [])
  else ([], [])

/-- Reserved bytes and bits of a parameter block, by opcode. -/
def blockReserved (op : Nat) : List (Nat × Nat) × List (Nat × Nat) :=
  if op = opAttnFwd then
    ([(0xE, 2), (0x16, 2), (0x1E, 2), (0x31, 15), (0xB0, 16)], [(6, 0xF8), (7, 0xFE), (0x30, 0xF0)])
  else if op = opAttnBwd then
    ([(0xE, 2), (0x16, 2), (0x1E, 2), (0x31, 15), (0xB0, 16)], [(6, 0xF8), (7, 0xE1), (0x30, 0xF0)])
  else if op = opAttnDecode then ([(0x16, 10), (0x60, 32)], [(6, 0xFC), (7, 0xF0)])
  else if op = opConvTaps ∨ op = opPool then ([(0x3A, 6)], [(0x38, 0xFC)])
  else if op = opUpdateElem ∨ op = opUpdateMatrix then ([(0x1C, 4), (0x7D, 3)], [])
  else ([], [])

/-- Reserved fields and values of a stream description (Table 5-4, R6): BLOCKS above 4,096, the bits above FMT, a reserved
code, RANK above 4, the two bytes behind it, extents and strides beyond RANK. -/
def streamReserved (p : Plan) (o : Operand) : Bool :=
  decide (4096 < fieldAt p.param o.stream 4) || (List.range (fieldAt p.param o.stream 4)).any fun i =>
    let b := (p.param.drop (o.stream + 16 + 48 * i)).take 48
    let e := streamBlockOf b
    decide (9 < fieldAt b 8 1) || fieldAt b 0xA 2 != 0 || decide (4 < e.rank)
      || (e.rank != 0 && ((e.shape.drop e.rank).any (· != 1) || (e.stride.drop e.rank).any (· != 0)))

/-- An instruction of Table 11-3: which fields it uses, whether OPD is a register or an immediate and of how many bits,
its lane formats, whether it rounds. -/
structure VecForm where
  vd : Bool
  va : Bool
  vb : Bool
  bits : Nat       -- bits of OPD in use
  fmts : List Nat
  rounds : Bool
  deriving DecidableEq, Repr

/-- Lane formats of R234. -/
def laneFmts : List Nat := [0, 1, 2, 3, 4, 6, 8]

/-- Table 11-3 by OP. -/
def vecForm (op : Nat) : Option VecForm :=
  match op with
  | 0x00 => some ⟨false, false, false, 0, laneFmts, false⟩
  | 0x01 => some ⟨false, false, false, 32, laneFmts, false⟩
  | 0x02 => some ⟨true, false, false, 0, [8], false⟩
  | 0x03 => some ⟨true, false, false, 32, laneFmts, false⟩
  | 0x04 => some ⟨true, false, false, 2, laneFmts, false⟩
  | 0x05 => some ⟨false, true, false, 1, laneFmts, true⟩
  | 0x06 => some ⟨true, false, false, 0, [8], false⟩
  | 0x10 | 0x11 | 0x12 => some ⟨true, true, true, 0, [0, 8], true⟩
  | 0x13 => some ⟨true, true, true, 5, [0], true⟩
  | 0x14 | 0x15 => some ⟨true, true, true, 0, [0, 8, 6], false⟩
  | 0x16 | 0x17 => some ⟨true, true, false, 0, [0, 8], false⟩
  | 0x18 | 0x19 => some ⟨true, true, false, 32, [0, 8], true⟩
  | 0x20 | 0x21 | 0x22 | 0x23 => some ⟨true, true, false, 0, [0], false⟩
  | 0x28 | 0x29 | 0x2A => some ⟨true, true, true, 0, laneFmts, false⟩
  | 0x2B => some ⟨true, true, false, 32, laneFmts, false⟩
  | 0x2C | 0x2D => some ⟨true, true, false, 5, [8, 6], false⟩
  | 0x30 | 0x31 | 0x32 => some ⟨true, true, true, 0, [0, 8, 6], false⟩
  | 0x33 => some ⟨true, true, true, 5, laneFmts, false⟩
  | 0x38 => some ⟨true, true, false, 4, laneFmts, true⟩
  | 0x40 => some ⟨true, true, true, 0, laneFmts, false⟩
  | 0x41 | 0x42 | 0x43 => some ⟨true, true, false, 32, laneFmts, false⟩
  | 0x48 => some ⟨true, true, false, 0, [0, 8], true⟩
  | 0x49 | 0x4A => some ⟨true, true, false, 0, [0, 8], false⟩
  | 0x50 => some ⟨true, true, false, 5, [0, 8], true⟩
  | 0x51 => some ⟨true, true, false, 5, [0, 8], false⟩
  | 0x52 => some ⟨true, true, true, 5, [0, 8], true⟩
  | _ => none

/-- Words of a program, as far as it may be long. -/
def vecWords (p : Plan) (d : Desc) : List Nat := (List.range (min 64 (vpLength d))).map (vecWord p d)

/-- R234, R240: a word whose OP, FMT, RND, reserved bits or unused fields are wrong. -/
def wordReserved (w : Nat) : Bool :=
  let a := vecWordArgs 0 w
  match vecForm (vecWordOp w) with
  | none => true
  | some f =>
    !laneFmts.contains a.fmt || a.rnd == 3 || (a.rnd != 0 && !f.rounds) || bitsOf w 34 32 != 0
      || (!f.vd && a.vd != 0) || (!f.va && a.va != 0) || (!f.vb && a.vb != 0) || decide (2 ^ f.bits ≤ a.opd.toNat)
      || (vecWordOp w == 0x38 && decide (9 < a.opd.toNat))

/-- ROUND by opcode (Table 6-4 and the operators' tables); codes 3, and 1 for the accumulator, are refused for all
(R48). -/
def roundBad (d : Desc) : Bool :=
  let op := d.opcode
  let o := outRound d
  let a := accRound d
  o == 3 || a == 1 || a == 3 || decide (15 < d.round) ||
    if isMatmul op ∨ op = opMatvec then a != 0 && isIntCode (mmA d).fmt && isIntCode (mmB d).fmt
    else if op = opReduce then a != 0 && isIntCode (rdSrc d).fmt && decide (rdOp d < 2)
    else if op = opConvTaps then a != 0 && isIntCode (wnX d).fmt
    else if op = opAttnFwd ∨ op = opAttnBwd ∨ op = opAttnDecode ∨ op = opCopyConvert ∨ op = opUpdateElem
      ∨ op = opUpdateMatrix then a != 0
    else if op = opVecProgram ∨ op = opGlobalNorm ∨ op = opOffload ∨ op = opPrefetch then d.round != 0
    else if op = opScan ∨ op = opSegScan then a != 0 && (scOp d != 0 || isIntCode (scSrc d).fmt)
    else if op = opCollective then
      o != 0 || (a != 0 && !(decide (clKind d < 2) && clOp d == 0 && !isIntCode (clSrc d).fmt))
    else false

/-- Reserved values of a body's own fields, by opcode. -/
def valueReserved (p : Plan) (d : Desc) : Bool :=
  let op := d.opcode
  let blk := blockBytesOf p d
  if isMatmul op ∨ op = opMatvec then
    mmAccIn d == 3 || mmAccOut d == 3 || decide (5 < mmAct d) || outOf16 (mmBN d) || outOf16 (mmSplitK d)
      || (op != opMatvec && outOf16 (mmBM d))
  else if op = opAttnDecode then dpMask blk == 0 || dpMask blk == 3 || decide (9 < dpPFmt blk)
  else if op = opAttnFwd ∨ op = opAttnBwd then decide (9 < paPFmt blk)
  else if op = opVecProgram then decide (64 < vpLength d) || (vecWords p d).any wordReserved
  else if op = opScan ∨ op = opSegScan then decide (2 < scOp d)
  else if op = opConvTaps then decide (5 < b8 d 0x48) || wPoolOp blk != 0
  else if op = opPool then decide (5 < b8 d 0x48) || decide (2 < wPoolOp blk)
  else if op = opReduce then decide (3 < rdOp d) || decide (2147483647 < rdAxis d) || outOf16 (rdSplit d)
  else if op = opGlobalNorm then decide (1 < gnMode d)
  else if op = opUpdateElem then
    decide (2 < upRule d) || (upBiasCorr d && upRule d != 0) || (upNesterov d && upRule d != 2) || decide (9 < ubNsFmt blk)
      || (upRule d == 2 && fieldAt blk 8 4 != 0) || (isNone (ubMask blk) && ubRowLen blk != 0)
  else if op = opUpdateMatrix then
    upRule d != 0 || decide (9 < ubNsFmt blk) || fieldAt blk 8 4 != 0 || (isNone (ubMask blk) && ubRowLen blk != 0)
  else if op = opRingPass then decide (1 < b8 d 0x2A) || rpHop d == 0 || decide (2 < rpHop d)
  else if op = opCollective then
    decide (4 < clKind d ∨ 2 < clOp d ∨ 3 < clGroup d)
      || (decide (2 ≤ clKind d) && clOp d != 0)
      || (decide (3 ≤ clKind d) && (clStripes d != 1 || (clDims d).any (· != 0)))
      || (clKind d != 3 && clRoot d != 0) || (clKind d != 4 && clMap d != 0)
  else if op = opPrefixLookup ∨ op = opPrefixInsert then decide (512 < pfQueries d)
  else if op = opOffload ∨ op = opPrefetch then
    decide (1 < ofTarget d) || ofLen d % 64 != 0
      || (if ofTarget d = 0 then
            decide (63 < ofRegion d) || ofRegionOff d % 64 != 0 || ofPeerSend d != 0 || ofPeerRecv d != 0
          else
            ofRegion d != 0 || ofRegionOff d != 0 || (!ofSend d && ofPeerSend d != 0) || (!ofRecv d && ofPeerRecv d != 0))
  else if op = opWeightChain then
    decide (1 < wcForward d) || d.spanFirst % 16 != 0 || d.spanCount % 16 != 0 || d.spanCount == 0
      || d.spanStride != 1
  else if op = opBankHandover then decide (4 < b8 d 0) ||
    (List.range 4).any fun i =>
      decide (3 < b8 d (4 + 4 * i) ∨ 4 < b8 d (5 + 4 * i) ∨ 4 < b8 d (6 + 4 * i)) || b8 d (7 + 4 * i) != 0
  else false
where
  /-- A value outside 1 to 16, the only ones that Tables 7-3 and 7-7 define for block sizes and splits (R6). -/
  outOf16 (n : Nat) : Bool := n == 0 || decide (16 < n)

/-- Check 5 on descriptor i (R44 to R50, R52, R267, R356, R443). -/
def desc5 (v : VCtx) (i : Nat) (d : Desc) : Bool :=
  let p := v.p
  let op := d.opcode
  let raw := tabBytes v.mem (p.base + secOffset v.mem p.base 3 + 128 * i) 32
  let blk := blockBytesOf p d
  let inArea := match blockField op with | some f => decide (b32 d f.1 + f.2 ≤ p.param.length) | none => false
  !opcodes.contains op || op == opReshardPermute
    || decide (7 < d.flags) || (isDeferrable d && op != opWgrad) || d.seq != i + 1
    || fieldAt raw 0xF 1 != 0 || fieldAt raw 0x1A 2 != 0
    || (d.spanCount != 0 && (d.spanStride == 0 || decide (511 < d.spanFirst + (d.spanCount - 1) * d.spanStride)))
    || decide (512 < d.spanCount)
    || ((op == opPier || op == opCommit || op == opOffload || op == opPrefetch) && d.spanCount != 0)
    || (d.context != 0xFF && decide (p.contexts ≤ d.context))
    || d.deps.any (fun x => decide (i < x))
    || roundBad d
    || (bodyOperands op).any (operandReserved d.body)
    || anySet d.body (bodyReserved op).1 || maskSet d.body (bodyReserved op).2
    || (inArea && ((blockOperands op).any (operandReserved blk) || anySet blk (blockReserved op).1
          || maskSet blk (blockReserved op).2))
    || (descStreams p d).any (fun x => streamReserved p x.1)
    || ((inArea || (blockField op).isNone) && valueReserved p d)

def check5 (v : VCtx) : Option VFail :=
  let base := v.p.base + secOffset v.mem v.p.base 3
  v.p.descs.zipIdx.findSome? fun x =>
    if rangeBad v.bad (base + 128 * x.2) 128 || itemsUnread v x.1 then some ⟨5, stMemory, 3, x.2⟩
    else if desc5 v x.2 x.1 then some (failAt 5 3 x.2) else none

-- ------------------------------------------------------------------------------------------------ check 6

/-- A FROZEN update as one that runs: its references are checked all the same. -/
def thaw (d : Desc) : Desc :=
  if isUpdateOp d.opcode then { d with body := listSet d.body 0x55 (BitVec.ofNat 8 (setBit (b8 d 0x55) 0 false)) } else d
where isUpdateOp (op : Nat) : Bool := op == opUpdateElem || op == opUpdateMatrix

/-- An operand reference that names a buffer of the plan, or a bank. -/
def handleOk (p : Plan) (o : Operand) : Bool := isNone o || isBank o || decide (o.handle < p.bufs.length)

/-- Two operands that name one buffer or one bank. -/
def sameStore (a b : Operand) : Bool := a.handle == b.handle && !isNone a && (!isBank a || a.bank == b.bank)

/-- The bytes of two uses meet, and are not the same set of bytes. -/
def partlySame (p : Plan) (a b : Use) : Bool :=
  let x := useSpans p.param a
  let y := useSpans p.param b
  sameStore a.o b.o && meetRanges x y && !((cutRanges x y).isEmpty && (cutRanges y x).isEmpty)

/-- The elements that a stream-described use has: those of the description itself where their number is not the shape's
(check 8's failure, R110). -/
def ownElems (p : Plan) (u : Use) : Use :=
  let n := streamTotal (streamOf p.param u.o.stream)
  if u.o.stream ≠ 0 ∧ u.raw = false ∧ n ≠ u.total then { u with o := { u.o with skip := 0 }, start := 0, n := n, total := n }
  else u

/-- A use reaches outside its buffer or bank (R45, R110). -/
def useOutside (p : Plan) (u : Use) : Bool :=
  (useRanges p.param (ownElems p u)).any fun r => decide (r.1 < 0) || decide (((operandLimit p u.o : Nat) : Int) < r.1 + r.2)

/-- Check 6 on a use: it reaches outside. Of a block-scaled operand, its elements alone do not fit; where they do and the
scale lines do not, that is check 8's missing block scale (R137). -/
def useBad6 (p : Plan) (u : Use) : Bool :=
  useOutside p u &&
    match fmtOf u.o.fmt with
    | some f => u.raw || !fmtScaled f || decide (operandLimit p u.o < u.o.offset + ceilDiv u.total 32 * blockBytes f)
    | none => true

def kindOf (p : Plan) (o : Operand) : Option Nat := if isBuffer o then (p.bufs[o.handle]?).map (·.kind) else none

/-- Operand conditions of an opcode's own (check 6). -/
def own6 (v : VCtx) (d : Desc) : Bool :=
  let p := v.p
  let op := d.opcode
  let blk := blockBytesOf p d
  let us := descUses p d
  if op = opAttnDecode then kindOf p (dpCache blk) == some 3
  else if op = opCopyConvert then
    match us with
    | [a, b] => partlySame p a b ||
        (sameStore a.o b.o && meetRanges (useSpans p.param a) (useSpans p.param b) && codeBits a.o.fmt != codeBits b.o.fmt)
    | _ => false
  else if op = opAttnFwd then
    let q := atRows d * paHq blk * paD blk
    let l := atRows d * paHq blk
    let pq := useRead (paPriorO blk) q 3
    let pl := useRead (paPriorLse blk) l 3
    let o := useRead (atO d) q 3
    let e := useRead (atLse d) l 3
    partlySame p pq o || partlySame p pq e || partlySame p pl o || partlySame p pl e
  else if op = opCollective then
    partlySame p (useRead (clSrc d) (clCount d) 0) (useRead (clDst d) (clCount d) 0)
  else if op = opVecProgram then
    (vecWords p d).any fun w =>
      (vecWordOp w == 4 && (decide (2 < w % 4) || isNone (vpOperand d (w % 4))))
        || (vecWordOp w == 5 && isNone (vpOperand d (3 + w % 2)))
  else if op = opPrefixLookup then !isNone (pfBlocks d) || !isNone (pfEvicted d)
  else if op = opMatvec then decide (p.bufs.length ≤ mvBatch d)
  else if op = opOffload ∨ op = opPrefetch then
    isBank (ofLocal d) || isBank (ofStash d) ||
      (ofTarget d == 0 && match v.regions.find? (fun r => r.id == ofRegion d) with
        | none => true
        | some r => decide (r.len < ofRegionOff d + ofLen d))
  else false

/-- Check 6 on a descriptor (R45, R42). A PREFETCH into a buffer of kind 3 is left to check 8 (Table 18-3). -/
def desc6 (v : VCtx) (d : Desc) : Bool :=
  let p := v.p
  let e := thaw d
  (descItems p d).any (itemOutside p) || (descOperands p d).any (fun o => !handleOk p o)
    || (descExtents p e).any (fun u => (useBad6 p u && !(d.opcode == opWeightChain && u.master == 4))
        || ((u.write || u.add) && kindOf p u.o == some 3 && d.opcode != opPrefetch))
    || own6 v d

/-- Tables of the pipeline block: offset, length, alignment (R262, R264). -/
def pipeItems (p : Plan) : List (Nat × (Nat × Nat)) :=
  if !hasPipeline p then []
  else (if plQueues p = 0 then [] else [(plQueueOffset p, (16 * plQueues p, 16))]) ++ [(plRunOffset p, (32 * plRuns p, 16))]

/-- Bytes of the parameter area hold an uncorrectable sector (R59). -/
def paramUnread (v : VCtx) (o n : Nat) : Bool := rangeBad v.bad (v.p.base + secOffset v.mem v.p.base 6 + o) n

/-- The pipeline block, which check 6 reads from the image: the byte offset at which an uncorrectable sector stops it
(R59). -/
def blockUnread (v : VCtx) : Option Nat :=
  if v.p.param.length < 4096 then none
  else if paramUnread v 0 4 then some 0
  else if !hasPipeline v.p then none
  else (List.range 1024).findSome? fun i => if paramUnread v (4 * i) 4 then some (4 * i) else none

/-- Entries of a table of the parameter area, of `size` bytes each: the byte offset of the first that lies in the area and
cannot be read. -/
def entriesUnread (v : VCtx) (off size n : Nat) : Option Nat :=
  (List.range n).findSome? fun i =>
    if off + size * i + size ≤ v.p.param.length ∧ paramUnread v (off + size * i) size = true then some (off + size * i) else none

/-- What check `c` meets first of the pipeline's tables, where an uncorrectable sector stops it. -/
def unreadFail (c : Nat) (o : Option Nat) : Option VFail := o.map fun o => ⟨c, stMemory, 6, o⟩

/-- Check 6: descriptors, then the pipeline block's own tables. -/
def check6 (v : VCtx) : Option VFail :=
  (tableFail v 6 3 128 v.p.descs.length false fun i => match v.p.descs[i]? with | some d => desc6 v d | none => false).or <|
  (unreadFail 6 (blockUnread v)).or <|
  if (pipeItems v.p).any (itemOutside v.p) then
    some (failAt 6 6 (if plQueues v.p != 0 && itemOutside v.p (plQueueOffset v.p, (16 * plQueues v.p, 16)) then 0x10 else 0x14))
  else
    (unreadFail 6 (if hasPipeline v.p then entriesUnread v (plRunOffset v.p) 32 (plRuns v.p) else none)).or <|
    match (pipeRuns v.p).zipIdx.find? fun x =>
        (x.1.cuts != 0 && itemOutside v.p (x.1.cuts, (4 * x.1.cutCount, 4))) with
    | some x => some (failAt 6 6 (plRunOffset v.p + 32 * x.2))
    | none => none

-- ------------------------------------------------------------------------------------------------ check 7

/-- Counts, extents and lengths of a descriptor that must be at least one (check 7). -/
def counts (p : Plan) (d : Desc) : List Nat :=
  let op := d.opcode
  let blk := blockBytesOf p d
  (if isMatmul op || op == opMatvec then [mmM d, mmN d, mmK d]
   else if op == opAttnFwd || op == opAttnBwd then [atRows d, atKeys d, paHq blk, paHkv blk, paD blk]
   else if op == opAttnDecode then [dpHq blk, dpHkv blk, dpD blk]
   else if op == opVecProgram then [vpCount d, vpLength d, vpStrip d]
   else if op == opScan || op == opSegScan || op == opAffineScan then [scOuter d, scAxis d, scInner d]
   else if op == opConvTaps || op == opPool then
     [wI0 blk, wI1 blk, wK0 blk, wK1 blk, wS0 blk, wS1 blk, wD0 blk, wD1 blk, wCin blk, wCout blk, wBatch blk]
   else if op == opReduce then [rdOuter d, rdAxis d, rdInner d]
   else if op == opNormProbe then [npCount d]
   else if op == opUpdateElem then [upCount d]
   else if op == opUpdateMatrix then [upRows d, upCols d]
   else if op == opCopyConvert then [ccCount d]
   else if op == opRingPass then [rpLen d]
   else if op == opCollective then [clCount d]
   else if op == opOffload || op == opPrefetch then [ofLen d]
   else if op == opWeightChain then [wcLen d]
   else if op == opPrefixLookup || op == opPrefixInsert then [pfQueries d, pfDepth d]
   else if op == opBankHandover then [b8 d 0]
   else [])
    ++ (descStreams p d).flatMap fun x =>
        x.2.blocks.length :: x.2.passes :: x.2.blocks.flatMap fun b => b.rank :: b.count :: b.shape

/-- Zeros of the pipeline block and its tables: byte offset of the entry, and whether it holds one (R274). -/
def pipeZeros (p : Plan) : List (Nat × Bool) :=
  if !hasPipeline p then []
  else
    [(4, plGroups p == 0), (5, plStages p == 0), (8, plMicro p == 0)]
      ++ (List.range (min 32 (plGroups p))).map (fun g => (0x40 + 4 * g, (plGroup p g).2 == 0))
      ++ (pipeQueues p).zipIdx.map (fun x => (plQueueOffset p + 16 * x.2, x.1.perToken == 0))
      ++ (pipeRuns p).zipIdx.map (fun x => (plRunOffset p + 32 * x.2, x.1.tokens == 0))

def check7 (v : VCtx) : Option VFail :=
  (tableFail v 7 0 32 v.p.bufs.length false fun i => (v.p.bufs[i]?).any fun b => b.size == 0).or <|
  (tableFail v 7 1 16 v.p.phases.length true fun i => (v.p.phases[i]?).any fun f => f.setupCount == 0).or <|
  (tableFail v 7 3 128 v.p.descs.length false fun i => (v.p.descs[i]?).any fun d => (counts v.p d).contains 0).or <|
  (tableFail v 7 5 32 v.p.xfers.length true fun i => (v.p.xfers[i]?).any fun x => x.len == 0).or <|
  (unreadFail 7 (if hasPipeline v.p then entriesUnread v (plQueueOffset v.p) 16 (plQueues v.p) else none)).or <|
  match (pipeZeros v.p).find? (·.2) with
  | some x => some (failAt 7 6 x.1)
  | none => none

-- ------------------------------------------------------------------------------------------------ check 8

def floatCodes : List Nat := [0, 1, 2, 3, 4, 5, 9]
def biasCodes : List Nat := [0, 1, 2]
def attnCodes : List Nat := [0, 1, 2, 3, 4, 9]
def pFmtCodes : List Nat := [0, 1, 2, 3]

/-- FP32 1.0. -/
def oneBits : Nat := 0x3F800000

/-- An operand that must be absent, or present in a format of a list. -/
def absentOr (o : Operand) (l : List Nat) : Bool := isNone o || l.contains o.fmt
def presentIn (o : Operand) (l : List Nat) : Bool := !isNone o && l.contains o.fmt

/-- Table 7-5: both multiplicands floating or both integer, the bias floating or absent. -/
def pairBad (a b bias : Operand) : Bool :=
  isNone a || isNone b
    || !((floatCodes.contains a.fmt && floatCodes.contains b.fmt) || ([6, 7].contains a.fmt && [6, 7].contains b.fmt))
    || !absentOr bias biasCodes

/-- Chunks of 32 of a reduction. -/
def chunks (n : Nat) : Nat := ceilDiv n 32

/-- R162: a member that does not continue the one before it. -/
def chainBad (p : Plan) (d : Desc) : Bool :=
  mmAccIn d == 2 &&
    match chainPrev p d with
    | none => true
    | some x =>
      targets x != targets d || mmM x != mmM d || mmN x != mmN d || mmBM x != mmBM d
        || mmBN x != mmBN d || mmSplitK x != mmSplitK d || (mmOut x).fmt != (mmOut d).fmt
        || decide (mmKBase d < mmKBase x + chunks (mmK x))

/-- The MATMUL family and MATVEC_BATCH (R152 to R168, R214). A MATVEC_BATCH block
is not held to the accumulator's size (DESIGN CHOICE, assumption 233). -/
def matmul8 (p : Plan) (d : Desc) : Bool :=
  let a := mmA d
  let b := mmB d
  let o := mmOut d
  let int := isIntCode a.fmt
  let vecOp := d.opcode == opMatvec
  (if vecOp then decide (512 < mmM d) || mmTA d || mmBM d != 0 || decide (1 < mmAccIn d) || mmAccOut d == 1
   else decide (16 < mmBM d * mmBN d))
    || d.spanCount % mmSplitK d != 0 || decide (chunks (mmK d) < mmSplitK d)
    || pairBad a b (mmBias d) || isNone o
    || (isScaledCode a.fmt && (mmTA d || mmK d % 32 != 0)) || (isScaledCode b.fmt && (!mmTB d || mmK d % 32 != 0))
    || (mmAccIn d == 1 && o.fmt != (if int then 8 else 0))
    || (isScaledCode o.fmt && (mmN d % 32 != 0 || mmAccOut d == 2))
    || (mmAccOut d == 2 && (!isBuffer o || !([0, 1, 8] : List Nat).contains o.fmt))
    || (mmWide d && !(int && mmAccIn d != 1 && mmAccOut d == 2 && b32 d 0x50 == oneBits && isNone (mmBias d)
          && mmAct d == 0 && o.fmt == 8))
    || (mmAccOut d == 1 && ceilDiv (mmM d) (64 * mmBM d) * ceilDiv (mmN d) (64 * mmBN d) != d.spanCount / mmSplitK d)
    || chainBad p d

/-- Softmax scale and soft cap (R189). -/
def scaleBad (scale cap : Num) : Bool :=
  !numIsFinite scale || numIsZero scale || !numIsFinite cap || (!numIsZero cap && numSign cap)

def headsBad (hq hkv dd : Nat) : Bool :=
  dd % 32 != 0 || decide (dd < 32 ∨ 256 < dd ∨ 256 < hq ∨ 256 < hkv) || hkv == 0 || hq % hkv != 0

/-- ATTN_FWD and ATTN_BWD (R174 to R189). -/
def attn8 (p : Plan) (d : Desc) : Bool :=
  let b := atParam p d
  let fwd := d.opcode == opAttnFwd
  headsBad (paHq b) (paHkv b) (paD b)
    || !presentIn (atQ d) attnCodes || !presentIn (atK d) attnCodes || !presentIn (atV d) attnCodes
    || !presentIn (atLse d) [0] || !pFmtCodes.contains (paPFmt b)
    || decide (2 ^ 48 - 1 < paQPos b + atRows d - 1) || decide (2 ^ 48 - 1 < paKPos b + atKeys d - 1)
    || (paMask b != 2 && (paWl b != 0 || paWr b != 0)) || (paMask b != 3 && paPrefixEnd b != 0)
    || (if paSeg b then !presentIn (paQSeg b) [8] || !presentIn (paKSeg b) [8] else !isNone (paQSeg b) || !isNone (paKSeg b))
    || scaleBad (paScale b) (paCap b)
    || (if fwd then
          !presentIn (atO d) attnCodes || !isNone (paDq b) || !isNone (paDk b) || !isNone (paDv b)
            || (if paMerge b then !presentIn (paPriorO b) [0] || !presentIn (paPriorLse b) [0]
                else !isNone (paPriorO b) || !isNone (paPriorLse b))
        else
          decide (d.spanCount < 2) || !presentIn (paPriorO b) attnCodes || !presentIn (paPriorLse b) [0]
            || (if paDelta b then !presentIn (atO d) attnCodes else !isNone (atO d))
            || !presentIn (paDq b) (if paDqAdd b then [0] else [0, 1])
            || !presentIn (paDk b) (if paDkAdd b then [0] else [0, 1])
            || !presentIn (paDv b) (if paDvAdd b then [0] else [0, 1]))

/-- ATTN_DECODE (R216 to R220, Table 10-3). CACHE or BATCH in a bank fails it too (DESIGN CHOICE,
assumption 234). -/
def decode8 (p : Plan) (d : Desc) : Bool :=
  let b := adParam p d
  headsBad (dpHq b) (dpHkv b) (dpD b)
    || !presentIn (adQ d) attnCodes || !presentIn (adO d) attnCodes || !presentIn (dpCache b) attnCodes
    || isNone (adKNew d) || isNone (adVNew d) || (adKNew d).fmt != (dpCache b).fmt || (adVNew d).fmt != (dpCache b).fmt
    || !isBuffer (dpCache b) || !isBuffer (dpBatch b) || !presentIn (dpLists b) [8] || !absentOr (dpLse b) [0]
    || !pFmtCodes.contains (dpPFmt b) || scaleBad (dpScale b) (dpCap b) || (dpMask b != 2 && dpWl b != 0)
    || decide (dpUnitMax b < dpUnit b)

/-- VEC_PROGRAM (Table 11-4). -/
def vec8 (p : Plan) (d : Desc) : Bool :=
  let ws := vecWords p d
  let streams := (List.range 5).map (vpOperand d)
  decide (vpLength d ≤ vpLoop d) || decide (256 < vpStrip d) || decide (2 ^ 41 ≤ vpCount d)
    || isNone (vpOperand d 0) || isNone (vpOperand d 3)
    || (streams.any fun o => !isNone o && isScaledCode o.fmt) && (vpStrip d % 32 != 0 || vpCount d % 32 != 0)
    || ws.any fun w =>
        let a := vecWordArgs 0 w
        let op := vecWordOp w
        decide (laneCount (laneFmt a.fmt) < vpStrip d)
          || (match vecForm op with | some f => !f.fmts.contains a.fmt | none => true)
          || (op == 4 && !widensTo (vpOperand d (w % 4)).fmt a.fmt)
          || (op == 0x38 && !laneFmts.contains a.opd.toNat)
where
  /-- An input format that LD widens to a lane format (R236): block-scaled formats to FP32 only (assumption 127). -/
  widensTo (src dst : Nat) : Bool :=
    match fmtOf src, fmtOf dst with
    | some .mxfp8, some f | some .mxfp4, some f => f == .fp32
    | some f, some g => f == g || isWidening f g
    | _, _ => false

/-- SCAN, SEG_SCAN, AFFINE_SCAN (R241 to R244). -/
def scan8 (d : Desc) : Bool :=
  if d.opcode = opAffineScan then
    !presentIn (afA d) [0, 1, 2, 3, 4] || !presentIn (afB d) [0, 1, 2, 3, 4] || !presentIn (afH d) [0, 1, 2]
      || !absentOr (afProd d) [0] || !absentOr (afCarryIn d) [0]
  else
    let carry := if isIntCode (scSrc d).fmt then [8] else [0]
    isNone (scSrc d) || isNone (scDst d) || isScaledCode (scSrc d).fmt || isScaledCode (scDst d).fmt
      || !absentOr (scCarryIn d) carry || !absentOr (scCarryOut d) carry
      || (if d.opcode = opScan then !isNone (scFlags d) else !presentIn (scFlags d) [6, 8])

/-- CONV_TAPS and POOL (R247 to R260). -/
def window8 (p : Plan) (d : Desc) : Bool :=
  let b := wnParam p d
  let pool := d.opcode == opPool
  decide (outExtent (wI0 b) (wP0Pre b) (wP0Post b) (wD0 b) (wK0 b) (wS0 b) < 1)
    || decide (outExtent (wI1 b) (wP1Pre b) (wP1Post b) (wD1 b) (wK1 b) (wS1 b) < 1)
    || wGroups b == 0 || wCin b % wGroups b != 0 || wCout b % wGroups b != 0
    || decide (wP1Pre b < wHaloPre b) || decide (wP1Post b < wHaloPost b)
    || (wHaloPre b == 0) != isNone (wHaloPreOp b) || (wHaloPost b == 0) != isNone (wHaloPostOp b)
    || !absentOr (wHaloPreOp b) [(wnX d).fmt] || !absentOr (wHaloPostOp b) [(wnX d).fmt]
    || isNone (wnX d) || isNone (wnY d)
    || (isScaledCode (wnX d).fmt && wCing b % 32 != 0) || (isScaledCode (wnY d).fmt && wCout b % 32 != 0)
    || (if pool then
          !(floatCodes ++ [6, 7]).contains (wnX d).fmt || wCout b != wCin b || wGroups b != 1 || !isNone (wnBias d)
            || b32 d 0x44 != oneBits || wnAct d != 0 || fieldAt b 0x2C 4 != 0
            || (if wPoolOp b = 0 then !presentIn (wnW d) [8] else !isNone (wnW d))
        else pairBad (wnX d) (wnW d) (wnBias d) || (isScaledCode (wnW d).fmt && wCing b % 32 != 0))

/-- REDUCE (R170 to R173). -/
def reduce8 (d : Desc) : Bool :=
  let i := rdInner d
  isNone (rdSrc d) || isNone (rdDst d)
    || (!isNone (rdIdx d) && (decide (rdOp d < 2) || (rdIdx d).fmt != 8))
    || (isScaledCode (rdSrc d).fmt && (i != 1 || rdAxis d % 32 != 0))
    || (isScaledCode (rdDst d).fmt && (rdOuter d * i % 32 != 0 || (i != 1 && i % 32 != 0)))
    || d.spanCount % rdSplit d != 0 || decide (chunks (rdAxis d) < rdSplit d)

/-- GLOBAL_NORM (R277). -/
def norm8 (p : Plan) (d : Desc) : Bool :=
  let c := decodeNum .fp32 (gnMax d)
  let e := decodeNum .fp32 (gnEps d)
  !presentIn (gnAcc d) [0] || (isBuffer (gnAcc d) && kindOf p (gnAcc d) != some 0)
    || (gnMode d == 0) != isNone (gnClip d)
    || !numIsFinite c || (numSign c && !numIsZero c) || !numIsFinite e || (numSign e && !numIsZero e)

/-- UPDATE_ELEM and UPDATE_MATRIX (Tables 14-3 to 14-6, 14-11). -/
def update8 (p : Plan) (d : Desc) : Bool :=
  let b := upParam p d
  let mat := d.opcode == opUpdateMatrix
  !presentIn (upW d) [0] || !presentIn (upG d) [0, 1] || !presentIn (upM1 d) [0, 1]
    || (!mat && (if upRule d = 0 then !presentIn (upM2 d) [0, 1] else !isNone (upM2 d)))
    || (!isNone (upWp d) && (upWp d).fmt == 8)
    || (isScaledCode (upWp d).fmt && !isNone (upWp d) && (if mat then upCols d % 32 != 0 else upCount d % 32 != 0))
    || (!isNone (ubMask b) && ((ubMask b).fmt != 6 || ubRowLen b == 0 || (mat && ubRowLen b != upCols d)))
    || (if mat then d.spanCount != 512 || decide (1 < ubNsFmt b)
        else (List.range 15).any (fun i => fieldAt b (0x40 + 4 * i) 4 != 0) || ubNsFmt b != 0 || fieldAt b 0x14 4 != oneBits)

/-- RING_PASS (R198, R200). -/
def ring8 (d : Desc) : Bool :=
  let bank := rpBank d
  rpLen d % 64 != 0 || (isNone (rpSrc d) && isNone (rpDst d))
    || (if bank then isBuffer (rpSrc d) || isBuffer (rpDst d) || d.spanCount == 0 || decide (4 < d.spanCount)
          || rpLen d / 64 % d.spanCount != 0
        else d.spanCount != 0)

/-- COLLECTIVE (Table 17-3). The messages are looked at once DIMS, STRIPES and COUNT are in order. -/
def collective8 (p : Plan) (d : Desc) : Bool :=
  let P := clSize p (clGroup d)
  let phased := decide (clKind d < 3)
  isNone (clSrc d) || isNone (clDst d) || !([0, 1, 8] : List Nat).contains (clSrc d).fmt || (clSrc d).fmt != (clDst d).fmt
    || !([1, 2, 4, 6] : List Nat).contains (clStripes d)
    || (phased && ((clDims d).foldl (· * ·) 1 != P || decide (clCount d < clStripes d * P)))
    || (clKind d == 3 && decide (P ≤ clRoot d))
    || (clKind d == 4 && !((List.range P).all fun r => (List.range P).any fun q => clMapAt p d q == r))
    || (d.spanCount == 0 && (isBank (clSrc d) || isBank (clDst d)))
    || kindOf p (clStaging d) != some 0
    || (phased && decide ((operandLimit p (clStaging d)) < (clStaging d).offset + 2 * clLargest p d))

/-- OFFLOAD and PREFETCH (Tables 18-1 and 18-3). -/
def offload8 (p : Plan) (d : Desc) : Bool :=
  let pre := d.opcode == opPrefetch
  let stash := ofTarget d == 1 && (if pre then ofSend d else ofRecv d)
  isNone (ofLocal d)
    || (pre && (kindOf p (ofLocal d) == some 2 || kindOf p (ofLocal d) == some 3))
    || (if stash then kindOf p (ofStash d) != some 0 else !isNone (ofStash d))
    || (if ofTarget d = 0 then ofSend d || ofRecv d else !(ofSend d || ofRecv d))

/-- WEIGHT_CHAIN (R121, R122). -/
def chain8 (p : Plan) (d : Desc) : Bool :=
  let n := d.spanCount
  isBank (wcSrc d) || isBank (wcDst d) || wcLen d % 64 != 0
    || (isNone (wcSrc d) && isNone (wcDst d) && wcForward d == 0)
    || (isNone (wcSrc d) && (entryOf p d.seq 1).isNone) || (wcForward d == 1 && (entryOf p d.seq 0).isNone)
    || wcDigest d == isNone (wcDigestOut d)
    || (wcKeepLen d != 0 && (wcKeepLen d % 64 != 0 || wcKeepOff d % 64 != 0 || decide (bankSize < wcKeepOff d + wcKeepLen d)
          || decide (wcLen d < (n - 1) * wcKeepStride d + wcKeepLen d)))

/-- PREFIX_LOOKUP and PREFIX_INSERT (Table 10-7). -/
def prefix8 (p : Plan) (d : Desc) : Bool :=
  let ins := d.opcode == opPrefixInsert
  kindOf p (pfTable d) != some 1
    || p.descs.any (fun e => (e.opcode == opPrefixLookup || e.opcode == opPrefixInsert) && decide (e.seq < d.seq)
          && (pfTable e).handle != (pfTable d).handle)
    || !presentIn (pfTokens d) [8] || !presentIn (pfResult d) [8]
    || (ins && (!presentIn (pfBlocks d) [8] || !presentIn (pfEvicted d) [8]))
    || decide (operandLimit p (pfTable d) < (pfTable d).offset + 0x100 + 8 * indexSlots 1)

/-- R444: SPAN_COUNT 0 where the Keystone executes the descriptor. -/
def spansBad (d : Desc) : Bool :=
  d.spanCount == 0 &&
    !(d.opcode == opPier || d.opcode == opCommit || d.opcode == opOffload || d.opcode == opPrefetch
      || (d.opcode == opRingPass && !rpBank d) || (d.opcode == opCollective && decide (2 ≤ clKind d))
      || (d.opcode == opGlobalNorm && isBuffer (gnAcc d)))

/-- A pair of formats that the stream engine does not take, from the first to the second: anything but one format or a
widening of unscaled ones (R110, R139). -/
def narrowingPair (src dst : Nat) : Bool :=
  isScaledCode src || isScaledCode dst || match fmtOf src, fmtOf dst with
    | some f, some g => !(f == g || isWidening f g)
    | _, _ => true

/-- A stream description that does not fit its operand or its use (R110): what is read is widened from the block's format
to the operand's, what is written from the operand's to the block's. -/
def streamBad (p : Plan) (d : Desc) : Bool :=
  (descStreams p d).any (fun x =>
      x.2.blocks.any fun b =>
        b.count != b.shape.foldl (· * ·) 1
          || (codeBits b.fmt == 4 && (b.stride.headD 1 != 1 || b.shape.headD 1 % 2 != 0))
          || (narrowingPair b.fmt x.1.fmt && narrowingPair x.1.fmt b.fmt))
    || (descExtents p (thaw d)).any fun u =>
        u.o.stream != 0 && (u.raw || streamTotal (streamOf p.param u.o.stream) != u.total
          || (streamOf p.param u.o.stream).blocks.any fun b =>
              if u.write then narrowingPair u.o.fmt b.fmt
              else if u.add then b.fmt != u.o.fmt
              else narrowingPair b.fmt u.o.fmt)

/-- R102: a bank write of a contiguous run that does not begin on a 64-byte line. -/
def bankRunBad (p : Plan) (u : Use) : Bool :=
  isBank u.o && u.write &&
    (u.o.offset % 64 != 0 || (u.o.stream != 0 && (useRanges p.param u).any fun r => r.1 % 64 != 0))

/-- R137: a block-scaled operand whose room, from OFFSET to the end of its buffer or bank, holds its elements and not all of
its scale lines (the missing block scale). -/
def scalesMissing (p : Plan) (u : Use) : Bool :=
  isScaledCode u.o.fmt && !u.raw && useOutside p u

/-- Check 8 on a descriptor: R444, R102, R110, R137, then the operator's own conditions. -/
def desc8 (p : Plan) (d : Desc) : Bool :=
  let op := d.opcode
  spansBad d || streamBad p d
    || (descOperands p d).any (fun o => !isNone o && isScaledCode o.fmt && o.offset % 64 != 0)
    || (descExtents p (thaw d)).any (fun u => bankRunBad p u || scalesMissing p u)
    || (if isMatmul op ∨ op = opMatvec then matmul8 p d
        else if op = opAttnFwd ∨ op = opAttnBwd then attn8 p d
        else if op = opAttnDecode then decode8 p d
        else if op = opVecProgram then vec8 p d
        else if op = opScan ∨ op = opSegScan ∨ op = opAffineScan then scan8 d
        else if op = opConvTaps ∨ op = opPool then window8 p d
        else if op = opReduce then reduce8 d
        else if op = opGlobalNorm then norm8 p d
        else if op = opNormProbe then isNone (npSrc d) || (isScaledCode (npSrc d).fmt && npCount d % 32 != 0)
        else if op = opUpdateElem ∨ op = opUpdateMatrix then update8 p d
        else if op = opCommit then isNone (cmRecord d)
        else if op = opCopyConvert then
          isNone (ccSrc d) || isNone (ccDst d)
            || ((isScaledCode (ccSrc d).fmt || isScaledCode (ccDst d).fmt) && ccCount d % 32 != 0)
            || (ccNonsat d && (ccDst d).fmt != 4)
        else if op = opRingPass then ring8 d
        else if op = opCollective then collective8 p d
        else if op = opOffload ∨ op = opPrefetch then offload8 p d
        else if op = opWeightChain then chain8 p d
        else if op = opPrefixLookup ∨ op = opPrefixInsert then prefix8 p d
        else false)

/-- Check 8: the head group first (R343), then the descriptors. -/
def check8 (v : VCtx) : Option VFail :=
  if v.p.ringLength % max 1 v.p.headGroup ≠ 0 then some (failAt 8 secHeader 0x28)
  else tableFail v 8 3 128 v.p.descs.length false fun i => (v.p.descs[i]?).any (desc8 v.p)

end Sys2Proof.Machine
end

