-- ==== Sys2Proof/Machine/CheckFlow.lean ====
section
/-! DEFINITION. Validation along static order: bank ownership and bank contents (check 9), the pipeline (check 10), and
what its later files share: steps and segments, accesses by place, order by dependency. -/

namespace Sys2Proof.Machine

-- ------------------------------------------------------------------------------------------------ steps and segments

/-- The descriptors of the first step, and of a later one, which begins at LOOP_PHASE (R52). -/
def stepDescs (p : Plan) (step : Nat) : List Desc :=
  if step = 0 then p.descs else p.descs.filter fun d => decide (loopSeq p ≤ d.seq)

/-- A list of descriptors cut after each PIER. -/
def cutAtPiers : List Desc → List (List Desc)
  | [] => []
  | d :: ds =>
    if d.opcode = opPier then [d] :: cutAtPiers ds
    else match cutAtPiers ds with
      | [] => [[d]]
      | g :: gs => (d :: g) :: gs

/-- Every segment that runs: those of the first step, and the one with which a later step begins. -/
def planSegments (p : Plan) : List (List Desc) := cutAtPiers p.descs ++ (cutAtPiers (stepDescs p 1)).take 1

-- ------------------------------------------------------------------------------------------------ check 9

/-- What the walk of check 9 keeps: bytes written in the segment, by span × 4 + bank, and the accumulator halves that are
resident, by span × 2 + half. -/
structure BankWalk where
  wrote : List (Nat × (Int × Int))
  resid : List Nat
  deriving DecidableEq, Repr

/-- R104: FROM is the owner on every target span, and no bank is named twice. -/
def handoverBad (owners : Tab Nat) (d : Desc) : Bool :=
  let es := hoEntries d
  (targets d).any (fun x => es.any fun e => tabGet 0 owners (x * 4 + e.1) != e.2.1)
    || es.any fun e => decide (1 < (es.filter fun f => f.1 == e.1).length)

/-- R103, R189, R255: an access to a bank by a master that does not own it; the attention operators keep their resident set in
all four banks but those handed to the Causeway port. -/
def ownerBad (v : VCtx) (owners : Tab Nat) (d : Desc) : Bool :=
  ((descUses v.p d).any fun u =>
      isBank u.o && (useTargets (bankSpans d) u).any fun x => tabGet 0 owners (x * 4 + u.o.bank) != u.master)
    || !attentionOwns owners d
    || ((d.opcode == opConvTaps || d.opcode == opPool) &&
        (let k := wLineBank (wnParam v.p d)
         (targets d).any (fun x => tabGet 0 owners (x * 4 + k) != 1)
           || (descOperands v.p d).any fun o => isBank o && o.bank == k))

/-- Operators that use the accumulator (R161, R170, R178, R252). -/
def accumulates (p : Plan) (d : Desc) : Bool :=
  isMatmul d.opcode || d.opcode == opMatvec || d.opcode == opReduce || d.opcode == opAttnFwd || d.opcode == opAttnDecode
    || (d.opcode == opConvTaps && wnMaster d (wnParam p d) == 1)

/-- R161, Table 8-6: a descriptor that needs a resident half. -/
def residentBad (p : Plan) (resid : List Nat) (d : Desc) : Bool :=
  (targets d).any fun x =>
    if isMatmul d.opcode && mmAccIn d == 2 then false
    else if isMatmul d.opcode && mmAccOut d == 1 then resid.contains (x * 2 + mmHalf d)
    else if d.opcode == opAttnBwd then resid.contains (x * 2) || resid.contains (x * 2 + 1)
    else accumulates p d && resid.contains (x * 2) && resid.contains (x * 2 + 1)

/-- R108: a bank byte read that the segment has not written. -/
def unwrittenBad (v : VCtx) (w : BankWalk) (d : Desc) : Bool :=
  (descUses v.p d).any fun u =>
    isBank u.o && !u.write && !u.add && (useTargets (bankSpans d) u).any fun x =>
      !(cutRanges (useSpans v.p.param u)
          ((w.wrote.filter fun e => e.1 == x * 4 + u.o.bank).map (·.2))).isEmpty

/-- The walk after a descriptor. -/
def bankStep (v : VCtx) (w : BankWalk) (d : Desc) : BankWalk :=
  if d.opcode = opPier then ⟨[], []⟩
  else
    let add := (descUses v.p d).flatMap fun u =>
      if isBank u.o && u.write then
        (useTargets (bankSpans d) u).flatMap fun x => (useSpans v.p.param u).map fun r => (x * 4 + u.o.bank, r)
      else []
    let halves := (targets d).map fun x => x * 2 + mmHalf d
    let resid :=
      if !isMatmul d.opcode then w.resid
      else if mmAccOut d = 1 then w.resid ++ halves
      else if mmAccIn d = 2 then w.resid.filter fun k => !halves.contains k
      else w.resid
    ⟨w.wrote ++ add, resid⟩

/-- The first descriptor of a step, by SEQ, that fails check 9. -/
def bankWalkFrom (v : VCtx) (step : Nat) : BankWalk → List Desc → Option Nat
  | _, [] => none
  | w, d :: ds =>
    let owners := ownersAt v.p step d.seq
    if (d.opcode = opBankHandover ∧ handoverBad owners d = true) ∨ ownerBad v owners d = true
        ∨ residentBad v.p w.resid d = true ∨ unwrittenBad v w d = true then some d.seq
    else bankWalkFrom v step (bankStep v w d) ds

/-- The first failing descriptor of the first step or of a later one. -/
def firstOf (a b : Option Nat) : Option Nat :=
  match a, b with
  | some x, some y => some (min x y)
  | some x, none => some x
  | none, y => y

/-- Whether a phase names the setup record of an index. -/
def setupNamed (p : Plan) (i : Nat) : Bool :=
  p.phases.any fun f => decide (f.setupFirst ≤ i) && decide (i < f.setupFirst + f.setupCount)

/-- Check 9 is the first to read the setup records that phases name (bank owners, kind 0x04); an uncorrectable sector of
one stops the validation there (R59). -/
def check9 (v : VCtx) : Option VFail :=
  let setupsBase := v.p.base + secOffset v.mem v.p.base 2
  (((List.range v.p.setups.length).find? fun i => setupNamed v.p i && rangeBad v.bad (setupsBase + 256 * i) 256).map fun i =>
    (⟨9, stMemory, 2, i⟩ : VFail)).or <|
  (firstOf (bankWalkFrom v 0 ⟨[], []⟩ (stepDescs v.p 0)) (bankWalkFrom v 1 ⟨[], []⟩ (stepDescs v.p 1))).map fun q =>
    failAt 9 3 (q - 1)

-- ------------------------------------------------------------------------------------------------ places

/-- Bytes of a place among accesses. -/
def placeRanges (l : List Access) (place : Nat) : List (Int × Int) := (l.filter fun a => a.place == place).map (·.range)

-- ------------------------------------------------------------------------------------------------ order by dependency

/-- Going down from SEQ y, with the descriptors known to precede the one asked about in `m`: whether SEQ e precedes it
through DEPn, BARRIER, COMMIT or a pier (R169). -/
def orderedFrom (p : Plan) (e : Nat) : Nat → Nat → List Nat → Bool
  | 0, _, m => m.contains e
  | n + 1, y, m =>
    match descAt p y with
    | none => false
    | some d =>
      if d.opcode = opPier then true
      else if !m.contains y then orderedFrom p e n (y - 1) m
      else if isBarrier d || d.opcode == opCommit then true
      else orderedFrom p e n (y - 1) (m ++ depSeqs d)

/-- Descriptor e completes before descriptor d starts. -/
def ordered (p : Plan) (e d : Nat) : Bool := orderedFrom p e (d - e) d [d]

-- ------------------------------------------------------------------------------------------------ check 10

/-- Spans of a bay group. -/
def groupSpans (p : Plan) (g : Nat) : List Nat :=
  let b := plGroup p g
  (List.range (16 * b.2)).map fun i => 16 * b.1 + i

/-- The run that a descriptor belongs to: none for a DEFERRABLE one (R267). -/
def memberRun (p : Plan) (d : Desc) : Option RunEntry := if isDeferrable d then none else runOf p d.seq

/-- R264: a run's descriptor targets a span outside its stage's group. -/
def outsideGroup (p : Plan) (d : Desc) : Bool :=
  match memberRun p d with
  | none => false
  | some r =>
    let b := plGroup p (r.stage % max 1 (plGroups p))
    (targets d).any fun x => decide (x / 16 < b.1 ∨ b.1 + b.2 ≤ x / 16)

/-- Every access of a descriptor, to banks too. -/
def allAccesses (p : Plan) (d : Desc) : List Access := accesses p d ++ bankAccesses p d

/-- What a descriptor writes, or adds to. -/
def outAccesses (p : Plan) (d : Desc) : List Access := (allAccesses p d).filter fun a => a.write || a.add

/-- The descriptors of a list, the latest first, that were the last to write some of the bytes in `rd`; an add leaves what
was there before it to be read. -/
def lastWriters (p : Plan) : List Access → List Desc → List Desc
  | _, [] => []
  | rd, e :: es =>
    if rd.isEmpty then []
    else
      let covers := (bufferAccesses p e ++ bankAccesses p e).filter (·.write)
      let left := rd.flatMap fun r =>
        (cutRanges [r.range] ((covers.filter fun a => a.place == r.place).map (·.range))).map fun x => { r with range := x }
      (if (outAccesses p e).any fun a => rd.any fun b => accMeets a b then [e] else []) ++ lastWriters p left es

/-- The gradient chain member before a MATMUL_WGRAD in a list: the nearest earlier one whose OUT bytes meet its own
(R268). -/
def gradPrev (p : Plan) (ds : List Desc) (d : Desc) : Option Desc :=
  (ds.filter fun e => e.opcode == opWgrad && decide (e.seq < d.seq)
      && (outAccesses p e).any fun a => (outAccesses p d).any fun b => accMeets a b).getLast?

/-- R267: a run's descriptor reads the output of a DEFERRABLE one, in a step whose descriptors before it, the latest first,
are `before`, and is not the next member of its chain. -/
def readsDeferred (p : Plan) (before : List Desc) (d : Desc) : Bool :=
  (memberRun p d).isSome &&
    (lastWriters p ((allAccesses p d).filter fun a => !a.write) before).any fun e =>
      isDeferrable e && !(d.opcode == opWgrad && (gradPrev p p.descs d).any fun x => x.seq == e.seq)

/-- R267 over the first step, and over a later one, in which a descriptor before its reader is one of the same step or of
the step before. -/
def deferredBad (p : Plan) (d : Desc) : Bool :=
  let earlier := fun (k : Nat) => ((stepDescs p k).filter fun e => decide (e.seq < d.seq)).reverse
  readsDeferred p (earlier 0) d
    || (decide (loopSeq p ≤ d.seq) && readsDeferred p (earlier 1 ++ (stepDescs p 0).reverse) d)

/-- R265: the runs of group g in their static order, as pass, chunk and micro-batch. -/
def runOrder (p : Plan) (g : Nat) : List (Nat × (Nat × Nat)) :=
  let G := max 1 (plGroups p)
  let v := plChunks p
  let m := plMicro p
  let up := List.range v
  let dn := up.reverse
  if plSchedule p = 1 then
    (up.flatMap fun c => (List.range m).map fun j => (0, (c, j)))
      ++ dn.flatMap fun c => (List.range m).reverse.map fun j => (1, (c, j))
  else
    let r := if 1 < v then G else 1
    let turns := fun (pass : Nat) (cs : List Nat) =>
      (List.range (m / r)).flatMap fun k => cs.flatMap fun c => (List.range r).map fun i => (pass, (c, k * r + i))
    let fs := turns 0 up
    let bs := turns 1 dn
    let w := min (if v = 1 then G - 1 - g else 2 * (G - 1 - g) + (v - 1) * G) (m * v)
    fs.take w ++ (List.zip (fs.drop w) bs).flatMap (fun x => [x.1, x.2]) ++ bs.drop (m * v - w)

/-- Run i of the table breaks R264, R265 or the cut rules of R272. -/
def runBad (p : Plan) (i : Nat) : Bool :=
  let rs := pipeRuns p
  match rs[i]? with
  | none => false
  | some r =>
    let G := max 1 (plGroups p)
    let before := rs.take i
    let k := (before.filter fun q => q.stage % G == r.stage % G).length
    let cs := cutsOf p r
    (((p.param.drop (plRunOffset p + 32 * i + 0x16)).take 10).any (· != 0))
      || decide (1 < r.pass ∨ plStages p ≤ r.stage ∨ plMicro p ≤ r.micro ∨ r.first = 0 ∨ r.last < r.first
          ∨ p.descs.length < r.last)
      || before.any (fun q => decide (r.first ≤ q.last) || (q.stage == r.stage && q.micro == r.micro && q.pass == r.pass))
      || (runOrder p (r.stage % G))[k]? != some (r.pass, (r.stage / G, r.micro))
      || (r.cuts == 0 && r.cutCount != 0)
      || cs.any (fun c => decide (c = 0 ∨ r.tokens ≤ c) || c % 128 != 0)
      || (List.zip cs (cs.drop 1)).any (fun x => decide (x.2 ≤ x.1))
      || before.any fun q => q.micro == r.micro && cutsOf p q != cs

/-- A slot of a queue on one span (R270): not used yet and kept from the Causeway port, or given to it for its first use;
released; sent into; consumed. -/
inductive SlotState where
  | withheld | given | released | full | taken
  deriving DecidableEq, Repr

/-- A slot on span x as phase k arms: a setup record of kind 0x04 gives it to the Causeway port for its first use, or keeps
it from it; a slot in use waits for its release whatever a record says. -/
def slotArmed (p : Plan) (k x bank : Nat) (st : SlotState) : SlotState :=
  if st ≠ .withheld ∧ st ≠ .given then st
  else (phaseRecords p k).foldl (fun st r =>
    if r.kind ≠ 4 ∨ r.target ≠ x / 16 then st
    else if fieldAt r.body (4 * (x % 16) + bank) 1 = 4 then .given
    else .withheld) st

/-- A handover entry on a slot: a consume takes what was sent, a release gives back what was consumed; none where it breaks
R270. -/
def slotHanded (st : SlotState) (src dst : Nat) : Option SlotState :=
  if src = 4 ∧ dst ≠ 4 then (if st = .full then some .taken else none)
  else if src ≠ 4 ∧ dst = 4 then (if st = .taken then some .released else if st = .withheld then some st else none)
  else some st

/-- The slots of a queue on span x after a descriptor, with `n` the uses begun there in the step: a send opens use n of the
slot that n gives; none where R270 is broken. -/
def slotStep (v : VCtx) (x : Nat) (banks : List Nat) (n : Nat) (ss : List SlotState) (d : Desc) : Option (Nat × List SlotState) :=
  if !(targets d).contains x then some (n, ss)
  else if d.opcode = opBankHandover then
    (hoEntries d).foldl (fun r e => r.bind fun w =>
      match banks.idxOf? e.1 with
      | none => some w
      | some i => (slotHanded (w.2.getD i .withheld) e.2.1 e.2.2).map fun st => (w.1, w.2.set i st)) (some (n, ss))
  else
    (descUses v.p d).foldl (fun r u => r.bind fun w =>
      if !(isBank u.o && u.write && u.master == 4 && (useTargets (targets d) u).contains x) then some w
      else match banks.idxOf? u.o.bank with
        | none => some w
        | some i =>
          let st := w.2.getD i .withheld
          if i = w.1 % banks.length ∧ (st = .given ∨ st = .released) then some (w.1 + 1, w.2.set i .full) else none) (some (n, ss))

/-- R270 over the descriptors of a plan's steps, each with its step, on one span: the phase before and the slots' states. -/
def slotWalk (v : VCtx) (x : Nat) (banks : List Nat) : Option (Nat × Nat) → Nat → List SlotState → List (Nat × Desc) → Bool
  | _, _, _, [] => false
  | before, n, ss, (step, d) :: ds =>
    let here := (step, phaseIndex v.p d.seq)
    let ss := if before = some here then ss
      else List.zipWith (slotArmed v.p here.2 x) banks ss
    match slotStep v x banks (if before.any fun b => b.1 == step then n else 0) ss d with
    | none => true
    | some w => slotWalk v x banks (some here) w.1 w.2 ds

/-- The descriptors of a step in the order in which they are executed: those of a run part by part, its DEFERRABLE ones, which
belong to no run and are never split, among the first part (R267, R273). -/
def partOrder (p : Plan) (ds : List Desc) : List Desc :=
  ds.flatMap fun d =>
    match runOf p d.seq with
    | none => [d]
    | some r =>
      let own := ds.filter fun e => decide (r.first ≤ e.seq ∧ e.seq ≤ r.last)
      if own.head? = some d then
        own ++ ((runParts p r).drop 1).flatMap fun _ => own.filter fun e => !isDeferrable e
      else []

/-- Queue i of the table breaks R269 or R270. -/
def queueBad (v : VCtx) (i : Nat) : Bool :=
  let p := v.p
  let qs := pipeQueues p
  match qs[i]? with
  | none => false
  | some q =>
    let raw := (p.param.drop (plQueueOffset p + 16 * i)).take 16
    fieldAt raw 8 8 != 0 || decide (15 < fieldAt raw 3 1) || q.banks == 0 || decide (1 < q.kind)
      || decide (plStages p ≤ q.sender ∨ plStages p ≤ q.dest)
      || (if q.kind = 0 then q.dest != q.sender + 1 else q.sender != q.dest + 1)
      || (qs.take i).any (fun e => e.sender == q.sender && e.kind == q.kind)
      || (groupSpans p (q.dest % max 1 (plGroups p))).any fun x =>
          let banks := [0, 1, 2, 3].filter q.banks.testBit
          slotWalk v x banks none 0 (banks.map fun _ => .withheld)
            ((partOrder p (stepDescs p 0)).map (fun d => (0, d)) ++ (partOrder p (stepDescs p 1)).map fun d => (1, d))

/-- Check 10 on the block's own fields (R262, R263): byte offset and whether the entry there fails. -/
def blockConds (p : Plan) : List (Nat × Bool) :=
  let G := plGroups p
  let S := plStages p
  let v := plChunks p
  let alt := plSchedule p == 0
  let byte := fun o => fieldAt p.param o 1
  [(4, decide (32 < G)),
   (5, decide (128 < S) || S % max 1 G != 0 || v == 0 || decide (4 < v) || (alt && v == 1 && decide (8 < S))),
   (6, decide (1 < plSchedule p)), (7, byte 7 != 0),
   (8, decide (4096 < plMicro p) || (alt && decide (1 < v) && plMicro p % max 1 G != 0)),
   (0xA, decide (256 < plQueues p)), (0xC, plRuns p != 2 * S * plMicro p),
   (0x10, plQueues p == 0 && plQueueOffset p != 0), (0x18, ((p.param.drop 0x18).take 40).any (· != 0))]
    ++ (List.range 32).map (fun g =>
      let e := 0x40 + 4 * g
      let b := plGroup p g
      (e, if g < G then byte (e + 2) != 0 || byte (e + 3) != 0 || decide (32 < b.1 + b.2)
            || (g != 0 && decide (b.1 < (plGroup p (g - 1)).1 + (plGroup p (g - 1)).2))
          else (List.range 4).any fun k => byte (e + k) != 0))
    ++ [(0xC0, ((p.param.drop 0xC0).take 3904).any (· != 0))]

/-- Check 10: run descriptors, then the block and its tables by byte offset. -/
def check10 (v : VCtx) : Option VFail :=
  let p := v.p
  (tableFail v 10 3 128 p.descs.length false fun i => (p.descs[i]?).any fun d => outsideGroup p d || deferredBad p d).or <|
  if !hasPipeline p then none
  else
    (unreadFail 10 (((pipeRuns p).zipIdx.find? fun x => x.1.cuts != 0 && paramUnread v x.1.cuts (4 * x.1.cutCount)).map fun x =>
      plRunOffset p + 32 * x.2)).or <|
    match (blockConds p).find? (·.2) with
    | some x => some (failAt 10 6 x.1)
    | none =>
      let bad := ((List.range (plQueues p)).filter (queueBad v)).map (fun i => plQueueOffset p + 16 * i)
        ++ ((List.range (plRuns p)).filter (runBad p)).map fun i => plRunOffset p + 32 * i
      match bad with
      | [] => none
      | x :: xs => some (failAt 10 6 (xs.foldl min x))

end Sys2Proof.Machine
end

