-- ==== Sys2Proof/Machine/CheckPlan.lean ====
section
/-! DEFINITION. Validation of what the whole plan promises: order, replay hazards, updates, piers, transfers (check 12),
and whether it is step-local (R385). -/

namespace Sys2Proof.Machine

-- ------------------------------------------------------------------------------------------------ order and hazards

/-- R169 on a descriptor: an earlier one that it is not ordered behind writes bytes that it reads or writes, or reads
bytes that it writes. Two adds need no order (R168). -/
def unorderedBad (p : Plan) (d : Desc) : Bool :=
  let mine := accesses p d
  p.descs.any fun e =>
    decide (e.seq < d.seq) &&
      (accesses p e).any (fun a => mine.any fun b =>
        (a.write || a.add || b.write || b.add) && !(a.add && b.add) && accMeets a b)
      && !ordered p e.seq d.seq

/-- R258: a halo in a bank is read by a descriptor that is not ordered behind the RING_PASS that filled it. -/
def haloBad (p : Plan) (d : Desc) : Bool :=
  (d.opcode == opConvTaps || d.opcode == opPool) &&
    (haloUses p d).any fun u => isBank u.o && p.descs.any fun e =>
      e.opcode == opRingPass && decide (e.seq < d.seq) && !ordered p e.seq d.seq
        && (descUses p e).any fun w => w.write && isBank w.o && w.o.bank == u.o.bank
          && (useTargets (targets e) w).any (useTargets (targets d) u).contains
          && (useSpans p.param w).any fun a => (useSpans p.param u).any (meetRange a)

/-- Places that R61 protects: recomputable buffers, and regions (R367). -/
def recomputable (p : Plan) (place : Nat) : Bool :=
  if place < noOperand then (p.bufs[place]?).any fun b => b.kind == 0 else true

/-- Accesses that R61 looks at: those of the CACHE operand of ATTN_DECODE are taken as meeting it (R221). -/
def hazardAccesses (p : Plan) (d : Desc) : List Access := (plainAccesses p d).filter fun a => recomputable p a.place

/-- Accesses of a list less the bytes of others, as accesses. -/
def withoutBytes (l cut : List Access) : List Access :=
  l.flatMap fun a => (cutRange a.range (placeRanges cut a.place)).map fun r => { a with range := r }

/-- The first descriptor of a segment that writes a byte of a recomputable buffer which the segment has read before it
wrote it (R61): `wrote` and `reads` so far. -/
def hazardFrom (p : Plan) : List Access → List Access → List Desc → Option Nat
  | _, _, [] => none
  | wrote, reads, d :: ds =>
    let l := hazardAccesses p d
    let reads := reads ++ withoutBytes (l.filter fun a => !a.write) wrote
    let ws := l.filter fun a => a.write || a.add
    if (withoutBytes ws wrote).any fun a => reads.any fun b => accMeets a b then some d.seq
    else hazardFrom p (wrote ++ ws) reads ds

/-- The descriptors that break R61, the first of each segment. -/
def hazards (p : Plan) : List Nat := (planSegments p).filterMap (hazardFrom p [] [])

-- ------------------------------------------------------------------------------------------------ the update (R275)

/-- The update pier and the COMMIT of a step's descriptors. -/
def stepCommit (ds : List Desc) : Option Nat := (ds.find? fun d => d.opcode == opCommit).map (·.seq)
def stepFirstUpdate (ds : List Desc) : Option Nat :=
  match ds.find? isUpdate with | some d => some d.seq | none => stepCommit ds
def stepUpdatePier (ds : List Desc) : Option Nat :=
  match stepFirstUpdate ds with
  | none => none
  | some q => ((ds.filter fun d => d.opcode == opPier && decide (d.seq < q)).getLast?).map (·.seq)

/-- A descriptor stands in the update phase of a step. -/
def inPhase (ds : List Desc) (seq : Nat) : Bool :=
  match stepUpdatePier ds, stepCommit ds with
  | some u, some c => decide (u < seq) && decide (seq < c)
  | _, _ => false

/-- Writes of a descriptor to buffers of a kind. -/
def kindWrites (p : Plan) (kind : Nat) (d : Desc) : List Access :=
  (accesses p d).filter fun a => (a.write || a.add) && (p.bufs[a.place]?).any fun b => b.kind == kind

/-- Some two accesses of a list meet. -/
def anyMeet : List Access → Bool
  | [] => false
  | a :: l => l.any (accMeets a) || anyMeet l

/-- The step's writes to a buffer of kind 2 cover neither all of it nor none; reported at the first descriptor that writes
it. -/
def coverBad (p : Plan) (ds : List Desc) (d : Desc) : Bool :=
  (kindWrites p 2 d).any fun a =>
    !(ds.any fun e => decide (e.seq < d.seq) && (kindWrites p 2 e).any fun b => b.place == a.place)
      && (match p.bufs[a.place]? with
          | none => false
          | some b => !(cutRange (0, (b.size : Int)) (placeRanges (ds.flatMap (kindWrites p 2)) a.place)).isEmpty)

/-- The kind of an operand that is present. -/
def kindIs (p : Plan) (o : Operand) (k : Nat) : Bool := isNone o || kindOf p o == some k

/-- R275, R289 and R293 on a descriptor of a step. -/
def update12 (p : Plan) (ds : List Desc) (d : Desc) : Bool :=
  let op := d.opcode
  let w2 := kindWrites p 2 d
  let e := thaw d
  (inPhase ds d.seq && !(isUpdate d || op == opNormProbe || op == opBankHandover))
    || (!w2.isEmpty && !(isUpdate d || op == opCommit))
    || anyMeet w2
    || (w2.any fun a => ds.any fun x => decide (x.seq < d.seq) && (kindWrites p 2 x).any (accMeets a))
    || coverBad p ds d
    || (!w2.isEmpty && (stepCommit ds).isNone)
    || (op == opCommit && ((stepCommit ds).any (fun c => decide (c < d.seq)) || d.seq + 1 != lastSeq p
          || kindOf p (cmRecord d) != some 2 || (cmRecord d).offset != 0
          || decide (operandLimit p (cmRecord d) < 256)))
    || (isUpdate d &&
          (kindOf p (upG d) != some 1
            || (ds.any fun x => inPhase ds x.seq && ((accesses p x).any fun a => (a.write || a.add)
                  && (accesses p e).any fun b => b.place == (upG d).handle && accMeets a b))
            || !kindIs p (upW d) 2 || !kindIs p (upM1 d) 2 || !kindIs p (upWp d) 2
            || (op == opUpdateElem && !kindIs p (upM2 d) 2)
            || ds.any fun x => isUpdate x && x.seq != d.seq &&
                 (accesses p x).any fun a => a.write && (accesses p d).any fun b => !b.write && accMeets a b))
    || (stepFirstUpdate ds == some d.seq && !(stepUpdatePier ds).any fun u => decide (loopSeq p ≤ u))
    || ((isUpdate d || op == opNormProbe) && decide (65536 ≤ (ds.filter fun x =>
          decide (x.seq < d.seq) && (isUpdate x || x.opcode == opNormProbe)).length))

/-- R268 on a member of a gradient chain. -/
def gradientBad (p : Plan) (ds : List Desc) (d : Desc) : Bool :=
  d.opcode == opWgrad &&
    let prev := gradPrev p ds d
    let later := ds.any fun e => e.opcode == opWgrad && decide (d.seq < e.seq) && (gradPrev p ds e).any fun x => x.seq == d.seq
    let plain := (mmOut d).fmt == 0 && b32 d 0x50 == oneBits && isNone (mmBias d) && mmAct d == 0 && mmAccOut d == 0
    match prev with
    | none => later && !(plain && decide (mmAccIn d < 2))
    | some x => !plain || mmAccIn d != 1 || mmOut x != mmOut d
      || (isBank (mmOut d) && targets x != targets d) || decide (mmKBase d < mmKBase x + chunks (mmK x))

/-- R162: a block is kept that no member of the same segment takes up. -/
def chainOpen (p : Plan) (d : Desc) : Bool :=
  isMatmul d.opcode && mmAccOut d == 1 &&
    let seg := ((p.descs.drop d.seq).takeWhile fun e => e.opcode != opPier && e.seq != loopSeq p)
    !seg.any fun e => isMatmul e.opcode && mmAccIn e == 2 && (chainPrev p e).any fun x => x.seq == d.seq

-- ------------------------------------------------------------------------------------------------ transfer entries

/-- What a descriptor's transfer entry must be: KIND, CLASS, PEER, LENGTH, and PORT where this device can tell it. -/
structure Want where
  kind : Nat
  cls  : Nat
  peer : Nat
  len  : Nat
  port : Option Nat
  deriving DecidableEq, Repr

def wanted (w : Want) (x : Xfer) : Bool :=
  x.kind == w.kind && x.cls == w.cls && x.peer == w.peer && x.len == w.len && w.port.all fun n => x.port == n

/-- Entries and wants agree one to one, in order. -/
def allWanted (ws : List Want) (xs : List Xfer) : Bool :=
  ws.length == xs.length && (List.zip ws xs).all fun x => wanted x.1 x.2

/-- Entries and wants agree, in any order: no two wants have the same KIND. -/
def setWanted (ws : List Want) (xs : List Xfer) : Bool :=
  ws.length == xs.length && ws.all fun w => xs.any (wanted w)

/-- First hop toward a rank, where its coordinate follows from the formed ring (R330). -/
def hopTo (v : VCtx) (r : Nat) : Option Nat := (v.hops.find? fun h => h.1 == r).map (·.2)

/-- Entries of messages in their order. -/
def messageWants (v : VCtx) (ms : List CMsg) (rank : Nat → Nat) (bytes : Nat) : List Want :=
  ms.map fun m => ⟨if m.send then 0 else 1, 1, rank m.peer, m.len * bytes, hopTo v (rank m.peer)⟩

/-- The transfer entries of a RING_PASS (R195 to R199, Table 9-6). -/
def ringWants (v : VCtx) (d : Desc) : List Want :=
  let p := v.p
  let N := max 1 p.ringLength
  let h := rpHop d
  let fwd := (p.ringPos + h) % N
  let back := (p.ringPos + N - h % N) % N
  let ahead := if rpMinus d then back else fwd
  let behind := if rpMinus d then fwd else back
  let plus := if h = 2 then some 6 else v.formed.map (·.plusPort)
  let minus := if h = 2 then some 7 else v.formed.map (·.minusPort)
  let rank := fun i => p.groupIndex * p.ringLength + i
  (if isNone (rpSrc d) then [] else [⟨0, 0, rank ahead, rpLen d, if rpMinus d then minus else plus⟩])
    ++ (if isNone (rpDst d) then [] else [⟨1, 0, rank behind, rpLen d, if rpMinus d then plus else minus⟩])

/-- R366. -/
def offloadWants (v : VCtx) (d : Desc) : List Want :=
  if ofTarget d = 0 then [⟨if d.opcode = opOffload then 2 else 3, 0, 0, ofLen d, some 0xFF⟩]
  else
    (if ofSend d then [⟨0, 2, ofPeerSend d, ofLen d, hopTo v (ofPeerSend d)⟩] else [])
      ++ (if ofRecv d then [⟨1, 2, ofPeerRecv d, ofLen d, hopTo v (ofPeerRecv d)⟩] else [])

/-- The entries of a descriptor are not those of its operator (R53, R121, R170, R197, R199, R210,
R211, R279, R290, R351, R366). -/
def entriesBad (v : VCtx) (d : Desc) : Bool :=
  let p := v.p
  let xs := (xfersOf p d.seq).map (·.2)
  let op := d.opcode
  if op = opRingPass then
    decide (p.ringLength = 1) || decide (rpStep d = 0 ∨ p.ringLength < rpStep d)
      || (rpHop d == 2 && (decide (p.ringLength < 3) || !v.bypass || rpStep d == p.ringLength))
      || !setWanted (ringWants v d) xs
  else if op = opCollective then
    !allWanted (messageWants v (clMessages p d) (clRank p (clGroup d)) (elemBytes (clDst d).fmt)) xs
  else if op = opGlobalNorm then
    if gnMode d = 0 then
      !xs.isEmpty || d.deps.headD 0 == 0 ||
        match descAt p (d.seq - d.deps.headD 0) with
        | none => true
        | some c => c.opcode != opCollective || decide (1 < clKind c) || !([0, 1] : List Nat).contains (clDst c).fmt
    else !allWanted (messageWants v (finishMsgs (groupSize p) (rankOf p)) id 4) xs
  else if op = opOffload ∨ op = opPrefetch then !setWanted (offloadWants v d) xs
  else if op = opWeightChain then
    let want := (if wcForward d = 1 then 1 else 0) + (if isNone (wcSrc d) then 1 else 0)
    xs.length != want || xs.any (fun x => decide (1 < x.kind) || x.cls != 2 || x.len != wcLen d)
      || (xs.filter fun x => x.kind == 0).length != (if wcForward d = 1 then 1 else 0)
  else !xs.isEmpty

/-- Opcodes that transfer entries serve (R53). -/
def servedOps : List Nat :=
  [opRingPass, opCollective, opReshardPermute, opOffload, opPrefetch, opWeightChain, opReduce, opGlobalNorm, opNormProbe]

/-- Two entries of one stream: one port and class for sends, one peer and class for receives, one direction for Trestle
(R53, R366). -/
def sameStream (a b : Xfer) : Bool :=
  a.kind == b.kind && (if a.kind = 0 then a.port == b.port && a.cls == b.cls
    else if a.kind = 1 then a.peer == b.peer && a.cls == b.cls else true)

/-- Transfer entry i (Table 3-12, R53, R323). -/
def xferBad (v : VCtx) (i : Nat) : Bool :=
  let p := v.p
  match p.xfers[i]? with
  | none => false
  | some x =>
    let raw := tabBytes v.mem (p.base + secOffset v.mem p.base 5 + 32 * i) 32
    fieldAt raw 7 1 != 0 || (raw.drop 0x18).any (· != 0)
      || (match descAt p x.seq with | none => true | some d => !servedOps.contains d.opcode)
      || decide (3 < x.kind ∨ 3 < x.cls) || (if x.kind < 2 then decide (7 < x.port) else x.port != 0xFF)
      || decide (2 ^ 24 * 232 - 32 < x.len ∧ x.kind < 2) || (decide (x.kind < 2) && decide (groupSize p ≤ x.peer))
      || x.msgSeq == 0
      || p.xfers.zipIdx.any fun y =>
          sameStream x y.1 && (decide (y.1.seq < x.seq) || (y.1.seq == x.seq && decide (y.2 < i))) && decide (x.msgSeq ≤ y.1.msgSeq)

-- ------------------------------------------------------------------------------------------------ piers

/-- Pier table entry i (Table 3-11, R354, R375). -/
def pierBad (v : VCtx) (i : Nat) : Bool :=
  let p := v.p
  let raw := tabBytes v.mem (p.base + secOffset v.mem p.base 4 + 16 * i) 16
  let seqs := (p.descs.filter fun d => d.opcode == opPier).map (·.seq)
  match p.piers[i]? with
  | none => decide (i < seqs.length)
  | some e =>
    seqs[i]? != some e.seq || e.index != i || decide (3 < e.flags) || (raw.drop 8).any (· != 0)
      || (e.flags.testBit 1 && [0, 1].any fun k =>
            let ds := stepDescs p k
            match stepUpdatePier ds, stepCommit ds with
            | some u, some c => decide (u ≤ e.seq) && decide (e.seq < c)
            | _, _ => false)
      || decide (0x7FF00 < recordSize 32 p.bufs.length (updCount p e))

-- ------------------------------------------------------------------------------------------------ check 12

/-- Check 12 on a descriptor. -/
def desc12 (v : VCtx) (hz : List Nat) (d : Desc) : Bool :=
  let p := v.p
  (d.seq == lastSeq p && d.opcode != opPier) || hz.contains d.seq || unorderedBad p d || haloBad p d || chainOpen p d
    || [0, 1].any (fun k =>
        let ds := stepDescs p k
        ds.any (fun x => x.seq == d.seq) && (update12 p ds d || gradientBad p ds d))
    || entriesBad v d

def check12 (v : VCtx) : Option VFail :=
  let p := v.p
  let hz := hazards p
  let n := max p.piers.length (p.descs.filter fun d => d.opcode == opPier).length
  (tableFail v 12 3 128 p.descs.length false fun i => (p.descs[i]?).any (desc12 v hz)).or <|
  (tableFail v 12 4 16 n true (pierBad v)).or <|
  tableFail v 12 5 32 p.xfers.length true (xferBad v)

-- ------------------------------------------------------------------------------------------------ step-local (R385)

/-- Some descriptor of a step reads a byte of a kind 0 or kind 1 buffer, or of a region, that the step has not written. -/
def readsOld (p : Plan) : List Access → List Desc → Bool
  | _, [] => false
  | wrote, d :: ds =>
    let l := (accesses p d).filter fun a => recomputable p a.place || (p.bufs[a.place]?).any fun b => b.kind == 1
    !(withoutBytes (l.filter fun a => !a.write) wrote).isEmpty
      || readsOld p (wrote ++ l.filter fun a => a.write) ds

/-- R385: every step holds one COMMIT, and reads only what it has written. -/
def isStepLocal (p : Plan) : Bool :=
  [0, 1].all fun k =>
    let ds := stepDescs p k
    (ds.filter fun d => d.opcode == opCommit).length == 1 && !readsOld p [] ds

end Sys2Proof.Machine
end

