-- ==== Sys2Proof/Machine/CheckSplit.lean ====
section
/-! DEFINITION. The splits that Runal makes at validation (R63 to R65, R256, R272, R287), and check 13. -/

namespace Sys2Proof.Machine

/-- What a split of one descriptor, pier or micro-batch comes to. -/
inductive SplitResult where
  | fails
  | none
  | made (x : Split)
  deriving DecidableEq, Repr

-- ------------------------------------------------------------------------------------------------ operator passes

/-- A kind 1 split (R64): W, C and the length of the axis. -/
def passSplit (d : Desc) (w c n : Nat) : SplitResult :=
  let parts := ceilDiv w c
  if w ≤ c then .none
  else if 65536 < parts ∨ n < parts then .fails
  else .made ⟨d.seq, 1, parts, (Config.splitAxis d.opcode).toNat, 0⟩

/-- Input columns that the widest of the parts of a split along O0 needs: those that its taps reach (R256). -/
def partColumns (b : List Byte) (parts : Nat) : Nat :=
  (List.range parts).foldl (fun n j =>
    max n ((reachedColumns b (cutPart (wO0 b) parts j)).foldl (fun n r => n + r.2) 0)) 0

/-- R256. -/
def windowSplit (p : Plan) (d : Desc) : SplitResult :=
  let b := wnParam p d
  match passSplit d (lineBytes d b (wI0 b)) 1310720 (wO0 b) with
  | .made x => if bankSize < lineBytes d b (partColumns b x.parts) then .fails else .made x
  | r => r

/-- R287. -/
def matrixSplit (d : Desc) : SplitResult :=
  match passSplit d (4 * upCount d) (2 ^ 30) (upRows d) with
  | .made x => if upRows d < upCols d ∨ 8192 < upCols d then .fails else .made x
  | r => r

def descSplit (p : Plan) (d : Desc) : SplitResult :=
  if d.opcode = opConvTaps ∨ d.opcode = opPool then windowSplit p d
  else if d.opcode = opUpdateMatrix then
    (if upRows d * upCols d * 4 ≤ 2 ^ 30 then .none
     else if upRows d < upCols d ∨ 8192 < upCols d then .fails else matrixSplit d)
  else .none

-- ------------------------------------------------------------------------------------------------ split runs

/-- Registers that an instruction reads and the one that it writes (Table 11-3). -/
def wordReads (w : Nat) : List Nat :=
  let a := vecWordArgs 0 w
  let op := vecWordOp w
  match vecForm op with
  | none => []
  | some f => (if f.va then [a.va] else []) ++ (if f.vb then [a.vb] else [])
      ++ (if [0x13, 0x33, 0x50, 0x51, 0x52].contains op then [a.opd.toNat] else [])

def wordWrites (w : Nat) : List Nat :=
  match vecForm (vecWordOp w) with
  | some f => if f.vd then [(vecWordArgs 0 w).vd] else []
  | none => []

/-- A loop body that reads a register before it writes it, of those that it writes (Table 13-5). -/
def carried (all : List Nat) : List Nat → List Nat → Bool
  | _, [] => false
  | seen, w :: ws =>
    (wordReads w).any (fun r => all.contains r && !seen.contains r) || carried all (seen ++ wordWrites w) ws

def bodyCarries (p : Plan) (d : Desc) : Bool :=
  let body := (vecWords p d).drop (vpLoop d)
  carried (body.flatMap wordWrites) [] body

/-- Table 13-5 on a descriptor of a split run of `n` tokens. -/
def splitMember (p : Plan) (n : Nat) (d : Desc) : Bool :=
  let op := d.opcode
  if op = opMatmul ∨ op = opDgrad then !mmTA d && mmM d == n && decide (mmAccIn d < 2) && mmAccOut d == 0
  else if op = opAttnFwd ∨ op = opAttnBwd then
    let b := atParam p d
    paSeg b && atRows d == n && atKeys d == n &&
      (if op = opAttnFwd then !paMerge b else !paDqAdd b && !paDkAdd b && !paDvAdd b)
  else if op = opVecProgram then vpCount d % n == 0 && !bodyCarries p d
  else if op = opCopyConvert then ccCount d % n == 0
  else if op = opOffload ∨ op = opPrefetch then ofLen d % n == 0
  else op == opBankHandover

/-- The micro-batch of the lowest run with it, where its payload exceeds a slot. -/
def overMicro (p : Plan) (j : Nat) : Option RunEntry :=
  match (microRuns p j).head? with
  | some r => if microOver p r then some r else none
  | none => none

/-- A descriptor stands in a run of a split micro-batch and may not (R273). -/
def memberFails (p : Plan) (d : Desc) : Bool :=
  match memberRun p d with
  | none => false
  | some r => match overMicro p r.micro with | some low => !splitMember p low.tokens d | none => false

/-- R272 on a micro-batch. -/
def microSplit (p : Plan) (j : Nat) : SplitResult :=
  match overMicro p j with
  | none => .none
  | some r =>
    let parts := runParts p r
    if r.cuts = 0 ∨ parts.any (fun x => (slotTokens p).any fun c => decide (c < x.2)) then .fails
    else .made ⟨r.first, 4, parts.length, 0, 0⟩

/-- Stage folding (R263). -/
def foldSplit (p : Plan) : List Split :=
  match pipeRuns p with
  | r :: _ => if 1 < plChunks p then [⟨r.first, 2, plChunks p, 0, 0⟩] else []
  | [] => []

-- ------------------------------------------------------------------------------------------------ contexts (R65)

/-- What following residency finds: moves so far, or the first descriptor that names a context which is not there. -/
structure CtxWalk where
  resident : List Ctx
  moves    : List (Nat × List Nat)     -- pier SEQ, contexts evicted and loaded, those loaded last
  splits   : List Split
  bad      : Option Nat
  deriving DecidableEq, Repr

def residentSet (cs : List Ctx) : List Nat := cs.foldl (fun l c => insertNat c.ctx l) []

/-- Entering the segment at `seq`: through a pier that may swap, or without one. -/
def ctxEnter (p : Plan) (w : CtxWalk) (pier : Option Nat) (swap : Bool) (seq : Nat) : CtxWalk :=
  let next := segmentContexts p seq
  let stop := match closingPier p seq with | some e => e.seq | none => lastSeq p
  let named := fun (bad : Nat → Bool) =>
    (p.descs.find? fun d => decide (seq ≤ d.seq) && decide (d.seq ≤ stop) && d.context != 0xFF && bad d.context).map (·.seq)
  if w.bad.isSome then w
  else if 32 < next.length then
    let first := p.descs.filter fun d => decide (seq ≤ d.seq) && decide (d.seq ≤ stop) && d.context != 0xFF
    let excess := first.zipIdx.find? fun x => decide (32 < ((first.take (x.2 + 1)).foldl (fun l d => insertNat d.context l) []).length)
    { w with bad := excess.map fun x => x.1.seq }
  else if !swap then
    { w with bad := named fun c => !(w.resident.any fun r => r.ctx == c) }
  else
    let r := (swapContexts w.resident [] next).1
    let loaded := next.filter fun c => !(w.resident.any fun x => x.ctx == c)
    let evicted := (residentSet w.resident).filter fun c => !(r.any fun x => x.ctx == c)
    match pier with
    | none => { w with resident := r }
    | some q =>
      let move := (q, evicted ++ loaded)
      if loaded.isEmpty || w.moves.contains move then { w with resident := r }
      else { w with resident := r, moves := w.moves ++ [move],
                    splits := w.splits ++ [⟨q, 3, evicted.length + loaded.length, 0, loaded.headD 0⟩] }

/-- One step: every pier at or after `from_`, and the segment after it. -/
def ctxStep (p : Plan) (from_ : Nat) (w : CtxWalk) : CtxWalk :=
  (p.piers.filter fun e => decide (from_ ≤ e.seq)).foldl (fun w e =>
    ctxEnter p w (some e.seq) (e.flags.testBit 0) (seqAfter p e.seq)) w

/-- Later steps, until the residency at the start of one repeats. -/
def ctxLater (p : Plan) : Nat → List (List Nat) → CtxWalk → CtxWalk
  | 0, _, w => w
  | n + 1, seen, w =>
    let k := residentSet w.resident
    if w.bad.isSome ∨ seen.contains k = true then w else ctxLater p n (seen ++ [k]) (ctxStep p (loopSeq p) w)

/-- R65 over the whole plan; plans of up to 32 contexts move none. -/
def ctxWalk (p : Plan) : CtxWalk :=
  if p.contexts ≤ 32 then ⟨[], [], [], none⟩
  else ctxLater p 65536 [] (ctxStep p 1 (ctxEnter p ⟨[], [], [], none⟩ none true 1))

-- ------------------------------------------------------------------------------------------------ check 13

/-- Every split made, in ascending SEQ and by kind within one SEQ (Table 3-17). -/
def planSplits (p : Plan) : List Split :=
  let made := fun r => match r with | SplitResult.made x => some x | _ => none
  let all := p.descs.filterMap (fun d => made (descSplit p d)) ++ foldSplit p ++ (ctxWalk p).splits
    ++ (List.range (plMicro p)).filterMap fun j => made (microSplit p j)
  all.foldl insertSplit []
where
  insertSplit : List Split → Split → List Split
    | [], x => [x]
    | y :: ys, x => if x.seq < y.seq ∨ (x.seq = y.seq ∧ x.kind < y.kind) then x :: y :: ys else y :: insertSplit ys x

/-- Check 13: descriptors, with the contexts that they name, then the micro-batches by their runs. -/
def check13 (v : VCtx) : Option VFail :=
  let p := v.p
  let lost := (ctxWalk p).bad
  (tableFail v 13 3 128 p.descs.length false fun i => (p.descs[i]?).any fun d =>
      descSplit p d == .fails || memberFails p d || lost == some d.seq).or <|
  match (if hasPipeline p then List.range (plMicro p) else []).find? fun j => microSplit p j == .fails with
  | none => none
  | some j =>
    let i := ((pipeRuns p).zipIdx.find? fun x => x.1.micro == j).map (·.2)
    some (failAt 13 6 (plRunOffset p + 32 * i.getD 0))

end Sys2Proof.Machine
end

