-- ==== Sys2Proof/Machine/Validate.lean ====
section
/-! DEFINITION. Validation as a whole (R59, R60, R66): the checks of Table 3-15 in order, the report area of Table 3-17, the
end of a LOAD_PLAN. -/

namespace Sys2Proof.Machine

-- ------------------------------------------------------------------------------------------------ the checks in order

/-- First-hop ports toward the ranks of the own ring (R330). -/
def ringHops (s : State) (f : Formation) : List (Nat × Nat) :=
  (List.range f.length).filterMap fun i =>
    (routeTo s (ringCoord f i) none false false).map fun e => (f.groupIdx * f.length + i, e.port)

/-- Whether the trained neighbour of a port lies in the group of a formation, as far as RING_FORM tells (R58, log 207): its
coordinate is a position of the own ring; where the ring is the whole group, or the coordinate is one that an X line
excludes, none else is in it; a coordinate that may be another ring group's is outside where its device has formed a group
of another tag. -/
def groupNeighbour (s : State) (f : Formation) (n : Nat) : Bool :=
  let x := neighbourCoord s n
  if (List.range f.length).any fun i => ringCoord f i == x then true
  else if f.groups = 1 ∨ (f.shape = 1 ∧ x.y = f.origin.y ∧ x.z = f.origin.z) then false
  else !((portOf s n).peer.any fun i => i.formed && s.via.given == some f && i.tag != BitVec.ofNat 32 f.tag)

/-- First hop toward every rank whose coordinate a rank flood of the plan's layout epoch has told (R344, R351): what the ring's
own formation does not say. -/
def rankHops (s : State) (epoch : Nat) : List (Nat × Nat) :=
  if s.via.ranksEpoch ≠ BitVec.ofNat 32 epoch then []
  else s.via.ranks.filterMap fun e => (routeTo s e.2 none false false).map fun x => (e.1, x.port)

/-- What the checks of an image look at, against a formation and its group values. -/
def validationOf (s : State) (base : Nat) (formed : Option Formation) (bypass : Bool) : VCtx :=
  { mem := s.dram.mem, bad := s.dram.bad, p := planOf s.dram.mem base, resultVer := s.host.resultVer.toNat
    group := formed.map formedValues, formed := formed, bypass := bypass
    trained := (trainedPorts s).filter fun n => formed.all fun f => groupNeighbour s f n
    regions := s.host.regions, hops := (match formed with | some f => ringHops s f | none => []) ++ rankHops s (planOf s.dram.mem base).epoch }

/-- Checks 2 to 13: the first failure ends validation. -/
def checksFrom2 (v : VCtx) : Option VFail :=
  [check2, check3, check4, check5, check6, check7, check8, check9, check10, check11, check12, check13].findSome? fun c => c v

/-- R59, R60: the plan that an image holds, with its splits, or the first failure. The header is checked before the
sections are read. -/
def validateImage (s : State) (base : Nat) (formed : Option Formation) (bypass : Bool) : Except VFail Plan :=
  match headerFail s.dram.mem s.dram.bad base with
  | some f => .error f
  | none =>
    let v := validationOf s base formed bypass
    match checksFrom2 v with
    | some f => .error f
    | none => .ok { v.p with splits := planSplits v.p, stepLocal := isStepLocal v.p }

-- ------------------------------------------------------------------------------------------------ the report area

/-- A split entry of Table 3-17. -/
def splitBytes (x : Split) : List Byte :=
  leBytes 4 x.seq ++ leBytes 1 x.kind ++ zeros 1 ++ leBytes 2 x.parts ++ leBytes 1 x.axis ++ zeros 3 ++ leBytes 4 x.detail

/-- The report area (Table 3-17), with as many split entries as fit in `size` bytes. -/
def reportBytes (f : VFail) (splits : List Split) (size : Nat) : List Byte :=
  let n := (size - 0x40) / 16
  leBytes 1 f.status ++ leBytes 1 f.check ++ leBytes 2 f.sect ++ leBytes 4 f.index ++ leBytes 4 splits.length
    ++ leBytes 4 (if n < splits.length then 1 else 0) ++ zeros 48 ++ (splits.take n).flatMap splitBytes

/-- Runal writes the report area, where the header gives one that lies in an image below the reserved region. -/
def writeReport (s : State) (base : Nat) (f : VFail) (splits : List Split) : State :=
  let m := s.dram.mem
  let off := hdr m base 0xB0 8
  let size := hdr m base 0xB8 4
  if off < 256 ∨ size < 0x40 ∨ hdr m base 0x10 8 < off + size ∨ imageEnd < base + off + size then s
  else
    let b := reportBytes f splits size
    freshSectors (putMem s (base + off) b) [(base + off, b.length)]

/-- The device address of the uncorrectable sector that stopped a check (R59): in the entry that was being read, else in an
item of the parameter area that the descriptor names. -/
def unreadAddr (s : State) (base : Nat) (f : VFail) : Nat :=
  let m := s.dram.mem
  let r : Nat × Nat := if f.sect = secHeader then (base, 256)
    else (base + secOffset m base f.sect + (sections.getD f.sect (1, 0)).1 * f.index,
          (sections.getD f.sect (1, 0)).1)
  let inR := fun (r : Nat × Nat) => s.dram.bad.find? fun x => decide (32 * x < r.1 + r.2) && decide (r.1 < 32 * x + 32)
  let p := planOf m base
  let area := base + secOffset m base 6
  let items :=
    if f.sect = 6 then
      let run := (pipeRuns p).zipIdx.find? fun x => plRunOffset p + 32 * x.2 == f.index
      (area + f.index, 32) :: (match run with | some x => [(area + x.1.cuts, 4 * x.1.cutCount)] | none => [])
    else match (if f.sect = 3 then p.descs[f.index]? else none) with
      | some d => (descItems p d).map fun x => (area + x.1, x.2.1)
      | none => []
  32 * ((r :: items).findSome? inR).getD 0

/-- The sector that stopped validation is logged, and handled as R310 states. -/
def noteUnread (s : State) (base : Nat) (f : VFail) : State :=
  if f.status ≠ stMemory then s
  else
    let a := unreadAddr s base f
    logEvent (failRow s (rowOf a)) (mkEvent stMemory srcKs 2 0 evFault f.index a)

/-- Results of LOAD_PLAN (Table 4-14). -/
def loadResults (f : VFail) (splits : List Split) : List Nat := [splits.length, f.check + f.sect * 65536, f.index]

/-- A plan that passed: what the report holds of failures. -/
def noFailure : VFail := ⟨0, stOk, 0, 0⟩

-- ------------------------------------------------------------------------------------------------ LOAD_PLAN

/-- A plan is loaded (R60, R43): generation 0 everywhere, every bank tag clear. Its ring is the one of the last RING_FORM
(R9). -/
def loadedPlan (s : State) (p : Plan) : State :=
  let s := clearTags s fun _ => true
  let s := updKs s fun k => { k with loading := none, plan := some p, gens := [], stepIndex := 0 }
  let s := updVia s fun v => { v with formed := v.given, ranks := [], digests := [] }
  logEvent s (mkEvent stOk srcKs 0 0 evState (bitNat p.stepLocal) 0)

/-- Validation of LOAD_PLAN's image ends (R59, R60, R66). -/
def endLoad (s : State) (base : Nat) : State :=
  let c := nextLong s (· == cmdLoadPlan)
  let s := touchSectors s (rangeHits base (hdr s.dram.mem base 0x10 8))
  match validateImage s base s.via.given s.via.bypass with
  | .ok p =>
    let s := writeReport s base noFailure p.splits
    finishOpt (settleIdle (setPlanState (loadedPlan s p) plLoaded)) c stOk (loadResults noFailure p.splits)
  | .error f =>
    let s := noteUnread (writeReport s base f []) base f
    let s := setPlanState (updKs s fun k => { k with loading := none }) plNone
    finishOpt s c f.status (loadResults f [])

end Sys2Proof.Machine
end

