-- ==== Sys2Proof/Machine/Reshard.lean ====
section
/-! DEFINITION. Re-sharding (spec 17, R353 to R362): the re-shard image (Tables 17-4, R356), the sequence of Table 17-5 on
one member, its moves (Table 17-7), and the end of validation (R59). Rows that can bring a member to its next step end in
`advance`. -/

namespace Sys2Proof.Machine

-- ------------------------------------------------------------------------------------------------ the image

/-- A RESHARD_PERMUTE descriptor (R356). -/
structure Move where
  seq  : Nat
  src  : Nat
  dst  : Nat
  len  : Nat
  kind : Nat
  deriving DecidableEq, Repr

def moveOf (d : Desc) : Move := { seq := d.seq, src := b64 d 0, dst := b64 d 8, len := b64 d 0x10, kind := b8 d 0x18 }

/-- A context move of Table 17-4. -/
structure CtxMove where
  ctx  : Nat
  src  : Nat
  rank : Nat
  deriving DecidableEq, Repr

/-- Count and offset of the image's tables: descriptors, transfer entries, context moves. -/
def imgTable (m : Tab Byte) (a i : Nat) : Nat × (Nat × Nat) :=
  match i with
  | 0 => (memNat m (a + 0x2C) 4, memNat m (a + 0x30) 8, 128)
  | 1 => (memNat m (a + 0x38) 4, memNat m (a + 0x40) 8, 32)
  | _ => (memNat m (a + 0x3C) 4, memNat m (a + 0x48) 8, 8)

/-- Entry k of a table of the image. -/
def imgEntry (m : Tab Byte) (a i k : Nat) : List Byte :=
  let t := imgTable m a i
  tabBytes m (a + t.2.1 + t.2.2 * k) t.2.2

def imgDescs (m : Tab Byte) (a : Nat) : List Desc := (List.range (imgTable m a 0).1).map fun k => descOf (imgEntry m a 0 k)
def imgXfers (m : Tab Byte) (a : Nat) : List Xfer := (List.range (imgTable m a 1).1).map fun k => xferOf (imgEntry m a 1 k)
def imgCtxs (m : Tab Byte) (a : Nat) : List CtxMove :=
  (List.range (imgTable m a 2).1).map fun k =>
    let b := imgEntry m a 2 k
    { ctx := fieldAt b 0 1, src := fieldAt b 1 1, rank := fieldAt b 4 4 }

def imgMoves (m : Tab Byte) (a : Nat) : List Move := (imgDescs m a).map moveOf

def resumePier (m : Tab Byte) (a : Nat) : Nat := memNat m (a + 0x10) 2

/-- The formation that the image describes: tag, dimensions and coordinate do not change. -/
def imgFormation (m : Tab Byte) (a : Nat) (f : Formation) : Formation :=
  { f with length := memNat m (a + 0x14) 2, groups := memNat m (a + 0x18) 2, groupIdx := memNat m (a + 0x1A) 2
           head := memNat m (a + 0x1C) 2, shape := memNat m (a + 0x1E) 1, snakeW := memNat m (a + 0x1F) 1
           origin := ⟨memNat m (a + 0x20) 1, memNat m (a + 0x21) 1, memNat m (a + 0x22) 1⟩
           epoch := memNat m (a + 4) 4, exclude := BitVec.ofNat 64 (memNat m (a + 0x24) 8), pos := 0, plusPort := 0
           minusPort := 1 }

/-- The ring of the image, where it is one and the own RING_POSITION is its own coordinate's. -/
def imgRing (m : Tab Byte) (a : Nat) (f : Formation) : Option Formation :=
  (checkFormation (imgFormation m a f)).filter fun g => memNat m (a + 0x16) 2 == g.pos && memNat m (a + 0x23) 1 == 0

/-- A range outside host-accessible DRAM (R357). -/
def offRange (a n : Nat) : Bool := decide (reservedStart < a + n)

/-- MAGIC, epoch, PRESET, alignment and reserved fields of the header, and the places of the new plan and of its tables. -/
def imgHeaderBad (m : Tab Byte) (a epoch old : Nat) : Bool :=
  a % 4096 != 0 || offRange (memNat m (a + 8) 8) 1 || memNat m a 4 != 0x44524853 || memNat m (a + 4) 4 != epoch || decide (epoch ≤ old)
    || decide (3 < memNat m (a + 0x12) 1) || memNat m (a + 0x13) 1 != 0 || (tabBytes m (a + 0x80) 128).any (· != 0)
    || decide (255 < (imgTable m a 2).1)
    || (List.range 3).any fun i => let t := imgTable m a i; offRange (a + t.2.1) (t.2.2 * t.1)

/-- R356 on descriptor k: form, reserved bytes, exactly the transfer entries that its KIND has. -/
def imgDescBad (m : Tab Byte) (a : Nat) (xs : List Xfer) (k : Nat) : Bool :=
  let b := imgEntry m a 0 k
  let d := descOf b
  let x := moveOf d
  let mine := xs.filter fun e => e.seq == d.seq
  d.opcode != opReshardPermute || d.spanCount != 0 || d.seq != k + 1 || decide (2 < x.kind) || x.len == 0 || x.len % 64 != 0
    || (d.body.drop 0x19).any (· != 0)
    || (x.kind != 1 && offRange x.src x.len) || (x.kind != 0 && offRange x.dst x.len)
    || (if x.kind = 2 then !mine.isEmpty
        else mine.length != 1 || mine.any fun e => e.kind != x.kind || e.cls != 2 || e.len != x.len)

/-- A DST range meets a SRC range, another DST range, or a buffer of kind 1, 2 or 3 of the running plan (R357). -/
def destsClash (p : Plan) (ms : List Move) : Bool :=
  let srcs := (ms.filter fun x => x.kind != 1).map fun x => (x.src, x.len)
  let dsts := (ms.filter fun x => x.kind != 0).map fun x => (x.dst, x.len)
  dsts.zipIdx.any fun d =>
    srcs.any (fun r => meets d.1.1 d.1.2 r.1 r.2)
      || (dsts.take d.2).any (fun r => meets d.1.1 d.1.2 r.1 r.2)
      || p.bufs.any fun b => b.kind != 0 && meets d.1.1 d.1.2 b.addr (bufExtent b)

/-- What the image's checks find (R357): 0, BAD_PARAM or MEMORY_UNCORRECTABLE. -/
def imgStatus (s : State) (p : Plan) (a epoch : Nat) : Nat :=
  let m := s.dram.mem
  let P := groupSize p
  let table := fun i => let t := imgTable m a i; rangeBad s.dram.bad (a + t.2.1) (t.2.2 * t.1)
  if offRange a 256 then stBadParam
  else if rangeBad s.dram.bad a 256 then stMemory
  else if imgHeaderBad m a epoch p.epoch then stBadParam
  else if (List.range 3).any table then stMemory
  else
    let xs := imgXfers m a
    let ring := s.via.formed.bind (imgRing m a)
    if !(p.piers.any fun e => e.flags.testBit 1)
        || ring.isNone || memNat m (a + 0x14) 2 * memNat m (a + 0x18) 2 != P
        || (List.range (imgTable m a 0).1).any (imgDescBad m a xs)
        || xs.any (fun x => decide (1 < x.kind ∨ P ≤ x.peer ∨ 7 < x.port) || x.msgSeq == 0)
        || xs.any (fun x => decide (x.seq = 0 ∨ (imgTable m a 0).1 < x.seq))
        || destsClash p (imgMoves m a)
        || (imgCtxs m a).any (fun c => decide (P ≤ c.rank ∨ p.contexts ≤ c.src))
        || (List.range (imgTable m a 2).1).any (fun k => ((imgEntry m a 2 k).drop 2).take 2 != zeros 2)
    then stBadParam
    else stOk

-- ------------------------------------------------------------------------------------------------ step 8

/-- A context that a move brings: from this member's own context, or of values that no message carries here (R360). -/
def movedCtx (s : State) (p : Plan) (c : CtxMove) : State × Ctx :=
  if c.rank = rankOf p then
    let old := ((s.ks.resident ++ s.ks.saved).find? fun x => x.ctx == c.src).getD (Ctx.fresh c.src)
    (s, { old with ctx := c.ctx, slot := 0 })
  else
    let v := fun i => Config.movedContext s.free i
    ({ s with free := s.free + 1 },
     { ctx := c.ctx, slot := 0, nextPos := (v 0).toNat % 2 ^ 48, pieces := Config.movedPieces s.free, cursor := v 1, rngBase := v 2, carry := v 3 })

def moveContexts (s : State) (p : Plan) (cs : List CtxMove) : State × List Ctx :=
  cs.foldl (fun r c =>
    let x := movedCtx r.1 p c
    (x.1, r.2.filter (fun y => y.ctx != c.ctx) ++ [x.2])) (s, [])

/-- R361. -/
def carriedGens (s : State) (p q : Plan) : Tab Nat :=
  q.bufs.zipIdx.foldl (fun t b =>
    match p.bufs.zipIdx.find? fun o => o.1.addr == b.1.addr && o.1.size == b.1.size && o.1.kind == b.1.kind with
    | some o => tabSet 0 t b.2 (tabGet 0 s.ks.gens o.2)
    | none => t) []

/-- LAYOUT_EPOCH of the record in a slot (Table 19-2). -/
def slotEpoch (s : State) (a : Nat) : Nat := memNat s.dram.mem (a + 0x28) 4

/-- Records of the old epoch are retired (Table 17-7): those of the own journal, those that this device mirrors, and the
start record. What a neighbour has mirrored here of the new epoch stays. -/
def retireRecords (s : State) (p : Plan) (epoch : Nat) : State :=
  let clear := fun s a => putMem s a (zeros 4)
  let s := p.piers.foldl (fun s e =>
    [journalBase, mirrorBase 0, mirrorBase 1].foldl (fun s b =>
      let a := b + e.index * slotSize
      if slotEpoch s a = epoch then s else clear s a) s) s
  clear (clear s startRecordAddr) startRecordCopy

/-- The ring of the new epoch stands, with its ranks. -/
def enterRing (s : State) (w : ReshardWork) : State :=
  let at_ := (s.via.ranks.find? fun e => e.1 == s.grp.coord).map (·.2)
  let coord := ((w.ranks.find? fun e => some e.2 == at_).map (·.1)).getD s.grp.coord
  let t := updVia s fun v =>
    { v with formed := some w.form, ranks := w.ranks, ranksEpoch := BitVec.ofNat 32 w.epoch
             bypass := bypassMay s w.form && w.seen.contains 6 && w.seen.contains 7
             bypassSeen := w.seen.filter fun n => !hopOf w.form n && decide (6 ≤ n) }
  updGrp (resendIdent t s) fun g =>
    { g with coord := coord, dones := [], alive := [], flooded := g.flooded.filter (fun x => x.1 != 6), lostRanks := [] }

/-- Table 17-5 step 8: the new plan stands at RESUME_PIER, with its pier record written and mirrored. -/
def switchPlan (s : State) (p : Plan) (w : ReshardWork) (q : Plan) (e : PierEntry) : State :=
  let m := s.dram.mem
  let bytes := w.bytes
  let r := moveContexts s p (imgCtxs m w.mapAddr)
  let s := dropSegment (retireRecords r.1 p w.epoch) []
  let s := enterRing s w
  let seq := seqAfter q e.seq
  let s := updKs s fun k =>
    { k with plan := some q, gens := carriedGens s p q, written := [], readies := [], resident := [], saved := r.2
             reshardW := some { w with phase := 1, pier := w.pier }, lastPier := some e.index, limitCount := 0
             stepPier := if isStepPier q e then some e.index else none, updMap := [], commitW := none, token := none
             recovery := none, attempt := 0, reach := (0, 0), replayTo := (0, 0), updSent := [], heldRestart := none }
  let s := dropCache (enterContexts s q seq)
  let s := updGrp s fun g => { g with watermark := some e.index, wmStep := s.ks.stepIndex }
  let s := journalWrite s (e.index * slotSize) (pierRecord s q e)
  let s := armAt (beginSegment s q seq) q seq
  let s := finishReshard s stOk [w.epoch, w.pier, bytes % 2 ^ 32, bytes / 2 ^ 32]
  if s.ks.pauseReq.isSome then holdPlan s else s

/-- SWITCH (step 7) on this member. -/
def doSwitch (s : State) (p : Plan) (w : ReshardWork) : State :=
  match w.plan with
  | none => s
  | some q =>
    match pierByIndex q (resumePier s.dram.mem w.mapAddr) with
    | none => s
    | some e => switchPlan s p w q e

-- ------------------------------------------------------------------------------------------------ steps 5 and 6

/-- Step 6 begins: PRESET armed, early RECEIVE_READYs under the new ranks, every transfer entry of the image started. -/
def beginMoves (s : State) (w : ReshardWork) : State :=
  let m := s.dram.mem
  let early := w.early.filterMap fun x => (w.ranks.find? fun e => e.2 == x.1).map fun e => (e.1, x.2)
  let s := updKs s fun k =>
    { k with readies := early, xfers := []
             reshardW := some { w with phase := 3, ports := k.armed.ports, early := [], moved := 0, bytes := 0 } }
  let s := armPorts s fun _ => memNat m (w.mapAddr + 0x12) 1
  (imgXfers m w.mapAddr).zipIdx.foldl (fun s x =>
    let idx := 2 ^ 32 + x.2
    if x.1.kind = 0 then startSend s (idx, x.1)
    else
      let s := updKs s fun k => { k with xfers := k.xfers ++ [{ idx := idx, x := x.1, ready := false, sent := false, data := none }] }
      sendReady s x.1.port x.1.peer x.1.msgSeq x.1.cls x.1.len) s

/-- Step 5 has ended: every new rank is known and both ring neighbours' FORMs agree. -/
def floodDone (w : ReshardWork) : Bool := (List.range (w.form.length * w.form.groups)).all fun r => w.ranks.any fun e => e.1 == r
def formsDone (w : ReshardWork) : Bool := w.form.shape == 0 || (w.seen.contains w.form.plusPort && w.seen.contains w.form.minusPort)

/-- A FORM in step 5 (R341). -/
def reshardForm (s : State) (w : ReshardWork) (n : Nat) (i : Instr) : State :=
  let st := formAgrees s w.form n i
  if st = 0 then updReshard s fun w => { w with seen := insertNat n w.seen }
  else if hopOf w.form n then
    let s := (List.range 8).foldl (fun s n => if hopOf w.form n then sendVia s n (formMsg s w.form n st) else s) s
    reshardFault s st
  else s

/-- Step 5 begins on a member that holds GO: its RANK on every trained port, FORM to its new ring neighbours. -/
def beginStep5 (s : State) (p : Plan) (w : ReshardWork) : State :=
  let f := w.form
  let own := f.groupIdx * f.length + f.pos
  let known := w.ranks.filter (fun e => e.1 != own) ++ [(own, ownCoord s)]
  let s := updKs s fun k => { k with reshardW := some { w with phase := 2, joined := false, ranks := known, seen := [] } }
  let s := flood s none fun n => .rank { ctlOf s n 0 with tag := BitVec.ofNat 32 p.groupTag } own (BitVec.ofNat 32 w.epoch) (ownCoord s)
  if f.shape = 0 then s
  else if !portUp s f.plusPort || !portUp s f.minusPort then reshardFault s stLinkDown
  else
    let ports := (List.range 8).filter fun n => hopOf f n || (decide (6 ≤ n) && bypassMay s f)
    let s := ports.foldl (fun s n => sendVia s n (formMsg s f n 0)) s
    let came := s.via.forms
    came.foldl (fun s e =>
      match s.ks.reshardW with
      | some w => if w.phase = 2 then reshardForm s w e.1 e.2 else s
      | none => s) (updVia s fun v => { v with forms := [] })

-- ------------------------------------------------------------------------------------------------ decisions

/-- REFUSE (R359): the old plan goes on at its pier; RESHARD completes with PLAN_INVALID. -/
def reshardRefused (s : State) (w : ReshardWork) : State :=
  settlePause (finishReshard (if w.phase < 2 then s else restoreEpoch s w) stPlanInvalid []) w

/-- A decision takes effect on this member: GO and REFUSE of READY, SWITCH and REFUSE of DONE, a fault of another. -/
def applyReshard (s : State) (p : Plan) (w : ReshardWork) (phase status : Nat) (go : Bool) : State :=
  if status ≠ 0 then
    (if phase = 2 ∧ go = false ∧ (2 ≤ w.phase ∨ w.joined = true) then reshardFails s status else s)
  else if tokenPhase { w with joined := false } ≠ some phase then s
  else if !go then reshardRefused s w
  else if !w.joined then s
  else if phase = 1 then beginStep5 s p w
  else doSwitch s p w

/-- A decision goes down the broadcast tree of R349 with ROOT 0 (R358). -/
def sendReshardDecision (s : State) (p : Plan) (epoch phase : Nat) (go : Bool) : State :=
  (treeChildren (groupSize p) (rankOf p)).foldl (fun s r =>
    sendOld s r 0 fun c => .reshardDecision c (BitVec.ofNat 32 epoch) phase go) s

/-- The leader decides (steps 4 and 7). -/
def decideReshard (s : State) (p : Plan) (w : ReshardWork) (phase : Nat) (go : Bool) : State :=
  applyReshard (sendReshardDecision s p w.epoch phase go) p w phase 0 go

-- ------------------------------------------------------------------------------------------------ advancing

/-- A group of one decides for itself; any other member joins its token. -/
def advanceToken (s : State) : State :=
  match s.ks.reshardW, s.ks.plan with
  | some w, some p =>
    if groupSize p ≠ 1 then joinToken s
    else
      match tokenPhase w with
      | some k => applyReshard (updReshard s fun w => { w with joined := true }) p { w with joined := true } k 0 true
      | none => s
  | _, _ => s

/-- Step 5 leads to step 6; step 6 to the token of step 7 once every descriptor has run. -/
def advanceMoves (s : State) : State :=
  match s.ks.reshardW with
  | none => s
  | some w =>
    if w.phase = 2 ∧ floodDone w = true ∧ formsDone w = true then beginMoves s w
    else if w.phase = 3 ∧ w.moved = (imgTable s.dram.mem w.mapAddr 0).1 then
      updReshard s fun w => { w with phase := 4, joined := false }
    else s

/-- Every step of Table 17-5 that can be taken now. -/
def advance (s : State) : State := advanceToken (advanceMoves (advanceMoves (advanceToken s)))

-- ------------------------------------------------------------------------------------------------ RESHARD

/-- A member whose image or new plan is refused takes no further part: it passes the READY token with AGREE clear, as leader
it sends one, so that the group refuses (Table 17-5 step 3). -/
def dissent (s : State) (epoch mapAddr : Nat) : State :=
  let s := updKs s fun k => { k with reshardBad := some epoch }
  match s.ks.plan with
  | none => s
  | some p =>
    if groupSize p = 1 then s
    else if rankOf p = 0 then
      sendOld s 1 0 fun c => .reshardToken c (BitVec.ofNat 32 epoch) 1 false 1 (tabBytes s.dram.mem (mapAddr + 0x50) 48)
    else
      match s.ks.reshardTok with
      | some t => if t.epoch = epoch ∧ t.phase = 1 then passReshardToken s p t false else s
      | none => s

/-- RESHARD (R357): the image is checked at once, the new plan by VALIDATION_END. In PAUSED at a flagged pier the member
holds there (Table 17-5 step 2). -/
def reshardCmd (s : State) (tag : Nat) : State :=
  serve s cmdReshard tag fun s c =>
    let a := payAt c 8 8
    let e := payAt c 4 4
    if !payClean c [(4, 4), (8, 8)] then finishCmd s c stBadParam []
    else if !(planState s == plRunning || planState s == plPaused) || s.ks.reshardW.isSome then finishCmd s c stBusy []
    else
      let s := acceptCmd s c
      match s.ks.plan, s.via.formed.bind (imgRing s.dram.mem a) with
      | some p, ring =>
        match imgStatus s p a e, ring with
        | 0, some f =>
          let flagged := planState s == plPaused && (s.ks.lastPier.bind (pierByIndex p)).any fun x => x.flags.testBit 1
          let w : ReshardWork :=
            { tag := c.tag, epoch := e, mapAddr := a, form := f, plan := none, phase := bitNat flagged
              pier := s.ks.lastPier.getD 0, joined := false, ranks := [], seen := [], early := [], ports := [], moved := 0
              bytes := 0, retried := false }
          updKs s fun k => { k with reshardW := some w, reshardBad := none }
        | st, _ => finishCmd (dissent s e a) c (if st = 0 then stBadParam else st) []
      | none, _ => finishCmd s c stBusy []

def execReshard (tag : Nat) (s : State) : Host.Outcome State Fault Refusal := .next (reshardCmd s tag)

/-- The new plan has passed its checks: it must have RESUME_PIER and every NEW_CONTEXT. -/
def newPlanFits (s : State) (w : ReshardWork) (q : Plan) : Bool :=
  decide (resumePier s.dram.mem w.mapAddr < q.piers.length)
    && (imgCtxs s.dram.mem w.mapAddr).all fun c => decide (c.ctx < q.contexts)

/-- RESHARD ends at validation: the running plan goes on. -/
def reshardInvalid (s : State) (w : ReshardWork) (status : Nat) : State :=
  settlePause (finishReshard (dissent s w.epoch w.mapAddr) status []) w

/-- Validation of a re-shard's new plan ends (R357): check 3 compares with the image's group values and NEW_EPOCH. Its
bypass link counts as the image's formation would record it (DESIGN CHOICE, assumption 232). -/
def endReshardCheck (s : State) (w : ReshardWork) : State :=
  let base := memNat s.dram.mem (w.mapAddr + 8) 8
  match validateImage s base (some w.form) (bypassMay s w.form) with
  | .error f => reshardInvalid (noteUnread (writeReport s base f []) base f) w f.status
  | .ok q =>
    let s := writeReport s base noFailure q.splits
    if newPlanFits s w q then updReshard s fun w => { w with plan := some q } else reshardInvalid s w stBadParam

/-- VALIDATION_END (R59). -/
def validationEnd (s : State) : State :=
  match s.ks.loading with
  | some base => endLoad s base
  | none =>
    match s.ks.reshardW with
    | some w => if w.plan.isNone then advance (endReshardCheck s w) else s
    | none => s

def execValidationEnd (s : State) : Host.Outcome State Fault Refusal := .next (validationEnd s)

-- ------------------------------------------------------------------------------------------------ RESHARD_PERMUTE

/-- The bytes of a move that can go now (R356, R201): what they reach, the uncorrectable sectors that they leave unwritten
(R445); none while it waits. -/
def moveBytes (s : State) (w : ReshardWork) (x : Move) : State × Option (List Nat) :=
  let entry := (imgXfers s.dram.mem w.mapAddr).zipIdx.find? fun e => e.1.seq == x.seq
  let idx := 2 ^ 32 + (entry.map (·.2)).getD 0
  let land := fun (s : State) (b : List Byte) => let r := putSectors s x.dst b; (r.1, some r.2)
  match x.kind with
  | 0 =>
    let s := trySend s idx (tabBytes s.dram.mem x.src x.len)
    (s, if xferUsed s idx then some [] else none)
  | 1 =>
    match received s idx with
    | some b => land (markRecv s idx) b
    | none => (s, none)
  | _ => land s (tabBytes s.dram.mem x.src x.len)

/-- RESHARD_PERMUTE (R356): in SEQ order, during step 6. -/
def reshardPermute (s : State) (seq : Nat) : State :=
  match s.ks.reshardW with
  | none => s
  | some w =>
    match (imgMoves s.dram.mem w.mapAddr)[seq - 1]? with
    | none => s
    | some x =>
      if w.phase ≠ 3 ∨ seq ≠ w.moved + 1 then s
      else
        let fails := fun (s : State) (a : Nat) => reshardFault (notifyFault s (mkEvent stMemory srcKs 2 0 evFault seq a)) stMemory
        let s := if x.kind = 1 then s else touchSectors s (rangeHits x.src x.len)
        if x.kind ≠ 1 ∧ rangeBad s.dram.bad x.src x.len = true then fails s x.src
        else
          let r := moveBytes s w x
          match r.2 with
          | none => r.1
          | some [] => advance (updReshard r.1 fun w => { w with moved := seq, bytes := w.bytes + x.len })
          | some (sec :: _) => fails r.1 (32 * sec)

def execReshardPermute (seq : Nat) (s : State) : Host.Outcome State Fault Refusal := .next (reshardPermute s seq)

-- ------------------------------------------------------------------------------------------------ messages

/-- The plan of a re-shard message's group. -/
def reshardPlan (s : State) (c : Ctl) : Option Plan :=
  match s.ks.plan with
  | none => none
  | some p => if c.tag = BitVec.ofNat 32 p.groupTag then some p else none

/-- RESHARD_TOKEN (Table 17-5 steps 3 and 7): kept until the member joins; the leader decides. A member whose validation
failed clears AGREE. -/
def reshardTokenMsg (s : State) (c : Ctl) (t : ReshardToken) : State :=
  match reshardPlan s c with
  | none => s
  | some p =>
    if rankOf p = 0 then
      match s.ks.reshardW with
      | none => if s.ks.reshardBad = some t.epoch ∧ t.phase = 1 then sendReshardDecision s p t.epoch 1 false else s
      | some w =>
        if w.joined && tokenPhase { w with joined := false } == some t.phase && t.epoch == w.epoch then
          advance (decideReshard s p w t.phase (t.agree && t.count == groupSize p))
        else s
    else if s.ks.reshardW.isNone ∧ s.ks.reshardBad = some t.epoch ∧ t.phase = 1 then passReshardToken s p t false
    else advance (updKs s fun k => { k with reshardTok := some t })

def execReshardToken (c : Ctl) (epoch : W32) (phase : Nat) (agree : Bool) (count : Nat) (digest : List Byte) (s : State) :
    Host.Outcome State Fault Refusal :=
  .next (reshardTokenMsg s c { epoch := epoch.toNat, phase := phase, agree := agree, count := count, digest := digest })

/-- RESHARD_TOKEN_TIMEOUT: the leader's token is not back 10 s after it joined. -/
def reshardTokenTimeout (s : State) : State :=
  match s.ks.plan, s.ks.reshardW with
  | some p, some w =>
    match tokenPhase { w with joined := false } with
    | some k => if rankOf p = 0 ∧ w.joined = true ∧ 1 < groupSize p then decideReshard s p w k false else s
    | none => s
  | _, _ => s

def execReshardTokenTimeout (s : State) : Host.Outcome State Fault Refusal := .next (reshardTokenTimeout s)

/-- RESHARD_DECISION (R358, R359): every member passes it down the tree. The one held applies it; a REFUSE also applies to a
member that joined the token under another NEW_EPOCH, and a decision that carries a fault's STATUS came to every member from
the one that met it. -/
def reshardDecisionMsg (s : State) (c : Ctl) (epoch phase : Nat) (go : Bool) : State :=
  match reshardPlan s c with
  | none => s
  | some p =>
    let s := if c.status = 0 then sendReshardDecision s p epoch phase go else s
    match s.ks.reshardW with
    | none => s
    | some w =>
      if w.epoch = epoch ∨ (c.status = 0 ∧ go = false ∧ w.joined = true) then
        advance (applyReshard s p w phase (finalStatus c.status.toNat) go)
      else s

def execReshardDecision (c : Ctl) (epoch : W32) (phase : Nat) (go : Bool) (s : State) : Host.Outcome State Fault Refusal :=
  .next (reshardDecisionMsg s c epoch.toNat phase go)

-- ------------------------------------------------------------------------------------------------ rows shared with other chapters

/-- A RANK of the new epoch (R344, step 5): recorded and forwarded once; two coordinates for one rank are a fault. -/
def reshardRank (s : State) (w : ReshardWork) (c : Ctl) (r : Nat) (epoch : W32) (x : Coord) : State :=
  if w.form.length * w.form.groups ≤ r ∨ !isTrained s c.port then s
  else
    match w.ranks.find? fun e => e.1 == r with
    | some e => if e.2 = x ∨ w.phase < 2 then s else reshardFault s stPlanInvalid
    | none =>
      let s := updReshard s fun w => { w with ranks := w.ranks ++ [(r, x)] }
      flood s (some c.port) fun n => .rank { c with port := n } r epoch x

/-- RANK: of the new epoch during a re-shard, else of a START (R344). -/
def rankRow (s : State) (c : Ctl) (r : Nat) (epoch : W32) (x : Coord) : State :=
  match s.ks.reshardW, reshardPlan s c with
  | some w, some _ => if epoch.toNat = w.epoch then advance (reshardRank s w c r epoch x) else rankMsg s c r epoch x
  | _, _ => rankMsg s c r epoch x

def execRank (c : Ctl) (r : Nat) (epoch : W32) (x : Coord) (s : State) : Host.Outcome State Fault Refusal :=
  .next (rankRow s c r epoch x)

/-- RANK_FLOOD_TIMEOUT: of a START, or a fault of step 5. -/
def rankTimeoutRow (s : State) : State :=
  match s.ks.reshardW with
  | some w => if w.phase = 2 ∧ floodDone w = false then reshardFault s stLinkDown else rankFloodTimeout s
  | none => rankFloodTimeout s

def execRankFloodTimeout (s : State) : Host.Outcome State Fault Refusal := .next (rankTimeoutRow s)

/-- FORM: in step 5, else of a RING_FORM (R341). -/
def formAnyRow (s : State) (c : Ctl) (len pos : Nat) (ver : W32) (step : Byte) (bypass : Bool) (id : W64) : State :=
  match s.ks.reshardW with
  | some w =>
    if w.phase = 2 ∧ isTrained s c.port = true then advance (reshardForm s w c.port (.form c len pos ver step bypass id))
    else formRow s c len pos ver step bypass id
  | none => formRow s c len pos ver step bypass id

def execForm (c : Ctl) (len pos : Nat) (ver : W32) (step : Byte) (bypass : Bool) (id : W64) (s : State) :
    Host.Outcome State Fault Refusal := .next (formAnyRow s c len pos ver step bypass id)

/-- FORM_TIMEOUT: of a RING_FORM, or a fault of step 5. -/
def formTimeoutRow (s : State) : State :=
  match s.ks.reshardW with
  | some w => if w.phase = 2 ∧ formsDone w = false then reshardFault s stLinkDown else formTimeout s
  | none => formTimeout s

def execFormTimeout (s : State) : Host.Outcome State Fault Refusal := .next (formTimeoutRow s)

/-- PIER: the record is written (R376); a member that then holds for a re-shard goes on with it. -/
def execPier (seq : Nat) (s : State) : Host.Outcome State Fault Refusal := .next (advance (pierRun s seq))

def execMirrorAck (j : JMsg) (off len : Nat) (s : State) : Host.Outcome State Fault Refusal :=
  .next (advance (mirrorAckMsg s j off len))

def execPierDone (j : JMsg) (pier : Nat) (step : W64) (s : State) : Host.Outcome State Fault Refusal :=
  .next (advance (pierDoneMsg s j pier step))

def execWatermark (j : JMsg) (pier : Nat) (step : W64) (s : State) : Host.Outcome State Fault Refusal :=
  .next (advance (watermarkMsg s j pier step))

end Sys2Proof.Machine
end

