-- ==== Sys2Proof/Machine/Dispatch.lean ====
section
/-! DEFINITION. One arm per command: its meaning. -/

namespace Sys2Proof.Machine

def exec (i : Instr) (s : State) : Host.Outcome State Fault Refusal :=
  match i with
  -- supplies and resets (21, 22)
  | .p3v3AuxRise straps => Sys2Proof.Machine.execP3v3AuxRise straps s
  | .p3v3AuxLoss => Sys2Proof.Machine.execP3v3AuxLoss s
  | .powerGood env => Sys2Proof.Machine.execPowerGood env s
  | .railRetry env => Sys2Proof.Machine.execRailRetry env s
  | .readiness => Sys2Proof.Machine.execReadiness s
  | .p12vLoss => Sys2Proof.Machine.execP12vLoss s
  | .perstNAssert => Sys2Proof.Machine.execPerstNAssert s
  | .perstNRelease env => Sys2Proof.Machine.execPerstNRelease env s
  | .hotReset => Sys2Proof.Machine.execHotReset s
  | .functionLevelReset => Sys2Proof.Machine.execFunctionLevelReset s
  | .tollhouseReset cause env => Sys2Proof.Machine.execTollhouseReset cause env s
  -- the beat (02)
  | .beatBoundary act => Sys2Proof.Machine.execBeatBoundary act s
  | .beatMarkerSend txOffset => Sys2Proof.Machine.execBeatMarkerSend txOffset s
  | .beatMarker port m arrival => Sys2Proof.Machine.execBeatMarker port m arrival s
  | .bearingTimeout b waiting => Sys2Proof.Machine.execBearingTimeout b waiting s
  -- host interface (04)
  | .mailboxSlotWrite off write => Sys2Proof.Machine.execMailboxSlotWrite off write s
  | .mailboxTake => Sys2Proof.Machine.execMailboxTake s
  | .cqEnable write => Sys2Proof.Machine.execCqEnable write s
  | .registerWrite off write => Sys2Proof.Machine.execRegisterWrite off write s
  | .hcBeatLoRead => Sys2Proof.Machine.execHcBeatLoRead s
  | .bar2Read off len ecc => Sys2Proof.Machine.execBar2Read off len ecc s
  | .bar2Write off data poisoned => Sys2Proof.Machine.execBar2Write off data poisoned s
  | .coalesceTimerExpiry src => Sys2Proof.Machine.execCoalesceTimerExpiry src s
  -- mailbox commands (04), by tag
  | .getInfo tag => Sys2Proof.Machine.execGetInfo tag s
  | .getStatus tag => Sys2Proof.Machine.execGetStatus tag s
  | .loadPlan tag => Sys2Proof.Machine.execLoadPlan tag s
  | .unloadPlan tag => Sys2Proof.Machine.execUnloadPlan tag s
  | .start tag => Sys2Proof.Machine.execStart tag s
  | .pauseAtPier tag => Sys2Proof.Machine.execPauseAtPier tag s
  | .resume tag => Sys2Proof.Machine.execResume tag s
  | .abort tag => Sys2Proof.Machine.execAbort tag s
  | .bindHostRegion tag => Sys2Proof.Machine.execBindHostRegion tag s
  | .copyToDevice tag => Sys2Proof.Machine.execCopyToDevice tag s
  | .copyToHost tag => Sys2Proof.Machine.execCopyToHost tag s
  | .reshard tag => Sys2Proof.Machine.execReshard tag s
  | .commitPolicy tag => Sys2Proof.Machine.execCommitPolicy tag s
  | .replayControl tag => Sys2Proof.Machine.execReplayControl tag s
  | .telemetryRead tag => Sys2Proof.Machine.execTelemetryRead tag s
  | .normRecordsRead tag => Sys2Proof.Machine.execNormRecordsRead tag s
  | .linkControl tag => Sys2Proof.Machine.execLinkControl tag s
  | .ringForm tag => Sys2Proof.Machine.execRingForm tag s
  | .marchTest tag => Sys2Proof.Machine.execMarchTest tag s
  | .memoryScrub tag ecc => Sys2Proof.Machine.execMemoryScrub tag ecc s
  | .pacePolicy tag => Sys2Proof.Machine.execPacePolicy tag s
  | .prefixTable tag => Sys2Proof.Machine.execPrefixTable tag s
  | .fwStage tag => Sys2Proof.Machine.execFwStage tag s
  | .fwActivate tag env => Sys2Proof.Machine.execFwActivate tag env s
  | .nop tag => Sys2Proof.Machine.execNop tag s
  -- plan execution (03)
  | .setupShadowWrite => Sys2Proof.Machine.execSetupShadowWrite s
  | .blockArm b => Sys2Proof.Machine.execBlockArm b s
  | .descriptorIssue => Sys2Proof.Machine.execDescriptorIssue s
  | .descriptorStart unit => Sys2Proof.Machine.execDescriptorStart unit s
  | .descriptorComplete unit seq status => Sys2Proof.Machine.execDescriptorComplete unit seq status s
  -- operators, by SEQ and pass
  | .matmul seq pass => Sys2Proof.Machine.execMatmul seq pass s
  | .matmulDgrad seq pass => Sys2Proof.Machine.execMatmulDgrad seq pass s
  | .matmulWgrad seq pass => Sys2Proof.Machine.execMatmulWgrad seq pass s
  | .matvecBatch seq pass => Sys2Proof.Machine.execMatvecBatch seq pass s
  | .attnFwd seq pass => Sys2Proof.Machine.execAttnFwd seq pass s
  | .attnBwd seq pass => Sys2Proof.Machine.execAttnBwd seq pass s
  | .attnDecode seq pass => Sys2Proof.Machine.execAttnDecode seq pass s
  | .vecProgram seq pass => Sys2Proof.Machine.execVecProgram seq pass s
  | .scan seq pass => Sys2Proof.Machine.execScan seq pass s
  | .segScan seq pass => Sys2Proof.Machine.execSegScan seq pass s
  | .affineScan seq pass => Sys2Proof.Machine.execAffineScan seq pass s
  | .convTaps seq pass => Sys2Proof.Machine.execConvTaps seq pass s
  | .pool seq pass => Sys2Proof.Machine.execPool seq pass s
  | .reduce seq pass => Sys2Proof.Machine.execReduce seq pass s
  | .globalNorm seq pass => Sys2Proof.Machine.execGlobalNorm seq pass s
  | .normProbe seq pass => Sys2Proof.Machine.execNormProbe seq pass s
  | .updateElem seq pass => Sys2Proof.Machine.execUpdateElem seq pass s
  | .updateMatrix seq pass => Sys2Proof.Machine.execUpdateMatrix seq pass s
  | .commit seq => Sys2Proof.Machine.execCommit seq s
  | .copyConvert seq pass => Sys2Proof.Machine.execCopyConvert seq pass s
  | .ringPass seq => Sys2Proof.Machine.execRingPass seq s
  | .collective seq => Sys2Proof.Machine.execCollective seq s
  | .reshardPermute seq => Sys2Proof.Machine.execReshardPermute seq s
  | .offload seq pass => Sys2Proof.Machine.execOffload seq pass s
  | .prefetch seq pass => Sys2Proof.Machine.execPrefetch seq pass s
  | .weightChain seq => Sys2Proof.Machine.execWeightChain seq s
  | .prefixLookup seq => Sys2Proof.Machine.execPrefixLookup seq s
  | .prefixInsert seq => Sys2Proof.Machine.execPrefixInsert seq s
  | .bankHandover seq => Sys2Proof.Machine.execBankHandover seq s
  | .pier seq => Sys2Proof.Machine.execPier seq s
  | .paceMatchDecision => Sys2Proof.Machine.execPaceMatchDecision s
  | .trestleChunk toHost => Sys2Proof.Machine.execTrestleChunk toHost s
  | .trestleCompletion how pcieStatus data => Sys2Proof.Machine.execTrestleCompletion how pcieStatus data s
  | .addDone channel span seq => Sys2Proof.Machine.execAddDone channel span seq s
  | .memorySideAdd channel => Sys2Proof.Machine.execMemorySideAdd channel s
  | .dramRefresh channel bank => Sys2Proof.Machine.execDramRefresh channel bank s
  | .backgroundScrub channel ecc => Sys2Proof.Machine.execBackgroundScrub channel ecc s
  -- Viaduct link layer (16)
  | .flitReceive port fecOk f crc => Sys2Proof.Machine.execFlitReceive port fecOk f crc s
  | .flitForward port cls lane => Sys2Proof.Machine.execFlitForward port cls lane s
  | .dataMessageReceive m => Sys2Proof.Machine.execDataMessageReceive m s
  | .classResendTimeout port cls => Sys2Proof.Machine.execClassResendTimeout port cls s
  | .portRetrain port => Sys2Proof.Machine.execPortRetrain port s
  | .portTrainingComplete port failedLanes roundTripNs => Sys2Proof.Machine.execPortTrainingComplete port failedLanes roundTripNs s
  | .ident port v => Sys2Proof.Machine.execIdent port v s
  | .nack port cls expected => Sys2Proof.Machine.execNack port cls expected s
  | .xoff port cls lane => Sys2Proof.Machine.execXoff port cls lane s
  | .xon port cls lane => Sys2Proof.Machine.execXon port cls lane s
  | .retrainRequest port => Sys2Proof.Machine.execRetrainRequest port s
  -- control messages (16, 17)
  | .receiveReady c msgSeq cls len => Sys2Proof.Machine.execReceiveReady c msgSeq cls len s
  | .segmentTime c pier origin time => Sys2Proof.Machine.execSegmentTime c pier origin time s
  | .groupDigest c rank digest => Sys2Proof.Machine.execGroupDigest c rank digest s
  | .groupDigestTimeout => Sys2Proof.Machine.execGroupDigestTimeout s
  | .rank c rank epoch coord => Sys2Proof.Machine.execRank c rank epoch coord s
  | .rankFloodTimeout => Sys2Proof.Machine.execRankFloodTimeout s
  | .vote c a count agree digest => Sys2Proof.Machine.execVote c a count agree digest s
  | .voteTimeout => Sys2Proof.Machine.execVoteTimeout s
  | .decision c a commit => Sys2Proof.Machine.execDecision c a commit s
  | .recoveryStart => Sys2Proof.Machine.execRecoveryStart s
  | .recoveryQuery c a asker => Sys2Proof.Machine.execRecoveryQuery c a asker s
  | .recoveryReply c a outcome rank => Sys2Proof.Machine.execRecoveryReply c a outcome rank s
  | .recoveryWindowEnd => Sys2Proof.Machine.execRecoveryWindowEnd s
  | .form c ringLength ringPosition resultVer stepping bypass deviceId => Sys2Proof.Machine.execForm c ringLength ringPosition resultVer stepping bypass deviceId s
  | .formTimeout => Sys2Proof.Machine.execFormTimeout s
  | .reshardToken c epoch phase agree count digest => Sys2Proof.Machine.execReshardToken c epoch phase agree count digest s
  | .reshardTokenTimeout => Sys2Proof.Machine.execReshardTokenTimeout s
  | .reshardDecision c epoch phase go => Sys2Proof.Machine.execReshardDecision c epoch phase go s
  -- journal messages and timers (19)
  | .mirrorWrite j off data => Sys2Proof.Machine.execMirrorWrite j off data s
  | .mirrorAck j off len => Sys2Proof.Machine.execMirrorAck j off len s
  | .mirrorRead j off len => Sys2Proof.Machine.execMirrorRead j off len s
  | .mirrorData j off data => Sys2Proof.Machine.execMirrorData j off data s
  | .pierDone j pier step => Sys2Proof.Machine.execPierDone j pier step s
  | .watermark j pier step => Sys2Proof.Machine.execWatermark j pier step s
  | .rewind j pier cause need coord replaces => Sys2Proof.Machine.execRewind j pier cause need coord replaces s
  | .quiesce => Sys2Proof.Machine.execQuiesce s
  | .quiesced j pier need step => Sys2Proof.Machine.execQuiesced j pier need step s
  | .quietPeriodEnd => Sys2Proof.Machine.execQuietPeriodEnd s
  | .coordinatorLossTimeout => Sys2Proof.Machine.execCoordinatorLossTimeout s
  | .coordinatorTakeover => Sys2Proof.Machine.execCoordinatorTakeover s
  | .restart j pier target step => Sys2Proof.Machine.execRestart j pier target step s
  | .fetch j handle off len => Sys2Proof.Machine.execFetch j handle off len s
  | .fetchData j handle status off data => Sys2Proof.Machine.execFetchData j handle status off data s
  | .aliveSend => Sys2Proof.Machine.execAliveSend s
  | .alive j pier planState beat => Sys2Proof.Machine.execAlive j pier planState beat s
  | .silentMember rank => Sys2Proof.Machine.execSilentMember rank s
  | .admitUnit j step gen => Sys2Proof.Machine.execAdmitUnit j step gen s
  | .admitted j step => Sys2Proof.Machine.execAdmitted j step s
  -- Tollhouse (20)
  | .sensorSample x => Sys2Proof.Machine.execSensorSample x s
  | .hardwareFloor c => Sys2Proof.Machine.execHardwareFloor c s
  | .hardwareFloorRelease c => Sys2Proof.Machine.execHardwareFloorRelease c s
  | .prochotNAssert => Sys2Proof.Machine.execProchotNAssert s
  | .prochotNDeassert => Sys2Proof.Machine.execProchotNDeassert s
  | .trip x reading => Sys2Proof.Machine.execTrip x reading s
  | .eventRecord e => Sys2Proof.Machine.execEventRecord e s
  | .coalesceWindowEnd source code unit => Sys2Proof.Machine.execCoalesceWindowEnd source code unit s
  | .logPersist => Sys2Proof.Machine.execLogPersist s
  -- out-of-band management (20)
  | .setEndpointId eid => Sys2Proof.Machine.execSetEndpointId eid s
  | .getEndpointId => Sys2Proof.Machine.execGetEndpointId s
  | .getEndpointUuid => Sys2Proof.Machine.execGetEndpointUuid s
  | .getMctpVersionSupport msgType => Sys2Proof.Machine.execGetMctpVersionSupport msgType s
  | .getMessageTypeSupport => Sys2Proof.Machine.execGetMessageTypeSupport s
  | .dynamicAddressAssignment addr => Sys2Proof.Machine.execDynamicAddressAssignment addr s
  | .pldmDiscovery cmd => Sys2Proof.Machine.execPldmDiscovery cmd s
  | .getPdrRepositoryInfo => Sys2Proof.Machine.execGetPdrRepositoryInfo s
  | .getPdr handle => Sys2Proof.Machine.execGetPdr handle s
  | .getSensorReading id => Sys2Proof.Machine.execGetSensorReading id s
  | .getNumericEffecterValue id => Sys2Proof.Machine.execGetNumericEffecterValue id s
  | .setNumericEffecterValue id value => Sys2Proof.Machine.execSetNumericEffecterValue id value s
  | .setEventReceiver eid => Sys2Proof.Machine.execSetEventReceiver eid s
  | .requestUpdate => Sys2Proof.Machine.execRequestUpdate s
  | .requestFirmwareData component data => Sys2Proof.Machine.execRequestFirmwareData component data s
  | .activateFirmware env => Sys2Proof.Machine.execActivateFirmware env s
  | .getVersion ch => Sys2Proof.Machine.execGetVersion ch s
  | .getCapabilities ch => Sys2Proof.Machine.execGetCapabilities ch s
  | .negotiateAlgorithms ch brainpool => Sys2Proof.Machine.execNegotiateAlgorithms ch brainpool s
  | .getDigests ch => Sys2Proof.Machine.execGetDigests ch s
  | .getCertificate ch slot off len => Sys2Proof.Machine.execGetCertificate ch slot off len s
  | .challenge ch slot nonce => Sys2Proof.Machine.execChallenge ch slot nonce s
  | .getMeasurements ch index signed nonce => Sys2Proof.Machine.execGetMeasurements ch index signed nonce s
  -- JTAG (22)
  | .bypass tdi => Sys2Proof.Machine.execBypass tdi s
  | .idcode tdi => Sys2Proof.Machine.execIdcode tdi s
  | .samplePreload tdi => Sys2Proof.Machine.execSamplePreload tdi s
  | .extest tdi => Sys2Proof.Machine.execExtest tdi s
  | .clamp tdi => Sys2Proof.Machine.execClamp tdi s
  | .highz tdi => Sys2Proof.Machine.execHighz tdi s
  -- vector instructions (11)
  | .vecNop a => Sys2Proof.Machine.execVecNop a s
  | .setvl a => Sys2Proof.Machine.execSetvl a s
  | .iota a => Sys2Proof.Machine.execIota a s
  | .movi a => Sys2Proof.Machine.execMovi a s
  | .ld a => Sys2Proof.Machine.execLd a s
  | .st a => Sys2Proof.Machine.execSt a s
  | .rand a => Sys2Proof.Machine.execRand a s
  | .add a => Sys2Proof.Machine.execAdd a s
  | .sub a => Sys2Proof.Machine.execSub a s
  | .mul a => Sys2Proof.Machine.execMul a s
  | .fma a => Sys2Proof.Machine.execFma a s
  | .min a => Sys2Proof.Machine.execMin a s
  | .max a => Sys2Proof.Machine.execMax a s
  | .abs a => Sys2Proof.Machine.execAbs a s
  | .neg a => Sys2Proof.Machine.execNeg a s
  | .addi a => Sys2Proof.Machine.execAddi a s
  | .muli a => Sys2Proof.Machine.execMuli a s
  | .exp2 a => Sys2Proof.Machine.execExp2 a s
  | .log2 a => Sys2Proof.Machine.execLog2 a s
  | .rsqrt a => Sys2Proof.Machine.execRsqrt a s
  | .rcp a => Sys2Proof.Machine.execRcp a s
  | .and a => Sys2Proof.Machine.execAnd a s
  | .or a => Sys2Proof.Machine.execOr a s
  | .xor a => Sys2Proof.Machine.execXor a s
  | .xori a => Sys2Proof.Machine.execXori a s
  | .shl a => Sys2Proof.Machine.execShl a s
  | .ashr a => Sys2Proof.Machine.execAshr a s
  | .cmpeq a => Sys2Proof.Machine.execCmpeq a s
  | .cmplt a => Sys2Proof.Machine.execCmplt a s
  | .cmple a => Sys2Proof.Machine.execCmple a s
  | .sel a => Sys2Proof.Machine.execSel a s
  | .cvt a => Sys2Proof.Machine.execCvt a s
  | .perm a => Sys2Proof.Machine.execPerm a s
  | .bcast a => Sys2Proof.Machine.execBcast a s
  | .slideup a => Sys2Proof.Machine.execSlideup a s
  | .slidedn a => Sys2Proof.Machine.execSlidedn a s
  | .rsum a => Sys2Proof.Machine.execRsum a s
  | .rmax a => Sys2Proof.Machine.execRmax a s
  | .rmin a => Sys2Proof.Machine.execRmin a s
  | .psum a => Sys2Proof.Machine.execPsum a s
  | .pmax a => Sys2Proof.Machine.execPmax a s
  | .segpsum a => Sys2Proof.Machine.execSegpsum a s
  -- ends of long work
  | .validationEnd => Sys2Proof.Machine.execValidationEnd s
  | .marchTestEnd banks accs others => Sys2Proof.Machine.execMarchTestEnd banks accs others s
  | .fwStageDone image => Sys2Proof.Machine.execFwStageDone image s
  | .thermtripNRelease => Sys2Proof.Machine.execThermtripNRelease s
  | .pcieLinkTrained rate width partnerFlit cfg => Sys2Proof.Machine.execPcieLinkTrained rate width partnerFlit cfg s
  | .fetchNoAnswer => Sys2Proof.Machine.execFetchNoAnswer s

end Sys2Proof.Machine
end

