-- ==== Sys2Proof/Safety.lean ====
section
/-! DEFINITION. What counts as a safe run: a step that answers a next state; the canonical form of the byte memories; and
what no command may change: the fuses of Table 20-1. -/

namespace Sys2Proof.Machine

/-- A step goes on. -/
def Goes (o : Host.Outcome State Fault Refusal) : Prop := ∃ t, o = .next t

/-- A state whose next step neither faults nor refuses. -/
def Safe (s : State) : Prop := Goes (step s)

/-- The byte memories are in canonical form: addresses rise strictly, and no listed byte is zero. -/
def Memory.wf (s : State) : Bool := tabWf 0 s.dram.mem && tabWf 0 s.sp.banks && tabWf 0 s.sp.accs

/-- The fuses written at manufacture (Table 20-1). -/
def fusesOf (t : Toll) : BitVec 256 × W64 × BitVec 384 × Byte × BitVec 528 :=
  (t.uds, t.deviceId, t.keyHash, t.stepping, t.spareMap)

/-- Every anti-rollback fuse bit that reads 1 in the first still reads 1 in the second. -/
def fusesRise (a b : BitVec 128) : Prop := ∀ k : Nat, a.toNat.testBit k = true → b.toNat.testBit k = true

-- ------------------------------------------------------------------------------------------------ vector engines

/-- A span's engine and its registers lie in canonical tables. -/
def vecWf (s : State) (span : Nat) : Bool := tabWf VecEngine.reset s.sp.vec && tabWf 0 (vecOf s span).regs

/-- A lane as a two's complement integer of its width. -/
def laneInt (e : VecEngine) (r : Nat) (f : Fmt) (k : Nat) : Int := signedOf (fmtBits f) (laneBits e r f k)

/-- An engine without its registers and its LANE_RANGE flag: what the sequence of R233 moves. -/
def vecSeq (e : VecEngine) : VecEngine := { e with regs := [], lane := false, laneAt := none }

/-- A state without the vector engines. -/
def noVec (s : State) : State := { s with sp := { s.sp with vec := [] } }

/-- A vector instruction runs: lanes of VD in a format take the given bits, zero past the last one; no other register and
no other engine changes; `out` says whether it names a lane out of range (R238); the engine moves on as R233 says; nothing
else changes. -/
def VecWrites (i : Instr) (a : VecArgs) (f : Fmt) (lanes : List Nat) (out : Bool) (s : State) : Prop :=
  ∃ t, exec i s = .next t
    ∧ (∀ k, k < laneCount f → rawLane (vecOf t a.span) a.vd f k = lanes.getD k 0 % 2 ^ (8 * laneWidth f))
    ∧ (∀ r k, r ≠ a.vd → k < 256 →
        tabGet 0 (vecOf t a.span).regs (r * 256 + k) = tabGet 0 (vecOf s a.span).regs (r * 256 + k))
    ∧ (vecOf t a.span).lane = ((vecOf s a.span).lane || out)
    ∧ (vecOf t a.span).laneAt
        = (vecOf s a.span).laneAt.or (if out then some ((vecOf s a.span).index, (vecOf s a.span).strip) else none)
    ∧ vecSeq (vecOf t a.span) = vecSeq (vecOf (vecAdvance s a.span) a.span)
    ∧ (∀ x, x ≠ a.span → vecOf t x = vecOf s x)
    ∧ noVec t = noVec s

-- ------------------------------------------------------------------------------------------------ mailbox commands

/-- The command taken first is this one, under this tag (R79). -/
def Served (s : State) (cmd tag : Nat) (c : Taken) : Prop := s.host.taken.head? = some c ∧ c.tag = tag ∧ c.cmd = cmd

/-- Completion records are written: CQ_EN is 1 and the host takes what the device writes to it (R83). -/
def Records (s : State) : Prop := cqEn s.host = true ∧ hostTakes s.host = true

/-- The device answers the host's accesses: the PCI Express link is trained (R420) and the function is in D0. -/
def Answers (s : State) : Prop := s.host.linkUp = true ∧ s.host.pm = .d0

/-- Nothing ails DRAM that no access has met yet, and no row waits to be remapped. -/
def DramClean (s : State) : Prop := s.dram.flaws = [] ∧ s.dram.scrubBad = [] ∧ s.dram.failing = []

-- ------------------------------------------------------------------------------------------------ operators

/-- Port n holds back no flit to send again and has resent none eight times, so that what is sent there makes no retraining
(R328). -/
def PortQuiet (s : State) (n : Nat) : Prop := (portOf s n).again = [] ∧ ∀ x ∈ (portOf s n).resent, x.2 < 8

/-- What one pass of an operator may change once its sectors have been read: DRAM bytes with their adds and sector marks, the
spans' SRAM with its tags, resident halves, engines and weight-cache lines, and of the Keystone the record of the pass, of
written bytes and of norms. -/
def OnlyData (s t : State) : Prop :=
  { t with dram := s.dram, sp := s.sp, ks := s.ks } = s
    ∧ { t.dram with mem := s.dram.mem, adds := s.dram.adds, bad := s.dram.bad, lost := s.dram.lost
                    scrubBad := s.dram.scrubBad, flaws := s.dram.flaws } = s.dram
    ∧ { t.sp with banks := s.sp.banks, accs := s.sp.accs, tags := s.sp.tags, resid := s.sp.resid, vec := s.sp.vec
                  cache := s.sp.cache } = s.sp
    ∧ { t.ks with issued := s.ks.issued, written := s.ks.written, norms := s.ks.norms } = s.ks

/-- The failing status that the reads of a descriptor meet, else the one that its partial writes meet; 0 for none. -/
def operandStatus (s : State) (p : Plan) (d : Desc) (us : List Use) : Nat :=
  if readsStatus s p d us = 0 then writesStatus s p us else readsStatus s p d us

/-- A pass whose turn it is: its descriptor has the opcode, runs, and has run the passes below it and no more (R64, R273). -/
def PassDue (op seq pass : Nat) (s : State) (p : Plan) (d : Desc) (i : Issued) : Prop :=
  running s seq = some (p, d, i) ∧ d.opcode = op ∧ i.passesRun.length = pass ∧ pass < passesOf p seq
    ∧ partTurn s p d pass = true

/-- An operator's row: it stalls at a bank of another owner (R103); a stale bank or an uncorrectable sector gives it its
status in place of outputs (R106, R307, R445); else it writes its outputs, and the pass is recorded. `many` says whether the
row names a pass; one that does not is of pass 0. -/
def OperatorRow (many : Bool) (c : Nat → Nat → Instr) (op : Nat) (uses : State → Plan → Desc → Nat → List Use)
    (run : State → Plan → Desc → Nat → State) : Prop :=
  ∀ (s : State) (seq pass : Nat) (p : Plan) (d : Desc) (i : Issued), PassDue op seq pass s p d i → many = true ∨ pass = 0 →
    let e := partDesc p d pass
    let us := present (uses s p e pass)
    let u := touchSectors s (usesSector s p e us)
    (banksOwned s e us = false → exec (c seq pass) s = .next s)
    ∧ (banksOwned s e us = true → operandStatus u p e us ≠ 0 →
        exec (c seq pass) s = .next (passDone u seq pass (operandStatus u p e us)))
    ∧ (banksOwned s e us = true → operandStatus u p e us = 0 →
        let r := run (prefillNibbles (cacheReads u p seq (unitSpans e) us) p us) p e pass
        ∃ t, exec (c seq pass) s = .next t ∧ OnlyData u t ∧ t.dram.mem = r.dram.mem ∧ t.sp.banks = r.sp.banks
          ∧ t.sp.accs = r.sp.accs ∧ (issuedOf t seq).map (·.passesRun) = some (i.passesRun ++ [pass]))

/-- The row of an operator that moves messages: as above, but it may take several goes; its pass is recorded with the one
that finishes it. -/
def MovingRow (many : Bool) (c : Nat → Nat → Instr) (op : Nat) (work : State → Plan → Desc → State × Bool) : Prop :=
  ∀ (s : State) (seq pass : Nat) (p : Plan) (d : Desc) (i : Issued), PassDue op seq pass s p d i → many = true ∨ pass = 0 →
    let e := partDesc p d pass
    let us := descUses p e
    let u := touchSectors s (usesSector s p e us)
    let r := work (cacheReads u p seq (unitSpans e) us) p e
    (banksOwned s e us = false → exec (c seq pass) s = .next s)
    ∧ (banksOwned s e us = true → operandStatus u p e us ≠ 0 →
        exec (c seq pass) s = .next (passDone u seq pass (operandStatus u p e us)))
    ∧ (banksOwned s e us = true → operandStatus u p e us = 0 → r.2 = false → exec (c seq pass) s = .next r.1)
    ∧ (banksOwned s e us = true → operandStatus u p e us = 0 → r.2 = true →
        exec (c seq pass) s = .next (passDone (freshSectors (noteWrites r.1 p seq (unitSpans e) us) (writeRanges r.1 p us))
          seq pass 0))

-- ------------------------------------------------------------------------------------------------ management

/-- The state with one more answer given out of band, and the Tollhouse otherwise as said. -/
def replied (s : State) (t : Toll) (b : List Byte) : State := { s with toll := { t with replies := s.toll.replies ++ [b] } }

/-- The answer to an MCTP control request: completion code and data (R408). -/
def mctpReply (cmd code : Nat) (d : List Byte) : List Byte := leBytes 1 0 ++ leBytes 1 cmd ++ leBytes 1 code ++ d

/-- The answer to a PLDM request of a type: completion code and data (R409). -/
def pldmReply (ty cmd code : Nat) (d : List Byte) : List Byte :=
  leBytes 1 1 ++ leBytes 1 ty ++ leBytes 1 cmd ++ leBytes 1 code ++ d

/-- The answer to an SPDM request: its code, two parameters and data (R414). -/
def spdmReply (code p1 p2 : Nat) (d : List Byte) : List Byte :=
  leBytes 1 5 ++ leBytes 1 0x13 ++ leBytes 1 code ++ leBytes 1 p1 ++ leBytes 1 p2 ++ d

end Sys2Proof.Machine
end

