-- ==== Sys2Proof/Certificates/Slice0/Obligations.lean ====
section
/-! DEFINITION. The statements for the provers. OBLIGATIONS.json lists them with the rules that they rest on. -/

open Sys2Proof Sys2Proof.Machine

-- ------------------------------------------------------------------------------------------------ the block

/-- A step takes the command at the front of the queue and runs it over the queue's rest. With no command waiting the block
idles, which is the model's choice (assumption 2). -/
def Obligations.StepTakesFront : Prop :=
  (∀ (c : Instr) (rest : List Instr) (s : State), step { s with pending := c :: rest } = exec c { s with pending := rest })
    ∧ ∀ s : State, s.pending = [] → step s = .next s

/-- The canonical form of the byte memories (DRAM, banks, accumulators) is an invariant of every step: addresses rise
strictly and no listed byte is zero, so that equal memories are equal data. The form is the model's own (assumption 8). -/
def Obligations.StepKeepsMemoriesCanonical : Prop :=
  ∀ s t : State, Memory.wf s = true → step s = .next t → Memory.wf t = true

/-- Right after reset every memory lists nothing, so the invariant holds, and every byte of DRAM reads zero (assumption 8). -/
def Obligations.ResetMemoriesCanonical : Prop :=
  Memory.wf State.reset = true ∧ State.reset.dram.mem = [] ∧ State.reset.sp.banks = [] ∧ State.reset.sp.accs = []
    ∧ ∀ a : Nat, tabGet 0 State.reset.dram.mem a = 0

/-- R395: the fuses written at manufacture never change, whatever the command, and an anti-rollback fuse bit that
reads 1 never reads 0 again. A command's meaning leaves the queue of waiting commands as it is. -/
def Obligations.FusesAndQueueAreKept : Prop :=
  (∀ (c : Instr) (s t : State), exec c s = .next t →
      fusesOf t.toll = fusesOf s.toll ∧ fusesRise s.toll.rollback t.toll.rollback)
  ∧ (∀ (c : Instr) (s t : State), exec c s = .next t → t.pending = s.pending)

/-- No command ends in a fault or a refusal: from every state, with any operands, each answers a next state. Where the spec has
a command turned away, the record or the log says so and the block goes on (R72, R88, R96). -/
def Obligations.EveryCommandGoesOn : Prop :=
  ∀ (c : Instr) (s : State), ∃ t, exec c s = .next t

-- ------------------------------------------------------------------------------------------------ vector engines

/-- Table 11-3, R235, R236: ADD, SUB, MUL, FMA, MIN, MAX, ADDI and MULI write every lane below VL of VD, zero the lanes
above (R231) and change nothing else. Floating lanes are FP32, rounded once under RND; integer lanes wrap. FP32 lanes hold
no subnormal and no NaN but the canonical one (R134, R138). Completion of: add, sub, mul, fma, min, max, addi, muli. -/
def Obligations.VectorArithmetic : Prop :=
  ∀ (s : State) (a : VecArgs), vecWf s a.span = true →
    let e := vecOf s a.span
    let f := laneFmt a.fmt
    let lanes := fun g => (List.range (activeLanes e f)).map fun k => cleanLane f (g k)
    let x := fun (r k : Nat) => laneNum e r f k
    let z := fun (r k : Nat) => laneInt e r f k
    let imm := signedOf 32 a.opd.toNat
    VecWrites (.add a) a f (lanes fun k => vecArith s a k (numAdd (x a.va k) (x a.vb k)) (z a.va k + z a.vb k)) false s
    ∧ VecWrites (.sub a) a f (lanes fun k => vecArith s a k (numSub (x a.va k) (x a.vb k)) (z a.va k - z a.vb k)) false s
    ∧ VecWrites (.mul a) a f (lanes fun k => vecArith s a k (numMul (x a.va k) (x a.vb k)) (z a.va k * z a.vb k)) false s
    ∧ VecWrites (.fma a) a f (lanes fun k => vecArith s a k
        (numAdd (numMul (x a.va k) (x a.vb k)) (x (a.opd.toNat % 32) k))
        (z a.va k * z a.vb k + z (a.opd.toNat % 32) k)) false s
    ∧ VecWrites (.min a) a f (lanes fun k => vecArith s a k (pick false (x a.va k) (x a.vb k)) (min (z a.va k) (z a.vb k)))
        false s
    ∧ VecWrites (.max a) a f (lanes fun k => vecArith s a k (pick true (x a.va k) (x a.vb k)) (max (z a.va k) (z a.vb k)))
        false s
    ∧ VecWrites (.addi a) a f (lanes fun k => vecArith s a k (numAdd (x a.va k) (decodeNum .fp32 a.opd.toNat)) (z a.va k + imm))
        false s
    ∧ VecWrites (.muli a) a f (lanes fun k => vecArith s a k (numMul (x a.va k) (decodeNum .fp32 a.opd.toNat)) (z a.va k * imm))
        false s

/-- Table 11-3: ABS, NEG, EXP2, LOG2, RSQRT, RCP and CVT, of one source. CVT reads VA in format OPD[3:0]. Completion of:
abs, neg, exp2, log2, rsqrt, rcp, cvt. -/
def Obligations.VectorUnary : Prop :=
  ∀ (s : State) (a : VecArgs), vecWf s a.span = true →
    let e := vecOf s a.span
    let f := laneFmt a.fmt
    let n := activeLanes e f
    let g := laneFmt (a.opd.toNat % 16)
    let un := fun (fl : Machine.Num → Machine.Num) (iv : Int → Int) => (List.range n).map fun k => cleanLane f
      (if f = .fp32 then widen .fp32 (fl (laneNum e a.va f k)) else unsignedOf (fmtBits f) (iv (laneInt e a.va f k)))
    VecWrites (.abs a) a f (un numAbs fun z => z.natAbs) false s
    ∧ VecWrites (.neg a) a f (un numNeg fun z => -z) false s
    ∧ VecWrites (.exp2 a) a f (un exp2_32 id) false s
    ∧ VecWrites (.log2 a) a f (un log2_32 id) false s
    ∧ VecWrites (.rsqrt a) a f (un rsqrt32 id) false s
    ∧ VecWrites (.rcp a) a f (un rcp32 id) false s
    ∧ VecWrites (.cvt a) a f ((List.range (min n (laneCount g))).map fun k =>
        narrow f (if isWidening g f then 1 else a.rnd) (vecBits s a k) false (laneNum e a.va g k)) false s

/-- Table 11-3: AND, OR, XOR, XORI, SHL and ASHR act on the bits of each lane; IOTA, MOVI and RAND write the lane index, the
immediate and 16 random bits of the lane. Table 11-3, R236: CMPEQ, CMPLT and CMPLE write 1 or 0 as INT32 lanes; SEL takes VA
where VC as INT32 is nonzero. Completion of: and, or, xor, xori, shl, ashr, iota, movi, rand, cmpeq, cmplt, cmple, sel. -/
def Obligations.VectorBitsAndSelect : Prop :=
  (∀ (s : State) (a : VecArgs), vecWf s a.span = true →
      let e := vecOf s a.span
      let f := laneFmt a.fmt
      let w := fmtBits f
      let lanes := fun g => (List.range (activeLanes e f)).map fun k => cleanLane f (g k)
      let x := fun k => laneBits e a.va f k
      let y := fun k => laneBits e a.vb f k
      VecWrites (.and a) a f (lanes fun k => (x k &&& y k) % 2 ^ w) false s
      ∧ VecWrites (.or a) a f (lanes fun k => (x k ||| y k) % 2 ^ w) false s
      ∧ VecWrites (.xor a) a f (lanes fun k => (x k ^^^ y k) % 2 ^ w) false s
      ∧ VecWrites (.xori a) a f (lanes fun k => (x k ^^^ a.opd.toNat) % 2 ^ w) false s
      ∧ VecWrites (.shl a) a f (lanes fun k => (x k <<< (a.opd.toNat % 32)) % 2 ^ w) false s
      ∧ VecWrites (.ashr a) a f (lanes fun k => unsignedOf w (laneInt e a.va f k / 2 ^ (a.opd.toNat % 32)) % 2 ^ w) false s
      ∧ VecWrites (.iota a) a f (lanes fun k => k % 2 ^ w) false s
      ∧ VecWrites (.movi a) a f (lanes fun _ => a.opd.toNat % 2 ^ w) false s
      ∧ VecWrites (.rand a) a f (lanes fun k => vecRandom s a k) false s)
  ∧ (∀ (s : State) (a : VecArgs), vecWf s a.span = true →
      let e := vecOf s a.span
      let f := laneFmt a.fmt
      let n := activeLanes e f
      let cmp := fun (c : Machine.Num → Machine.Num → Bool) => (List.range (min n 64)).map fun k =>
        if c (laneNum e a.va f k) (laneNum e a.vb f k) then 1 else 0
      VecWrites (.cmpeq a) a .int32 (cmp numEq) false s
      ∧ VecWrites (.cmplt a) a .int32 (cmp numLt) false s
      ∧ VecWrites (.cmple a) a .int32 (cmp numLe) false s
      ∧ VecWrites (.sel a) a f ((List.range n).map fun k => cleanLane f
          (if laneInt32 e (a.opd.toNat % 32) k ≠ 0 then laneBits e a.va f k else laneBits e a.vb f k)) false s)

/-- R238, Table 11-3: PERM, BCAST, SLIDEUP and SLIDEDN. A named lane outside 0 to VL − 1 writes zero and sets LANE_RANGE;
the slides name no lane and set nothing. Completion of: perm, bcast, slideup, slidedn. -/
def Obligations.VectorMoves : Prop :=
  ∀ (s : State) (a : VecArgs), vecWf s a.span = true →
    let e := vecOf s a.span
    let f := laneFmt a.fmt
    let n := activeLanes e f
    let o := a.opd.toNat
    let lanes := fun g => (List.range n).map fun k => cleanLane f (g k)
    let named := fun k => decide (0 ≤ laneInt32 e a.vb k) && decide (laneInt32 e a.vb k < (e.vl : Int))
    VecWrites (.perm a) a f (lanes fun k => if named k then laneBits e a.va f (laneInt32 e a.vb k).toNat else 0)
      ((List.range n).any fun k => !named k) s
    ∧ VecWrites (.bcast a) a f (lanes fun _ => if o < e.vl then laneBits e a.va f o else 0) (decide (¬ o < e.vl)) s
    ∧ VecWrites (.slideup a) a f (lanes fun k => if o ≤ k then laneBits e a.va f (k - o) else 0) false s
    ∧ VecWrites (.slidedn a) a f (lanes fun k => if k + o < e.vl then laneBits e a.va f (k + o) else 0) false s

/-- R237: the prefix instructions run in ascending lane order from VC[0], each addition rounded under RND; SEGPSUM restarts,
unrounded, at a flagged lane. R237, R172: RSUM writes lane 0 with the tree sum of the lanes below VL; RMAX and RMIN write
lanes 0 and 1 with the winner's value and lane. The other lanes below VL keep their values (the model's choice, assumption
10). Completion of: psum, pmax, segpsum, rsum, rmax, rmin. -/
def Obligations.VectorPrefixesAndReductions : Prop :=
  (∀ (s : State) (a : VecArgs), vecWf s a.span = true →
      let e := vecOf s a.span
      let f := laneFmt a.fmt
      let n := activeLanes e f
      let first := laneBits e (a.opd.toNat % 32) f 0
      VecWrites (.psum a) a f (prefixLanes (fun k y => vecAddBits s a k y (laneBits e a.va f k)) n 0 first) false s
      ∧ VecWrites (.pmax a) a f
          (prefixLanes (fun k y => widen f (pick true (decodeNum f y) (laneNum e a.va f k))) n 0 first) false s
      ∧ VecWrites (.segpsum a) a f (prefixLanes (fun k y =>
          if laneInt32 e a.vb k ≠ 0 then widen f (laneNum e a.va f k) else vecAddBits s a k y (laneBits e a.va f k)) n 0 first)
          false s)
  ∧ (∀ (s : State) (a : VecArgs), vecWf s a.span = true → 0 < (vecOf s a.span).vl →
      let e := vecOf s a.span
      let f := laneFmt a.fmt
      let n := activeLanes e f
      let old := fun k => if k < n then rawLane e a.vd f k else 0
      let lanes := (List.range n).map fun k => (k, laneBits e a.va f k)
      let first := (laneNum e a.va f 0, 0)
      let rest := (List.range (n - 1)).map fun k => (laneNum e a.va f (k + 1), k + 1)
      let pair := fun (isMax : Bool) => (List.range (max n 2)).map fun k =>
        if k = 0 then widen f (rest.foldl (winner isMax) first).1 else if k = 1 then (rest.foldl (winner isMax) first).2 else old k
      VecWrites (.rsum a) a f ((List.range n).map fun k => if k = 0 then laneTree s a 8 lanes else old k) false s
      ∧ VecWrites (.rmax a) a f (pair true) false s
      ∧ VecWrites (.rmin a) a f (pair false) false s)

/-- R233: the sequence of an engine, as NOP shows it alone. Within the program the index advances, and at the start of the
loop body VL returns to the strip's; after the loop body the next strip of the span's run begins; after the last one the
index stays behind the program. An engine that runs no program stays as it is (the model's choice, assumption 2). Table
11-3: SETVL sets VL; LD reads elements of an input of the running program, widened to FMT; ST converts lanes of VA and
writes them to elements of an output, and no register changes. Completion of: vecNop, setvl, ld, st. -/
def Obligations.VectorSequenceAndMemory : Prop :=
  ((∀ (s : State) (a : VecArgs), vecProg s a.span = none → exec (.vecNop a) s = .next s)
    ∧ ∀ (s : State) (a : VecArgs) (p : Plan) (d : Desc), vecProg s a.span = some (p, d) →
      let e := vecOf s a.span
      let run := vpRun d ((a.span - d.spanFirst) / d.spanStride)
      exec (.vecNop a) s = .next (setVec s a.span
        (if e.index + 1 < vpLength d then
          { e with index := e.index + 1, vl := if e.index + 1 = vpLoop d then e.stripVl else e.vl }
         else if e.strip + 1 < run.1 + run.2 then
          { e with index := vpLoop d, strip := e.strip + 1, vl := stripLen d (e.strip + 1), stripVl := stripLen d (e.strip + 1) }
         else { e with index := vpLength d })))
  ∧ ((∀ (s : State) (a : VecArgs), exec (.setvl a) s = .next (vecAdvance (setVec s a.span
        { vecOf s a.span with vl := if a.opd = 0 then (vecOf s a.span).stripVl else min a.opd.toNat (vecOf s a.span).stripVl })
        a.span))
    ∧ ∀ (s : State) (a : VecArgs) (p : Plan) (d : Desc), vecWf s a.span = true → vecProg s a.span = some (p, d) →
      let e := vecOf s a.span
      let f := laneFmt a.fmt
      let n := activeLanes e f
      let inp := vpOperand d (a.opd.toNat % 4)
      let out := vpOperand d (3 + a.opd.toNat % 2)
      VecWrites (.ld a) a f ((List.range n).map fun k => cleanLane f
        (widenLane f (readElem s p d.seq a.span inp (vecPos s a.span d inp k)))) false s
      ∧ ∃ t, exec (.st a) s = .next (vecAdvance t a.span) ∧ t.sp.vec = s.sp.vec
          ∧ t = writeRun s p a.span out (vecPos s a.span d out 0) (vecSite s a.span)
            (match fmtOf out.fmt with | some g => if isWidening f g then 1 else a.rnd | none => a.rnd)
            (fun i => if isBank out then vecElem s a.span 0 + (i - vecPos s a.span d out 0) else elemIndex p.param out i)
            false ((List.range n).map fun k => laneNum e a.va f k))

-- ------------------------------------------------------------------------------------------------ host interface

/-- R77: a write that reaches a slot whose OWN is 1 is dropped and sets OWNED_WRITE; one that covers some byte of a dword 0
and is not that dword alone is dropped whole and sets PARTIAL_WRITE. -/
def Obligations.OwnedAndPartialWritesDropped : Prop :=
  ∀ (s : State) (off : Nat) (data : List Byte), Answers s → data ≠ [] → off + data.length ≤ 0x8000 →
    let run := exec (.mailboxSlotWrite off ⟨data, false⟩) s
    ((slotsReached off data.length).any (slotOwned s.host) = true →
      ∃ t, run = .next t ∧ t.host.slots = s.host.slots ∧ t.host.err.toNat.testBit errOwned = true ∧ { t with host := s.host } = s)
    ∧ (partialWrite off data.length = true →
      ∃ t, run = .next t ∧ t.host.slots = s.host.slots ∧ t.host.err.toNat.testBit errPartial = true
        ∧ { t with host := s.host } = s)

/-- R80: core 0 takes no command while MBOX_LIVE or CQ_EN is 0, and such commands keep OWN; while NOT_READY is 1, every
command other than GET_INFO and GET_STATUS completes with BUSY. -/
def Obligations.CommandsWaitForReadiness : Prop :=
  (∀ s : State, mboxLive s.host = false ∨ cqEn s.host = false → exec .mailboxTake s = .next s)
  ∧ ∀ (s : State) (n : Nat), mboxLive s.host = true → cqEn s.host = true → notReady s.host = true → nextSlot s.host = some n →
    s.host.collided.contains n = false →
    (copySlot s.host n).cmd ≠ cmdGetInfo → (copySlot s.host n).cmd ≠ cmdGetStatus →
    exec .mailboxTake s = .next (finishCmd { s with host := acknowledge s.host n } (copySlot s.host n) stBusy [])

/-- R75, R76, R78: a write to a mailbox slot that meets neither case of R75 stores its bytes; a dword 0 written with OWN 1 makes
its tag outstanding, and marks the slot for TAG_COLLISION if the tag is outstanding already. R76, R78, R79, R88: MAILBOX_TAKE
takes the owned slot of highest PRIO and lowest number, copies it, clears OWN and queues the command; a tag collision discards
it with TAG_COLLISION, an undefined CMD completes with BAD_COMMAND. Completion of: mailboxSlotWrite, mailboxTake. -/
def Obligations.MailboxSlotsAreWrittenAndTaken : Prop :=
  (∀ (s : State) (off : Nat) (data : List Byte), Answers s → data ≠ [] → off + data.length ≤ 0x8000 →
    (slotsReached off data.length).any (slotOwned s.host) = false → partialWrite off data.length = false →
    let h := { s.host with slots := tabPut s.host.slots off data }
    let n := off / 128
    let tag := headTag (slotHead h n)
    let command := decide (off % 128 = 0 ∧ data.length = 4) && slotOwned h n
    let h2 : HostIf := if !command then h
      else if s.host.inUse.contains tag then { h with collided := insertNat n h.collided }
      else { h with inUse := insertNat tag h.inUse }
    exec (.mailboxSlotWrite off ⟨data, false⟩) s = .next { s with host := h2 })
  ∧ ∀ (s : State) (n : Nat), mboxLive s.host = true → cqEn s.host = true → notReady s.host = false → nextSlot s.host = some n →
    let c := copySlot s.host n
    let s1 := { s with host := acknowledge s.host n }
    (s.host.collided.contains n = true → exec .mailboxTake s = .next (setErr s1 errTag))
    ∧ (s.host.collided.contains n = false → commands.contains c.cmd = false →
        exec .mailboxTake s = .next (finishCmd s1 c stBadCommand []))
    ∧ (s.host.collided.contains n = false → commands.contains c.cmd = true → bitsOf (slotHead s.host n) 30 28 = 0 →
        exec .mailboxTake s = .next { s with host := { acknowledge s.host n with taken := s.host.taken ++ [c] } })

/-- R72, Tables 4-5 to 4-9: writes of the host control registers; reserved bits stay zero, HC_ERR bits are cleared by
writing one, the completion base stands still while CQ_EN is 1, and a register write of another size is ignored. R70: a
poisoned write to BAR 0 is dropped, logged by AER and sets POISON_RECEIVED. R86: when TIME has passed since the first record
not yet signalled, source 0 or 1 sends its message and its count starts again; with no such record nothing happens.
Completion of: cqEnable, registerWrite, coalesceTimerExpiry. -/
def Obligations.HostRegisterWritesAndTimer : Prop :=
  (∀ (s : State) (v : W32) (data : List Byte), Answers s → data.length = 4 →
      let x := leNat data
      let h := s.host
      let put := fun (h' : HostIf) => Host.Outcome.next (φ := Fault) (ρ := Refusal) { s with host := h' }
      let write := fun (off : Nat) => exec (.registerWrite off ⟨data, false⟩) s
      exec (.cqEnable ⟨v, false⟩) s
          = put { h with ctrl := v &&& 7, flipped := if !cqEn h && v.toNat.testBit 0 then [] else h.flipped }
      ∧ write 0x1000 = exec (.cqEnable ⟨BitVec.ofNat 32 x, false⟩) s
      ∧ write 0x1008 = put { h with err := h.err &&& ~~~(BitVec.ofNat 32 x) }
      ∧ (cqEn h = true → write 0x1010 = .next s ∧ write 0x1014 = .next s)
      ∧ (cqEn h = false → write 0x1010 = put { h with cqBaseLo := BitVec.ofNat 32 x &&& 0xFFFFF000 }
          ∧ write 0x1014 = put { h with cqBaseHi := BitVec.ofNat 32 x })
      ∧ write 0x101C = put { h with coal := BitVec.ofNat 32 x &&& 0xFFFFFF }
      ∧ write 0x1020 = put { h with msixMap := BitVec.ofNat 32 x }
      ∧ write 0x1024 = put { h with bar2Lo := BitVec.ofNat 32 x &&& 0xC0000000 }
      ∧ write 0x1028 = put { h with bar2Hi := BitVec.ofNat 32 x &&& 0x1FF }
      ∧ (∀ (off : Nat) (bytes : List Byte), off + bytes.length ≤ msixBase → bytes.length ≠ 4 →
          exec (.registerWrite off ⟨bytes, false⟩) s = .next s)
      ∧ ∀ (off : Nat) (bytes : List Byte),
          let dropped := Host.Outcome.next (φ := Fault) (ρ := Refusal)
            (setErr { s with host := { h with aer := h.aer ++ [.poisonedTlp] } } errPoison)
          exec (.registerWrite off ⟨bytes, true⟩) s = dropped ∧ exec (.mailboxSlotWrite off ⟨bytes, true⟩) s = dropped
            ∧ exec (.cqEnable ⟨v, true⟩) s = dropped)
  ∧ (∀ (s : State) (src : Nat), src < 2 →
      (tabGet 0 s.host.coalCount src = 0 ∨ irqLive s.host = false → exec (.coalesceTimerExpiry src) s = .next s)
      ∧ (tabGet 0 s.host.coalCount src ≠ 0 → irqLive s.host = true → exec (.coalesceTimerExpiry src) s
          = .next (raiseIrq { s with host := { s.host with coalCount := tabSet 0 s.host.coalCount src 0 } } src)))

/-- R73: the host reads the beat number by reading HC_BEAT_LO, which answers the low half and latches the high half, and
then HC_BEAT_HI, which reads as the value latched last. R72: a read of any other size returns zero. Completion of:
hcBeatLoRead. -/
def Obligations.BeatReadLatches : Prop :=
  ∀ s : State, Answers s →
    (∃ t, exec .hcBeatLoRead s = .next t
      ∧ t = { s with host := { s.host with beatHi := s.beat.number.extractLsb' 32 32
                                           out := s.host.out ++ [.readData (leBytes 4 (s.beat.number.toNat % 2 ^ 32))] } }
      ∧ (∀ u : State, u.host.beatHi = t.host.beatHi → bar0Read u 0x1034 = s.beat.number.toNat / 2 ^ 32))
    ∧ ∀ off n, n ≠ 4 → off < msixBase → bar0Bytes s off n = zeros n

/-- R82, R83, R84, R78: a final record is two posted writes, bytes 8 to 31 before bytes 0 to 7, then at most one interrupt
message. Its HEAD carries the tag's PHASE, which is 1 after CQ_EN rises and inverts with every record; the tag is free again,
and nothing outside the host interface changes. -/
def Obligations.FinalRecord : Prop :=
  (∀ (s : State) (c : Taken) (st : Nat) (rs : List Nat), Records s →
    let t := finishCmd s c st rs
    let base := cqBase s.host + 32 * c.tag
    (∃ irq : List PcieOut, irq.length ≤ 1 ∧ (∀ o ∈ irq, ∃ v, o = .msix v) ∧
      t.host.out = s.host.out ++ [.write (base + 8) (resultBytes rs),
        .write base (leBytes 4 (headWord (phaseBit s.host c.tag) c.tag st) ++ leBytes 4 c.cmd)] ++ irq)
    ∧ phaseBit t.host c.tag = 1 - phaseBit s.host c.tag
    ∧ (∀ tag, tag ≠ c.tag → phaseBit t.host tag = phaseBit s.host tag)
    ∧ c.tag ∉ t.host.inUse ∧ (∀ x ∈ t.host.taken ++ t.host.long, x.tag ≠ c.tag)
    ∧ { t with host := s.host } = s)
  ∧ ∀ (s : State) (v : W32), Answers s → cqEn s.host = false → v.toNat.testBit 0 = true →
    ∃ t, exec (.cqEnable ⟨v, false⟩) s = .next t ∧ ∀ tag, phaseBit t.host tag = 1

-- ------------------------------------------------------------------------------------------------ mailbox commands

/-- Table 4-14: GET_INFO, GET_STATUS and NOP complete with OK and the words of the table, and change nothing but the record.
R407, R291, Table 4-14: TELEMETRY_READ and NORM_RECORDS_READ write their data to the bound region and complete with its
length and time; a data set or a range that does not exist is BAD_PARAM. Completion of: getInfo, getStatus, nop,
telemetryRead, normRecordsRead. -/
def Obligations.QueryAndReportCommands : Prop :=
  ((∀ (s : State) (tag : Nat) (c : Taken), Served s cmdGetInfo tag c → payClean c [(4, 1)] = true → payAt c 4 1 ≤ 3 →
      exec (.getInfo tag) s = .next (finishCmd s c stOk (infoPage s (payAt c 4 1))))
    ∧ (∀ (s : State) (tag : Nat) (c : Taken), Served s cmdGetStatus tag c → payClean c [] = true →
      exec (.getStatus tag) s = .next (finishCmd s c stOk
        [s.host.status.toNat, oldestSeq s, lastPierWord s, s.ks.stepsClosed, s.beat.number.toNat % 2 ^ 32,
         s.beat.number.toNat / 2 ^ 32]))
    ∧ ∀ (s : State) (tag : Nat) (c : Taken), Served s cmdNop tag c →
      (payClean c [] = true → exec (.nop tag) s = .next (finishCmd s c stOk []))
      ∧ (payClean c [] = false → exec (.nop tag) s = .next (finishCmd s c stBadParam [])))
  ∧ ((∀ (s : State) (tag a : Nat) (c : Taken) (d : List Byte × Nat), Served s cmdTelemetryRead tag c →
        payClean c [(4, 2), (6, 1), (8, 8), (0x10, 4)] = true → payAt c 0x10 4 ≤ 65536 →
        telemetrySet s (payAt c 4 2) (payAt c 0x10 4) = some d → regionAddr s (payAt c 6 1) (payAt c 8 8) (payAt c 0x10 4) = some a →
        exec (.telemetryRead tag) s = .next (finishCmd (hostWrite s a d.1) c stOk [d.1.length, d.2 % 2 ^ 32, d.2 / 2 ^ 32]))
    ∧ (∀ (s : State) (tag a : Nat) (c : Taken), Served s cmdNormRecordsRead tag c →
        payClean c [(4, 1), (6, 1), (8, 8), (0x10, 4)] = true → payAt c 4 1 ≤ 15 →
        regionAddr s (payAt c 6 1) (payAt c 8 8) (payAt c 0x10 4) = some a →
        let r := normsBack s (payAt c 4 1)
        let rs := r.2.take (payAt c 0x10 4 / 32)
        exec (.normRecordsRead tag) s
          = .next (finishCmd (hostWrite (acceptCmd s c) a (rs.flatMap normBytes)) c stOk [rs.length, r.1 % 2 ^ 32]))
    ∧ ∀ (s : State) (n : Nat), 0x8400 ≤ n ∨ 3 ≤ n ∧ n < 0x8000 → ∀ len, telemetrySet s n len = none)

/-- R88, R37, R92: the plan states of the table. LOAD_PLAN in any state but NONE, UNLOAD_PLAN outside LOADED, PAUSED and
ABORTED, START outside LOADED and PAUSED, PAUSE_AT_PIER outside RUNNING and RESUME outside PAUSED complete with BUSY, and the
plan is unaffected. -/
def Obligations.CommandsOutOfStateAreBusy : Prop :=
  ∀ (s : State) (tag : Nat) (c : Taken),
    let busy := Host.Outcome.next (φ := Fault) (ρ := Refusal) (finishCmd s c stBusy [])
    let st := planState s
    (Served s cmdLoadPlan tag c → payClean c [(8, 8)] = true → st ≠ plNone → exec (.loadPlan tag) s = busy)
    ∧ (Served s cmdUnloadPlan tag c → payClean c [] = true → st ≠ plLoaded → st ≠ plPaused → st ≠ plAborted →
        exec (.unloadPlan tag) s = busy)
    ∧ (Served s cmdStart tag c → payClean c [(4, 4)] = true → st ≠ plLoaded → st ≠ plPaused → exec (.start tag) s = busy)
    ∧ (Served s cmdPauseAtPier tag c → payClean c [(4, 2)] = true → st ≠ plRunning → exec (.pauseAtPier tag) s = busy)
    ∧ (Served s cmdResume tag c → payClean c [] = true → st ≠ plPaused → exec (.resume tag) s = busy)
    ∧ (finishCmd s c stBusy []).ks = s.ks ∧ (finishCmd s c stBusy []).dram = s.dram

/-- R90 to R92, Table 4-14: the plan commands in the states that the table lists. LOAD_PLAN is accepted and validation
begins; UNLOAD_PLAN forgets the plan; START begins with the rank flood, or goes on from PAUSED; PAUSE_AT_PIER waits for its
pier; RESUME runs on; ABORT ends the run. Memory lost while the plan was PAUSED is restored before it goes on (R313). Completion of: loadPlan, unloadPlan, start, pauseAtPier, resume, abort. -/
def Obligations.PlanCommands : Prop :=
  ∀ (s : State) (tag : Nat) (c : Taken), presents s = true →
    (Served s cmdLoadPlan tag c → payClean c [(8, 8)] = true → planState s = plNone →
      ∃ t, exec (.loadPlan tag) s = .next t ∧ t.ks = { s.ks with loading := some (payAt c 8 8) }
        ∧ planState t = plLoading ∧ t.host.long = s.host.long ++ [c])
    ∧ (Served s cmdUnloadPlan tag c → payClean c [] = true →
        planState s = plLoaded ∨ planState s = plPaused ∨ planState s = plAborted →
      exec (.unloadPlan tag) s
        = .next (finishCmd (setPlanState (forgetPlan (finishReshard (finishStart (applyDue s) stBusy) stBusy [])) plNone)
            c stOk []))
    ∧ (∀ p, Served s cmdStart tag c → payClean c [(4, 4)] = true → s.ks.startTag = none → s.ks.marchTag = none →
        s.ks.plan = some p →
        let a := acceptCmd s c
        let b := dropCache (resetCounters { a with ks :=
          { a.ks with startTag := some c, stepsWanted := payAt c 4 4, stepsClosed := 0, unmirrored := false } })
        (planState s = plLoaded → exec (.start tag) s = .next (startFlood { b with ks := { b.ks with accLost := false } } p))
        ∧ (planState s = plPaused →
            exec (.start tag) s = .next (lostAtResume (setPlanState (formPending b p false) plRunning))))
    ∧ (∀ p, Served s cmdPauseAtPier tag c → payClean c [(4, 2)] = true → planState s = plRunning → s.ks.pauseReq = none →
        reshardAt s 3 = false → s.ks.plan = some p → pierAhead s p (payAt c 4 2) = true →
        exec (.pauseAtPier tag) s
          = .next { acceptCmd s c with ks := { (acceptCmd s c).ks with pauseReq := some (c, payAt c 4 2) } })
    ∧ (Served s cmdResume tag c → payClean c [] = true → planState s = plPaused → s.ks.startTag ≠ none →
        s.ks.marchTag = none → exec (.resume tag) s = .next (finishCmd (lostAtResume (releaseHold (dropCache s))) c stOk []))
    ∧ (Served s cmdAbort tag c → payClean c [] = true →
        let a := applyAbort (acceptCmd s c)
        exec (.abort tag) s = .next (finishCmd a c stOk [lastPierWord a, committedStep a]))

/-- R93, R95, R224, Table 4-14: BIND_HOST_REGION, PACE_POLICY, COMMIT_POLICY, REPLAY_CONTROL and PREFIX_TABLE within the
ranges of the table. A setting waits for the next pier while the plan runs and takes effect at once otherwise. Completion
of: pacePolicy, commitPolicy, replayControl, bindHostRegion, prefixTable. -/
def Obligations.SettingCommands : Prop :=
  ∀ (s : State) (tag : Nat) (c : Taken),
    let set := fun x => if planState s = plRunning then { s with ks := { s.ks with due := s.ks.due ++ [x] } } else applySetting s x
    (Served s cmdPacePolicy tag c → payClean c [(4, 1), (6, 2)] = true → reshardAt s 3 = false →
        (payAt c 4 1 < 2 ∧ payAt c 6 2 = 0) ∨ (payAt c 4 1 = 2 ∧ 550 ≤ payAt c 6 2 ∧ payAt c 6 2 ≤ 850 ∧ payAt c 6 2 % 5 = 0) →
        exec (.pacePolicy tag) s
          = .next (finishCmd (set (.pace (payAt c 4 1) (payAt c 6 2))) c stOk [payAt c 4 1, payAt c 6 2]))
    ∧ (Served s cmdCommitPolicy tag c → payClean c [(4, 1), (5, 1)] = true → reshardAt s 3 = false →
        payAt c 4 1 ≤ 15 → payAt c 5 1 ≤ 3 →
        exec (.commitPolicy tag) s
          = .next (finishCmd (set (.commit (payAt c 4 1) (payAt c 5 1))) c stOk [payAt c 4 1, payAt c 5 1]))
    ∧ (Served s cmdReplayControl tag c → payClean c [(4, 1), (5, 1)] = true → payAt c 4 1 < 2 →
        1 ≤ payAt c 5 1 → payAt c 5 1 ≤ 15 →
        let t := set (.replay (payAt c 4 1) (payAt c 5 1))
        exec (.replayControl tag) s = .next (finishCmd t c stOk (replayResults t)))
    ∧ (Served s cmdReplayControl tag c → payClean c [(4, 1), (5, 1)] = true →
        (payAt c 4 1 = 3 → exec (.replayControl tag) s = .next (finishCmd s c stOk (replayResults s)))
        ∧ (payAt c 4 1 = 2 → segmentHeld s = false → exec (.replayControl tag) s = .next (finishCmd s c stBusy []))
        ∧ (payAt c 4 1 = 2 → segmentHeld s = true →
            exec (.replayControl tag) s = .next (finishCmd (releaseHold s) c stOk (replayResults (releaseHold s)))))
    ∧ (Served s cmdBind tag c → payClean c [(4, 1), (8, 8), (0x10, 8)] = true → planUsesRegion s (payAt c 4 1) = false →
        payAt c 4 1 ≤ 63 → payAt c 8 8 % 4096 = 0 → payAt c 0x10 8 % 4096 = 0 →
        let others := s.host.regions.filter fun r => r.id != payAt c 4 1
        (∀ r ∈ others, payAt c 0x10 8 = 0 ∨ payAt c 8 8 + payAt c 0x10 8 ≤ r.addr ∨ r.addr + r.len ≤ payAt c 8 8) →
        exec (.bindHostRegion tag) s = .next (finishCmd { s with host := { s.host with regions :=
          others ++ (if payAt c 0x10 8 = 0 then [] else [⟨payAt c 4 1, payAt c 8 8, payAt c 0x10 8⟩]) } }
          c stOk [payAt c 4 1]))
    ∧ (Served s cmdPrefixTable tag c → payClean c [(4, 1), (8, 4)] = true →
        planState s = plNone ∨ planState s = plLoaded ∨ planState s = plPaused →
        (payAt c 4 1 = 0 → exec (.prefixTable tag) s = .next (finishCmd s c stOk [prefixInUse s, s.ks.prefixCap]))
        ∧ (payAt c 4 1 = 1 →
            let t := { s with ks := { s.ks with prefixEpoch := s.ks.prefixEpoch + 1 } }
            exec (.prefixTable tag) s = .next (finishCmd t c stOk [prefixInUse t, t.ks.prefixCap]))
        ∧ (payAt c 4 1 = 2 → 1 ≤ payAt c 8 4 → payAt c 8 4 ≤ 1048576 →
            let t := { s with ks := { s.ks with prefixEpoch := s.ks.prefixEpoch + 1, prefixCap := payAt c 8 4 } }
            exec (.prefixTable tag) s = .next (finishCmd t c stOk [prefixInUse t, payAt c 8 4]))
        ∧ (payAt c 4 1 = 3 →
            exec (.prefixTable tag) s
              = .next (finishCmd (newPrefixKey s) c stOk [prefixInUse (newPrefixKey s), s.ks.prefixCap])))

-- ------------------------------------------------------------------------------------------------ DRAM from the host

/-- R74, R421: a host read of DRAM answers its bytes; one outside the accessible range, or before readiness, answers zeros
and sets BAR2_RANGE; one that meets an uncorrectable sector, known, not met before or met now, answers Completer Abort,
which AER logs (R70, R307). R70, R74, R421: a host write to DRAM stores its bytes and no other; a poisoned one, one outside
the accessible range and one before readiness are dropped whole, with POISON or BAR2_RANGE set. R445: a sector that cannot
be decoded and that the write covers in part stays as it was, and the host is notified. Completion of: bar2Read, bar2Write.
-/
def Obligations.HostReadsAndWritesDram : Prop :=
  (∀ (s : State) (off len : Nat) (ecc : List SectorErr), Answers s →
      let a := bar2Base s.host + off
      let run := exec (.bar2Read off len ecc) s
      let met := fun (e : SectorErr) => (e ∈ ecc ∨ e ∈ s.dram.flaws) ∧ rangeHits a len (e.addr / 32) = true
      let sick := fun x => s.dram.bad.contains (x / 32) || lostMemory s (x / 32 * 32)
      let clean := (∀ x, a ≤ x → x < a + len → sick x = false) ∧ ∀ e, met e → e.fatal = false
      (bar2Ok s a len = true → clean →
        ∃ t, run = .next t ∧ t.host = { s.host with out := s.host.out ++ [.readData (tabBytes s.dram.mem a len)] }
          ∧ t.ks = s.ks ∧ t.sp = s.sp)
      ∧ (bar2Ok s a len = true → clean → ecc = [] → DramClean s →
          run = .next { s with host := { s.host with out := s.host.out ++ [.readData (tabBytes s.dram.mem a len)] } })
      ∧ (bar2Ok s a len = false → ∃ t, run = .next t ∧ t.dram = s.dram
          ∧ t.host.err.toNat.testBit errBar2 = true ∧ t.host.out.getLast? = some (.readData (zeros len)))
      ∧ (bar2Ok s a len = true → 0 < len → (∃ x, a ≤ x ∧ x < a + len ∧ sick x = true) ∨ (∃ e, met e ∧ e.fatal = true) →
        ∃ t, run = .next t ∧ t.host.out = s.host.out ++ [.completerAbort] ∧ t.host.aer = s.host.aer ++ [.completerAbort]))
  ∧ (∀ (s : State) (off : Nat) (data : List Byte), Answers s → Memory.wf s = true →
      let a := bar2Base s.host + off
      let n := data.length
      (bar2Ok s a n = true → planState s = plRunning ∨ DramClean s →
        (∀ sec, partHits a n sec = true → s.dram.bad.contains sec = false) →
        (∀ e ∈ s.dram.flaws, partHits a n (e.addr / 32) = true → e.fatal = false) →
        ∃ t, exec (.bar2Write off data false) s = .next t
          ∧ (∀ k, k < n → some (tabGet 0 t.dram.mem (a + k)) = data[k]?)
          ∧ (∀ x, x < a ∨ a + n ≤ x → tabGet 0 t.dram.mem x = tabGet 0 s.dram.mem x)
          ∧ { t with dram := s.dram } = s)
      ∧ (bar2Ok s a n = true → planState s = plRunning → (∃ sec ∈ s.dram.bad, partHits a n sec = true) →
        ∃ t, exec (.bar2Write off data false) s = .next t ∧ lastFault t.host = stMemory
          ∧ ∀ x, s.dram.bad.contains (x / 32) = true → partHits a n (x / 32) = true →
              tabGet 0 t.dram.mem x = tabGet 0 s.dram.mem x ∧ t.dram.bad.contains (x / 32) = true)
      ∧ (bar2Ok s a n = false → ∃ t, exec (.bar2Write off data false) s = .next t ∧ t.dram = s.dram
          ∧ t.host.err.toNat.testBit errBar2 = true)
      ∧ ∃ t, exec (.bar2Write off data true) s = .next t ∧ t.dram = s.dram ∧ t.host.err.toNat.testBit errPoison = true
          ∧ t.host.aer = s.host.aer ++ [.poisonedTlp])

/-- R315, Table 15-4: the channel's adder. With one add held and ready, it writes the sum to its element and to no other
byte, and both queues drop it; R445: a sector that cannot be decoded stays as it was, and the descriptor takes
MEMORY_UNCORRECTABLE. A target span that has emitted every add of its descriptor sends its marker, which the channel takes
once none of that descriptor's adds still waits for its adder. Completion of:
memorySideAdd, addDone. -/
def Obligations.MemorySideAdds : Prop :=
  (∀ (s : State) (x : Add), Memory.wf s = true → s.dram.adds = [x] → s.dram.window = [] → addReady s x = true →
      (s.dram.bad.contains (x.addr / 32) = false → (∀ e ∈ s.dram.flaws, e.addr / 32 = x.addr / 32 → e.fatal = false) →
        ∃ t, exec (.memorySideAdd x.channel) s = .next t ∧ t.dram.adds = [] ∧ t.dram.window = []
          ∧ memNat t.dram.mem x.addr (addBytes x)
              = addSum x (memNat s.dram.mem x.addr (addBytes x)) % 2 ^ (8 * addBytes x)
          ∧ (∀ y, y < x.addr ∨ x.addr + addBytes x ≤ y → tabGet 0 t.dram.mem y = tabGet 0 s.dram.mem y)
          ∧ { t with dram := s.dram } = s)
      ∧ (s.dram.bad.contains (x.addr / 32) = true → planState s = plRunning →
        ∃ t, exec (.memorySideAdd x.channel) s = .next t ∧ t.dram.adds = [] ∧ t.dram.window = [] ∧ t.dram.mem = s.dram.mem
          ∧ (∀ i, issuedOf s (x.key / 65536) = some i → i.status = 0 →
              issuedOf t (x.key / 65536) = some { i with status := stMemory })
          ∧ (∀ q, q ≠ x.key / 65536 → issuedOf t q = issuedOf s q) ∧ t.sp = s.sp ∧ t.host = s.host))
  ∧ (∀ (s : State) (x : Add), s.dram.adds = [x] → s.dram.window = [] → addReady s x = false →
      exec (.memorySideAdd x.channel) s = .next { s with dram := { s.dram with adds := [], window := [x] } })
  ∧ ∀ (s : State) (ch span seq : Nat) (p : Plan) (d : Desc) (i : Issued), running s seq = some (p, d, i) →
      addsTo d (mmOut d).handle = true → (targets d).contains span = true → i.passesRun.length = passesOf p seq →
      s.dram.markers.contains (ch, span, seq) = false → (∀ x ∈ s.dram.adds, x.channel = ch → x.key / 65536 ≠ seq) →
      exec (.addDone ch span seq) s = .next { s with dram := { s.dram with markers := s.dram.markers ++ [(ch, span, seq)] } }

-- ------------------------------------------------------------------------------------------------ Trestle

/-- R94, R79, Table 4-14: COPY_TO_DEVICE and COPY_TO_HOST, aligned, in bounds and clear of the plan's own transfers, are
accepted and wait their turn. R368: chunks of one direction. With work of one kind only, that work takes the chunk; with both,
three chunks of plan entries go before one of the copy. A chunk of a copy to the host is written to host memory, and DRAM
stays as it is; the copy ends OK when the engine turns to that direction again after its last chunk (assumption 214). R364,
R371, R94: a completion answers the oldest read. Data of a copy land in DRAM at the read's address and
nowhere else; a failure is logged, a poisoned completion and a timeout by AER too, and ends the copy with MEMORY_UNCORRECTABLE
and the bytes before it; a write that fails ends the copy whose chunk it belongs to in the same way; the answer to an
OFFLOAD's last read ends its transfer entry. Completion of: copyToDevice,
copyToHost, trestleChunk, trestleCompletion. -/
def Obligations.CopiesRunInChunks : Prop :=
  (∀ (s : State) (tag a : Nat) (c : Taken), payClean c [(4, 1), (8, 8), (0x10, 8), (0x18, 8)] = true →
      copyClash s c = false → cpLen c ≠ 0 → cpOffset c % 64 = 0 → cpDev c % 64 = 0 → cpLen c % 64 = 0 →
      cpDev c + cpLen c ≤ reservedStart → regionAddr s (cpRegion c) (cpOffset c) (cpLen c) = some a →
      let t := acceptCmd s c
      let x := fun (toHost : Bool) =>
        ({ cmd := c, toHost := toHost, host := a, dev := cpDev c, len := cpLen c, done := 0 } : Copy)
      let queued := fun (toHost : Bool) => Host.Outcome.next (φ := Fault) (ρ := Refusal)
        { t with tre := { t.tre with copies := queueCopy t.tre.copies (x toHost) } }
      (Served s cmdCopyToDevice tag c → exec (.copyToDevice tag) s = queued false)
      ∧ (Served s cmdCopyToHost tag c → exec (.copyToHost tag) s = queued true))
  ∧ (∀ (s : State) (toHost : Bool), Answers s →
      let run := exec (.trestleChunk toHost) s
      let u := settleCopy s toHost
      let both := { u with tre := { u.tre with sharedNow := true } }
      (nextEntry u toHost = none → nextCopy u toHost = none → run = .next u)
      ∧ (∀ e, nextEntry u toHost = some e → nextCopy u toHost = none → run = .next (entryChunk (setTurn u toHost 0) e))
      ∧ (∀ c, nextEntry u toHost = none → nextCopy u toHost = some c → run = .next (copyChunk (setTurn u toHost 0) c))
      ∧ (∀ e c, nextEntry u toHost = some e → nextCopy u toHost = some c →
          (3 ≤ turnOf u.tre toHost → run = .next (copyChunk (setTurn both toHost 0) c))
          ∧ (turnOf u.tre toHost < 3 → run = .next (entryChunk (setTurn both toHost (turnOf u.tre toHost + 1)) e)))
      ∧ (∀ c, s.tre.copies.head? = some c →
          u = if toHost = true ∧ c.toHost = true ∧ c.done = c.len then endCopy s c stOk c.len else s)
      ∧ ∀ c, toHost = true → nextEntry s toHost = none → nextCopy s toHost = some c → c.done = 0 ∧ copyClash s c.cmd = false
            ∨ 0 < c.done → DramClean s →
          let n := min 4096 (c.len - c.done)
          goodBytes s (c.dev + c.done) n = n →
          ∃ t, run = .next t ∧ t.dram = s.dram ∧ t.tre.toHostBytes = s.tre.toHostBytes + BitVec.ofNat 64 n
            ∧ t.host = (hostWrite s (c.host + c.done) (tabBytes s.dram.mem (c.dev + c.done) n)).host
            ∧ t.tre.copies = (s.tre.copies.map fun x => if x.cmd.tag == c.cmd.tag then { x with done := x.done + n } else x)
            ∧ t.tre.lastWrite = some ⟨true, c.cmd.tag, c.host + c.done⟩)
  ∧ (∀ (s : State) (r : TRead) (rest : List TRead) (data : List Byte) (code : Nat), s.tre.reads = r :: rest → r.copy = true →
      r.last = false →
      (Memory.wf s = true → planState s = plRunning ∨ DramClean s → data.length = r.len →
        (∀ sec, partHits r.dev r.len sec = true → s.dram.bad.contains sec = false) →
        (∀ e ∈ s.dram.flaws, partHits r.dev r.len (e.addr / 32) = true → e.fatal = false) →
        ∃ t, exec (.trestleCompletion .data code data) s = .next t
          ∧ (∀ k, k < r.len → some (tabGet 0 t.dram.mem (r.dev + k)) = data[k]?)
          ∧ (∀ x, x < r.dev ∨ r.dev + r.len ≤ x → tabGet 0 t.dram.mem x = tabGet 0 s.dram.mem x)
          ∧ t.tre.fromHostBytes = s.tre.fromHostBytes + BitVec.ofNat 64 r.len
          ∧ t.ks = s.ks ∧ t.sp = s.sp ∧ ((∃ x ∈ rest, x.copy = true) → t.tre.reads = rest))
      ∧ ∀ (how : Completion) (c : Copy), how ≠ .data → how ≠ .writeFailed → s.tre.copies.head? = some c →
        let u := match how with
          | .poisoned => logAer s .poisonedTlp
          | .timeout => logAer s .completionTimeout
          | _ => s
        exec (.trestleCompletion how code data) s
          = .next (endCopy (logEvent u (mkEvent stMemory srcTre 2 0 evFault code r.host)) c stMemory (r.host - c.host)))
  ∧ (∀ (s : State) (r : TRead) (rest : List TRead) (data : List Byte) (code : Nat), s.tre.reads = r :: rest → r.copy = false →
      r.last = true → r.len = 0 →
      exec (.trestleCompletion .data code data) s = .next (entryDone { s with tre := { s.tre with reads := rest } } r.seq))
  ∧ (∀ (s : State) (data : List Byte) (code : Nat), s.tre.reads = [] →
      exec (.trestleCompletion .data code data) s = .next s)
  ∧ ∀ (s : State) (data : List Byte) (code : Nat),
      (s.tre.lastWrite = none → exec (.trestleCompletion .writeFailed code data) s = .next s)
      ∧ ∀ (w : TWrite) (c : Copy), s.tre.lastWrite = some w → w.copy = true → s.tre.copies.head? = some c → c.toHost = true →
          c.cmd.tag = w.id →
          let u := { s with tre := { s.tre with lastWrite := none } }
          exec (.trestleCompletion .writeFailed code data) s
            = .next (endCopy (logEvent u (mkEvent stMemory srcTre 2 0 evFault code w.host)) c stMemory (w.host - c.host))

-- ------------------------------------------------------------------------------------------------ reports, tests, links

/-- R125, R128, R129: MARCH_TEST starts where the plan state lets it. When it ends without REPAIR it reports the failing cells
of the SRAM that it reaches; mode 0 has cleared the banks, tags and accumulators of the spans and the weight-cache lines of
the slices that it reached, and no others; mode 1 keeps every byte. R317 to R319: MEMORY_SCRUB modes 1 and 2 switch background
scrubbing on and off, mode 0 scrubs its range; a scrub read passes on to the next KiB of its channel; what scrubbing finds
uncorrectable while a plan runs is left in place. R308, R313: a refresh passes on to the next row of its bank, and nothing
else changes. Completion of: marchTest, marchTestEnd, memoryScrub, backgroundScrub, dramRefresh. -/
def Obligations.MarchTestsAndDramUpkeep : Prop :=
  ((∀ (s : State) (tag : Nat) (c : Taken), Served s cmdMarchTest tag c →
        payClean c [(4, 1), (5, 1), (6, 2), (8, 1)] = true → payAt c 8 1 ≤ 1 → notReady s.host = false →
        planState s = plNone ∨ mtMode c = 1 ∧ (planState s = plLoaded ∨ planState s = plPaused) →
        mtTarget c ≤ 3 → mtMode c ≤ 1 → mtIndex c < mtLimit c →
        s.ks.marchTag = none →
        let t := acceptCmd s c
        exec (.marchTest tag) s = .next { t with ks := { t.ks with marchTag := some c } })
    ∧ ∀ (s : State) (c : Taken) (banks accs others : List Cell), s.ks.marchTag = some c → mtRepair c = false → Memory.wf s = true →
        let reached := (banks ++ accs ++ others).filter fun x => mtSram s c x.sram
        let known := s.sp.defects ++ reached.filter fun x => !s.sp.defects.contains x
        let found := (known.filter fun x => mtSram s c x.sram && cellFails s.toll x).length
        let u := finishCmd { s with ks := { s.ks with marchTag := none } } c stOk [found, 0, 0]
        ∃ t, exec (.marchTestEnd banks accs others) s = .next t ∧ t.host = u.host
          ∧ t.ks = { s.ks with marchTag := nextLong u (· == cmdMarchTest) } ∧ t.dram = s.dram ∧ t.toll = u.toll
          ∧ (mtMode c = 0 →
              (∀ k, tabGet 0 t.sp.banks k = if mtSpan c (k / bankSize / 4) then 0 else tabGet 0 s.sp.banks k)
              ∧ (∀ k, tabGet 0 t.sp.accs k = if mtSpan c (k / 0x80000) then 0 else tabGet 0 s.sp.accs k)
              ∧ (∀ e ∈ s.sp.tags, e ∈ t.sp.tags ↔ mtSpan c (e.1 / 4) = false) ∧ (∀ e ∈ t.sp.tags, e ∈ s.sp.tags)
              ∧ t.sp.cache = s.sp.cache.filter fun l => !mtSlice c l.slice)
          ∧ (mtMode c ≠ 0 → t.sp.banks = s.sp.banks ∧ t.sp.accs = s.sp.accs ∧ t.sp.cache = s.sp.cache
              ∧ t.sp.defects = known))
  ∧ ((∀ (s : State) (tag m : Nat) (c : Taken) (ecc : List SectorErr), Served s cmdMemoryScrub tag c →
        payClean c [(4, 1), (8, 8), (0x10, 8)] = true → payAt c 4 1 = m → m = 1 ∨ m = 2 →
        ∃ t, exec (.memoryScrub tag ecc) s = .next t ∧ t.dram = { s.dram with scrubOn := m == 1, scrubRes := (0, 0, 0) }
          ∧ t.ks = s.ks ∧ c.tag ∉ t.host.inUse)
    ∧ (∀ (s : State) (tag : Nat) (c : Taken) (ecc : List SectorErr), Served s cmdMemoryScrub tag c →
        payClean c [(4, 1), (8, 8), (0x10, 8)] = true → payAt c 4 1 = 0 → payAt c 8 8 % mib = 0 → payAt c 0x10 8 % mib = 0 →
        payAt c 8 8 + payAt c 0x10 8 ≤ reservedStart →
        let a := acceptCmd s c
        (s.dram.bad = [] → DramClean s → ecc = [] → exec (.memoryScrub tag ecc) s
          = .next (finishCmd { a with dram := { a.dram with scrubRes := (0, 0, 0) } } c stOk [0, 0, 0]))
        ∧ (planState s = plRunning → ∃ t, exec (.memoryScrub tag ecc) s = .next t ∧ t.dram.mem = s.dram.mem ∧ t.ks = s.ks
            ∧ t.sp = s.sp ∧ c.tag ∉ t.host.inUse
            ∧ ∀ e ∈ ecc, e.fatal = true → payAt c 8 8 ≤ e.addr → e.addr < payAt c 8 8 + payAt c 0x10 8 →
                t.dram.bad.contains (e.addr / 32) = true))
    ∧ (∀ (s : State) (ch : Nat) (ecc : List SectorErr), s.pw.rails = true → s.dram.selfRef = false → s.dram.scrubOn = true →
        ch < 1024 →
        let pos := tabSet 0 s.dram.scrubPos ch ((tabGet 0 s.dram.scrubPos ch + 1) % scrubPieces)
        (s.dram.bad = [] → DramClean s → ecc = [] →
          exec (.backgroundScrub ch ecc) s = .next { s with dram := { s.dram with scrubPos := pos } })
        ∧ (planState s = plRunning → ∃ t, exec (.backgroundScrub ch ecc) s = .next t ∧ t.dram.mem = s.dram.mem ∧ t.ks = s.ks
            ∧ t.sp = s.sp ∧ t.dram.scrubPos = pos
            ∧ ∀ e ∈ ecc, e.fatal = true → channelOf e.addr = ch → channelAddr e.addr / 1024 = tabGet 0 s.dram.scrubPos ch →
                t.dram.bad.contains (e.addr / 32) = true))
    ∧ ∀ (s : State) (ch bank : Nat), s.pw.rails = true → s.dram.selfRef = false → ch < 1024 → bank < 32 →
        let k := ch * 32 + bank
        let rows := tabSet 0 s.dram.refRow k ((tabGet 0 s.dram.refRow k + 1) % bankRows)
        exec (.dramRefresh ch bank) s = .next { s with dram := { s.dram with refRow := rows } })

/-- R88, R341, Table 4-14: LINK_CONTROL with ACTION 0 reports the ports; RING_FORM of one device forms its group at once; a
body outside the ranges of Table 16-8 is BAD_PARAM, and no group is held. Completion of: linkControl, ringForm. -/
def Obligations.LinkCommands : Prop :=
  (∀ (s : State) (tag : Nat) (c : Taken), Served s cmdLinkControl tag c → payClean c [(4, 1), (5, 1)] = true →
      payAt c 4 1 ≠ 0 → lcAction c = 0 →
      exec (.linkControl tag) s = .next (finishCmd (acceptCmd s c) c stOk (linkResults (acceptCmd s c))))
  ∧ ∀ (s : State) (tag : Nat) (c : Taken), Served s cmdRingForm tag c → payClean c formFields = true → planState s = plNone →
      (checkFormation (formationOf c) = none → exec (.ringForm tag) s = .next (finishCmd (ungroup s) c stBadParam []))
      ∧ (∀ f, checkFormation (formationOf c) = some f → f.shape = 0 → linkBusy s = false → s.host.long = [] →
          ∃ t, exec (.ringForm tag) s = .next t ∧ t.via.formed = some f ∧ t.via.given = some f ∧ t.via.coord = some f.coord
            ∧ t.via.dims = some f.dims)

/-- R411 to R413, R79: FW_STAGE reads its image from the bound region, waits while another command has the update path, and
is BUSY while an update out of band has it; an image that names no component is refused and the update
path is free again; FW_ACTIVATE waits for no plan and completes with BUSY while one is loaded. One that names staged
components which still verify makes them active; one whose staged image no longer verifies is refused with BAD_PARAM; one that
names none reports the anti-rollback level. Completion of: fwStage, fwStageDone, fwActivate. -/
def Obligations.FirmwareCommands : Prop :=
  (∀ (s : State) (tag a : Nat) (c : Taken), Served s cmdFwStage tag c → payClean c [(4, 1), (8, 8), (0x10, 8)] = true →
      regionAddr s (payAt c 4 1) (payAt c 8 8) (payAt c 0x10 8) = some a →
      let t := acceptCmd s c
      (s.toll.update = .oob → exec (.fwStage tag) s = .next (finishCmd s c stBusy []))
      ∧ (∀ d, s.toll.update = .inBand d → exec (.fwStage tag) s = .next t)
      ∧ (s.toll.update = .none → (∀ x ∈ s.host.long, isUpdateCmd x.cmd = false) → exec (.fwStage tag) s = .next (hostReads { t with toll := { t.toll with update := .inBand c } } a (payAt c 0x10 8))))
  ∧ (∀ (s : State) (c : Taken) (image : List Byte), s.toll.update = .inBand c → c.cmd = cmdFwStage → s.host.long = [c] →
      let b := image.take (payAt c 0x10 8) ++ zeros (payAt c 0x10 8 - image.length)
      imgComponent b < 3 →
      let r := stageImage s (imgComponent b) b
      let t := { r.1 with toll := { r.1.toll with update := .none } }
      exec (.fwStageDone image) s
        = .next (finishCmd t c (if r.2 then stOk else stBadParam) (if r.2 then [imgComponent b, imgVersion b] else [])))
  ∧ ∀ (s : State) (tag : Nat) (c : Taken) (env : StartEnv), Served s cmdFwActivate tag c → payClean c [(4, 1)] = true →
      payAt c 4 1 ≤ 7 → s.host.long = [] →
      let comps := payAt c 4 1
      let named := fun k => decide (k < 3) && comps.testBit k
      let good := fun k => imageOk s.toll k (imageSlot s.toll k (inactiveWhich s.toll k))
      let a := acceptCmd s c
      (planState s ≠ plNone → exec (.fwActivate tag env) s = .next (finishCmd s c stBusy []))
      ∧ (planState s = plNone → s.toll.update = .none →
          (∀ k, named k = true → s.toll.staged.toNat.testBit k = true) →
          (comps = 0 → exec (.fwActivate tag env) s = .next (finishCmd a c stOk [0, rollbackOf s.toll]))
          ∧ (comps ≠ 0 → (∀ k, named k = true → good k = true) → exec (.fwActivate tag env) s
              = .next (activateImages (dropCommands (busyOthers a (some tag))) (some c) (BitVec.ofNat 3 comps) env))
          ∧ ((∃ k, named k = true ∧ good k = false) →
              exec (.fwActivate tag env) s = .next (finishCmd (verifyStaged a comps) c stBadParam [])))

/-- R59, R60, R66: the end of LOAD_PLAN's validation. A plan that passes every check is loaded, with generation 0
everywhere and step index 0; the first failing check leaves no plan loading and PLAN_STATE NONE. R9: what the header is held
against is what the last successful RING_FORM was given. Completion of: validationEnd. -/
def Obligations.ValidationEnds : Prop :=
  ∀ (s : State) (base : Nat), s.ks.loading = some base → planState s = plLoading →
    let u := touchSectors s (rangeHits base (hdr s.dram.mem base 0x10 8))
    (∀ p, validateImage u base s.via.given s.via.bypass = .ok p →
      ∃ t, exec .validationEnd s = .next t ∧ t.ks.plan = some p ∧ t.ks.loading = none ∧ t.ks.gens = [] ∧ t.ks.stepIndex = 0
        ∧ planState t = plLoaded)
    ∧ ∀ f, validateImage u base s.via.given s.via.bypass = .error f →
      ∃ t, exec .validationEnd s = .next t ∧ t.ks = { s.ks with loading := none } ∧ planState t = plNone

-- ------------------------------------------------------------------------------------------------ plan execution

/-- R55 to R57: while a plan runs, the present phase's records go to the shadows if they are not there yet, and the next
phase's once every block has armed; a block still to arm holds them back. R56, R54, R32: a block named by the records arms
once no earlier descriptor uses it: its shadow becomes its armed copy and no other block's does; a bank table's owners and a
regulator's fixed voltage take effect, and a bay that is fixed no longer returns to the voltage of PACE_POLICY MODE 2. R16 to R18: from then on the slots of a channel or port carry the classes of its
record's preset, whose counts are those of Table 2-2. Completion of: setupShadowWrite, blockArm. -/
def Obligations.SetupRecordsShadowAndArm : Prop :=
  (∀ (s : State) (p : Plan), s.ks.plan = some p → planState s = plRunning → s.ks.haltIssue = false →
      let named := fun i => ((phaseRecords p i).flatMap (namedBlocks s.ks.shadow)).map blockKey
      let written := fun i => Host.Outcome.next (φ := Fault) (ρ := Refusal) { s with ks := { s.ks with
        phase := i, order := s.ks.order + 1, shadowed := true, shadow := withRecords s.ks.shadow (phaseRecords p i)
        toArm := s.ks.toArm.filter (fun k => !(named i).contains k) ++ named i } }
      (s.ks.shadowed = false → exec .setupShadowWrite s = written s.ks.phase)
      ∧ (s.ks.shadowed = true → s.ks.toArm ≠ [] → exec .setupShadowWrite s = .next s)
      ∧ ∀ i, s.ks.shadowed = true → s.ks.toArm = [] → nextPhase s p = some i → exec .setupShadowWrite s = written i)
  ∧ (∀ (s : State) (b : Block) (p : Plan), s.ks.plan = some p → s.ks.toArm.contains (blockKey b) = true → s.ks.issued = [] →
      unissuedBefore s p = [] → (∀ n, b = .port n → (portOf s n).retry = [] ∧ ∀ w, s.ks.reshardW = some w → w.phase < 3) →
      tabWf 0 s.sp.owners = true → tabWf 0 s.ks.armed.owners = true → tabWf 0 s.ks.armed.regs = true →
      tabWf 700 s.sp.volts = true → tabWf 0 s.ks.armed.chans = true → tabWf 0 s.ks.armed.ports = true →
      ∃ t, exec (.blockArm b) s = .next t
        ∧ t.ks = { s.ks with toArm := s.ks.toArm.filter (· != blockKey b), armed := armBlock s.ks b }
        ∧ t.dram = s.dram ∧ t.via = s.via
        ∧ (∀ x, b = .bankTable x → ∀ k, tabGet 0 t.sp.owners k
            = if k / 4 = x then tabGet 0 s.ks.shadow.owners k else tabGet 0 s.sp.owners k)
        ∧ (∀ x, b = .regulator x → ∀ k, tabGet 700 t.sp.volts k
            = if k ≠ x then tabGet 700 s.sp.volts k
              else if tabGet 0 s.ks.shadow.regs x ≠ 0 then tabGet 0 s.ks.shadow.regs x
              else if tabGet 0 s.ks.armed.regs x ≠ 0 ∧ s.ks.pace.1 = 2 then s.ks.pace.2 else tabGet 700 s.sp.volts x)
        ∧ ((∀ x, b ≠ .bankTable x) → (∀ x, b ≠ .regulator x) → t.sp = s.sp)
        ∧ (∀ ch i, let u := dramUnit (tabGet 0 (if b = .channel ch then s.ks.shadow.chans else s.ks.armed.chans) ch)
            dramSlot t ch i = u.getD (i % u.length) .read)
        ∧ (∀ n i, portSlot t n i
            = (portUnit (tabGet 0 (if b = .port n then s.ks.shadow.ports else s.ks.armed.ports) n)).getD (i % 16) 3))
  ∧ ∀ code x, code < 4 →
      let u := dramUnit code
      ((List.range 64).filter fun i => u.getD (i % u.length) .read == x).length
          = (([[40, 16, 8], [52, 8, 4], [32, 24, 8], [32, 16, 16]] : List (List Nat)).getD code []).getD
              (match x with | .read => 0 | .write => 1 | .remote => 2) 0

/-- R50: the next descriptor in SEQ order enters the queue of each of its target spans while the window is open and
each of those queues has room; a full queue holds it back. R50, R53, R266: a span starts the descriptor at the head of
its queue when its dependencies are met, and not before; with other spans still to start it, its transfers wait. The
Keystone starts, of its own, the first that may start. Completion of: descriptorIssue, descriptorStart. -/
def Obligations.DescriptorsIssueAndStart : Prop :=
  (∀ (s : State) (p : Plan) (d : Desc), s.ks.plan = some p → descAt p s.ks.nextSeq = some d →
      ((∃ x ∈ targets d, 8 ≤ (tabGet [] s.ks.queues x).length) → exec .descriptorIssue s = .next s)
      ∧ (planState s = plRunning → held s = false → s.ks.shadowed = true → s.ks.issueOrder ≤ s.ks.order →
          windowOpen s p d = true → (∀ x ∈ targets d, (tabGet [] s.ks.queues x).length < 8) → s.ks.updMap = [] →
          s.ks.accLost = false →
          ∃ t i, exec .descriptorIssue s = .next t ∧ t.ks.nextSeq = s.ks.nextSeq + 1 ∧ t.ks.issued = s.ks.issued ++ [i]
            ∧ i.seq = s.ks.nextSeq ∧ i.order = s.ks.issueOrder ∧ i.running = [] ∧ i.passesRun = [] ∧ i.handed = []
            ∧ i.status = 0 ∧ i.waiting = (if targets d = [] then [ksUnit] else targets d)
            ∧ t.ks.queues = (targets d).foldl (fun q x => tabUpd [] q x (· ++ [s.ks.nextSeq])) s.ks.queues
            ∧ t.dram = s.dram ∧ { t.sp with seen := s.sp.seen } = s.sp))
  ∧ (∀ (s : State) (p : Plan) (d : Desc) (i : Issued), s.ks.plan = some p →
      (∀ x seq, (tabGet [] s.ks.queues x).head? = some seq → descAt p seq = some d → issuedOf s seq = some i →
        (mayStart s p d i = false → exec (.descriptorStart (some x)) s = .next s)
        ∧ (mayStart s p d i = true → runBoundary s p d x = true → d.seq = seq → (∃ y ∈ i.waiting, y ≠ x) →
            ∃ t, exec (.descriptorStart (some x)) s = .next t ∧ t.ks.queues = tabUpd [] s.ks.queues x (·.drop 1)
              ∧ issuedOf t seq = some { i with waiting := i.waiting.filter (· != x), running := i.running ++ [x] }
              ∧ t.ks.xfers = s.ks.xfers ∧ t.dram = s.dram ∧ t.via = s.via)
        ∧ (mayStart s p d i = true → runBoundary s p d x = true → exec (.descriptorStart (some x)) s
            = .next (startOn { s with ks := { s.ks with queues := tabUpd [] s.ks.queues x (·.drop 1) } } p d x)))
      ∧ (s.ks.issued = [i] → i.waiting = [ksUnit] → descAt p i.seq = some d → mayStart s p d i = true →
          exec (.descriptorStart none) s = .next (startOn s p d ksUnit)))

/-- R51, R379: a unit's OK report ends its part; the last one completes the descriptor. A failing status is counted
against the span, logged and notified, and handled as a fault of class replay. Completion of: descriptorComplete. -/
def Obligations.DescriptorsComplete : Prop :=
  ∀ (s : State) (p : Plan) (d : Desc) (i : Issued) (u : Option Nat) (seq : Nat), s.ks.plan = some p →
    descAt p seq = some d → issuedOf s seq = some i → i.running.contains (u.getD ksUnit) = true → i.status = 0 →
    (d.opcode ≠ opPier → d.opcode ≠ opCommit → i.waiting = [] → workDone s p d i = true → d.seq = seq →
      isReport d = false → inUpdatePhase p seq = false → i.running = [u.getD ksUnit] →
      ∃ t, exec (.descriptorComplete u seq 0) s = .next t ∧ issuedOf t seq = none
        ∧ (∀ q, q ≠ seq → issuedOf t q = issuedOf s q) ∧ t.dram.mem = s.dram.mem
        ∧ { t.sp with seen := s.sp.seen } = s.sp ∧ t.host = s.host)
    ∧ (d.opcode ≠ opPier → d.opcode ≠ opCommit → i.waiting = [] → workDone s p d i = true →
        (∃ y ∈ i.running, y ≠ u.getD ksUnit) →
        exec (.descriptorComplete u seq 0) s
          = .next (updIssued s seq fun i => { i with running := i.running.filter (· != u.getD ksUnit), status := 0 }))
    ∧ ∀ st : Byte, st ≠ 0 → isInformational st.toNat = false →
        let unit := u.getD ksUnit
        let n := tabSet 0 s.sp.faults unit (tabGet 0 s.sp.faults unit + 1)
        let b := if unit = ksUnit then s else { s with sp := { s.sp with faults := n } }
        exec (.descriptorComplete u seq st) s
          = .next (replayFault (notifyFault b (reportEvent d i (finalStatus st.toNat) 2 unit)) (finalStatus st.toNat))

/-- R104, R105: BANK_HANDOVER gives each named bank of each target span that has started it, where the bank is with its FROM
master and that master is done with it, to its TO master, and changes no other owner and no byte; its pass is over once every
entry has taken effect on every target span. Completion of: bankHandover. -/
def Obligations.BanksAreHandedOver : Prop :=
  ∀ (s : State) (seq : Nat) (p : Plan) (d : Desc) (i : Issued), issuedPlan s seq = some (p, d, i) → d.seq = seq →
    d.opcode = opBankHandover → i.handed = [] → i.passesRun.length < passesOf p seq →
    partTurn s p d i.passesRun.length = true → tabWf 0 s.sp.owners = true →
    let es := hoEntries d
    (es.map (·.1)).Nodup →
    let given := fun (x : Nat) (e : Nat × (Nat × Nat)) => i.running.contains x && tabGet 0 s.sp.owners (x * 4 + e.1) == e.2.1
      && masterDone s p d i.passesRun.length x e.1 e.2.1
    ∃ t, exec (.bankHandover seq) s = .next t
      ∧ (∀ x ∈ targets d, ∀ e ∈ es, tabGet 0 t.sp.owners (x * 4 + e.1)
          = if given x e then e.2.2 else tabGet 0 s.sp.owners (x * 4 + e.1))
      ∧ (∀ k, (∀ x ∈ targets d, ∀ e ∈ es, k ≠ x * 4 + e.1) → tabGet 0 t.sp.owners k = tabGet 0 s.sp.owners k)
      ∧ { t.sp with owners := s.sp.owners } = s.sp ∧ { t with sp := s.sp, ks := s.ks } = s
      ∧ ((∀ x ∈ targets d, ∀ e ∈ es, given x e = true) →
          (issuedOf t seq).map (·.passesRun) = some (i.passesRun ++ [i.passesRun.length]))
      ∧ ((∃ x ∈ targets d, ∃ e ∈ es, given x e = false) → (issuedOf t seq).map (·.passesRun) = some i.passesRun)

/-- R376, R446, Table 19-3: a PIER whose segment is complete carries kind 1 bytes forward and writes its record to its
slot; with no mirror holder it is written at once, else it waits for MIRROR_ACK. One with a lower descriptor
outstanding waits. R378: the coordinator collects PIER_DONE and floods WATERMARK(k) once every member has written pier
k; a member that holds at pier k then completes it and goes on. A watermark seen before changes nothing. Completion of: pier,
pierDone, watermark. -/
def Obligations.PiersAreWrittenAndEnded : Prop :=
  (∀ (s : State) (seq : Nat) (p : Plan) (d : Desc) (i : Issued) (e : PierEntry), running s seq = some (p, d, i) →
      d.opcode = opPier → pierBySeq p seq = some e → s.ks.pierWork = none → s.grp.rewindW = none →
      let u := runContexts (carryForward (noteUnmirrored s) p) p seq
      let v := if (updatePier p).any (fun x => x.seq == e.seq) then formStep u p else u
      let w := journalWrite v (e.index * slotSize) (pierRecord v p e)
      ((∃ j ∈ s.ks.issued, j.seq < seq) → s.ks.reshardW = none → exec (.pier seq) s = .next s)
      ∧ ((∀ j ∈ s.ks.issued, seq ≤ j.seq) →
        (mirrorPort w = none → exec (.pier seq) s = .next (advance (pierWritten w p e)))
        ∧ (mirrorPort w ≠ none → s.ks.reshardW = none → exec (.pier seq) s
            = .next { w with ks := { w.ks with pierWork := some { seq := seq, index := e.index, stage := .mirroring } } })))
  ∧ (∀ (s : State) (j : JMsg) (p : Plan) (pier : Nat) (step : W64), s.ks.plan = some p → s.ks.reshardW = none →
      jOk s j = true → s.grp.count ≤ j.count →
      (isCoord s = true →
        let all := (j.sender, pier) :: s.grp.dones
        let dones := if s.grp.dones.contains (j.sender, pier) then s.grp.dones else s.grp.dones ++ [(j.sender, pier)]
        let u := { s with grp := { s.grp with dones := dones } }
        ((∃ r, r < groupSize p ∧ (r, pier) ∉ all) → exec (.pierDone j pier step) s = .next u)
        ∧ ((∀ r, r < groupSize p → (r, pier) ∈ all) → s.grp.rewindW = none →
          exec (.pierDone j pier step) s = .next (advance (holdWatermark (floodJ u none 6 s.grp.count (stepKey pier step.toNat)
            fun n => .watermark (jOf u n) pier (BitVec.ofNat 64 step.toNat)) p pier step.toNat))))
      ∧ (isCoord s = false → exec (.pierDone j pier step) s = .next s)
      ∧ (s.grp.flooded.contains (6, j.count, stepKey pier step.toNat) = true → exec (.watermark j pier step) s = .next s)
      ∧ ∀ (w : PierWork) (e : PierEntry), s.grp.flooded.contains (6, j.count, stepKey pier step.toNat) = false →
        s.ks.pierWork = some w → w.stage = .holding → pierBySeq p w.seq = some e → e.index = pier →
        ∃ t, exec (.watermark j pier step) s = .next t ∧ t.grp.watermark = some pier ∧ t.ks.pierWork = none
          ∧ issuedOf t e.seq = none ∧ t.ks.limitCount = 0 ∧ t.ks.written = [] ∧ t.ks.due = []
          ∧ (DramClean s → t.dram.mem = s.dram.mem))

/-- R30, R32: with the group's times held, pace matching moves each bay of no fixed voltage and no hold by at most 5
mV: down while it is busy less than 0.98 of the longest time, up while more than 1.02 of the median and power allows.
R22, R29, R422: a bearing timeout is logged and notified with BEARING_TIMEOUT, and handled as a local fault; the watchdog of a
bearing with a side in reset is suspended. A segment time is recorded and goes on round the ring, by another route where the plus port is down, until its origin's
predecessor has it. Completion of: paceMatchDecision, bearingTimeout, segmentTime. -/
def Obligations.PaceMatchingAndBearings : Prop :=
  (∀ (s : State) (p : Plan) (pier : Nat), s.ks.plan = some p → s.ks.lastPier = some pier → planState s = plRunning →
      s.ks.pace.1 = 0 → (∀ r, r < p.ringLength → ∃ t, (r, t) ∈ timesOf s pier) → tabWf 700 s.sp.volts = true →
      let g := groupTimes ((timesOf s pier).map (·.2))
      ∃ t, exec .paceMatchDecision s = .next t ∧ t.ks = s.ks ∧ t.dram = s.dram ∧ timesOf t pier = []
        ∧ ∀ b, b < 32 →
          let v := paceVolt s b
          let busy := tabGet 0 s.sp.lastBusy b
          paceVolt t b
            = if tabGet 0 s.ks.armed.regs b ≠ 0 ∨ bayHeld s b = true then v
              else if 100 * busy < 98 * g.1 ∧ 550 < v then v - 5
              else if 102 * g.2 < 100 * busy ∧ v < 850 ∧ powerAllows s b v = true then v + 5
              else v)
  ∧ (((∀ (s : State) (b : Bearing) (q : Option Nat), bearingHeld s b = true → exec (.bearingTimeout b q) s = .next s)
      ∧ ∀ (s : State) (b : Bearing) (q : Option Nat), s.pw.stage ≠ .off → bearingHeld s b = false →
        let e := mkEvent stBearing srcToll 2 (bearingUnit b) evFault (q.getD 0) 0
        lastFault (notifyFault s e).host = stBearing
        ∧ (q = none → exec (.bearingTimeout b q) s = .next (replayFault (notifyFault s e) stBearing))
        ∧ (q = none → s.ks.plan = none → exec (.bearingTimeout b q) s = .next (notifyFault s e))
        ∧ (∀ x, q = some x → exec (.bearingTimeout b q) s
            = .next (replayFault (updIssued (notifyFault s e) x fun i => { i with status := stBearing }) stBearing)))
    ∧ ∀ (s : State) (p : Plan) (c : Ctl) (pier origin time : Nat), s.ks.plan = some p → c.tag = BitVec.ofNat 32 p.groupTag →
        origin ≠ p.ringPos → origin < p.ringLength →
        let times := s.sp.segTimes.filter (fun x => !(x.1 == pier && x.2.1 == origin)) ++ [(pier, origin, time)]
        let t := { s with sp := { s.sp with segTimes := times } }
        ((p.ringPos + 1) % p.ringLength = origin → exec (.segmentTime c pier origin time) s = .next t)
        ∧ ∀ f, s.via.formed = some f → (p.ringPos + 1) % p.ringLength ≠ origin →
          exec (.segmentTime c pier origin time) s
            = .next (sendNext t f.plusPort fun c => .segmentTime c pier origin time))

-- ------------------------------------------------------------------------------------------------ the beat

/-- R13, R14 rule 4: at a beat boundary the beat number rises by one. The next beat has 160 periods; a device that is
not the timing root takes 159 or 161 when its boundary is more than 2 periods late or early, at most once in 16 beats, and
the difference moves by it; when it then lies within 2 periods the device locks, and the first lock adopts the upstream's
number, by which the windows of the event log move too (R404). R14 rule 2, R333: markers leave on every port that trains, once
every 1,024 beats. R335, R13: a marker is recorded for its port;
with no upstream the own beat number stands; one from the upstream within 2 periods locks, and the first lock adopts its beat
number. Completion of: beatBoundary, beatMarkerSend, beatMarker. -/
def Obligations.BeatAdvancesAndMarkers : Prop :=
  (∀ (s : State) (a : BeatActivity), s.pw.stage ≠ .off →
      ∃ t, exec (.beatBoundary a) s = .next t ∧ t.beat.ticks = s.beat.ticks + s.beat.length
        ∧ (s.beat.upstream = none ∨ s.beat.sinceCorr < 16 ∨ (-2 ≤ s.beat.diff ∧ s.beat.diff ≤ 2) → t.beat.length = 160)
        ∧ (s.beat.upstream ≠ none → 16 ≤ s.beat.sinceCorr → 2 < s.beat.diff → t.beat.length = 159)
        ∧ (s.beat.upstream ≠ none → 16 ≤ s.beat.sinceCorr → s.beat.diff < -2 → t.beat.length = 161)
        ∧ t.beat.diff = s.beat.diff + ((t.beat.length : Int) - 160)
        ∧ (s.beat.lead = none ∨ s.beat.upstream = none ∨ s.beat.locked = true ∨ s.beat.adopted = true ∨ 2 < t.beat.diff.natAbs →
            t.beat.number = s.beat.number + 1)
        ∧ (∀ l, s.beat.lead = some l → s.beat.upstream ≠ none → s.beat.locked = false → t.beat.diff.natAbs ≤ 2 →
            t.beat.locked = true ∧ (s.beat.adopted = false → t.beat.number = s.beat.number + 1 + l))
        ∧ t.ks = s.ks ∧ t.via = s.via ∧ t.dram.mem = s.dram.mem
        ∧ t.toll = { s.toll with windows := s.toll.windows.map fun w =>
            { w with opened := w.opened + (t.beat.number - (s.beat.number + 1)) } })
  ∧ ((∀ (s : State) (tx : Nat), linkedPorts s ≠ [] → (∀ m, s.beat.markerAt = some m → m.toNat + 1024 ≤ s.beat.number.toNat) →
        tabWf Port.reset s.via.ports = true →
        ∃ t, exec (.beatMarkerSend tx) s = .next t ∧ t.beat.markerAt = some s.beat.number ∧ t.beat.number = s.beat.number
          ∧ t.ks = s.ks ∧ t.dram = s.dram
          ∧ ∀ n, n < 8 → isLinked s n = true →
            ∃ f, (portOf t n).wire = (portOf s n).wire ++ [f] ∧ f.kind = kindMarker ∧ sequenced f = false)
    ∧ (∀ (s : State) (tx : Nat) (m : W64), s.beat.markerAt = some m → s.beat.number.toNat < m.toNat + 1024 →
        exec (.beatMarkerSend tx) s = .next s)
    ∧ ∀ (s : State) (n : Nat) (m : Marker) (arrival : Int), isLinked s n = true → s.pw.stage ≠ .off → m.echo = false →
        ∃ t, exec (.beatMarker n m arrival) s = .next t ∧ t.ks = s.ks ∧ t.dram = s.dram ∧ t.via = s.via
          ∧ (t.beat.portHops.find? fun e => e.1 == n) = some (n, m.hops, m.rootId)
          ∧ (t.beat.upstream ≠ some n → t.beat.number = s.beat.number)
          ∧ ∀ d, t.beat.upstream = some n → (s.beat.delays.find? fun d => d.1 == n) = some d →
            let near := nearestBeat (arrival - m.txOffset - d.2) m.beat
            t.beat.diff = -near.1 ∧ (near.1.natAbs ≤ 2 → t.beat.locked = true)
              ∧ (2 < near.1.natAbs ∨ s.beat.adopted = true → t.beat.number = s.beat.number)
              ∧ (near.1.natAbs ≤ 2 → s.beat.locked = false → s.beat.adopted = false → t.beat.number = near.2))

-- ------------------------------------------------------------------------------------------------ operators

/-- R155 to R168, R170 to R173, R150: a pass of MATMUL, MATMUL_DGRAD, MATMUL_WGRAD, REDUCE or COPY_CONVERT. R280 to R289: a
pass of UPDATE_ELEM, UPDATE_MATRIX or NORM_PROBE. Completion of: matmul, matmulDgrad, matmulWgrad, reduce, copyConvert,
updateElem, updateMatrix, normProbe. -/
def Obligations.DenseAndUpdateOperators : Prop :=
  (OperatorRow true .matmul opMatmul (fun _ p d _ => matmulUses p d) matmulRun
    ∧ OperatorRow true .matmulDgrad opDgrad (fun _ p d _ => matmulUses p d) matmulRun
    ∧ OperatorRow true .matmulWgrad opWgrad (fun _ p d _ => matmulUses p d) matmulRun
    ∧ OperatorRow true .reduce opReduce (fun _ p d _ => reduceUses p d) reduceRun
    ∧ OperatorRow true .copyConvert opCopyConvert (fun _ p d _ => copyConvertUses p d) copyConvertRun)
  ∧ (OperatorRow true .updateElem opUpdateElem (fun s p d _ => updateRunUses s p d) updateElemRun
    ∧ OperatorRow true .updateMatrix opUpdateMatrix (fun s p d _ => updateRunUses s p d) updateMatrixRun
    ∧ OperatorRow true .normProbe opNormProbe (fun _ p d _ => normProbeUses p d) normProbeRun)

/-- R175 to R187, R214 to R220: a pass of ATTN_FWD, ATTN_BWD, MATVEC_BATCH or ATTN_DECODE. R223 to R228: PREFIX_LOOKUP and
PREFIX_INSERT, each of one pass. Completion of: attnFwd, attnBwd, matvecBatch, attnDecode, prefixLookup, prefixInsert. -/
def Obligations.AttentionDecodeAndPrefixOperators : Prop :=
  (OperatorRow true .attnFwd opAttnFwd (fun _ p d _ => attnFwdUses p d) attnFwdRun
    ∧ OperatorRow true .attnBwd opAttnBwd (fun _ p d _ => attnBwdUses p d) attnBwdRun
    ∧ OperatorRow true .matvecBatch opMatvec (fun s p d _ => matvecActive s p d) matvecRun
    ∧ OperatorRow true .attnDecode opAttnDecode (fun s p d _ => decodeUses s p d) attnDecodeRun)
  ∧ (OperatorRow false (fun q _ => .prefixLookup q) opPrefixLookup (fun s p d _ => lookupUses s p d) prefixLookupRun
    ∧ OperatorRow false (fun q _ => .prefixInsert q) opPrefixInsert (fun s p d _ => insertUses s p d) prefixInsertRun)

/-- R231 to R244, R249 to R260: a pass of VEC_PROGRAM, SCAN, SEG_SCAN, AFFINE_SCAN, CONV_TAPS or POOL. Completion of:
vecProgram, scan, segScan, affineScan, convTaps, pool. -/
def Obligations.VectorAndWindowOperators : Prop :=
  OperatorRow true .vecProgram opVecProgram (fun _ p d _ => vecProgramUses p d) vecProgramRun
  ∧ OperatorRow true .scan opScan (fun _ p d _ => scanUses p d) (scanRun false)
  ∧ OperatorRow true .segScan opSegScan (fun _ p d _ => scanUses p d) (scanRun true)
  ∧ OperatorRow true .affineScan opAffineScan (fun _ p d _ => affineUses p d) affineRun
  ∧ OperatorRow true .convTaps opConvTaps (fun _ => windowPassUses) convRun
  ∧ OperatorRow true .pool opPool (fun _ => windowPassUses) poolRun

/-- R198 to R201, R120 to R123, R278, R279, R345 to R353, R364 to R366: RING_PASS, WEIGHT_CHAIN, COLLECTIVE, GLOBAL_NORM,
OFFLOAD and PREFETCH make what progress their messages and chunks allow. Completion of: ringPass, weightChain, collective,
globalNorm, offload, prefetch. -/
def Obligations.MovingOperators : Prop :=
  MovingRow false (fun q _ => .ringPass q) opRingPass ringPassWork
  ∧ MovingRow false (fun q _ => .weightChain q) opWeightChain weightChainWork
  ∧ MovingRow false (fun q _ => .collective q) opCollective collectiveWork
  ∧ MovingRow true .globalNorm opGlobalNorm globalNormWork
  ∧ MovingRow true .offload opOffload trestleWork
  ∧ MovingRow true .prefetch opPrefetch trestleWork

/-- R155, R158, R165, R45: with FP32 elements of OUT in a buffer, dense and whole, MATMUL leaves at each element the value of
its product, rounded once under the output code, and changes no other byte of memory. -/
def Obligations.MatmulStoresItsProduct : Prop :=
  ∀ (s : State) (seq : Nat) (p : Plan) (d : Desc) (i : Issued) (b : Buf), PassDue opMatmul seq 0 s p d i →
    Memory.wf s = true → splitRun p d = none →
    let us := present (matmulUses p d)
    let u := touchSectors s (usesSector s p d us)
    banksOwned s d us = true → operandStatus u p d us = 0 →
    let out := mmOut d
    mmAccOut d = 0 → fmtOf out.fmt = some .fp32 → out.stream = 0 → out.skip = 0 → isBank out = false →
    p.bufs[out.handle]? = some b →
    let c := prefillNibbles (cacheReads u p seq (unitSpans d) us) p us
    let a := writeAddr s b out.handle out.offset
    ∃ t, exec (.matmul seq 0) s = .next t
      ∧ (∀ k, k < mmM d * mmN d → memNat t.dram.mem (a + 4 * k) 4
          = narrow .fp32 (outRound d) (bitsFor (siteOf p (stepT c p) d 0) (outRound d) (elemIndex p.param out k)) false
              (mmValue c p d (chainFirst p d.seq d) (k / mmN d) (k % mmN d)) % 2 ^ 32)
      ∧ ∀ x, x < a ∨ a + 4 * (mmM d * mmN d) ≤ x → tabGet 0 t.dram.mem x = tabGet 0 s.dram.mem x

/-- R293, R294, Table 14-9: COMMIT prepares its record under the member's own attempt and records the prepare entry; a
member that has committed the step already completes at once, and one whose journal holds the decision records it; one whose
record cannot be read or written clears AGREE. R294: the decision COMMIT flips the working generation of every kind 2 buffer
that the step wrote, and of no other; the step's norm records become history in the working area, and COMMIT is no longer
outstanding. R295: a decision of a COMMIT that has not begun is recorded and flips nothing. Completion of: commit. -/
def Obligations.CommitPreparesAndFlips : Prop :=
  (∀ (s : State) (seq : Nat) (p : Plan) (d : Desc) (i : Issued), running s seq = some (p, d, i) → d.opcode = opCommit →
      s.ks.commitW = none → i.status = 0 → s.grp.rewindW = none →
      let st := operandStatus s p d (descUses p d)
      let a := ownAttempt s p
      ((committedRecord s p).1 = s.ks.tCounter.toNat →
          exec (.commit seq) s = .next (formStep (commitDone s p seq stOk i) p))
      ∧ ((committedRecord s p).1 ≠ s.ks.tCounter.toNat →
          (heldDecision s p a = 0 → st = 0 → exec (.commit seq) s = .next (prepare s p d a))
          ∧ (heldDecision s p a = 0 → st ≠ 0 → exec (.commit seq) s = .next (prepareFailed s p d a st))
          ∧ ∀ o, heldDecision s p a = o → o ≠ 0 → exec (.commit seq) s
            = .next (recordDecision (if o = 1 then writePending s p d else s) p
                { seq := seq, a := a, digest := [], prepared := true, deciding := none, lead := none, begun := true, join := none }
                (o == 1) none)))
  ∧ (∀ (s : State) (p : Plan) (w : CommitWork) (i : Issued), w.begun = true → issuedOf s w.seq = some i →
      tabWf 0 s.ks.gens = true → Memory.wf s = true → s.grp.rerun = none →
      let t := applyDecision s p w true
      (∀ h, tabGet 0 t.ks.gens h = tabGet 0 s.ks.gens h + (if (stepKind2 p).contains h then 1 else 0))
        ∧ t.ks.commitW = none ∧ issuedOf t w.seq = none ∧ t.ks.norms = [] ∧ t.ks.aborts = 0 ∧ t.ks.attempt = 0 ∧ t.sp = s.sp
        ∧ (∀ x, x < workingBase → tabGet 0 t.dram.mem x = tabGet 0 s.dram.mem x))
  ∧ ∀ (s : State) (p : Plan) (w : CommitWork) (o : Bool), w.begun = false → w.join = none →
      applyDecision s p w o = { s with ks := { s.ks with commitW := none } }

/-- R356: in step 6 of a re-shard, a RESHARD_PERMUTE whose turn it is copies within the device, lands what its peer has sent,
or sends its bytes and waits until they have left; the bytes are at their new place and no other byte of DRAM changes. One out
of turn waits. Completion of: reshardPermute. -/
def Obligations.ReshardPermutes : Prop :=
  ∀ (s : State) (seq : Nat) (w : ReshardWork) (x : Move), s.ks.reshardW = some w →
    (imgMoves s.dram.mem w.mapAddr)[seq - 1]? = some x →
    let run := exec (.reshardPermute seq) s
    let idx := 2 ^ 32 + (((imgXfers s.dram.mem w.mapAddr).zipIdx.find? fun e => e.1.seq == x.seq).map (·.2)).getD 0
    let done := fun u => Host.Outcome.next (φ := Fault) (ρ := Refusal)
      (advance (updReshard u fun w => { w with moved := seq, bytes := w.bytes + x.len }))
    let lands := fun (u : State) (b : List Byte) => Memory.wf s = true →
      (∀ sec, partHits x.dst b.length sec = true → s.dram.bad.contains sec = false) →
      ∃ t, run = done t ∧ { t with dram := u.dram } = u
        ∧ (∀ k, k < b.length → some (tabGet 0 t.dram.mem (x.dst + k)) = b[k]?)
        ∧ ∀ y, y < x.dst ∨ x.dst + b.length ≤ y → tabGet 0 t.dram.mem y = tabGet 0 s.dram.mem y
    (w.phase ≠ 3 ∨ seq ≠ w.moved + 1 → run = .next s)
    ∧ (w.phase = 3 → seq = w.moved + 1 → DramClean s →
      (2 ≤ x.kind → rangeBad s.dram.bad x.src x.len = false → lands s (tabBytes s.dram.mem x.src x.len))
      ∧ (x.kind = 1 → received s idx = none → run = .next s)
      ∧ (∀ b, x.kind = 1 → received s idx = some b → lands (markRecv s idx) b)
      ∧ (x.kind = 0 → rangeBad s.dram.bad x.src x.len = false →
          let u := trySend s idx (tabBytes s.dram.mem x.src x.len)
          (xferUsed u idx = false → run = .next u) ∧ (xferUsed u idx = true → run = done u)))

-- ------------------------------------------------------------------------------------------------ Viaduct links

/-- R322, R325, R326: a flit that the FEC or the CRC refuses is discarded, and every class is suspect. One in sequence advances
its class: addressed to this device it goes to its message, else to its lane. One out of sequence is answered, in a suspect
class, with a NACK that names the LSEQ expected. A flit in sequence and a repeated one draw an IDLE flit with the ACKs where the
port has no other flit to send. NACK and the resend timeout put the class's unacknowledged flits on the wire again, from the
named one or from the oldest; R328: the eighth resend of a flit makes the port retrain. R329, R330: XOFF stops a class and lane
of a port and XON lets it go. R331: the oldest flit of an input lane leaves by its route when the output may send it and its
turn has come, with the AROUND and DATELINE of that route; it waits where it may not, and one with no route is dropped.
Completion of: flitReceive, flitForward, nack, classResendTimeout, xoff, xon. -/
def Obligations.FlitsAreSequencedAndForwarded : Prop :=
  (∀ (s : State) (n : Nat), isTrained s n = true → tabWf Port.reset s.via.ports = true →
      let q := portOf s n
      (∀ (fecOk : Bool) (f : Flit) (crc : W32), fecOk = false ∨ crc ≠ flitCrc f →
        exec (.flitReceive n fecOk f crc) s = .next (setPort s n { q with suspect := [0, 1, 2, 3] }))
      ∧ (∀ f : Flit, sequenced f = true → f.cls < 4 → q.rx.length = 4 → q.retry = [] → q.queue = [] → PortQuiet s n →
          (∀ e ∈ s.ks.rearm, e.1 ≠ n) →
          let idle := fun (p : Port) => plainFlit 0 (portAcks p) []
          let busy := fun (t : State) => [0, 1, 2, 3].any (forwardWaits t n)
          let only := fun (t : State) => (∀ m, m ≠ n → portOf t m = portOf s m) ∧ { t with via := s.via } = s
          (f.lseq = q.rx.getD f.cls 0 →
            ∃ t, exec (.flitReceive n true f (flitCrc f)) s = .next t ∧ only t
              ∧ (∀ c, (portOf t n).rx.getD c 0 = if c = f.cls then (f.lseq + 1) % 4096 else q.rx.getD c 0)
              ∧ (portOf t n).suspect = q.suspect.filter (· != f.cls)
              ∧ (portOf t n).lanes = (if f.dest = ownCoord s then q.lanes else q.lanes ++ [f])
              ∧ (f.dest = ownCoord s →
                  (portOf t n).wire = (if busy t then q.wire else q.wire ++ [idle (portOf t n)])
                  ∧ (portOf t n).parts = if f.last then q.parts.filter (fun g => !sameMsg f g) else q.parts ++ [f])
              ∧ (busy t = false → (portOf t n).wire.getLast? = some (idle (portOf t n))))
          ∧ (f.lseq ≠ q.rx.getD f.cls 0 → q.suspect.contains f.cls = true →
            let nack : Instr := .nack (Nat.xor n 1) f.cls (q.rx.getD f.cls 0)
            ∃ t, exec (.flitReceive n true f (flitCrc f)) s = .next t ∧ only t ∧ t.via.sent = s.via.sent ++ [(n, nack)]
              ∧ portOf t n = { q with suspect := q.suspect.filter (· != f.cls)
                                      wire := q.wire ++ [plainFlit kindLink (portAcks q) (linkBytes nack)] })
          ∧ (f.lseq ≠ q.rx.getD f.cls 0 → q.suspect.contains f.cls = false →
            ∃ t, exec (.flitReceive n true f (flitCrc f)) s = .next t ∧ only t
              ∧ portOf t n = if busy s then q else { q with wire := q.wire ++ [idle q] }))
      ∧ ∀ c e : Nat, q.queue = [] → PortQuiet s n → q.stopped = [] → tabWf 0 q.resent = true → (q.retry.map flitKey).Nodup →
          let live := q.retry.filter fun f => f.cls == c
          let from' := live.dropWhile fun f => f.lseq != e
          let again := fun (l : List Flit) (t : State) =>
            (portOf t n).wire = q.wire ++ l.map (fun f => { f with acks := portAcks q }) ∧ (portOf t n).retry = q.retry
              ∧ (∀ m, m ≠ n → portOf t m = portOf s m) ∧ { t with via := s.via } = s
          let trains := fun (t : State) =>
            (portOf t n).st = .training ∧ (portOf t n).retrain = true ∧ t.ks = s.ks ∧ t.dram = s.dram
          let eighth := fun (l : List Flit) => ∃ f ∈ l, tabGet 0 q.resent (flitKey f) = 7
          (¬ eighth from' → ∃ t, exec (.nack n c e) s = .next t ∧ again from' t)
          ∧ (¬ eighth live → ∃ t, exec (.classResendTimeout n c) s = .next t ∧ again live t)
          ∧ (eighth from' → ∃ t, exec (.nack n c e) s = .next t ∧ trains t)
          ∧ (eighth live → ∃ t, exec (.classResendTimeout n c) s = .next t ∧ trains t))
  ∧ (∀ (s : State) (n c l : Nat), tabWf Port.reset s.via.ports = true →
      let q := portOf s n
      (isTrained s n = true →
        (∃ t, exec (.xoff n c l) s = .next t ∧ (∀ x, x ∈ (portOf t n).stopped ↔ x ∈ q.stopped ∨ x = (c, l))
          ∧ portOf t n = { q with stopped := (portOf t n).stopped } ∧ (∀ m, m ≠ n → portOf t m = portOf s m)
          ∧ { t with via := s.via } = s)
        ∧ ∃ t, exec (.xon n c l) s = .next t ∧ (∀ x, x ∈ (portOf t n).stopped ↔ x ∈ q.stopped ∧ x ≠ (c, l))
          ∧ (∀ m, m ≠ n → portOf t m = portOf s m) ∧ t.ks = s.ks ∧ t.dram = s.dram ∧ t.sp = s.sp
          ∧ (PortQuiet s n → { t with via := s.via } = s))
      ∧ ((∀ f ∈ q.lanes, ¬ (f.cls = c ∧ laneOf f = l)) → exec (.flitForward n c l) s = .next s)
      ∧ ∀ f, (q.lanes.find? fun f => f.cls == c && laneOf f == l) = some f →
        (routeTo s f.dest (some n) f.around f.dateline = none →
          ∃ t, exec (.flitForward n c l) s = .next t ∧ (portOf t n).lanes = q.lanes.erase f
            ∧ (∀ m, m ≠ n → portOf t m = portOf s m) ∧ t.ks = s.ks ∧ t.dram = s.dram)
        ∧ ∀ e, routeTo s f.dest (some n) f.around f.dateline = some e →
          let g := { f with around := e.around, dateline := e.dateline }
          (maySend s e.port (portOf s e.port) g = false ∨ forwardTurn s n c e.port = false →
            exec (.flitForward n c l) s = .next s)
          ∧ (maySend s e.port (portOf s e.port) g = true → forwardTurn s n c e.port = true →
            ∃ t, exec (.flitForward n c l) s = .next t ∧ (portOf t n).lanes = q.lanes.erase f
              ∧ (∀ m, m ≠ n → m ≠ e.port → portOf t m = portOf s m) ∧ t.ks = s.ks ∧ t.dram = s.dram ∧ t.sp = s.sp
              ∧ (PortQuiet s e.port → { t with via := s.via } = s
                ∧ (e.port ≠ n → (portOf s e.port).queue = [] →
                  portOf t e.port
                    = { sendFlit (portOf s e.port) g with served := listSet (portOf s e.port).served c n }))))

/-- R326, R328, R332 to R334: a retraining keeps sequence numbers and retry buffer, and what it held is sent again when it
ends; a first training starts every sequence at zero. Training ends trained with at most one failed lane and down with two.
With no RING_FORM in hand IDENT records the peer; a peer on the wrong port is miswired; with no group formed the coordinate
follows from it. Completion of: retrainRequest, portRetrain, portTrainingComplete, ident. -/
def Obligations.PortsTrain : Prop :=
  ∀ (s : State) (n : Nat), tabWf Port.reset s.via.ports = true →
    let q := portOf s n
    let link := fun (i : Instr) (acks : List Nat) => plainFlit kindLink acks (linkBytes i)
    (isTrained s n = true →
      let back := { q with st := PortState.training, retrain := true, retrains := q.retrains + 1 }
      (∃ t, exec (.retrainRequest n) s = .next t ∧ portOf t n = back ∧ t.via.sent = s.via.sent ∧ t.ks = s.ks ∧ t.dram = s.dram
        ∧ ∀ m, m ≠ n → portOf t m = portOf s m)
      ∧ ∃ t, exec (.portRetrain n) s = .next t ∧ t.via.sent = s.via.sent ++ [(n, .retrainRequest (Nat.xor n 1))]
        ∧ portOf t n = { back with wire := q.wire ++ [link (.retrainRequest (Nat.xor n 1)) (portAcks q)] }
        ∧ t.ks = s.ks ∧ t.dram = s.dram ∧ ∀ m, m ≠ n → portOf t m = portOf s m)
    ∧ (∀ (failed : List Nat) (rtt : Nat), q.st = .training → s.via.linkTag = none → s.via.formW = none → q.queue = [] →
        (∀ e ∈ s.ks.rearm, e.1 ≠ n) → (q.retry.map flitKey).Nodup →
        let lanes := (failed.filter (· < 9)).eraseDups
        (lanes.length ≤ 1 → (∀ i, q.peer = some i → i.version = 1 ∧ i.port = Nat.xor n 1) →
          ∃ t, exec (.portTrainingComplete n failed rtt) s = .next t ∧ (portOf t n).st = .trained
            ∧ (portOf t n).spare = lanes.any (· < 8) ∧ (portOf t n).rtt = rtt
            ∧ (q.retrain = true → (portOf t n).tx = q.tx ∧ (portOf t n).rx = q.rx ∧ (portOf t n).retry = q.retry
                ∧ (s.via.formed ≠ none → q.stopped = [] →
                  (portOf t n).wire = q.wire ++ [link (.ident (Nat.xor n 1) (identOf s n)) (portAcks q)]
                    ++ q.retry.map (fun f => { f with acks := portAcks q })))
            ∧ (q.retrain = false → (portOf t n).tx = [0, 0, 0, 0] ∧ (portOf t n).rx = [0, 0, 0, 0] ∧ (portOf t n).retry = [])
            ∧ (s.via.formed ≠ none → ∀ m, m ≠ n → portOf t m = portOf s m) ∧ t.ks = s.ks ∧ t.dram = s.dram)
        ∧ (2 ≤ lanes.length → s.ks.plan = none →
          ∃ t, exec (.portTrainingComplete n failed rtt) s = .next t ∧ (portOf t n).st = .down ∧ (portOf t n).retry = []
            ∧ (q.retrain = true → lastFault t.host = stLinkDown) ∧ ∀ m, m ≠ n → portOf t m = portOf s m))
    ∧ ∀ i : Ident, isTrained s n = true → i.version = 1 → s.via.formW = none →
        ∃ t, exec (.ident n i) s = .next t ∧ (portOf t n).peer = some i
          ∧ (portOf t n).st = (if i.port = Nat.xor n 1 then .trained else .miswired)
          ∧ (s.via.formed ≠ none → t.via.coord = s.via.coord)
          ∧ (s.via.formed = none → n < 6 → i.coordValid = true → i.port = Nat.xor n 1 →
              (∀ m, m < n → ∀ j, (portOf s m).peer = some j → isTrained s m = true → j.coordValid = false) →
              let d := n / 2
              let k := max 1 (axisOf i.dims d)
              t.via.coord = some (withAxis i.coord d (if n % 2 = 0 then (axisOf i.coord d + k - 1) % k
                else (axisOf i.coord d + 1) % k)) ∧ t.via.dims = some i.dims)

/-- R201, R324, R353: a DATA message is delivered to the started receive entry of its class, peer and MSG_SEQ; one with no
such entry, or of another length, tag or epoch, is a protocol error. RECEIVE_READY lets its send entry go, or is kept for
it. From REWIND to RESTART both are discarded. Completion of: dataMessageReceive, receiveReady. -/
def Obligations.DataMessagesAreDelivered : Prop :=
  (∀ (s : State) (m : DataMsg) (p : Plan), s.ks.plan = some p →
    let run := exec (.dataMessageReceive m) s
    let hit := s.ks.xfers.find? fun x =>
      x.x.kind == 1 && x.x.cls == m.cls && rankAt s m.src == some x.x.peer && x.x.msgSeq == m.msgSeq && x.data.isNone
    let fits := fun (x : XferRun) => m.bytes.length = x.x.len ∧ m.tag.toNat = p.groupTag ∧ m.epoch.toNat = epochNow s
    (discarding s = true → run = .next s)
    ∧ (discarding s = false →
      (hit = none → run = .next (protocolError s m.port 0))
      ∧ ∀ x, hit = some x →
        (fits x → run = .next { s with ks := { s.ks with xfers := s.ks.xfers.map fun r =>
          if r.idx == x.idx then { r with data := some m.bytes } else r } })
        ∧ (¬ fits x → run = .next (protocolError s m.port x.x.seq))))
  ∧ ∀ (s : State) (c : Ctl) (q k len : Nat) (p : Plan), s.ks.plan = some p → c.tag = BitVec.ofNat 32 p.groupTag →
      s.ks.reshardW = none →
      let run := exec (.receiveReady c q k len) s
      (discarding s = true → run = .next s)
      ∧ ∀ r, discarding s = false → rankAt s c.src = some r →
        let hit := s.ks.xfers.find? fun x =>
          x.x.kind == 0 && x.x.peer == r && x.x.cls == k && x.x.msgSeq == q && !x.ready
        (hit = none → run = .next { s with ks := { s.ks with readies := s.ks.readies ++ [(r, k, q, len)] } })
        ∧ ∀ x, hit = some x →
          (x.x.len = len → run = .next { s with ks := { s.ks with xfers := s.ks.xfers.map fun r =>
            if r.idx == x.idx then { r with ready := true } else r } })
          ∧ (x.x.len ≠ len → run = .next (protocolError s c.port x.x.seq))

-- ------------------------------------------------------------------------------------------------ the group

/-- R341: during RING_FORM, a FORM that agrees on a hop port is noted, and the second one forms the group with the
body's values; one that disagrees or carries a nonzero STATUS, on a hop port or on a bypass port, ends the command with
BAD_PARAM and that STATUS in RESULT3 (assumption 216), and so does the timeout with LINK_DOWN; no group is then held; one on a
bypass port is noted where it agrees; one that comes before its RING_FORM is kept. R344, R41: a RANK not held is recorded and
passed on to every other trained port; two coordinates for one rank, kept from before the START or met in it, or a digest that
differs, fail the START with PLAN_INVALID; the last digest that
agrees begins the run; a flood or a comparison that does not end in time fails the START with LINK_DOWN. Completion of: form,
formTimeout, rank, groupDigest, rankFloodTimeout, groupDigestTimeout. -/
def Obligations.GroupsFormAndCompare : Prop :=
  (∀ (s : State) (w : FormWork), s.via.formW = some w → s.ks.reshardW = none →
      let refused := fun (run : Host.Outcome State Fault Refusal) (c : Ctl) => (∀ x ∈ s.host.long, x.tag = w.cmd.tag) →
        ∃ u, run = .next (finishCmd u w.cmd stBadParam [0, 0, 0, c.status.toNat]) ∧ u.via.formed = none ∧ u.via.formW = none
      (∀ (c : Ctl) (len pos : Nat) (ver : W32) (step : Byte) (bypass : Bool) (id : W64), isTrained s c.port = true →
        let st := formAgrees s w.f c.port (.form c len pos ver step bypass id)
        let run := exec (.form c len pos ver step bypass id) s
        (hopOf w.f c.port = true →
          (st = 0 → w.seen.contains c.port = false →
              (∃ n, hopOf w.f n = true ∧ n ≠ c.port ∧ n ∉ w.seen) →
              run = .next { s with via := { s.via with formW := some { w with seen := w.seen ++ [c.port] } } })
          ∧ (st = 0 → (∀ n, hopOf w.f n = true → n = c.port ∨ n ∈ w.seen) → (∀ x ∈ s.host.long, x.tag = w.cmd.tag) →
              ∃ t, run = .next t ∧ t.via.formed = some w.f ∧ t.via.given = some w.f ∧ t.via.coord = some w.f.coord
                ∧ t.via.dims = some w.f.dims ∧ t.via.formW = none ∧ w.cmd.tag ∉ t.host.inUse)
          ∧ (st ≠ 0 → refused run c))
        ∧ (hopOf w.f c.port = false →
          let bypassPort := bypassRing w.f = true ∧ 6 ≤ c.port
          (bypassPort → st = 0 → bypassMay s w.f = true →
            run = .next { s with via := { s.via with bypassSeen := insertNat c.port s.via.bypassSeen } })
          ∧ (bypassPort → st = 0 → bypassMay s w.f = false → run = .next s)
          ∧ (bypassPort → st ≠ 0 → refused run c)
          ∧ (¬ bypassPort → run = .next s)))
      ∧ ((∀ x ∈ s.host.long, x.tag = w.cmd.tag) →
          ∃ t, exec .formTimeout s = .next t ∧ t.via.formed = none ∧ t.via.formW = none ∧ w.cmd.tag ∉ t.host.inUse))
  ∧ (∀ (s : State) (c : Ctl) (len pos : Nat) (ver : W32) (step : Byte) (bypass : Bool) (id : W64), s.via.formW = none →
      s.via.formed = none → s.ks.reshardW = none → isTrained s c.port = true →
      let i : Instr := .form c len pos ver step bypass id
      exec i s = .next { s with via := { s.via with forms := s.via.forms.filter (fun e => e.1 != c.port) ++ [(c.port, i)] } })
  ∧ (∀ (s : State) (p : Plan) (c : Ctl), s.ks.plan = some p → s.ks.reshardW = none → c.tag = BitVec.ofNat 32 p.groupTag →
      (∀ (r : Nat) (epoch : W32) (x : Coord), epoch.toNat = p.epoch → r < groupSize p → isTrained s c.port = true →
        let run := exec (.rank c r epoch x) s
        (coordOfRank s r = none →
          let u := { s with via := { s.via with ranks := s.via.ranks ++ [(r, x)], ranksEpoch := epoch } }
          run = .next (floodEnded (flood u (some c.port) fun n => .rank { c with port := n } r epoch x) p))
        ∧ ∀ y, coordOfRank s r = some y → y ≠ x →
          (s.ks.startStage ≠ none → run = .next (failStart s stPlanInvalid))
          ∧ (s.ks.startStage = none → planState s = plLoaded →
              run = .next { s with via := { s.via with ranks := s.via.ranks ++ [(r, x)] } })
          ∧ (s.ks.startStage = none → planState s ≠ plLoaded → run = .next s))
      ∧ (∀ (r : Nat) (d : List Byte), r < groupSize p → s.ks.startStage = some .compare →
        let run := exec (.groupDigest c r d) s
        let u := { s with via := { s.via with digests := (r, d) :: s.via.digests.filter (fun e => e.1 != r) } }
        (d ≠ p.digest → run = .next (failStart u stPlanInvalid))
        ∧ (d = p.digest → (∀ e ∈ s.via.digests, e.2 = p.digest) →
            (∀ k, k < groupSize p → k = r ∨ ∃ e ∈ s.via.digests, e.1 = k) → s.grp.admitting = false →
            run = .next (beginRun u p)))
      ∧ (s.ks.startStage = some .flood → exec .rankFloodTimeout s = .next (failStart s stLinkDown))
      ∧ (s.ks.startStage = some .compare → exec .groupDigestTimeout s = .next (failStart s stLinkDown))
      ∧ (s.ks.startStage = none → exec .rankFloodTimeout s = .next s ∧ exec .groupDigestTimeout s = .next s))

-- ------------------------------------------------------------------------------------------------ commit and re-shard

/-- R293, Table 14-9: the vote token waits for the member's own step 1, then goes to the next rank with COUNT one
higher and AGREE kept only where the digests are equal. The leader decides COMMIT when the token comes back agreed by
all, else ABORT, and ABORT when it does not come back. A message of an earlier attempt is dropped; one of a later attempt records ABORT of the own attempt and
joins it. A DECISION is passed down the tree, put in the mirror held, and
recorded. R295: a member with a prepare entry and no decision floods its query and its reply; a query is answered
once, a reply is recorded and passed on once. When the window ends, the live member of lowest rank broadcasts a
decision that some reply carries, else ABORT; any other member only ends its recovery. Completion of: vote, voteTimeout,
decision, recoveryStart, recoveryQuery, recoveryReply, recoveryWindowEnd. -/
def Obligations.VotesAndRecoveryDecide : Prop :=
  (∀ (s : State) (p : Plan) (w : CommitWork) (c : Ctl), s.ks.plan = some p → s.ks.commitW = some w → w.deciding = none →
      w.begun = true → w.join = none → c.tag = BitVec.ofNat 32 p.groupTag → commitSeq p ≠ none →
      (∀ (count : Nat) (agree : Bool) (digest : List Byte),
        let run := exec (.vote c w.a count agree digest) s
        let token : VoteToken := { a := w.a, count := count, agree := agree, digest := digest }
        let u := { s with ks := { s.ks with token := none } }
        (w.prepared = false → run = .next { s with ks := { s.ks with token := some token } })
        ∧ (w.prepared = true → rankOf p = 0 → run = .next (recordDecision u p w (agree && count == groupSize p) (some false)))
        ∧ (w.prepared = true → rankOf p ≠ 0 → run = .next (sendCtl u ((rankOf p + 1) % groupSize p) 0 fun c =>
            .vote c w.a (count + 1) (agree && digest == w.digest) digest)))
      ∧ (w.prepared = true → 1 < groupSize p →
          (rankOf p = 0 → exec .voteTimeout s = .next (recordDecision s p w false (some false)))
          ∧ (rankOf p ≠ 0 → exec .voteTimeout s = .next s))
      ∧ (∀ o : Bool, exec (.decision c w.a o) s
          = .next (recordDecision (mirrorDecision (sendDecision s p w.a o false) p w.a o) p w o none))
      ∧ ∀ (a : Attempt) (count : Nat) (agree o : Bool) (digest : List Byte),
          (attBefore a w.a = true →
            exec (.vote c a count agree digest) s = .next s ∧ exec (.decision c a o) s = .next s)
          ∧ (laterAttempt w.a a = true →
            let u := recordDecision s p { w with join := some a.att } false none
            exec (.vote c a count agree digest) s = .next (passToken
              { u with ks := { u.ks with token := some { a := a, count := count, agree := agree, digest := digest } } } p)))
  ∧ (∀ (s : State) (p : Plan) (w : CommitWork) (c : Ctl), s.ks.plan = some p → s.ks.commitW = some w → w.deciding = none →
      w.begun = true → w.join = none → c.tag = BitVec.ofNat 32 p.groupTag → commitSeq p ≠ none →
      let l := repliesOf s w.a
      (w.prepared = true → w.digest ≠ [] → (∀ e ∈ l, e.1 ≠ rankOf p) → exec .recoveryStart s
        = .next (joinRecovery (flood s none fun n => .recoveryQuery (ctlOf s n 0) w.a (rankOf p)) p w.a))
      ∧ (∀ asker : Nat,
          ((∀ e ∈ l, e.1 ≠ rankOf p) → exec (.recoveryQuery c w.a asker) s
            = .next (joinRecovery (flood s (some c.port) fun n => .recoveryQuery { c with port := n } w.a asker) p w.a))
          ∧ ((∃ e ∈ l, e.1 = rankOf p) → exec (.recoveryQuery c w.a asker) s = .next s))
      ∧ (∀ (o r : Nat),
          ((∃ e ∈ l, e.1 = r) → exec (.recoveryReply c w.a o r) s = .next s)
          ∧ ((∀ e ∈ l, e.1 ≠ r) →
            ∃ t, exec (.recoveryReply c w.a o r) s = .next t
              ∧ t.ks = { s.ks with recovery := some (w.a, l ++ [(r, o)]) } ∧ t.dram = s.dram))
      ∧ (s.ks.recovery = some (w.a, l) →
          let u := { s with ks := { s.ks with recovery := none } }
          ((∀ e ∈ l, e.1 ≠ rankOf p) → exec .recoveryWindowEnd s = .next s)
          ∧ ((∃ e ∈ l, e.1 = rankOf p) →
            ((∃ e ∈ l, e.1 < rankOf p) → exec .recoveryWindowEnd s = .next u)
            ∧ ((∀ e ∈ l, rankOf p ≤ e.1) →
              (∀ e, l.find? (fun e => e.2 != 0) = some e →
                exec .recoveryWindowEnd s = .next (recordDecision u p w (e.2 == 1) (some true)))
              ∧ ((∀ e ∈ l, e.2 = 0) → heldDecision s p w.a = 0 →
                exec .recoveryWindowEnd s = .next (recordDecision u p w false (some true)))))))

/-- R357 to R359, Table 17-5: RESHARD whose image passes its checks is accepted and waits for its pier; one that does not
completes and the plan goes on. The leader decides when the token comes back, REFUSE where not all agree or where it does
not come back. A REFUSE of READY completes RESHARD and leaves the running plan as it is. Completion of: reshard,
reshardToken, reshardTokenTimeout, reshardDecision. -/
def Obligations.ReshardDecides : Prop :=
  ∀ (s : State) (p : Plan), s.ks.plan = some p →
    (∀ (tag : Nat) (c : Taken), Served s cmdReshard tag c → payClean c [(4, 4), (8, 8)] = true →
      planState s = plRunning ∨ planState s = plPaused →
      let a := payAt c 8 8
      let e := payAt c 4 4
      (s.ks.reshardW ≠ none → exec (.reshard tag) s = .next (finishCmd s c stBusy []))
      ∧ (s.ks.reshardW = none →
        (∀ f, imgStatus (acceptCmd s c) p a e = 0 → s.via.formed.bind (imgRing s.dram.mem a) = some f →
          ∃ t w, exec (.reshard tag) s = .next t ∧ t.ks.reshardW = some w ∧ w.epoch = e ∧ w.mapAddr = a ∧ w.form = f
            ∧ w.plan = none ∧ w.joined = false ∧ (planState s = plRunning → w.phase = 0) ∧ t.ks.plan = some p
            ∧ planState t = planState s ∧ t.host.long = s.host.long ++ [c])
        ∧ (groupSize p = 1 → imgStatus (acceptCmd s c) p a e ≠ 0 →
          ∃ t, exec (.reshard tag) s = .next t ∧ t.ks = { s.ks with reshardBad := some e } ∧ planState t = planState s
            ∧ c.tag ∉ t.host.inUse)))
    ∧ ∀ (w : ReshardWork) (c : Ctl), s.ks.reshardW = some w → c.tag = BitVec.ofNat 32 p.groupTag →
      (∀ (phase count : Nat) (agree : Bool) (digest : List Byte), rankOf p = 0 → w.joined = true → w.epoch < 2 ^ 32 →
        tokenPhase { w with joined := false } = some phase →
        exec (.reshardToken c (BitVec.ofNat 32 w.epoch) phase agree count digest) s
          = .next (advance (decideReshard s p w phase (agree && count == groupSize p))))
      ∧ (∀ phase, rankOf p = 0 → w.joined = true → 1 < groupSize p → tokenPhase { w with joined := false } = some phase →
        exec .reshardTokenTimeout s = .next (decideReshard s p w phase false))
      ∧ (rankOf p ≠ 0 → exec .reshardTokenTimeout s = .next s)
      ∧ (c.status = 0 → w.phase = 1 → w.plan ≠ none → w.epoch < 2 ^ 32 → s.ks.pauseReq = none →
        ∃ t, exec (.reshardDecision c (BitVec.ofNat 32 w.epoch) 1 false) s = .next t ∧ t.ks.reshardW = none
          ∧ t.ks.plan = some p ∧ t.ks.gens = s.ks.gens ∧ planState t = planState s ∧ t.dram.mem = s.dram.mem)

-- ------------------------------------------------------------------------------------------------ journal and replay

/-- R373, R376: MIRROR_WRITE puts journal bytes at the same offset of the sender's mirror slot, and no other byte, and is
acknowledged; MIRROR_READ is answered with the bytes there; MIRROR_DATA goes to the own journal, and while a unit is admitted
to the admission staging too. MIRROR_ACK of a pier's record
writes the pier; of a commit entry, it completes that entry. Completion of: mirrorWrite, mirrorRead, mirrorData, mirrorAck. -/
def Obligations.MirrorsKeepJournals : Prop :=
  ∀ (s : State) (j : JMsg), Memory.wf s = true → jOk s j = true →
    (∀ (b off : Nat) (data : List Byte), mirrorOf j.port = some b → off + data.length ≤ 0x80000000 →
      ∃ t, exec (.mirrorWrite j off data) s = .next t
        ∧ (∀ k, k < data.length → some (tabGet 0 t.dram.mem (b + off + k)) = data[k]?)
        ∧ (∀ x, x < b + off ∨ b + off + data.length ≤ x → tabGet 0 t.dram.mem x = tabGet 0 s.dram.mem x)
        ∧ t.grp = { s.grp with mirrored := insertNat j.port s.grp.mirrored }
        ∧ (PortQuiet s j.port →
            t.via.sent = s.via.sent ++ [(j.port, .mirrorAck (jOf s (Nat.xor j.port 1)) off data.length)]
              ∧ { t with dram := s.dram, via := s.via, grp := s.grp } = s))
    ∧ (∀ b off len : Nat, mirrorOf j.port = some b → off + len ≤ 0x80000000 → PortQuiet s j.port →
      ∃ t, exec (.mirrorRead j off len) s = .next t
        ∧ t.via.sent = s.via.sent
            ++ [(j.port, .mirrorData (jOf s (Nat.xor j.port 1)) off (tabBytes s.dram.mem (b + off) len))]
        ∧ { t with via := s.via } = s)
    ∧ (∀ (off : Nat) (data : List Byte), mirrorPort s = some j.port → off + data.length ≤ 0x80000000 →
      ∃ t, exec (.mirrorData j off data) s = .next t
        ∧ (∀ k, k < data.length → some (tabGet 0 t.dram.mem (journalBase + off + k)) = data[k]?)
        ∧ (s.grp.admitting = false → ∀ x, x < journalBase + off ∨ journalBase + off + data.length ≤ x →
            tabGet 0 t.dram.mem x = tabGet 0 s.dram.mem x)
        ∧ { t with dram := s.dram } = s)
    ∧ ∀ (p : Plan) (len : Nat), s.ks.plan = some p → mirrorPort s = some j.port →
      (∀ (w : PierWork) (e : PierEntry), s.ks.pierWork = some w → w.stage = .mirroring → pierBySeq p w.seq = some e →
        exec (.mirrorAck j (e.index * slotSize) len) s = .next (advance (pierWritten s p e)))
      ∧ ∀ w : CommitWork, s.ks.pierWork = none → s.ks.commitW = some w →
        (∀ o, w.deciding = some o → exec (.mirrorAck j (decisionOff p) len) s = .next (advance (decisionRecorded s p w o)))
        ∧ (w.deciding = none → w.prepared = false →
          exec (.mirrorAck j (prepareOff p) len) s = .next (advance (preparedNow s p w)))

/-- R381, R382, R385, R386, Table 19-6: a REWIND of a higher COUNT is joined and passed on, of a lower one ignored. A member
whose ports hold no unacknowledged flit reports to the coordinator; once every member has reported and the group is quiet the
coordinator restarts it at the highest watermark, at the step pier where a member needs that, or ends it where the limit is
reached or a member cannot restore its state. A claim that replaces another coordinator than the own is not followed. Silent members are lost, and a member takes over from a silent coordinator. RESTART is carried out and passed on once;
a unit that it admits takes the group's step index. Completion of: rewind, quiesce, quiesced, quietPeriodEnd,
coordinatorLossTimeout, coordinatorTakeover, restart. -/
def Obligations.RewindsAreCoordinated : Prop :=
  ∀ (s : State) (p : Plan), s.ks.plan = some p →
    (∀ (j : JMsg) (pier : Nat) (cause : Byte) (need coord replaces : Nat), jOk s j = true → takesPart s = true →
      (j.count < s.grp.count → exec (.rewind j pier cause need coord replaces) s = .next s)
      ∧ (s.grp.count < j.count →
        ∃ t w, exec (.rewind j pier cause need coord replaces) s = .next t ∧ t.grp.rewindW = some w ∧ w.stage = .stopping
          ∧ w.count = j.count ∧ w.need = need ∧ w.cause = cause ∧ t.grp.count = j.count
          ∧ w.coord = (if replaces = 0xFFFFFFFF ∨ replaces = s.grp.coord then coord else s.grp.coord)
          ∧ w.replaced = (if replaces ≠ 0xFFFFFFFF ∧ replaces = s.grp.coord then some replaces else none)
          ∧ t.grp.coord = w.coord ∧ t.ks.haltIssue = true ∧ t.ks.readies = [])
      ∧ (∀ w, j.count = s.grp.count → s.grp.rewindW = some w → replaces = 0xFFFFFFFF →
        ∃ t, exec (.rewind j pier cause need coord replaces) s = .next t
          ∧ t.grp.rewindW = some { w with need := max w.need need } ∧ t.ks = s.ks ∧ t.dram = s.dram))
    ∧ (∀ w, s.grp.rewindW = some w → w.stage = .stopping →
      let need := max w.need (bitNat (needsRestart s p))
      let w2 := { w with stage := RewindStage.quiet, need := need }
      let at_ := fun (x : RewindWork) => { s with grp := { s.grp with rewindW := some x } }
      ((∃ n, n < 8 ∧ (portOf s n).retry ≠ []) → exec .quiesce s = .next s)
      ∧ ((∀ n, n < 8 → (portOf s n).retry = []) →
        (isCoord s = true → exec .quiesce s = .next (at_ (addReport w2 (ownReport s need))))
        ∧ (isCoord s = false → exec .quiesce s = .next (sendJ (at_ w2) s.grp.coord fun j =>
            .quiesced j (pierWord s.grp.watermark) need (BitVec.ofNat 64 s.grp.wmStep)))))
    ∧ (∀ (w : RewindWork) (j : JMsg) (pier need : Nat) (step : W64), s.grp.rewindW = some w → jOk s j = true →
      isCoord s = true → j.count = w.count → exec (.quiesced j pier need step) s = .next { s with grp := { s.grp with
        rewindW := some (addReport w (j.sender, (step.toNat, (pier, need)))) } })
    ∧ (∀ w, s.grp.rewindW = some w → w.stage = .quiet → isCoord s = true →
      let known := fun r => ∃ x ∈ w.reports, x.1 = r
      let restart := w.need == 1 || w.reports.any fun x => x.2.2.2 == 1
      let pier := if restart then s.ks.stepPier else ofPierWord (rewindPier w)
      let u := { s with grp := { s.grp with rewindW := some { w with need := bitNat restart, stage := .restarting } } }
      ((∃ r, r < groupSize p ∧ ¬ known r) → exec .quietPeriodEnd s = .next s)
      ∧ ((∀ r, r < groupSize p → known r) →
        let ends := overLimit s pier = true ∨ restart = true ∧ p.stepLocal = false ∨ w.cause.toNat = stReplayFailed
        (ends → exec .quietPeriodEnd s = .next (sendRestart u p (pierWord pier) 3))
        ∧ (¬ ends → exec .quietPeriodEnd s
          = .next (sendRestart (countRewind u pier) p (pierWord pier) (if actionHold s then 4 else if restart then 1 else 0))))
      ∧ ((∀ r, r < groupSize p → known r) → exec .coordinatorLossTimeout s = .next s)
      ∧ ((∃ r, r < groupSize p ∧ ¬ known r) →
        let lost := (List.range (groupSize p)).filter fun r => !(w.reports.any fun x => x.1 == r)
        let v := { s with grp := { s.grp with lostRanks := lost } }
        (p.stepLocal = true ∧ overLimit s s.ks.stepPier = false → exec .coordinatorLossTimeout s
          = .next (sendRestart (countRewind v s.ks.stepPier) p (pierWord s.ks.stepPier) 2))
        ∧ (p.stepLocal = false ∨ overLimit s s.ks.stepPier = true → exec .coordinatorLossTimeout s
          = .next (sendRestart v p (pierWord s.ks.stepPier) 3))))
    ∧ (∀ w, s.grp.rewindW = some w →
      (isCoord s = true ∨ w.stage ≠ .quiet → exec .coordinatorTakeover s = .next s)
      ∧ (isCoord s = false → w.stage = .quiet →
        ∃ t v, exec .coordinatorTakeover s = .next t ∧ t.grp.coord = rankOf p ∧ t.grp.rewindW = some v ∧ v.coord = rankOf p
          ∧ v.replaced = some s.grp.coord ∧ v.reports = [ownReport s w.need] ∧ t.ks = s.ks ∧ t.dram = s.dram))
    ∧ ∀ (w : RewindWork) (j : JMsg) (pier target : Nat) (step : W64), s.grp.rewindW = some w → w.count = j.count →
      jOk s j = true → takesPart s = true →
      let key := pier + 65536 * target
      (s.grp.flooded.contains (9, j.count, key) = true → exec (.restart j pier target step) s = .next s)
      ∧ (s.grp.flooded.contains (9, j.count, key) = false →
        let u := { s with grp := { s.grp with count := max s.grp.count j.count } }
        let v := applyRestart (floodJ u (some j.port) 9 j.count key fun n => .restart { j with port := n } pier target step)
          p pier target
        (s.grp.admitting = false ∨ target ≠ 1 ∧ target ≠ 4 → exec (.restart j pier target step) s = .next v)
        ∧ (s.grp.admitting = true → target = 1 ∨ target = 4 →
          exec (.restart j pier target step) s = .next (formStep { v with ks := { v.ks with stepIndex := step.toNat } } p)))

/-- R384, Table 19-7: FETCH is answered with bytes of the committed generation, and with BAD_PARAM where the own buffer does
not match. FETCH_DATA puts them in the own committed generation and changes no other byte; one that refuses ends the run of
every member, and so does a fetch that neither neighbour answers: a device of its own ends its run, a member of a group asks the
coordinator for it by a REWIND with CAUSE REPLAY_FAILED (assumption 208). Completion of: fetch, fetchData, fetchNoAnswer. -/
def Obligations.FetchesRestoreBytes : Prop :=
  ∀ (s : State) (j : JMsg) (p : Plan) (h off len : Nat), s.ks.plan = some p → jOk s j = true → Memory.wf s = true →
    (∀ b, p.bufs[h]? = some b →
      let a := halfAddr b (currentHalf s h) + off
      let reply := fun st d => Host.Outcome.next (φ := Fault) (ρ := Refusal)
        (sendVia s j.port (.fetchData (jOf s (Nat.xor j.port 1)) h (BitVec.ofNat 8 st) off d))
      (b.kind ≠ 2 ∨ b.size < off + len → exec (.fetch j h off len) s = reply stBadParam [])
      ∧ (b.kind = 2 → off + len ≤ b.size →
        (∀ x, a ≤ x → x < a + len → x / 32 ∉ s.dram.bad ∧ x / 32 ∉ s.dram.lost) → 0 < len →
        exec (.fetch j h off len) s = reply stOk (tabBytes s.dram.mem a len))
      ∧ (b.kind = 2 → off + len ≤ b.size →
        (∃ x, a ≤ x ∧ x < a + len ∧ (x / 32 ∈ s.dram.bad ∨ x / 32 ∈ s.dram.lost)) →
        exec (.fetch j h off len) s = reply stMemory [])
      ∧ ∀ (f : Nat × (Nat × Nat)) (data : List Byte),
        (s.grp.fetches.find? fun f => f.1 == h && f.2.1 == off) = some f →
        (s.grp.refresh = false → data.length = f.2.2 →
          ∃ t, exec (.fetchData j h 0 off data) s = .next t
            ∧ (∀ k, k < data.length → some (tabGet 0 t.dram.mem (a + k)) = data[k]?)
            ∧ (∀ x, x < a ∨ a + data.length ≤ x → tabGet 0 t.dram.mem x = tabGet 0 s.dram.mem x)
            ∧ f ∉ t.grp.fetches ∧ t.ks = s.ks ∧ t.host = s.host)
        ∧ ∀ st : Byte, st ≠ 0 →
          let u := { s with grp := { s.grp with fetches := s.grp.fetches.filter (· != f) } }
          exec (.fetchData j h st off data) s = .next (endGroup u))
    ∧ (s.grp.fetches = [] → exec .fetchNoAnswer s = .next s)
    ∧ (s.grp.fetches ≠ [] →
      (fetchPort s = 0 ∨ isTrained s 0 = false →
        exec .fetchNoAnswer s = .next (endGroup { s with grp := { s.grp with fetches := [] } }))
      ∧ (fetchPort s ≠ 0 → isTrained s 0 = true → PortQuiet s 0 → ∃ t, exec .fetchNoAnswer s = .next t ∧ t.dram = s.dram ∧ t.ks = s.ks
          ∧ t.via.sent = s.via.sent ++ s.grp.fetches.map fun f => (0, .fetch (jOf s 1) f.1 f.2.1 f.2.2)))
    ∧ ((groupSize p = 1 ∨ s.grp.rewindW ≠ none) → planState (endGroup s) = plAborted)
    ∧ (groupSize p ≠ 1 → s.grp.rewindW = none → ∃ w, (endGroup s).grp.rewindW = some w ∧ w.cause.toNat = stReplayFailed
        ∧ w.need = 1)

/-- R383, R389 to R391: a member of a running group sends ALIVE to each adjacent member and keeps what it hears; a silent one is
logged and starts a rewind. The mirror holder returns the journal of a unit that it mirrors and answers ADMIT; the coordinator
restarts the group, or holds it where REPLAY_CONTROL says so (R386), once the last lost rank is back. What a member hears from
takes it out of the ranks that it holds lost (assumption 210). Completion of: aliveSend, alive, silentMember, admitUnit, admitted. -/
def Obligations.MembersWatchAndAdmit : Prop :=
  ∀ (s : State) (p : Plan), s.ks.plan = some p →
    (takesPart s = true → 1 < groupSize p → (∀ n, n < 8 → PortQuiet s n) → ∃ t, exec .aliveSend s = .next t ∧ { t with via := s.via } = s
      ∧ t.via.sent = s.via.sent ++ ((List.range 8).filter fun n => (adjacentRank s n).isSome).map fun n =>
          (n, .alive (jOf s (Nat.xor n 1)) (pierWord s.ks.lastPier) (planState s) s.beat.number))
    ∧ (∀ (j : JMsg) (pier ps : Nat) (beat : W64), jOk s j = true → exec (.alive j pier ps beat) s
        = .next { s with grp := { s.grp with
            alive := s.grp.alive.filter (fun e => e.1 != j.sender) ++ [(j.sender, (ps, beat))]
            lostRanks := if s.grp.coord = ownRank s then s.grp.lostRanks else s.grp.lostRanks.filter (· != j.sender) } })
    ∧ (∀ r n, takesPart s = true → 1 < groupSize p → n < 8 → adjacentRank s n = some r → r ≠ ownRank s →
        s.grp.rewindW = none → s.grp.holdAdmit = false → r ∉ s.grp.lostRanks → reshardAt s 5 = false →
        ∃ t w, exec (.silentMember r) s = .next t ∧ t.grp.rewindW = some w ∧ w.count = s.grp.count + 1
          ∧ w.cause.toNat = stLinkDown ∧ w.stage = .stopping ∧ t.ks.haltIssue = true ∧ (∀ e ∈ t.grp.alive, e.1 ≠ r)
          ∧ t.grp.lostRanks = s.grp.lostRanks ++ [r])
    ∧ (∀ (j : JMsg) (step : W64) (gen : W32) (b : Nat), jOk s j = true →
        (s.grp.admitting = true → s.ks.startStage = some .journal →
          exec (.admitUnit j step gen) s = .next (generationCheck s p step.toNat gen.toNat))
        ∧ (s.grp.admitting = false → mirrorOf j.port = some b → s.grp.holdAdmit = true → mirrorsUnit s p j.port b = false →
          exec (.admitUnit j step gen) s = .next (logEvent s (mkEvent stPlanInvalid srcKs 1 j.port evState j.sender 0)))
        ∧ (s.grp.admitting = false → mirrorOf j.port = some b → s.grp.holdAdmit = true → mirrorsUnit s p j.port b = true →
          PortQuiet s j.port → ∃ t, exec (.admitUnit j step gen) s = .next t ∧ { t with via := s.via } = s
            ∧ t.via.sent.getLast? = some (j.port, .admitUnit (jOf s (Nat.xor j.port 1))
                (BitVec.ofNat 64 (committedRecord s p).1) (BitVec.ofNat 32 (committedRecord s p).2.2))))
    ∧ ∀ (j : JMsg) (step : W64), jOk s j = true → isCoord s = true → s.grp.holdAdmit = true →
      let left := s.grp.lostRanks.filter (· != j.sender)
      let u := { s with grp := { s.grp with lostRanks := left } }
      (left ≠ [] → exec (.admitted j step) s = .next u)
      ∧ (left = [] → exec (.admitted j step) s = .next (sendRestart u p (pierWord s.ks.stepPier) (if actionHold s then 4 else 1)))

-- ------------------------------------------------------------------------------------------------ the Tollhouse

/-- R397 to R401, R406, Table 20-3: a sample holds readings within their ranges; with no core rail on, core sensors keep their
last values and are STALE. A bay above 100 °C is held 5 mV below its voltage; at the release of a hold, pace matching's setting
becomes the voltage that the bay has. A floor keeps its bays at 550 mV until its comparator lets go; the current floor leaves a
hold on all bays. A trip switches every rail off and puts the log in flash.
Completion of: sensorSample, hardwareFloor, hardwareFloorRelease, prochotNAssert, prochotNDeassert, trip, thermtripNRelease. -/
def Obligations.SensorsHoldVoltages : Prop :=
  (∀ (s : State) (x : Sample), fwRuns s = true → ∃ t, exec (.sensorSample x) s = .next t
      ∧ t.toll.stale = !s.pw.rails ∧ t.toll.sampleBeat = s.beat.number ∧ t.toll.snapSeq = s.toll.snapSeq + 2
      ∧ t.ks = s.ks ∧ t.dram.mem = s.dram.mem ∧ t.toll.sample.p12Mv = clampN 0 16000 x.p12Mv
      ∧ (s.pw.rails = true → t.toll.sample = clampSample (poweredPace s x))
      ∧ (s.pw.rails = false → t.toll.sample.bayTemp = s.toll.sample.bayTemp ∧ t.toll.sample.dramTemp = s.toll.sample.dramTemp)
      ∧ (s.pw.rails = true → s.toll.holds = [] → ∀ b v, b < 32 → x.bayTemp[b]? = some v → 800 < v →
          ∃ h ∈ t.toll.holds, h.code = 1 ∧ h.unit = b ∧ holdOn b h = true ∧ h.ceil = max 550 (vSet s b - 5)))
  ∧ (∀ (s : State) (c : HoldCond) (h : Hold) (b : Nat), b < 32 → h ∈ s.toll.holds → ofCond c h = true → holdOn b h = true →
      h.releasing = false → h.calm = 15 → c.on = false → c.off = true → s.ks.pace.1 ≠ 2 → tabGet 0 s.ks.armed.regs b = 0 →
      tabWf 700 s.sp.volts = true → paceVolt (sampleCond s c) b = vSet s b)
  ∧ (∀ (s : State) (c : Comparator), (∀ b, c = .bay b → b < 32) → (∀ q, c = .hotSpot q → q < 4) →
      (∀ k, c = .dram k → k < 16) →
      (s.pw.rails = true → s.toll.floors.any (sameFloor (floorOf c)) = false → ∃ t, exec (.hardwareFloor c) s = .next t
        ∧ t.toll.floors = s.toll.floors ++ [floorOf c] ∧ (∀ b, floorOn b (floorOf c) = true → vSet t b ≤ 550)
        ∧ t.host.status.toNat.testBit bitThermal = true ∧ t.ks = s.ks ∧ t.dram = s.dram)
      ∧ (s.toll.floors.any (sameFloor (floorOf c)) = true → ∃ t, exec (.hardwareFloorRelease c) s = .next t
        ∧ t.toll.floors = s.toll.floors.filter (fun g => !sameFloor (floorOf c) g) ∧ t.ks = s.ks ∧ t.dram = s.dram
        ∧ (c ≠ .current → t.toll.holds = s.toll.holds)
        ∧ (c = .current → ∀ b, b < 32 → vSet t b ≤ 550)))
  ∧ (∀ s : State, s.pw.rails = true → ∃ t, exec .prochotNAssert s = .next t ∧ t.pw.prochot = true
      ∧ t.toll.floors.any (sameFloor prochotFloor) = true ∧ t.ks = s.ks ∧ t.dram = s.dram)
  ∧ (∀ s : State, ∃ t, exec .prochotNDeassert s = .next t ∧ t.pw.prochot = false
      ∧ t.toll.floors.any (sameFloor prochotFloor) = false ∧ t.toll.holds = s.toll.holds ∧ t.ks = s.ks ∧ t.dram = s.dram)
  ∧ (∀ (s : State) (x : TripSensor) (v : Int), s.pw.rails = true → ∃ t, exec (.trip x v) s = .next t ∧ t.pw.rails = false
      ∧ t.pw.tripped = true ∧ t.pw.thermtrip = true ∧ t.toll.unsaved = [] ∧ t.dram.mem = [] ∧ t.ks = .reset
      ∧ planState t = plNone)
  ∧ ∀ s : State, s.pw.thermtrip = true → ∃ t, exec .thermtripNRelease s = .next t ∧ t.pw.thermtrip = false
      ∧ t.pw.tripped = false ∧ t.pw.p12v = false ∧ t.ks = s.ks ∧ t.dram = s.dram

/-- R403 to R405: an event of severity 3 is always kept, numbered and stamped with the beat; of a lower one, the first 16 of a
window are kept and the rest counted. When a window of 1,024 beats is over, a COALESCED record with the beat of its end gives that count. R96: a status
that no completion may carry is kept as INTERNAL. LOG_PERSIST moves the records not yet saved to flash. Completion of:
eventRecord, coalesceWindowEnd, logPersist. -/
def Obligations.EventsAreLogged : Prop :=
  (∀ (s : State) (e : Event), s.pw.stage ≠ .off →
      let st := e.status.toNat
      let e2 := { e with status := BitVec.ofNat 8 (if st = stAccepted ∨ isInformational st then st else finalStatus st) }
      let last := fun (t : State) => t.toll.sramLog.getLast?
      let kept := fun (t : State) => t.ks = s.ks ∧ t.host = s.host ∧ t.dram = s.dram
      let w := windowOf s e.source e.code e.unit
      (e.severity = 3 ∨ w = none ∨ (∃ x, w = some x ∧ windowOver s x = false ∧ x.kept < 16) →
        ∃ t r, exec (.eventRecord e) s = .next t ∧ last t = some r ∧ r.ev = e2 ∧ r.seqno = s.toll.seqno
          ∧ r.beat = s.beat.number ∧ t.toll.seqno = s.toll.seqno + 1 ∧ t.toll.unsaved = s.toll.unsaved ++ [r.seqno] ∧ kept t)
      ∧ (e.severity ≠ 3 → ∀ x, w = some x →
        (windowOver s x = false → 16 ≤ x.kept →
          ∃ t, exec (.eventRecord e) s = .next t ∧ t.toll.sramLog = s.toll.sramLog ∧ t.toll.seqno = s.toll.seqno
            ∧ { x with extra := x.extra + 1, last := e2 } ∈ t.toll.windows ∧ { t with toll := s.toll } = s)
        ∧ (windowOver s x = true →
          ∃ t r, exec (.eventRecord e) s = .next t ∧ last t = some r ∧ r.ev = e2
            ∧ r.seqno = s.toll.seqno + (if x.extra = 0 then 0 else 1) ∧ kept t)))
  ∧ (∀ (s : State) (source code unit : Nat) (w : Window), windowOf s source code unit = some w →
      (windowOver s w = false → exec (.coalesceWindowEnd source code unit) s = .next s)
      ∧ (windowOver s w = true → ∃ t, exec (.coalesceWindowEnd source code unit) s = .next t
          ∧ windowOf t source code unit = none ∧ t.ks = s.ks ∧ t.host = s.host ∧ t.dram = s.dram
          ∧ (w.extra = 0 → t.toll.sramLog = s.toll.sramLog)
          ∧ (w.extra ≠ 0 → ∃ r, t.toll.sramLog.getLast? = some r ∧ r.seqno = s.toll.seqno ∧ r.flags.toNat.testBit 0 = true
              ∧ r.beat = w.opened + 1024 ∧ r.ev.detail0 = BitVec.ofNat 32 w.extra)))
  ∧ ∀ s : State, fwRuns s = true → ∃ t, exec .logPersist s = .next t ∧ t.toll.unsaved = [] ∧ t.toll.sramLog = s.toll.sramLog
      ∧ { t with toll := s.toll } = s
      ∧ (s.toll.flashLog.length + s.toll.sramLog.length ≤ 131072 → t.toll.flashLog
          = s.toll.flashLog ++ s.toll.sramLog.filter fun r => s.toll.unsaved.contains r.seqno)

/-- R408, R409: MCTP control requests and the discovery requests of PLDM type 0 are answered while the boot ROM or the firmware
runs. Set Endpoint ID keeps an identifier other than 0x00 and 0xFF; the dynamic address is taken on I3C; the versions and
commands are those of PLDM types 0, 2 and 5. The bytes of each answer follow the DMTF standards (assumptions 15, 222).
Completion of: setEndpointId, getEndpointId, getEndpointUuid, getMctpVersionSupport, getMessageTypeSupport,
dynamicAddressAssignment, pldmDiscovery. -/
def Obligations.DiscoveryRequests : Prop :=
  ∀ s : State, s.pw.stage ≠ .off →
    (∀ e : Byte, e ≠ 0 → e ≠ 0xFF →
      exec (.setEndpointId e) s = .next (replied s { s.toll with eid := e } (mctpReply 1 0 [0, e, 0])))
    ∧ (∀ e : Byte, e = 0 ∨ e = 0xFF → exec (.setEndpointId e) s = .next (replied s s.toll (mctpReply 1 2 [])))
    ∧ exec .getEndpointId s = .next (replied s s.toll (mctpReply 2 0 [s.toll.eid, 0, 0]))
    ∧ exec .getEndpointUuid s
        = .next (replied s s.toll (mctpReply 3 0 ((List.range 16).map (Config.uuidByte s.toll.deviceId))))
    ∧ (∀ m : Byte, m = 0 ∨ m = 0xFF →
        exec (.getMctpVersionSupport m) s = .next (replied s s.toll (mctpReply 4 0 [1, 0xF1, 0xF3, 0xF1, 0])))
    ∧ (∀ m : Byte, m = 1 ∨ m = 5 →
        exec (.getMctpVersionSupport m) s = .next (replied s s.toll (mctpReply 4 0 [1, 0xF1, 0xF0, 0xF0, 0])))
    ∧ (∀ m : Byte, m ≠ 0 → m ≠ 0xFF → m ≠ 1 → m ≠ 5 →
        exec (.getMctpVersionSupport m) s = .next (replied s s.toll (mctpReply 4 0x80 [])))
    ∧ exec .getMessageTypeSupport s = .next (replied s s.toll (mctpReply 5 0 [3, 0, 1, 5]))
    ∧ (∀ a, s.pw.straps.toNat.testBit 0 = false →
        exec (.dynamicAddressAssignment a) s = .next { s with toll := { s.toll with dynAddr := some a } })
    ∧ (∀ a, s.pw.straps.toNat.testBit 0 = true → exec (.dynamicAddressAssignment a) s = .next s)
    ∧ ∀ ty : Byte,
        exec (.pldmDiscovery ⟨2, ty⟩) s = .next (replied s s.toll (pldmReply 0 2 0 [0]))
        ∧ (∀ v, pldmVersion ty = some v →
            exec (.pldmDiscovery ⟨3, ty⟩) s = .next (replied s s.toll (pldmReply 0 3 0 ([0, 0, 0, 0, 5] ++ v)))
            ∧ exec (.pldmDiscovery ⟨5, ty⟩) s
                = .next (replied s s.toll (pldmReply 0 5 0 (leBytes 32 (((pldmCommands ty).map (2 ^ ·)).sum)))))
        ∧ exec (.pldmDiscovery ⟨4, ty⟩) s = .next (replied s s.toll (pldmReply 0 4 0 [0x25, 0, 0, 0, 0, 0, 0, 0]))
        ∧ (pldmVersion ty = none → exec (.pldmDiscovery ⟨3, ty⟩) s = .next (replied s s.toll (pldmReply 0 3 0x83 []))
            ∧ exec (.pldmDiscovery ⟨5, ty⟩) s = .next (replied s s.toll (pldmReply 0 5 0x83 [])))
        ∧ ∀ c : Byte, c.toNat < 2 ∨ 5 < c.toNat →
            exec (.pldmDiscovery ⟨c, ty⟩) s = .next (replied s s.toll (pldmReply 0 c.toNat 5 []))

/-- R402, R409, R412: the requests of PLDM types 2 and 5. Sensors and effecters are answered while the firmware runs, and are not
ready while the ROM alone runs; an identifier that does not exist is refused; the power limit and the event receiver are set.
An update out of band takes the update path, fills the staging area of a component by its identifier 1 to 3, stages the whole
image, and activates what is staged while no plan is loaded. The bytes of each answer follow the DMTF standards
(assumptions 15, 221). Completion of: getPdrRepositoryInfo, getPdr, getSensorReading, getNumericEffecterValue,
setNumericEffecterValue, setEventReceiver, requestUpdate, requestFirmwareData, activateFirmware. -/
def Obligations.MonitoringAndUpdateRequests : Prop :=
  (∀ s : State, s.pw.stage = .romOnly →
    exec .getPdrRepositoryInfo s = .next (replied s s.toll (pldmReply 2 0x50 4 []))
    ∧ (∀ n : Nat, exec (.getPdr n) s = .next (replied s s.toll (pldmReply 2 0x51 4 [])))
    ∧ (∀ n : Nat, exec (.getSensorReading n) s = .next (replied s s.toll (pldmReply 2 0x11 4 [])))
    ∧ (∀ n : Nat, exec (.getNumericEffecterValue n) s = .next (replied s s.toll (pldmReply 2 0x32 4 [])))
    ∧ (∀ n v : Nat, exec (.setNumericEffecterValue n v) s = .next (replied s s.toll (pldmReply 2 0x31 4 [])))
    ∧ ∀ e : Byte, exec (.setEventReceiver e) s = .next (replied s s.toll (pldmReply 2 4 4 [])))
  ∧ (∀ s : State, fwRuns s = true →
    exec .getPdrRepositoryInfo s = .next (replied s s.toll (pldmReply 2 0x50 0 ([0] ++ zeros 26 ++ leBytes 4 145
        ++ leBytes 4 pdrSizes.sum ++ leBytes 4 (pdrSizes.foldl Nat.max 0) ++ [0])))
    ∧ (∀ h, 1 ≤ h → h ≤ 145 → exec (.getPdr h) s = .next (replied s s.toll (pldmReply 2 0x51 0
        (leBytes 4 (if h = 145 then 0 else h + 1) ++ leBytes 4 0 ++ [5] ++ leBytes 2 (pdrOf h).length ++ pdrOf h))))
    ∧ exec (.getPdr 0) s = exec (.getPdr 1) s
    ∧ (∀ h, 145 < h → exec (.getPdr h) s = .next (replied s s.toll (pldmReply 2 0x51 0x82 [])))
    ∧ (∀ n, 1 ≤ n → n ≤ 144 → exec (.getSensorReading n) s
        = .next (replied s s.toll (pldmReply 2 0x11 0 ([5, 0, 0, 0, 0, 0] ++ sBytes 4 (readingOf s.toll.sample n)))))
    ∧ (∀ n, n = 0 ∨ 144 < n → exec (.getSensorReading n) s = .next (replied s s.toll (pldmReply 2 0x11 0x80 [])))
    ∧ exec (.getNumericEffecterValue 1) s
        = .next (replied s s.toll (pldmReply 2 0x32 0 ([2, 0] ++ leBytes 2 s.toll.limitW ++ leBytes 2 s.toll.limitW)))
    ∧ (∀ v, 1500 ≤ v → v ≤ 3000 → v % 10 = 0 → exec (.setNumericEffecterValue 1 v) s
        = .next (replied s { s.toll with limitW := v } (pldmReply 2 0x31 0 [])))
    ∧ (∀ v, v < 1500 ∨ 3000 < v ∨ v % 10 ≠ 0 →
        exec (.setNumericEffecterValue 1 v) s = .next (replied s s.toll (pldmReply 2 0x31 2 [])))
    ∧ (∀ n, n ≠ 1 → exec (.getNumericEffecterValue n) s = .next (replied s s.toll (pldmReply 2 0x32 0x80 [])))
    ∧ (∀ n v, n ≠ 1 → exec (.setNumericEffecterValue n v) s = .next (replied s s.toll (pldmReply 2 0x31 0x80 [])))
    ∧ ∀ e : Byte, exec (.setEventReceiver e) s = .next (replied s { s.toll with receiver := some e } (pldmReply 2 4 0 [])))
  ∧ (∀ s : State, s.pw.stage ≠ .off →
    (s.toll.update = .none → s.toll.actW = none → exec .requestUpdate s
        = .next (replied s { s.toll with update := .oob, staging := [] } (pldmReply 5 0x10 0 [0, 0, 0])))
    ∧ (s.toll.update ≠ .none ∨ s.toll.actW ≠ none →
        exec .requestUpdate s = .next (replied s s.toll (pldmReply 5 0x10 0x80 []))))
  ∧ ∀ s : State, fwRuns s = true →
    (∀ (id : Nat) (d : List Byte), s.toll.update ≠ .oob ∨ id = 0 ∨ 3 < id → exec (.requestFirmwareData id d) s = .next s)
    ∧ (∀ (k : Nat) (d : List Byte), s.toll.update = .oob → k ≤ 2 →
        let b := (if s.toll.stageComp = k then s.toll.staging else []) ++ d
        let u := setStaged { s with toll := { s.toll with staging := b, stageComp := k } } k false
        (imageWhole k b = false → exec (.requestFirmwareData (k + 1) d) s
          = .next { u with toll := { u.toll with replies := s.toll.replies ++ [pldmReply 5 0x15 0 (leBytes 4 b.length)] } })
        ∧ (imageWhole k b = true → exec (.requestFirmwareData (k + 1) d) s
          = .next (stageImage { s with toll := { s.toll with staging := [], stageComp := k } } k b).1))
    ∧ ∀ env : StartEnv,
        (planState s ≠ plNone → exec (.activateFirmware env) s = .next (replied s s.toll (pldmReply 5 0x1A 4 [])))
        ∧ (planState s = plNone → (∀ c, s.toll.update ≠ .inBand c) → s.toll.actW = none →
          (∀ k, k < 3 → s.toll.staged.toNat.testBit k = true →
            imageOk s.toll k (imageSlot s.toll k (inactiveWhich s.toll k)) = true) →
          let u := replied s { s.toll with update := .none } (pldmReply 5 0x1A 0 [0, 0])
          (s.toll.staged = 0 → exec (.activateFirmware env) s = .next u)
          ∧ (s.toll.staged ≠ 0 → exec (.activateFirmware env) s
            = .next (activateImages (dropCommands (busyOthers u none)) none s.toll.staged env)))

/-- R414 to R416: SPDM requests, over MCTP or over DOE on a trained link. GET_VERSION ends what was negotiated, and only the
extended algorithm is agreed on; before that, digests, certificates, challenges and measurements are refused. Measurements are
those of the active images. The bytes of each answer follow DSP0274 (assumptions 15, 222, 223). Completion of: getVersion,
getCapabilities, negotiateAlgorithms, getDigests, getCertificate, challenge, getMeasurements. -/
def Obligations.AttestationRequests : Prop :=
  ∀ (s : State) (ch : OobChannel), spdmUp s ch = true →
    let refused := fun (e : Nat) => Host.Outcome.next (φ := Fault) (ρ := Refusal) (replied s s.toll (spdmReply 0x7F e 0 []))
    exec (.getVersion ch) s = .next (replied s { s.toll with negotiated := false } (spdmReply 4 0 0 [0, 1, 0, 0x13]))
    ∧ exec (.getCapabilities ch) s = .next (replied s s.toll (spdmReply 0x61 0 0 ([0, 0, 0, 0] ++ leBytes 4 0x16)))
    ∧ exec (.negotiateAlgorithms ch true) s
        = .next (replied s { s.toll with negotiated := true } (spdmReply 0x63 0 0 algorithms))
    ∧ exec (.negotiateAlgorithms ch false) s = refused 1
    ∧ (∀ (slot off len i : Nat) (sig : Bool) (nonce : List Byte), s.toll.negotiated = false →
        exec (.getDigests ch) s = refused 4 ∧ exec (.getCertificate ch slot off len) s = refused 4
        ∧ exec (.challenge ch slot nonce) s = refused 4 ∧ exec (.getMeasurements ch i sig nonce) s = refused 4)
    ∧ (s.toll.negotiated = true →
        let chain := certChain s.toll
        let drawn := (List.range 32).map fun k => Config.randomByte (s.toll.drbg + k)
        let u := { s with toll := { s.toll with drbg := s.toll.drbg + 32 } }
        exec (.getDigests ch) s = .next (replied s s.toll (spdmReply 1 0 1 (sha384 chain)))
        ∧ (∀ off len, off < chain.length →
            let part := (chain.drop off).take len
            exec (.getCertificate ch 0 off len) s = .next (replied s s.toll (spdmReply 2 0 0
              (leBytes 2 part.length ++ leBytes 2 (chain.length - off - part.length) ++ part))))
        ∧ (∀ slot off len, slot ≠ 0 ∨ chain.length ≤ off → exec (.getCertificate ch slot off len) s = refused 1)
        ∧ (∀ nonce : List Byte,
            let body := sha384 chain ++ drawn ++ leBytes 2 0
            exec (.challenge ch 0 nonce) s
              = .next (replied u u.toll (spdmReply 3 0 1 (body ++ aliasSign u (nonce ++ body)))))
        ∧ (∀ (slot : Nat) (nonce : List Byte), slot ≠ 0 → exec (.challenge ch slot nonce) s = refused 1)
        ∧ (∀ (i : Nat) (signed : Bool) (nonce : List Byte), i ≤ 5 ∨ i = 0xFF →
            let is := if i = 0 then [] else if i = 0xFF then [1, 2, 3, 4, 5] else [i]
            let blocks := is.flatMap (measureBlock s.toll)
            let body := leBytes 1 is.length ++ leBytes 3 blocks.length ++ blocks ++ drawn ++ leBytes 2 0
            exec (.getMeasurements ch i signed nonce) s = .next (replied u u.toll (spdmReply 0x60 (if i = 0 then 5 else 0) 0
              (body ++ if signed then aliasSign u (nonce ++ body) else []))))
        ∧ ∀ (i : Nat) (signed : Bool) (nonce : List Byte), 5 < i → i ≠ 0xFF →
            exec (.getMeasurements ch i signed nonce) s = refused 1)
    ∧ ∀ m : List Byte, (aliasSign s m).length = 96

-- ------------------------------------------------------------------------------------------------ power, resets, JTAG

/-- R417 to R420, R431, Tables 21-1, 21-2: the supplies bring the device up in steps and take it down, and a step that fails
stands where the table says. Fuses and the anti-rollback counter survive; DRAM does not survive the loss of P12V. R67: the PCI
Express link runs in Flit mode at 128 and 64 GT/s, and at 32 GT/s where the partner supports it. Completion of: p3v3AuxRise,
p3v3AuxLoss, powerGood, railRetry, readiness, p12vLoss, pcieLinkTrained. -/
def Obligations.SuppliesStartAndStop : Prop :=
  (∀ (s : State) (straps : Byte), s.pw.stage = .off → ∃ t, exec (.p3v3AuxRise straps) s = .next t
      ∧ fusesOf t.toll = fusesOf s.toll ∧ t.toll.rollback = s.toll.rollback ∧ t.pw.straps = straps ∧ t.pw.rails = false
      ∧ t.dram.mem = [] ∧ t.ks = .reset
      ∧ (bootSlot s.toll 0 = none → t.pw.stage = .romOnly ∧ t.pw.faultN = true)
      ∧ (bootSlot s.toll 0 ≠ none → t.pw.stage = .firmware ∧ t.toll.udsLocked = true))
  ∧ (∀ s : State, s.pw.stage ≠ .off → ∃ t, exec .p3v3AuxLoss s = .next t ∧ t.pw.stage = .off ∧ t.pw.rails = false
      ∧ t.pw.tripped = false ∧ t.dram.mem = [] ∧ t.ks = .reset ∧ fusesOf t.toll = fusesOf s.toll
      ∧ t.toll.flashLog = s.toll.flashLog ∧ t.toll.sramLog = [])
  ∧ (∀ (s : State) (env : StartEnv), s.pw.rails = false → s.pw.tripped = false →
      (s.pw.stage = .firmware → env.railsOk = false → ∃ t, exec (.powerGood env) s = .next t ∧ t.pw.stage = .railFailed
        ∧ t.pw.p12v = true ∧ t.pw.rails = false)
      ∧ (s.pw.stage = .firmware → env.railsOk = true → ∃ t, exec (.powerGood env) s = .next t ∧ t.pw.rails = true
        ∧ t.pw.p12v = true ∧ t.dram.mem = [] ∧ t.dram.scrubOn = true
        ∧ (bootSlot s.toll 1 = none ∨ bootSlot s.toll 2 = none → t.pw.stage = .keystoneHeld ∧ t.pw.faultN = true)
        ∧ (bootSlot s.toll 1 ≠ none → bootSlot s.toll 2 ≠ none →
            t.pw.stage = (if env.keystoneSramOk then .booted else .sramFailed)))
      ∧ (s.pw.stage = .railFailed → env.railsOk = false → ∃ t, exec (.railRetry env) s = .next t ∧ t.pw.stage = .railsDead
        ∧ t.pw.faultN = true)
      ∧ (s.pw.stage = .railFailed → env.railsOk = true → ∃ t, exec (.railRetry env) s = .next t ∧ t.pw.rails = true
        ∧ t.dram.mem = [] ∧ t.dram.scrubOn = true)
      ∧ (s.pw.stage ≠ .railFailed → exec (.railRetry env) s = .next s)
      ∧ (s.pw.stage ≠ .firmware → exec (.powerGood env) s = .next s))
  ∧ (∀ s : State, s.pw.stage = .booted → s.toll.actW = none → s.pw.warmPending = false →
      ∃ t, exec .readiness s = .next t ∧ t.pw.stage = .ready ∧ notReady t.host = false ∧ planState t = planState s
        ∧ t.ks = s.ks ∧ t.dram = s.dram)
  ∧ (∀ s : State, s.pw.p12v = true → s.pw.rails = true → ∃ t, exec .p12vLoss s = .next t ∧ t.pw.p12v = false
      ∧ t.pw.rails = false ∧ t.dram.mem = [] ∧ t.ks = .reset ∧ planState t = plNone ∧ notReady t.host = true
      ∧ t.beat.number = s.beat.number ∧ t.beat.adopted = s.beat.adopted ∧ fusesOf t.toll = fusesOf s.toll)
  ∧ ∀ (s : State) (rate : PcieRate) (width : PcieWidth) (flit : Bool) (cfg : PcieConfig),
      (s.pw.rails = true → s.pw.perst = false → ∃ t, exec (.pcieLinkTrained rate width flit cfg) s = .next t
        ∧ t.host.linkUp = true ∧ t.host.rate = rate ∧ t.host.width = width
        ∧ t.host.flitMode = (rate != .gt32 || flit)
        ∧ t.host.msixEn = cfg.msixEn ∧ t.host.pm = cfg.pm ∧ t.host.mps = cfg.mps ∧ { t with host := s.host } = s)
      ∧ (s.pw.rails = false ∨ s.pw.perst = true → exec (.pcieLinkTrained rate width flit cfg) s = .next s)

/-- R394, R423 to R427, Table 21-4: what each reset clears and keeps. PERST_N after readiness holds a warm reset and DRAM keeps
its contents in self-refresh; before readiness it holds the PCIe controller alone. A hot reset and an FLR end the plan and
clear tags, regions and host registers; the first takes the link down, the second clears configuration space. A Tollhouse
reset clears CQ_EN and frees every tag. Completion of: perstNAssert, perstNRelease, hotReset, functionLevelReset,
tollhouseReset. -/
def Obligations.ResetsClearTheirPart : Prop :=
  (∀ s : State, s.pw.perst = true → exec .perstNAssert s = .next s)
  ∧ (∀ s : State, s.pw.perst = false →
      (s.pw.stage = .ready → ∃ t, exec .perstNAssert s = .next t ∧ t.pw.perst = true
        ∧ t.pw.stage = .warmHeld ∧ t.dram.mem = s.dram.mem ∧ t.dram.selfRef = true ∧ planState t = plNone ∧ t.ks.plan = none
        ∧ t.host.linkUp = false ∧ t.host.inUse = [] ∧ t.beat = s.beat ∧ fusesOf t.toll = fusesOf s.toll)
      ∧ (s.pw.stage ≠ .ready → s.pw.rails = false →
        exec .perstNAssert s = .next { s with pw := { s.pw with perst := true } })
      ∧ (s.pw.stage ≠ .ready → s.pw.rails = true → ∃ t, exec .perstNAssert s = .next t ∧ t.pw.perst = true
        ∧ t.pw.stage = s.pw.stage ∧ t.host.linkUp = false ∧ t.host.inUse = [] ∧ t.host.ctrl = 0 ∧ t.host.regions = []
        ∧ t.tre = .reset ∧ t.dram = s.dram ∧ t.sp = s.sp ∧ t.beat = s.beat))
  ∧ (∀ (s : State) (env : StartEnv), s.pw.perst = true →
      (s.pw.stage = .warmHeld → ∃ t, exec (.perstNRelease env) s = .next t ∧ t.pw.perst = false
        ∧ (DramClean s → t.dram.mem = s.dram.mem) ∧ t.dram.selfRef = false ∧ t.beat = s.beat)
      ∧ (s.pw.stage ≠ .warmHeld → exec (.perstNRelease env) s = .next { s with pw := { s.pw with
          perst := false, warmEnv := if s.pw.warmPending then some env else s.pw.warmEnv } }))
  ∧ (∀ s : State, s.host.linkUp = true →
      let cleared := fun (t : State) => planState t = plNone ∧ t.ks.plan = none ∧ t.host.inUse = [] ∧ t.host.regions = []
        ∧ t.host.ctrl = 0 ∧ t.host.err = 0 ∧ t.tre = .reset ∧ t.beat = s.beat ∧ { t.pw with uart := s.pw.uart } = s.pw
      (s.ks.plan = none → planState s = plNone → DramClean s →
        (∃ t, exec .hotReset s = .next t ∧ cleared t ∧ t.dram = s.dram ∧ t.host.linkUp = false)
        ∧ ∃ t, exec .functionLevelReset s = .next t ∧ cleared t ∧ t.dram = s.dram ∧ t.host.linkUp = true
          ∧ t.host.msixEn = false)
      ∧ (planState s ≠ plNone →
        (∃ t, exec .hotReset s = .next t ∧ cleared t ∧ t.host.linkUp = false)
        ∧ ∃ t, exec .functionLevelReset s = .next t ∧ cleared t ∧ t.host.linkUp = true ∧ t.host.msixEn = false))
  ∧ ∀ (s : State) (cause : TollCause) (env : StartEnv), s.pw.stage ≠ .off → s.toll.actW = none →
      ∃ t, exec (.tollhouseReset cause env) s = .next t ∧ cqEn t.host = false ∧ t.host.inUse = [] ∧ planState t = plNone
        ∧ t.ks.plan = none ∧ (DramClean s → t.dram.mem = s.dram.mem) ∧ t.beat = s.beat ∧ fusesOf t.toll = fusesOf s.toll

/-- R440: a scan shifts its bits through the register of the instruction: one bit under BYPASS, CLAMP and HIGHZ, the 32 bits
of the identification code under IDCODE, the lands under SAMPLE/PRELOAD and EXTEST. While a rail supplied from P12V is on, every
instruction but BYPASS and IDCODE acts as BYPASS. The length of the chain is the model's choice (assumption 16). Completion of:
bypass, idcode, samplePreload, extest, clamp, highz. -/
def Obligations.JtagScans : Prop :=
  ∀ (s : State) (tdi : List Bool), s.pw.stage ≠ .off →
    let out := fun (reg : List Bool) => s.jtag.tdo ++ (reg ++ tdi).take tdi.length
    let rest := fun (t : State) => { t with jtag := s.jtag, free := s.free } = s
    (∃ t, exec (.bypass tdi) s = .next t ∧ t.jtag.tdo = out [false] ∧ t.jtag.driving = false ∧ t.jtag.floating = false ∧ rest t)
    ∧ (∃ t, exec (.idcode tdi) s = .next t ∧ t.jtag.tdo = out idcodeBits ∧ t.jtag.driving = false ∧ rest t)
    ∧ idcodeBits.length = 32 ∧ idcodeBits.head? = some true
    ∧ (s.pw.rails = true → ∀ c ∈ [Instr.samplePreload tdi, .extest tdi, .clamp tdi, .highz tdi],
        exec c s = exec (.bypass tdi) s)
    ∧ (s.pw.rails = false →
        let lands := (List.range 28).map (landNow s)
        (∃ t, exec (.samplePreload tdi) s = .next t ∧ t.jtag.tdo = out lands ∧ t.jtag.bsr = (lands ++ tdi).drop tdi.length
          ∧ t.jtag.pinsOut = s.jtag.pinsOut ∧ t.jtag.driving = false ∧ rest t)
        ∧ (∃ t, exec (.extest tdi) s = .next t ∧ t.jtag.tdo = out lands ∧ t.jtag.driving = true
          ∧ t.jtag.pinsOut = (lands ++ tdi).drop tdi.length ∧ t.jtag.bsr = t.jtag.pinsOut ∧ rest t)
        ∧ (∃ t, exec (.clamp tdi) s = .next t ∧ t.jtag.tdo = out [false] ∧ t.jtag.driving = true
          ∧ t.jtag.pinsOut = s.jtag.bsr ∧ rest t)
        ∧ ∃ t, exec (.highz tdi) s = .next t ∧ t.jtag.tdo = out [false] ∧ t.jtag.floating = true ∧ t.jtag.driving = false
          ∧ rest t)
end

