-- ==== Sys2Proof/Laws/State.lean ====
section
/-! SUPPORT. One lemma per component of the state and update: the component updated is the function's value, every other one is
as before. -/

namespace Sys2Proof.Machine

section
variable (s : State) (f : Power → Power)
@[simp] theorem updPw_pending : (updPw s f).pending = s.pending := rfl
@[simp] theorem updPw_free : (updPw s f).free = s.free := rfl
@[simp] theorem updPw_pw : (updPw s f).pw = f s.pw := rfl
@[simp] theorem updPw_beat : (updPw s f).beat = s.beat := rfl
@[simp] theorem updPw_host : (updPw s f).host = s.host := rfl
@[simp] theorem updPw_ks : (updPw s f).ks = s.ks := rfl
@[simp] theorem updPw_sp : (updPw s f).sp = s.sp := rfl
@[simp] theorem updPw_dram : (updPw s f).dram = s.dram := rfl
@[simp] theorem updPw_via : (updPw s f).via = s.via := rfl
@[simp] theorem updPw_grp : (updPw s f).grp = s.grp := rfl
@[simp] theorem updPw_tre : (updPw s f).tre = s.tre := rfl
@[simp] theorem updPw_toll : (updPw s f).toll = s.toll := rfl
@[simp] theorem updPw_jtag : (updPw s f).jtag = s.jtag := rfl
end

section
variable (s : State) (f : Beat → Beat)
@[simp] theorem updBeat_pending : (updBeat s f).pending = s.pending := rfl
@[simp] theorem updBeat_free : (updBeat s f).free = s.free := rfl
@[simp] theorem updBeat_pw : (updBeat s f).pw = s.pw := rfl
@[simp] theorem updBeat_beat : (updBeat s f).beat = f s.beat := rfl
@[simp] theorem updBeat_host : (updBeat s f).host = s.host := rfl
@[simp] theorem updBeat_ks : (updBeat s f).ks = s.ks := rfl
@[simp] theorem updBeat_sp : (updBeat s f).sp = s.sp := rfl
@[simp] theorem updBeat_dram : (updBeat s f).dram = s.dram := rfl
@[simp] theorem updBeat_via : (updBeat s f).via = s.via := rfl
@[simp] theorem updBeat_grp : (updBeat s f).grp = s.grp := rfl
@[simp] theorem updBeat_tre : (updBeat s f).tre = s.tre := rfl
@[simp] theorem updBeat_toll : (updBeat s f).toll = s.toll := rfl
@[simp] theorem updBeat_jtag : (updBeat s f).jtag = s.jtag := rfl
end

section
variable (s : State) (f : HostIf → HostIf)
@[simp] theorem updHost_pending : (updHost s f).pending = s.pending := rfl
@[simp] theorem updHost_free : (updHost s f).free = s.free := rfl
@[simp] theorem updHost_pw : (updHost s f).pw = s.pw := rfl
@[simp] theorem updHost_beat : (updHost s f).beat = s.beat := rfl
@[simp] theorem updHost_host : (updHost s f).host = f s.host := rfl
@[simp] theorem updHost_ks : (updHost s f).ks = s.ks := rfl
@[simp] theorem updHost_sp : (updHost s f).sp = s.sp := rfl
@[simp] theorem updHost_dram : (updHost s f).dram = s.dram := rfl
@[simp] theorem updHost_via : (updHost s f).via = s.via := rfl
@[simp] theorem updHost_grp : (updHost s f).grp = s.grp := rfl
@[simp] theorem updHost_tre : (updHost s f).tre = s.tre := rfl
@[simp] theorem updHost_toll : (updHost s f).toll = s.toll := rfl
@[simp] theorem updHost_jtag : (updHost s f).jtag = s.jtag := rfl
end

section
variable (s : State) (f : Keystone → Keystone)
@[simp] theorem updKs_pending : (updKs s f).pending = s.pending := rfl
@[simp] theorem updKs_free : (updKs s f).free = s.free := rfl
@[simp] theorem updKs_pw : (updKs s f).pw = s.pw := rfl
@[simp] theorem updKs_beat : (updKs s f).beat = s.beat := rfl
@[simp] theorem updKs_host : (updKs s f).host = s.host := rfl
@[simp] theorem updKs_ks : (updKs s f).ks = f s.ks := rfl
@[simp] theorem updKs_sp : (updKs s f).sp = s.sp := rfl
@[simp] theorem updKs_dram : (updKs s f).dram = s.dram := rfl
@[simp] theorem updKs_via : (updKs s f).via = s.via := rfl
@[simp] theorem updKs_grp : (updKs s f).grp = s.grp := rfl
@[simp] theorem updKs_tre : (updKs s f).tre = s.tre := rfl
@[simp] theorem updKs_toll : (updKs s f).toll = s.toll := rfl
@[simp] theorem updKs_jtag : (updKs s f).jtag = s.jtag := rfl
end

section
variable (s : State) (f : Spans → Spans)
@[simp] theorem updSp_pending : (updSp s f).pending = s.pending := rfl
@[simp] theorem updSp_free : (updSp s f).free = s.free := rfl
@[simp] theorem updSp_pw : (updSp s f).pw = s.pw := rfl
@[simp] theorem updSp_beat : (updSp s f).beat = s.beat := rfl
@[simp] theorem updSp_host : (updSp s f).host = s.host := rfl
@[simp] theorem updSp_ks : (updSp s f).ks = s.ks := rfl
@[simp] theorem updSp_sp : (updSp s f).sp = f s.sp := rfl
@[simp] theorem updSp_dram : (updSp s f).dram = s.dram := rfl
@[simp] theorem updSp_via : (updSp s f).via = s.via := rfl
@[simp] theorem updSp_grp : (updSp s f).grp = s.grp := rfl
@[simp] theorem updSp_tre : (updSp s f).tre = s.tre := rfl
@[simp] theorem updSp_toll : (updSp s f).toll = s.toll := rfl
@[simp] theorem updSp_jtag : (updSp s f).jtag = s.jtag := rfl
end

section
variable (s : State) (f : Dram → Dram)
@[simp] theorem updDram_pending : (updDram s f).pending = s.pending := rfl
@[simp] theorem updDram_free : (updDram s f).free = s.free := rfl
@[simp] theorem updDram_pw : (updDram s f).pw = s.pw := rfl
@[simp] theorem updDram_beat : (updDram s f).beat = s.beat := rfl
@[simp] theorem updDram_host : (updDram s f).host = s.host := rfl
@[simp] theorem updDram_ks : (updDram s f).ks = s.ks := rfl
@[simp] theorem updDram_sp : (updDram s f).sp = s.sp := rfl
@[simp] theorem updDram_dram : (updDram s f).dram = f s.dram := rfl
@[simp] theorem updDram_via : (updDram s f).via = s.via := rfl
@[simp] theorem updDram_grp : (updDram s f).grp = s.grp := rfl
@[simp] theorem updDram_tre : (updDram s f).tre = s.tre := rfl
@[simp] theorem updDram_toll : (updDram s f).toll = s.toll := rfl
@[simp] theorem updDram_jtag : (updDram s f).jtag = s.jtag := rfl
end

section
variable (s : State) (f : Viaduct → Viaduct)
@[simp] theorem updVia_pending : (updVia s f).pending = s.pending := rfl
@[simp] theorem updVia_free : (updVia s f).free = s.free := rfl
@[simp] theorem updVia_pw : (updVia s f).pw = s.pw := rfl
@[simp] theorem updVia_beat : (updVia s f).beat = s.beat := rfl
@[simp] theorem updVia_host : (updVia s f).host = s.host := rfl
@[simp] theorem updVia_ks : (updVia s f).ks = s.ks := rfl
@[simp] theorem updVia_sp : (updVia s f).sp = s.sp := rfl
@[simp] theorem updVia_dram : (updVia s f).dram = s.dram := rfl
@[simp] theorem updVia_via : (updVia s f).via = f s.via := rfl
@[simp] theorem updVia_grp : (updVia s f).grp = s.grp := rfl
@[simp] theorem updVia_tre : (updVia s f).tre = s.tre := rfl
@[simp] theorem updVia_toll : (updVia s f).toll = s.toll := rfl
@[simp] theorem updVia_jtag : (updVia s f).jtag = s.jtag := rfl
end

section
variable (s : State) (f : Group → Group)
@[simp] theorem updGrp_pending : (updGrp s f).pending = s.pending := rfl
@[simp] theorem updGrp_free : (updGrp s f).free = s.free := rfl
@[simp] theorem updGrp_pw : (updGrp s f).pw = s.pw := rfl
@[simp] theorem updGrp_beat : (updGrp s f).beat = s.beat := rfl
@[simp] theorem updGrp_host : (updGrp s f).host = s.host := rfl
@[simp] theorem updGrp_ks : (updGrp s f).ks = s.ks := rfl
@[simp] theorem updGrp_sp : (updGrp s f).sp = s.sp := rfl
@[simp] theorem updGrp_dram : (updGrp s f).dram = s.dram := rfl
@[simp] theorem updGrp_via : (updGrp s f).via = s.via := rfl
@[simp] theorem updGrp_grp : (updGrp s f).grp = f s.grp := rfl
@[simp] theorem updGrp_tre : (updGrp s f).tre = s.tre := rfl
@[simp] theorem updGrp_toll : (updGrp s f).toll = s.toll := rfl
@[simp] theorem updGrp_jtag : (updGrp s f).jtag = s.jtag := rfl
end

section
variable (s : State) (f : Trestle → Trestle)
@[simp] theorem updTre_pending : (updTre s f).pending = s.pending := rfl
@[simp] theorem updTre_free : (updTre s f).free = s.free := rfl
@[simp] theorem updTre_pw : (updTre s f).pw = s.pw := rfl
@[simp] theorem updTre_beat : (updTre s f).beat = s.beat := rfl
@[simp] theorem updTre_host : (updTre s f).host = s.host := rfl
@[simp] theorem updTre_ks : (updTre s f).ks = s.ks := rfl
@[simp] theorem updTre_sp : (updTre s f).sp = s.sp := rfl
@[simp] theorem updTre_dram : (updTre s f).dram = s.dram := rfl
@[simp] theorem updTre_via : (updTre s f).via = s.via := rfl
@[simp] theorem updTre_grp : (updTre s f).grp = s.grp := rfl
@[simp] theorem updTre_tre : (updTre s f).tre = f s.tre := rfl
@[simp] theorem updTre_toll : (updTre s f).toll = s.toll := rfl
@[simp] theorem updTre_jtag : (updTre s f).jtag = s.jtag := rfl
end

section
variable (s : State) (f : Toll → Toll)
@[simp] theorem updToll_pending : (updToll s f).pending = s.pending := rfl
@[simp] theorem updToll_free : (updToll s f).free = s.free := rfl
@[simp] theorem updToll_pw : (updToll s f).pw = s.pw := rfl
@[simp] theorem updToll_beat : (updToll s f).beat = s.beat := rfl
@[simp] theorem updToll_host : (updToll s f).host = s.host := rfl
@[simp] theorem updToll_ks : (updToll s f).ks = s.ks := rfl
@[simp] theorem updToll_sp : (updToll s f).sp = s.sp := rfl
@[simp] theorem updToll_dram : (updToll s f).dram = s.dram := rfl
@[simp] theorem updToll_via : (updToll s f).via = s.via := rfl
@[simp] theorem updToll_grp : (updToll s f).grp = s.grp := rfl
@[simp] theorem updToll_tre : (updToll s f).tre = s.tre := rfl
@[simp] theorem updToll_toll : (updToll s f).toll = f s.toll := rfl
@[simp] theorem updToll_jtag : (updToll s f).jtag = s.jtag := rfl
end

end Sys2Proof.Machine
end

