-- ==== Sys2Proof/Laws/Frames.lean ====
section
/-! SUPPORT. What the shared operations leave alone: for each, one lemma per component of the state that it does not touch, so
that no proof unfolds them. -/

namespace Sys2Proof.Machine

/-- A choice keeps what both sides keep. -/
theorem ite_keeps {β : Type} {g : State → β} {b : β} {c : Prop} [Decidable c] {x y : State} (hx : g x = b) (hy : g y = b) :
    g (if c then x else y) = b := by
  by_cases h : c <;> simp [h, hx, hy]

/-- A fold keeps what each of its steps keeps. -/
theorem foldl_keeps {α β : Type} {g : State → β} {f : State → α → State} (hf : ∀ s a, g (f s a) = g s) (l : List α) (s : State) :
    g (l.foldl f s) = g s := by
  induction l generalizing s with
  | nil => rfl
  | cons a l ih => exact (ih (f s a)).trans (hf s a)

section
variable (s : State) (o : PcieOut)
@[simp] theorem sendPcie_pending : (sendPcie s o).pending = s.pending := rfl
@[simp] theorem sendPcie_free : (sendPcie s o).free = s.free := rfl
@[simp] theorem sendPcie_pw : (sendPcie s o).pw = s.pw := rfl
@[simp] theorem sendPcie_beat : (sendPcie s o).beat = s.beat := rfl
@[simp] theorem sendPcie_ks : (sendPcie s o).ks = s.ks := rfl
@[simp] theorem sendPcie_sp : (sendPcie s o).sp = s.sp := rfl
@[simp] theorem sendPcie_dram : (sendPcie s o).dram = s.dram := rfl
@[simp] theorem sendPcie_via : (sendPcie s o).via = s.via := rfl
@[simp] theorem sendPcie_grp : (sendPcie s o).grp = s.grp := rfl
@[simp] theorem sendPcie_tre : (sendPcie s o).tre = s.tre := rfl
@[simp] theorem sendPcie_toll : (sendPcie s o).toll = s.toll := rfl
@[simp] theorem sendPcie_jtag : (sendPcie s o).jtag = s.jtag := rfl
end

section
variable (s : State) (n : Nat)
@[simp] theorem raiseIrq_pending : (raiseIrq s n).pending = s.pending := by
  simp only [raiseIrq]; repeat' split
  all_goals simp
@[simp] theorem raiseIrq_free : (raiseIrq s n).free = s.free := by
  simp only [raiseIrq]; repeat' split
  all_goals simp
@[simp] theorem raiseIrq_pw : (raiseIrq s n).pw = s.pw := by
  simp only [raiseIrq]; repeat' split
  all_goals simp
@[simp] theorem raiseIrq_beat : (raiseIrq s n).beat = s.beat := by
  simp only [raiseIrq]; repeat' split
  all_goals simp
@[simp] theorem raiseIrq_ks : (raiseIrq s n).ks = s.ks := by
  simp only [raiseIrq]; repeat' split
  all_goals simp
@[simp] theorem raiseIrq_sp : (raiseIrq s n).sp = s.sp := by
  simp only [raiseIrq]; repeat' split
  all_goals simp
@[simp] theorem raiseIrq_dram : (raiseIrq s n).dram = s.dram := by
  simp only [raiseIrq]; repeat' split
  all_goals simp
@[simp] theorem raiseIrq_via : (raiseIrq s n).via = s.via := by
  simp only [raiseIrq]; repeat' split
  all_goals simp
@[simp] theorem raiseIrq_grp : (raiseIrq s n).grp = s.grp := by
  simp only [raiseIrq]; repeat' split
  all_goals simp
@[simp] theorem raiseIrq_tre : (raiseIrq s n).tre = s.tre := by
  simp only [raiseIrq]; repeat' split
  all_goals simp
@[simp] theorem raiseIrq_toll : (raiseIrq s n).toll = s.toll := by
  simp only [raiseIrq]; repeat' split
  all_goals simp
@[simp] theorem raiseIrq_jtag : (raiseIrq s n).jtag = s.jtag := by
  simp only [raiseIrq]; repeat' split
  all_goals simp
end

section
variable (s : State) (n : Nat)
@[simp] theorem setErr_pending : (setErr s n).pending = s.pending := by
  simp only [setErr]
  all_goals simp
@[simp] theorem setErr_free : (setErr s n).free = s.free := by
  simp only [setErr]
  all_goals simp
@[simp] theorem setErr_pw : (setErr s n).pw = s.pw := by
  simp only [setErr]
  all_goals simp
@[simp] theorem setErr_beat : (setErr s n).beat = s.beat := by
  simp only [setErr]
  all_goals simp
@[simp] theorem setErr_ks : (setErr s n).ks = s.ks := by
  simp only [setErr]
  all_goals simp
@[simp] theorem setErr_sp : (setErr s n).sp = s.sp := by
  simp only [setErr]
  all_goals simp
@[simp] theorem setErr_dram : (setErr s n).dram = s.dram := by
  simp only [setErr]
  all_goals simp
@[simp] theorem setErr_via : (setErr s n).via = s.via := by
  simp only [setErr]
  all_goals simp
@[simp] theorem setErr_grp : (setErr s n).grp = s.grp := by
  simp only [setErr]
  all_goals simp
@[simp] theorem setErr_tre : (setErr s n).tre = s.tre := by
  simp only [setErr]
  all_goals simp
@[simp] theorem setErr_toll : (setErr s n).toll = s.toll := by
  simp only [setErr]
  all_goals simp
@[simp] theorem setErr_jtag : (setErr s n).jtag = s.jtag := by
  simp only [setErr]
  all_goals simp
end

section
variable (s : State) (n : Nat)
@[simp] theorem setPlanState_pending : (setPlanState s n).pending = s.pending := by
  simp only [setPlanState]; repeat' split
  all_goals simp
@[simp] theorem setPlanState_free : (setPlanState s n).free = s.free := by
  simp only [setPlanState]; repeat' split
  all_goals simp
@[simp] theorem setPlanState_pw : (setPlanState s n).pw = s.pw := by
  simp only [setPlanState]; repeat' split
  all_goals simp
@[simp] theorem setPlanState_beat : (setPlanState s n).beat = s.beat := by
  simp only [setPlanState]; repeat' split
  all_goals simp
@[simp] theorem setPlanState_ks : (setPlanState s n).ks = s.ks := by
  simp only [setPlanState]; repeat' split
  all_goals simp
@[simp] theorem setPlanState_sp : (setPlanState s n).sp = s.sp := by
  simp only [setPlanState]; repeat' split
  all_goals simp
@[simp] theorem setPlanState_dram : (setPlanState s n).dram = s.dram := by
  simp only [setPlanState]; repeat' split
  all_goals simp
@[simp] theorem setPlanState_via : (setPlanState s n).via = s.via := by
  simp only [setPlanState]; repeat' split
  all_goals simp
@[simp] theorem setPlanState_grp : (setPlanState s n).grp = s.grp := by
  simp only [setPlanState]; repeat' split
  all_goals simp
@[simp] theorem setPlanState_tre : (setPlanState s n).tre = s.tre := by
  simp only [setPlanState]; repeat' split
  all_goals simp
@[simp] theorem setPlanState_toll : (setPlanState s n).toll = s.toll := by
  simp only [setPlanState]; repeat' split
  all_goals simp
@[simp] theorem setPlanState_jtag : (setPlanState s n).jtag = s.jtag := by
  simp only [setPlanState]; repeat' split
  all_goals simp
end

theorem keepRecord_frame (s : State) (e : Event) (b : Option W64) : ∃ p t, keepRecord s e b = { s with pw := p, toll := t } := by
  have h : ∀ (c : Bool) (t : Toll) (p : Power), ∃ q u, (if c then updPw { s with toll := t } fun _ => p else { s with toll := t })
      = { s with pw := q, toll := u } := by
    intro c t p
    cases c
    · exact ⟨s.pw, t, rfl⟩
    · exact ⟨p, t, rfl⟩
  exact h _ _ _

section
variable (s : State) (e : Event) (b : Option W64)
@[simp] theorem keepRecord_pending : (keepRecord s e b).pending = s.pending := by
  obtain ⟨p, t, h⟩ := keepRecord_frame s e b; rw [h]
@[simp] theorem keepRecord_free : (keepRecord s e b).free = s.free := by
  obtain ⟨p, t, h⟩ := keepRecord_frame s e b; rw [h]
@[simp] theorem keepRecord_beat : (keepRecord s e b).beat = s.beat := by
  obtain ⟨p, t, h⟩ := keepRecord_frame s e b; rw [h]
@[simp] theorem keepRecord_host : (keepRecord s e b).host = s.host := by
  obtain ⟨p, t, h⟩ := keepRecord_frame s e b; rw [h]
@[simp] theorem keepRecord_ks : (keepRecord s e b).ks = s.ks := by
  obtain ⟨p, t, h⟩ := keepRecord_frame s e b; rw [h]
@[simp] theorem keepRecord_sp : (keepRecord s e b).sp = s.sp := by
  obtain ⟨p, t, h⟩ := keepRecord_frame s e b; rw [h]
@[simp] theorem keepRecord_dram : (keepRecord s e b).dram = s.dram := by
  obtain ⟨p, t, h⟩ := keepRecord_frame s e b; rw [h]
@[simp] theorem keepRecord_via : (keepRecord s e b).via = s.via := by
  obtain ⟨p, t, h⟩ := keepRecord_frame s e b; rw [h]
@[simp] theorem keepRecord_grp : (keepRecord s e b).grp = s.grp := by
  obtain ⟨p, t, h⟩ := keepRecord_frame s e b; rw [h]
@[simp] theorem keepRecord_tre : (keepRecord s e b).tre = s.tre := by
  obtain ⟨p, t, h⟩ := keepRecord_frame s e b; rw [h]
@[simp] theorem keepRecord_jtag : (keepRecord s e b).jtag = s.jtag := by
  obtain ⟨p, t, h⟩ := keepRecord_frame s e b; rw [h]
end

section
variable (s : State) (w : Window)
@[simp] theorem closeWindow_pending : (closeWindow s w).pending = s.pending := by
  simp only [closeWindow]; repeat' split
  all_goals simp [dropWindow]
@[simp] theorem closeWindow_free : (closeWindow s w).free = s.free := by
  simp only [closeWindow]; repeat' split
  all_goals simp [dropWindow]
@[simp] theorem closeWindow_beat : (closeWindow s w).beat = s.beat := by
  simp only [closeWindow]; repeat' split
  all_goals simp [dropWindow]
@[simp] theorem closeWindow_host : (closeWindow s w).host = s.host := by
  simp only [closeWindow]; repeat' split
  all_goals simp [dropWindow]
@[simp] theorem closeWindow_ks : (closeWindow s w).ks = s.ks := by
  simp only [closeWindow]; repeat' split
  all_goals simp [dropWindow]
@[simp] theorem closeWindow_sp : (closeWindow s w).sp = s.sp := by
  simp only [closeWindow]; repeat' split
  all_goals simp [dropWindow]
@[simp] theorem closeWindow_dram : (closeWindow s w).dram = s.dram := by
  simp only [closeWindow]; repeat' split
  all_goals simp [dropWindow]
@[simp] theorem closeWindow_via : (closeWindow s w).via = s.via := by
  simp only [closeWindow]; repeat' split
  all_goals simp [dropWindow]
@[simp] theorem closeWindow_grp : (closeWindow s w).grp = s.grp := by
  simp only [closeWindow]; repeat' split
  all_goals simp [dropWindow]
@[simp] theorem closeWindow_tre : (closeWindow s w).tre = s.tre := by
  simp only [closeWindow]; repeat' split
  all_goals simp [dropWindow]
@[simp] theorem closeWindow_jtag : (closeWindow s w).jtag = s.jtag := by
  simp only [closeWindow]; repeat' split
  all_goals simp [dropWindow]
end

section
variable (s : State) (e : Event)
@[simp] theorem logEvent_pending : (logEvent s e).pending = s.pending := by
  simp only [logEvent]; repeat' split
  all_goals simp [dropWindow]
@[simp] theorem logEvent_free : (logEvent s e).free = s.free := by
  simp only [logEvent]; repeat' split
  all_goals simp [dropWindow]
@[simp] theorem logEvent_beat : (logEvent s e).beat = s.beat := by
  simp only [logEvent]; repeat' split
  all_goals simp [dropWindow]
@[simp] theorem logEvent_host : (logEvent s e).host = s.host := by
  simp only [logEvent]; repeat' split
  all_goals simp [dropWindow]
@[simp] theorem logEvent_ks : (logEvent s e).ks = s.ks := by
  simp only [logEvent]; repeat' split
  all_goals simp [dropWindow]
@[simp] theorem logEvent_sp : (logEvent s e).sp = s.sp := by
  simp only [logEvent]; repeat' split
  all_goals simp [dropWindow]
@[simp] theorem logEvent_dram : (logEvent s e).dram = s.dram := by
  simp only [logEvent]; repeat' split
  all_goals simp [dropWindow]
@[simp] theorem logEvent_via : (logEvent s e).via = s.via := by
  simp only [logEvent]; repeat' split
  all_goals simp [dropWindow]
@[simp] theorem logEvent_grp : (logEvent s e).grp = s.grp := by
  simp only [logEvent]; repeat' split
  all_goals simp [dropWindow]
@[simp] theorem logEvent_tre : (logEvent s e).tre = s.tre := by
  simp only [logEvent]; repeat' split
  all_goals simp [dropWindow]
@[simp] theorem logEvent_jtag : (logEvent s e).jtag = s.jtag := by
  simp only [logEvent]; repeat' split
  all_goals simp [dropWindow]
end

section
variable (s : State) (e : Event)
@[simp] theorem notifyFault_pending : (notifyFault s e).pending = s.pending := by
  simp only [notifyFault]
  all_goals simp
@[simp] theorem notifyFault_free : (notifyFault s e).free = s.free := by
  simp only [notifyFault]
  all_goals simp
@[simp] theorem notifyFault_beat : (notifyFault s e).beat = s.beat := by
  simp only [notifyFault]
  all_goals simp
@[simp] theorem notifyFault_ks : (notifyFault s e).ks = s.ks := by
  simp only [notifyFault]
  all_goals simp
@[simp] theorem notifyFault_sp : (notifyFault s e).sp = s.sp := by
  simp only [notifyFault]
  all_goals simp
@[simp] theorem notifyFault_dram : (notifyFault s e).dram = s.dram := by
  simp only [notifyFault]
  all_goals simp
@[simp] theorem notifyFault_via : (notifyFault s e).via = s.via := by
  simp only [notifyFault]
  all_goals simp
@[simp] theorem notifyFault_grp : (notifyFault s e).grp = s.grp := by
  simp only [notifyFault]
  all_goals simp
@[simp] theorem notifyFault_tre : (notifyFault s e).tre = s.tre := by
  simp only [notifyFault]
  all_goals simp
@[simp] theorem notifyFault_jtag : (notifyFault s e).jtag = s.jtag := by
  simp only [notifyFault]
  all_goals simp
end

section
variable (s : State) (tag cmd st : Nat) (rs : List Nat)
@[simp] theorem putRecord_pending : (putRecord s tag cmd st rs).pending = s.pending := by
  simp only [putRecord]; repeat' split
  all_goals simp
@[simp] theorem putRecord_free : (putRecord s tag cmd st rs).free = s.free := by
  simp only [putRecord]; repeat' split
  all_goals simp
@[simp] theorem putRecord_beat : (putRecord s tag cmd st rs).beat = s.beat := by
  simp only [putRecord]; repeat' split
  all_goals simp
@[simp] theorem putRecord_ks : (putRecord s tag cmd st rs).ks = s.ks := by
  simp only [putRecord]; repeat' split
  all_goals simp
@[simp] theorem putRecord_sp : (putRecord s tag cmd st rs).sp = s.sp := by
  simp only [putRecord]; repeat' split
  all_goals simp
@[simp] theorem putRecord_dram : (putRecord s tag cmd st rs).dram = s.dram := by
  simp only [putRecord]; repeat' split
  all_goals simp
@[simp] theorem putRecord_via : (putRecord s tag cmd st rs).via = s.via := by
  simp only [putRecord]; repeat' split
  all_goals simp
@[simp] theorem putRecord_grp : (putRecord s tag cmd st rs).grp = s.grp := by
  simp only [putRecord]; repeat' split
  all_goals simp
@[simp] theorem putRecord_tre : (putRecord s tag cmd st rs).tre = s.tre := by
  simp only [putRecord]; repeat' split
  all_goals simp
@[simp] theorem putRecord_jtag : (putRecord s tag cmd st rs).jtag = s.jtag := by
  simp only [putRecord]; repeat' split
  all_goals simp
end

section
variable (s : State) (n : Nat)
@[simp] theorem countRecord_pending : (countRecord s n).pending = s.pending := by
  simp only [countRecord]; repeat' split
  all_goals simp
@[simp] theorem countRecord_free : (countRecord s n).free = s.free := by
  simp only [countRecord]; repeat' split
  all_goals simp
@[simp] theorem countRecord_pw : (countRecord s n).pw = s.pw := by
  simp only [countRecord]; repeat' split
  all_goals simp
@[simp] theorem countRecord_beat : (countRecord s n).beat = s.beat := by
  simp only [countRecord]; repeat' split
  all_goals simp
@[simp] theorem countRecord_ks : (countRecord s n).ks = s.ks := by
  simp only [countRecord]; repeat' split
  all_goals simp
@[simp] theorem countRecord_sp : (countRecord s n).sp = s.sp := by
  simp only [countRecord]; repeat' split
  all_goals simp
@[simp] theorem countRecord_dram : (countRecord s n).dram = s.dram := by
  simp only [countRecord]; repeat' split
  all_goals simp
@[simp] theorem countRecord_via : (countRecord s n).via = s.via := by
  simp only [countRecord]; repeat' split
  all_goals simp
@[simp] theorem countRecord_grp : (countRecord s n).grp = s.grp := by
  simp only [countRecord]; repeat' split
  all_goals simp
@[simp] theorem countRecord_tre : (countRecord s n).tre = s.tre := by
  simp only [countRecord]; repeat' split
  all_goals simp
@[simp] theorem countRecord_toll : (countRecord s n).toll = s.toll := by
  simp only [countRecord]; repeat' split
  all_goals simp
@[simp] theorem countRecord_jtag : (countRecord s n).jtag = s.jtag := by
  simp only [countRecord]; repeat' split
  all_goals simp
end

section
variable (s : State) (c : Taken)
@[simp] theorem acceptRecord_pending : (acceptRecord s c).pending = s.pending := by
  simp only [acceptRecord]; repeat' split
  all_goals simp
@[simp] theorem acceptRecord_free : (acceptRecord s c).free = s.free := by
  simp only [acceptRecord]; repeat' split
  all_goals simp
@[simp] theorem acceptRecord_beat : (acceptRecord s c).beat = s.beat := by
  simp only [acceptRecord]; repeat' split
  all_goals simp
@[simp] theorem acceptRecord_ks : (acceptRecord s c).ks = s.ks := by
  simp only [acceptRecord]; repeat' split
  all_goals simp
@[simp] theorem acceptRecord_sp : (acceptRecord s c).sp = s.sp := by
  simp only [acceptRecord]; repeat' split
  all_goals simp
@[simp] theorem acceptRecord_dram : (acceptRecord s c).dram = s.dram := by
  simp only [acceptRecord]; repeat' split
  all_goals simp
@[simp] theorem acceptRecord_via : (acceptRecord s c).via = s.via := by
  simp only [acceptRecord]; repeat' split
  all_goals simp
@[simp] theorem acceptRecord_grp : (acceptRecord s c).grp = s.grp := by
  simp only [acceptRecord]; repeat' split
  all_goals simp
@[simp] theorem acceptRecord_tre : (acceptRecord s c).tre = s.tre := by
  simp only [acceptRecord]; repeat' split
  all_goals simp
@[simp] theorem acceptRecord_jtag : (acceptRecord s c).jtag = s.jtag := by
  simp only [acceptRecord]; repeat' split
  all_goals simp
end

section
variable (s : State) (c : Taken)
@[simp] theorem freeTag_pending : (freeTag s c).pending = s.pending := rfl
@[simp] theorem freeTag_free : (freeTag s c).free = s.free := rfl
@[simp] theorem freeTag_pw : (freeTag s c).pw = s.pw := rfl
@[simp] theorem freeTag_beat : (freeTag s c).beat = s.beat := rfl
@[simp] theorem freeTag_ks : (freeTag s c).ks = s.ks := rfl
@[simp] theorem freeTag_sp : (freeTag s c).sp = s.sp := rfl
@[simp] theorem freeTag_dram : (freeTag s c).dram = s.dram := rfl
@[simp] theorem freeTag_via : (freeTag s c).via = s.via := rfl
@[simp] theorem freeTag_grp : (freeTag s c).grp = s.grp := rfl
@[simp] theorem freeTag_tre : (freeTag s c).tre = s.tre := rfl
@[simp] theorem freeTag_toll : (freeTag s c).toll = s.toll := rfl
@[simp] theorem freeTag_jtag : (freeTag s c).jtag = s.jtag := rfl
end

section
variable (s : State) (c : Taken) (st : Nat) (rs : List Nat)
@[simp] theorem finishCmd_pending : (finishCmd s c st rs).pending = s.pending := by
  simp only [finishCmd]; repeat' split
  all_goals simp
@[simp] theorem finishCmd_free : (finishCmd s c st rs).free = s.free := by
  simp only [finishCmd]; repeat' split
  all_goals simp
@[simp] theorem finishCmd_beat : (finishCmd s c st rs).beat = s.beat := by
  simp only [finishCmd]; repeat' split
  all_goals simp
@[simp] theorem finishCmd_ks : (finishCmd s c st rs).ks = s.ks := by
  simp only [finishCmd]; repeat' split
  all_goals simp
@[simp] theorem finishCmd_sp : (finishCmd s c st rs).sp = s.sp := by
  simp only [finishCmd]; repeat' split
  all_goals simp
@[simp] theorem finishCmd_dram : (finishCmd s c st rs).dram = s.dram := by
  simp only [finishCmd]; repeat' split
  all_goals simp
@[simp] theorem finishCmd_via : (finishCmd s c st rs).via = s.via := by
  simp only [finishCmd]; repeat' split
  all_goals simp
@[simp] theorem finishCmd_grp : (finishCmd s c st rs).grp = s.grp := by
  simp only [finishCmd]; repeat' split
  all_goals simp
@[simp] theorem finishCmd_tre : (finishCmd s c st rs).tre = s.tre := by
  simp only [finishCmd]; repeat' split
  all_goals simp
@[simp] theorem finishCmd_jtag : (finishCmd s c st rs).jtag = s.jtag := by
  simp only [finishCmd]; repeat' split
  all_goals simp
end

section
variable (s : State) (c : Option Taken) (st : Nat) (rs : List Nat)
@[simp] theorem finishOpt_pending : (finishOpt s c st rs).pending = s.pending := by
  cases c <;> simp [finishOpt]
@[simp] theorem finishOpt_free : (finishOpt s c st rs).free = s.free := by
  cases c <;> simp [finishOpt]
@[simp] theorem finishOpt_beat : (finishOpt s c st rs).beat = s.beat := by
  cases c <;> simp [finishOpt]
@[simp] theorem finishOpt_ks : (finishOpt s c st rs).ks = s.ks := by
  cases c <;> simp [finishOpt]
@[simp] theorem finishOpt_sp : (finishOpt s c st rs).sp = s.sp := by
  cases c <;> simp [finishOpt]
@[simp] theorem finishOpt_dram : (finishOpt s c st rs).dram = s.dram := by
  cases c <;> simp [finishOpt]
@[simp] theorem finishOpt_via : (finishOpt s c st rs).via = s.via := by
  cases c <;> simp [finishOpt]
@[simp] theorem finishOpt_grp : (finishOpt s c st rs).grp = s.grp := by
  cases c <;> simp [finishOpt]
@[simp] theorem finishOpt_tre : (finishOpt s c st rs).tre = s.tre := by
  cases c <;> simp [finishOpt]
@[simp] theorem finishOpt_jtag : (finishOpt s c st rs).jtag = s.jtag := by
  cases c <;> simp [finishOpt]
end

section
variable (s : State) (c : Taken)
@[simp] theorem acceptCmd_pending : (acceptCmd s c).pending = s.pending := by
  simp only [acceptCmd]
  all_goals simp
@[simp] theorem acceptCmd_free : (acceptCmd s c).free = s.free := by
  simp only [acceptCmd]
  all_goals simp
@[simp] theorem acceptCmd_beat : (acceptCmd s c).beat = s.beat := by
  simp only [acceptCmd]
  all_goals simp
@[simp] theorem acceptCmd_ks : (acceptCmd s c).ks = s.ks := by
  simp only [acceptCmd]
  all_goals simp
@[simp] theorem acceptCmd_sp : (acceptCmd s c).sp = s.sp := by
  simp only [acceptCmd]
  all_goals simp
@[simp] theorem acceptCmd_dram : (acceptCmd s c).dram = s.dram := by
  simp only [acceptCmd]
  all_goals simp
@[simp] theorem acceptCmd_via : (acceptCmd s c).via = s.via := by
  simp only [acceptCmd]
  all_goals simp
@[simp] theorem acceptCmd_grp : (acceptCmd s c).grp = s.grp := by
  simp only [acceptCmd]
  all_goals simp
@[simp] theorem acceptCmd_tre : (acceptCmd s c).tre = s.tre := by
  simp only [acceptCmd]
  all_goals simp
@[simp] theorem acceptCmd_jtag : (acceptCmd s c).jtag = s.jtag := by
  simp only [acceptCmd]
  all_goals simp
end

section
variable (s : State) (a : Nat) (b : List Byte)
@[simp] theorem hostWrite_pending : (hostWrite s a b).pending = s.pending := by
  unfold hostWrite; rw [foldl_keeps (g := State.pending)]; intro _ _; rfl
@[simp] theorem hostWrite_free : (hostWrite s a b).free = s.free := by
  unfold hostWrite; rw [foldl_keeps (g := State.free)]; intro _ _; rfl
@[simp] theorem hostWrite_pw : (hostWrite s a b).pw = s.pw := by
  unfold hostWrite; rw [foldl_keeps (g := State.pw)]; intro _ _; rfl
@[simp] theorem hostWrite_beat : (hostWrite s a b).beat = s.beat := by
  unfold hostWrite; rw [foldl_keeps (g := State.beat)]; intro _ _; rfl
@[simp] theorem hostWrite_ks : (hostWrite s a b).ks = s.ks := by
  unfold hostWrite; rw [foldl_keeps (g := State.ks)]; intro _ _; rfl
@[simp] theorem hostWrite_sp : (hostWrite s a b).sp = s.sp := by
  unfold hostWrite; rw [foldl_keeps (g := State.sp)]; intro _ _; rfl
@[simp] theorem hostWrite_dram : (hostWrite s a b).dram = s.dram := by
  unfold hostWrite; rw [foldl_keeps (g := State.dram)]; intro _ _; rfl
@[simp] theorem hostWrite_via : (hostWrite s a b).via = s.via := by
  unfold hostWrite; rw [foldl_keeps (g := State.via)]; intro _ _; rfl
@[simp] theorem hostWrite_grp : (hostWrite s a b).grp = s.grp := by
  unfold hostWrite; rw [foldl_keeps (g := State.grp)]; intro _ _; rfl
@[simp] theorem hostWrite_tre : (hostWrite s a b).tre = s.tre := by
  unfold hostWrite; rw [foldl_keeps (g := State.tre)]; intro _ _; rfl
@[simp] theorem hostWrite_toll : (hostWrite s a b).toll = s.toll := by
  unfold hostWrite; rw [foldl_keeps (g := State.toll)]; intro _ _; rfl
@[simp] theorem hostWrite_jtag : (hostWrite s a b).jtag = s.jtag := by
  unfold hostWrite; rw [foldl_keeps (g := State.jtag)]; intro _ _; rfl
end

section
variable (s : State) (p : Nat → Bool)
@[simp] theorem loseSectors_pending : (loseSectors s p).pending = s.pending := rfl
@[simp] theorem loseSectors_free : (loseSectors s p).free = s.free := rfl
@[simp] theorem loseSectors_pw : (loseSectors s p).pw = s.pw := rfl
@[simp] theorem loseSectors_beat : (loseSectors s p).beat = s.beat := rfl
@[simp] theorem loseSectors_host : (loseSectors s p).host = s.host := rfl
@[simp] theorem loseSectors_ks : (loseSectors s p).ks = s.ks := rfl
@[simp] theorem loseSectors_sp : (loseSectors s p).sp = s.sp := rfl
@[simp] theorem loseSectors_via : (loseSectors s p).via = s.via := rfl
@[simp] theorem loseSectors_grp : (loseSectors s p).grp = s.grp := rfl
@[simp] theorem loseSectors_tre : (loseSectors s p).tre = s.tre := rfl
@[simp] theorem loseSectors_toll : (loseSectors s p).toll = s.toll := rfl
@[simp] theorem loseSectors_jtag : (loseSectors s p).jtag = s.jtag := rfl
end

section
variable (s : State) (r : Repair) (a b c : Nat)
@[simp] theorem recordRepair_pending : (recordRepair s r a b c).pending = s.pending := by
  simp only [recordRepair]
  all_goals simp
@[simp] theorem recordRepair_free : (recordRepair s r a b c).free = s.free := by
  simp only [recordRepair]
  all_goals simp
@[simp] theorem recordRepair_beat : (recordRepair s r a b c).beat = s.beat := by
  simp only [recordRepair]
  all_goals simp
@[simp] theorem recordRepair_host : (recordRepair s r a b c).host = s.host := by
  simp only [recordRepair]
  all_goals simp
@[simp] theorem recordRepair_ks : (recordRepair s r a b c).ks = s.ks := by
  simp only [recordRepair]
  all_goals simp
@[simp] theorem recordRepair_sp : (recordRepair s r a b c).sp = s.sp := by
  simp only [recordRepair]
  all_goals simp
@[simp] theorem recordRepair_dram : (recordRepair s r a b c).dram = s.dram := by
  simp only [recordRepair]
  all_goals simp
@[simp] theorem recordRepair_via : (recordRepair s r a b c).via = s.via := by
  simp only [recordRepair]
  all_goals simp
@[simp] theorem recordRepair_grp : (recordRepair s r a b c).grp = s.grp := by
  simp only [recordRepair]
  all_goals simp
@[simp] theorem recordRepair_tre : (recordRepair s r a b c).tre = s.tre := by
  simp only [recordRepair]
  all_goals simp
@[simp] theorem recordRepair_jtag : (recordRepair s r a b c).jtag = s.jtag := by
  simp only [recordRepair]
  all_goals simp
end

section
variable (s : State) (a b : Nat)
@[simp] theorem retireRegion_pending : (retireRegion s a b).pending = s.pending := by
  simp only [retireRegion]; repeat' split
  all_goals simp
@[simp] theorem retireRegion_free : (retireRegion s a b).free = s.free := by
  simp only [retireRegion]; repeat' split
  all_goals simp
@[simp] theorem retireRegion_beat : (retireRegion s a b).beat = s.beat := by
  simp only [retireRegion]; repeat' split
  all_goals simp
@[simp] theorem retireRegion_host : (retireRegion s a b).host = s.host := by
  simp only [retireRegion]; repeat' split
  all_goals simp
@[simp] theorem retireRegion_ks : (retireRegion s a b).ks = s.ks := by
  simp only [retireRegion]; repeat' split
  all_goals simp
@[simp] theorem retireRegion_sp : (retireRegion s a b).sp = s.sp := by
  simp only [retireRegion]; repeat' split
  all_goals simp
@[simp] theorem retireRegion_via : (retireRegion s a b).via = s.via := by
  simp only [retireRegion]; repeat' split
  all_goals simp
@[simp] theorem retireRegion_grp : (retireRegion s a b).grp = s.grp := by
  simp only [retireRegion]; repeat' split
  all_goals simp
@[simp] theorem retireRegion_tre : (retireRegion s a b).tre = s.tre := by
  simp only [retireRegion]; repeat' split
  all_goals simp
@[simp] theorem retireRegion_jtag : (retireRegion s a b).jtag = s.jtag := by
  simp only [retireRegion]; repeat' split
  all_goals simp
end

section
variable (s : State) (k : Nat)
@[simp] theorem remapRow_pending : (remapRow s k).pending = s.pending := by
  simp only [remapRow]; repeat' split
  all_goals simp
@[simp] theorem remapRow_free : (remapRow s k).free = s.free := by
  simp only [remapRow]; repeat' split
  all_goals simp
@[simp] theorem remapRow_beat : (remapRow s k).beat = s.beat := by
  simp only [remapRow]; repeat' split
  all_goals simp
@[simp] theorem remapRow_host : (remapRow s k).host = s.host := by
  simp only [remapRow]; repeat' split
  all_goals simp
@[simp] theorem remapRow_ks : (remapRow s k).ks = s.ks := by
  simp only [remapRow]; repeat' split
  all_goals simp
@[simp] theorem remapRow_sp : (remapRow s k).sp = s.sp := by
  simp only [remapRow]; repeat' split
  all_goals simp
@[simp] theorem remapRow_via : (remapRow s k).via = s.via := by
  simp only [remapRow]; repeat' split
  all_goals simp
@[simp] theorem remapRow_grp : (remapRow s k).grp = s.grp := by
  simp only [remapRow]; repeat' split
  all_goals simp
@[simp] theorem remapRow_tre : (remapRow s k).tre = s.tre := by
  simp only [remapRow]; repeat' split
  all_goals simp
@[simp] theorem remapRow_jtag : (remapRow s k).jtag = s.jtag := by
  simp only [remapRow]; repeat' split
  all_goals simp
end

section
variable (s : State) 
@[simp] theorem settleRows_pending : (settleRows s).pending = s.pending := by
  unfold settleRows; exact foldl_keeps (g := State.pending) (fun s k => ite_keeps (remapRow_pending s k) rfl) _ _
@[simp] theorem settleRows_free : (settleRows s).free = s.free := by
  unfold settleRows; exact foldl_keeps (g := State.free) (fun s k => ite_keeps (remapRow_free s k) rfl) _ _
@[simp] theorem settleRows_beat : (settleRows s).beat = s.beat := by
  unfold settleRows; exact foldl_keeps (g := State.beat) (fun s k => ite_keeps (remapRow_beat s k) rfl) _ _
@[simp] theorem settleRows_host : (settleRows s).host = s.host := by
  unfold settleRows; exact foldl_keeps (g := State.host) (fun s k => ite_keeps (remapRow_host s k) rfl) _ _
@[simp] theorem settleRows_ks : (settleRows s).ks = s.ks := by
  unfold settleRows; exact foldl_keeps (g := State.ks) (fun s k => ite_keeps (remapRow_ks s k) rfl) _ _
@[simp] theorem settleRows_sp : (settleRows s).sp = s.sp := by
  unfold settleRows; exact foldl_keeps (g := State.sp) (fun s k => ite_keeps (remapRow_sp s k) rfl) _ _
@[simp] theorem settleRows_via : (settleRows s).via = s.via := by
  unfold settleRows; exact foldl_keeps (g := State.via) (fun s k => ite_keeps (remapRow_via s k) rfl) _ _
@[simp] theorem settleRows_grp : (settleRows s).grp = s.grp := by
  unfold settleRows; exact foldl_keeps (g := State.grp) (fun s k => ite_keeps (remapRow_grp s k) rfl) _ _
@[simp] theorem settleRows_tre : (settleRows s).tre = s.tre := by
  unfold settleRows; exact foldl_keeps (g := State.tre) (fun s k => ite_keeps (remapRow_tre s k) rfl) _ _
@[simp] theorem settleRows_jtag : (settleRows s).jtag = s.jtag := by
  unfold settleRows; exact foldl_keeps (g := State.jtag) (fun s k => ite_keeps (remapRow_jtag s k) rfl) _ _
end

section
variable (s t : State)
@[simp] theorem logLost_pending : (logLost s t).pending = t.pending := by
  unfold logLost; exact ite_keeps rfl (foldl_keeps (g := State.pending) (fun s k => logEvent_pending s _) _ _)
@[simp] theorem logLost_free : (logLost s t).free = t.free := by
  unfold logLost; exact ite_keeps rfl (foldl_keeps (g := State.free) (fun s k => logEvent_free s _) _ _)
@[simp] theorem logLost_beat : (logLost s t).beat = t.beat := by
  unfold logLost; exact ite_keeps rfl (foldl_keeps (g := State.beat) (fun s k => logEvent_beat s _) _ _)
@[simp] theorem logLost_host : (logLost s t).host = t.host := by
  unfold logLost; exact ite_keeps rfl (foldl_keeps (g := State.host) (fun s k => logEvent_host s _) _ _)
@[simp] theorem logLost_ks : (logLost s t).ks = t.ks := by
  unfold logLost; exact ite_keeps rfl (foldl_keeps (g := State.ks) (fun s k => logEvent_ks s _) _ _)
@[simp] theorem logLost_sp : (logLost s t).sp = t.sp := by
  unfold logLost; exact ite_keeps rfl (foldl_keeps (g := State.sp) (fun s k => logEvent_sp s _) _ _)
@[simp] theorem logLost_via : (logLost s t).via = t.via := by
  unfold logLost; exact ite_keeps rfl (foldl_keeps (g := State.via) (fun s k => logEvent_via s _) _ _)
@[simp] theorem logLost_grp : (logLost s t).grp = t.grp := by
  unfold logLost; exact ite_keeps rfl (foldl_keeps (g := State.grp) (fun s k => logEvent_grp s _) _ _)
@[simp] theorem logLost_tre : (logLost s t).tre = t.tre := by
  unfold logLost; exact ite_keeps rfl (foldl_keeps (g := State.tre) (fun s k => logEvent_tre s _) _ _)
@[simp] theorem logLost_jtag : (logLost s t).jtag = t.jtag := by
  unfold logLost; exact ite_keeps rfl (foldl_keeps (g := State.jtag) (fun s k => logEvent_jtag s _) _ _)
@[simp] theorem settleIdle_pending : (settleIdle s).pending = s.pending := by
  simp only [settleIdle]; split <;> simp
@[simp] theorem settleIdle_free : (settleIdle s).free = s.free := by
  simp only [settleIdle]; split <;> simp
@[simp] theorem settleIdle_beat : (settleIdle s).beat = s.beat := by
  simp only [settleIdle]; split <;> simp
@[simp] theorem settleIdle_host : (settleIdle s).host = s.host := by
  simp only [settleIdle]; split <;> simp
@[simp] theorem settleIdle_ks : (settleIdle s).ks = s.ks := by
  simp only [settleIdle]; split <;> simp
@[simp] theorem settleIdle_sp : (settleIdle s).sp = s.sp := by
  simp only [settleIdle]; split <;> simp
@[simp] theorem settleIdle_via : (settleIdle s).via = s.via := by
  simp only [settleIdle]; split <;> simp
@[simp] theorem settleIdle_grp : (settleIdle s).grp = s.grp := by
  simp only [settleIdle]; split <;> simp
@[simp] theorem settleIdle_tre : (settleIdle s).tre = s.tre := by
  simp only [settleIdle]; split <;> simp
@[simp] theorem settleIdle_jtag : (settleIdle s).jtag = s.jtag := by
  simp only [settleIdle]; split <;> simp
end

section
variable (s : State) (k : Nat)
@[simp] theorem markRow_pending : (markRow s k).pending = s.pending := rfl
@[simp] theorem markRow_free : (markRow s k).free = s.free := rfl
@[simp] theorem markRow_pw : (markRow s k).pw = s.pw := rfl
@[simp] theorem markRow_beat : (markRow s k).beat = s.beat := rfl
@[simp] theorem markRow_host : (markRow s k).host = s.host := rfl
@[simp] theorem markRow_ks : (markRow s k).ks = s.ks := rfl
@[simp] theorem markRow_sp : (markRow s k).sp = s.sp := rfl
@[simp] theorem markRow_via : (markRow s k).via = s.via := rfl
@[simp] theorem markRow_grp : (markRow s k).grp = s.grp := rfl
@[simp] theorem markRow_tre : (markRow s k).tre = s.tre := rfl
@[simp] theorem markRow_toll : (markRow s k).toll = s.toll := rfl
@[simp] theorem markRow_jtag : (markRow s k).jtag = s.jtag := rfl
end

section
variable (s : State) (k : Nat)
@[simp] theorem failRow_pending : (failRow s k).pending = s.pending := by
  simp only [failRow]
  all_goals simp
@[simp] theorem failRow_free : (failRow s k).free = s.free := by
  simp only [failRow]
  all_goals simp
@[simp] theorem failRow_beat : (failRow s k).beat = s.beat := by
  simp only [failRow]
  all_goals simp
@[simp] theorem failRow_host : (failRow s k).host = s.host := by
  simp only [failRow]
  all_goals simp
@[simp] theorem failRow_ks : (failRow s k).ks = s.ks := by
  simp only [failRow]
  all_goals simp
@[simp] theorem failRow_sp : (failRow s k).sp = s.sp := by
  simp only [failRow]
  all_goals simp
@[simp] theorem failRow_via : (failRow s k).via = s.via := by
  simp only [failRow]
  all_goals simp
@[simp] theorem failRow_grp : (failRow s k).grp = s.grp := by
  simp only [failRow]
  all_goals simp
@[simp] theorem failRow_tre : (failRow s k).tre = s.tre := by
  simp only [failRow]
  all_goals simp
@[simp] theorem failRow_jtag : (failRow s k).jtag = s.jtag := by
  simp only [failRow]
  all_goals simp
end

section
variable (s : State) (e : SectorErr)
@[simp] theorem markCorrected_pending : (markCorrected s e).pending = s.pending := by
  simp only [markCorrected]; repeat' split
  all_goals simp
@[simp] theorem markCorrected_free : (markCorrected s e).free = s.free := by
  simp only [markCorrected]; repeat' split
  all_goals simp
@[simp] theorem markCorrected_pw : (markCorrected s e).pw = s.pw := by
  simp only [markCorrected]; repeat' split
  all_goals simp
@[simp] theorem markCorrected_beat : (markCorrected s e).beat = s.beat := by
  simp only [markCorrected]; repeat' split
  all_goals simp
@[simp] theorem markCorrected_host : (markCorrected s e).host = s.host := by
  simp only [markCorrected]; repeat' split
  all_goals simp
@[simp] theorem markCorrected_ks : (markCorrected s e).ks = s.ks := by
  simp only [markCorrected]; repeat' split
  all_goals simp
@[simp] theorem markCorrected_sp : (markCorrected s e).sp = s.sp := by
  simp only [markCorrected]; repeat' split
  all_goals simp
@[simp] theorem markCorrected_via : (markCorrected s e).via = s.via := by
  simp only [markCorrected]; repeat' split
  all_goals simp
@[simp] theorem markCorrected_grp : (markCorrected s e).grp = s.grp := by
  simp only [markCorrected]; repeat' split
  all_goals simp
@[simp] theorem markCorrected_tre : (markCorrected s e).tre = s.tre := by
  simp only [markCorrected]; repeat' split
  all_goals simp
@[simp] theorem markCorrected_toll : (markCorrected s e).toll = s.toll := by
  simp only [markCorrected]; repeat' split
  all_goals simp
@[simp] theorem markCorrected_jtag : (markCorrected s e).jtag = s.jtag := by
  simp only [markCorrected]; repeat' split
  all_goals simp
end

section
variable (s : State) (a : Nat)
@[simp] theorem markBad_pending : (markBad s a).pending = s.pending := rfl
@[simp] theorem markBad_free : (markBad s a).free = s.free := rfl
@[simp] theorem markBad_pw : (markBad s a).pw = s.pw := rfl
@[simp] theorem markBad_beat : (markBad s a).beat = s.beat := rfl
@[simp] theorem markBad_host : (markBad s a).host = s.host := rfl
@[simp] theorem markBad_ks : (markBad s a).ks = s.ks := rfl
@[simp] theorem markBad_sp : (markBad s a).sp = s.sp := rfl
@[simp] theorem markBad_via : (markBad s a).via = s.via := rfl
@[simp] theorem markBad_grp : (markBad s a).grp = s.grp := rfl
@[simp] theorem markBad_tre : (markBad s a).tre = s.tre := rfl
@[simp] theorem markBad_toll : (markBad s a).toll = s.toll := rfl
@[simp] theorem markBad_jtag : (markBad s a).jtag = s.jtag := rfl
end

section
variable (s : State) (e : SectorErr)
@[simp] theorem markSector_pending : (markSector s e).pending = s.pending := by
  simp only [markSector]; repeat' split
  all_goals simp
@[simp] theorem markSector_free : (markSector s e).free = s.free := by
  simp only [markSector]; repeat' split
  all_goals simp
@[simp] theorem markSector_pw : (markSector s e).pw = s.pw := by
  simp only [markSector]; repeat' split
  all_goals simp
@[simp] theorem markSector_beat : (markSector s e).beat = s.beat := by
  simp only [markSector]; repeat' split
  all_goals simp
@[simp] theorem markSector_host : (markSector s e).host = s.host := by
  simp only [markSector]; repeat' split
  all_goals simp
@[simp] theorem markSector_ks : (markSector s e).ks = s.ks := by
  simp only [markSector]; repeat' split
  all_goals simp
@[simp] theorem markSector_sp : (markSector s e).sp = s.sp := by
  simp only [markSector]; repeat' split
  all_goals simp
@[simp] theorem markSector_via : (markSector s e).via = s.via := by
  simp only [markSector]; repeat' split
  all_goals simp
@[simp] theorem markSector_grp : (markSector s e).grp = s.grp := by
  simp only [markSector]; repeat' split
  all_goals simp
@[simp] theorem markSector_tre : (markSector s e).tre = s.tre := by
  simp only [markSector]; repeat' split
  all_goals simp
@[simp] theorem markSector_toll : (markSector s e).toll = s.toll := by
  simp only [markSector]; repeat' split
  all_goals simp
@[simp] theorem markSector_jtag : (markSector s e).jtag = s.jtag := by
  simp only [markSector]; repeat' split
  all_goals simp
end

section
variable (s : State) (hit : Nat → Bool)
@[simp] theorem touchSectors_pending : (touchSectors s hit).pending = s.pending := by
  unfold touchSectors
  refine ite_keeps rfl ?_
  exact (foldl_keeps (g := State.pending) (fun s _ => markRow_pending s _) _ _).trans (foldl_keeps (g := State.pending) (fun s e => markSector_pending s e) _ _)
@[simp] theorem touchSectors_free : (touchSectors s hit).free = s.free := by
  unfold touchSectors
  refine ite_keeps rfl ?_
  exact (foldl_keeps (g := State.free) (fun s _ => markRow_free s _) _ _).trans (foldl_keeps (g := State.free) (fun s e => markSector_free s e) _ _)
@[simp] theorem touchSectors_pw : (touchSectors s hit).pw = s.pw := by
  unfold touchSectors
  refine ite_keeps rfl ?_
  exact (foldl_keeps (g := State.pw) (fun s _ => markRow_pw s _) _ _).trans (foldl_keeps (g := State.pw) (fun s e => markSector_pw s e) _ _)
@[simp] theorem touchSectors_beat : (touchSectors s hit).beat = s.beat := by
  unfold touchSectors
  refine ite_keeps rfl ?_
  exact (foldl_keeps (g := State.beat) (fun s _ => markRow_beat s _) _ _).trans (foldl_keeps (g := State.beat) (fun s e => markSector_beat s e) _ _)
@[simp] theorem touchSectors_host : (touchSectors s hit).host = s.host := by
  unfold touchSectors
  refine ite_keeps rfl ?_
  exact (foldl_keeps (g := State.host) (fun s _ => markRow_host s _) _ _).trans (foldl_keeps (g := State.host) (fun s e => markSector_host s e) _ _)
@[simp] theorem touchSectors_ks : (touchSectors s hit).ks = s.ks := by
  unfold touchSectors
  refine ite_keeps rfl ?_
  exact (foldl_keeps (g := State.ks) (fun s _ => markRow_ks s _) _ _).trans (foldl_keeps (g := State.ks) (fun s e => markSector_ks s e) _ _)
@[simp] theorem touchSectors_sp : (touchSectors s hit).sp = s.sp := by
  unfold touchSectors
  refine ite_keeps rfl ?_
  exact (foldl_keeps (g := State.sp) (fun s _ => markRow_sp s _) _ _).trans (foldl_keeps (g := State.sp) (fun s e => markSector_sp s e) _ _)
@[simp] theorem touchSectors_via : (touchSectors s hit).via = s.via := by
  unfold touchSectors
  refine ite_keeps rfl ?_
  exact (foldl_keeps (g := State.via) (fun s _ => markRow_via s _) _ _).trans (foldl_keeps (g := State.via) (fun s e => markSector_via s e) _ _)
@[simp] theorem touchSectors_grp : (touchSectors s hit).grp = s.grp := by
  unfold touchSectors
  refine ite_keeps rfl ?_
  exact (foldl_keeps (g := State.grp) (fun s _ => markRow_grp s _) _ _).trans (foldl_keeps (g := State.grp) (fun s e => markSector_grp s e) _ _)
@[simp] theorem touchSectors_tre : (touchSectors s hit).tre = s.tre := by
  unfold touchSectors
  refine ite_keeps rfl ?_
  exact (foldl_keeps (g := State.tre) (fun s _ => markRow_tre s _) _ _).trans (foldl_keeps (g := State.tre) (fun s e => markSector_tre s e) _ _)
@[simp] theorem touchSectors_toll : (touchSectors s hit).toll = s.toll := by
  unfold touchSectors
  refine ite_keeps rfl ?_
  exact (foldl_keeps (g := State.toll) (fun s _ => markRow_toll s _) _ _).trans (foldl_keeps (g := State.toll) (fun s e => markSector_toll s e) _ _)
@[simp] theorem touchSectors_jtag : (touchSectors s hit).jtag = s.jtag := by
  unfold touchSectors
  refine ite_keeps rfl ?_
  exact (foldl_keeps (g := State.jtag) (fun s _ => markRow_jtag s _) _ _).trans (foldl_keeps (g := State.jtag) (fun s e => markSector_jtag s e) _ _)
end

section
variable (s : State) (rs : List (Nat × Nat))
@[simp] theorem freshSectors_pending : (freshSectors s rs).pending = s.pending := rfl
@[simp] theorem freshSectors_free : (freshSectors s rs).free = s.free := rfl
@[simp] theorem freshSectors_pw : (freshSectors s rs).pw = s.pw := rfl
@[simp] theorem freshSectors_beat : (freshSectors s rs).beat = s.beat := rfl
@[simp] theorem freshSectors_host : (freshSectors s rs).host = s.host := rfl
@[simp] theorem freshSectors_ks : (freshSectors s rs).ks = s.ks := rfl
@[simp] theorem freshSectors_sp : (freshSectors s rs).sp = s.sp := rfl
@[simp] theorem freshSectors_via : (freshSectors s rs).via = s.via := rfl
@[simp] theorem freshSectors_grp : (freshSectors s rs).grp = s.grp := rfl
@[simp] theorem freshSectors_tre : (freshSectors s rs).tre = s.tre := rfl
@[simp] theorem freshSectors_toll : (freshSectors s rs).toll = s.toll := rfl
@[simp] theorem freshSectors_jtag : (freshSectors s rs).jtag = s.jtag := rfl
end

end Sys2Proof.Machine
end

