-- ==== Sys2Proof/Laws/Table.lean ====
section
/-! SUPPORT. Sparse tables: a read after a write, and that every table operation keeps the canonical form. -/

namespace Sys2Proof.Machine

theorem tabGet_of_lt {α : Type} [DecidableEq α] {d : α} {t : Tab α} {lo a : Nat} (h : tabWfFrom d lo t = true) (ha : a < lo) :
    tabGet d t a = d := by
  cases t with
  | nil => rfl
  | cons e t =>
    obtain ⟨k, v⟩ := e
    simp only [tabWfFrom, Bool.and_eq_true, decide_eq_true_eq] at h
    have h1 : ¬ a = k := by omega
    have h2 : a < k := by omega
    simp [tabGet, h1, h2]

theorem tabWfFrom_mono {α : Type} [DecidableEq α] {d : α} {lo lo' : Nat} {t : Tab α} (h : tabWfFrom d lo t = true)
    (hl : lo' ≤ lo) : tabWfFrom d lo' t = true := by
  cases t with
  | nil => rfl
  | cons e t =>
    obtain ⟨k, v⟩ := e
    simp only [tabWfFrom, Bool.and_eq_true, decide_eq_true_eq] at h ⊢
    exact ⟨⟨by omega, h.1.2⟩, h.2⟩

theorem tabSet_wfFrom {α : Type} [DecidableEq α] {d : α} {lo : Nat} {t : Tab α} {a : Nat} {x : α} (h : tabWfFrom d lo t = true)
    (ha : lo ≤ a) : tabWfFrom d lo (tabSet d t a x) = true := by
  induction t generalizing lo with
  | nil => by_cases hx : x = d <;> simp [tabSet, tabWfFrom, hx, ha]
  | cons e t ih =>
    obtain ⟨k, v⟩ := e
    simp only [tabWfFrom, Bool.and_eq_true, decide_eq_true_eq] at h
    obtain ⟨⟨h1, h2⟩, h3⟩ := h
    by_cases hk : a < k
    · by_cases hx : x = d <;> simp only [tabSet, hk, hx, if_true, if_false, tabWfFrom, Bool.and_eq_true, decide_eq_true_eq]
      · exact ⟨⟨h1, h2⟩, h3⟩
      · exact ⟨⟨ha, hx⟩, ⟨⟨by omega, h2⟩, h3⟩⟩
    · by_cases he : a = k
      · by_cases hx : x = d <;>
          simp only [tabSet, he, hx, Nat.lt_irrefl, if_true, if_false, tabWfFrom, Bool.and_eq_true, decide_eq_true_eq]
        · exact tabWfFrom_mono h3 (by omega)
        · exact ⟨⟨h1, hx⟩, h3⟩
      · simp only [tabSet, hk, he, if_false, tabWfFrom, Bool.and_eq_true, decide_eq_true_eq]
        exact ⟨⟨h1, h2⟩, ih h3 (by omega)⟩

/-- A write keeps the canonical form. -/
theorem tabSet_wf {α : Type} [DecidableEq α] {d : α} {t : Tab α} {a : Nat} {x : α} (h : tabWf d t = true) :
    tabWf d (tabSet d t a x) = true := tabSet_wfFrom h (Nat.zero_le a)

theorem tabUpd_wf {α : Type} [DecidableEq α] {d : α} {t : Tab α} {a : Nat} {f : α → α} (h : tabWf d t = true) :
    tabWf d (tabUpd d t a f) = true := tabSet_wf h

theorem tabPut_wf {t : Tab Byte} {a : Nat} {b : List Byte} (h : tabWf 0 t = true) : tabWf 0 (tabPut t a b) = true := by
  induction b generalizing t a with
  | nil => exact h
  | cons x b ih => exact ih (tabSet_wf h)

theorem tabKeep_wfFrom {α : Type} [DecidableEq α] {d : α} {p : Nat → Bool} {lo : Nat} {t : Tab α} (h : tabWfFrom d lo t = true) :
    tabWfFrom d lo (tabKeep p t) = true := by
  induction t generalizing lo with
  | nil => rfl
  | cons e t ih =>
    obtain ⟨k, v⟩ := e
    simp only [tabWfFrom, Bool.and_eq_true, decide_eq_true_eq] at h
    obtain ⟨⟨h1, h2⟩, h3⟩ := h
    by_cases hp : p k = true
    · have : tabKeep p ((k, v) :: t) = (k, v) :: tabKeep p t := by simp [tabKeep, hp]
      rw [this]
      simp only [tabWfFrom, Bool.and_eq_true, decide_eq_true_eq]
      exact ⟨⟨h1, h2⟩, ih h3⟩
    · have : tabKeep p ((k, v) :: t) = tabKeep p t := by simp [tabKeep, hp]
      rw [this]
      exact ih (tabWfFrom_mono h3 (by omega))

theorem tabKeep_wf {α : Type} [DecidableEq α] {d : α} {p : Nat → Bool} {t : Tab α} (h : tabWf d t = true) :
    tabWf d (tabKeep p t) = true := tabKeep_wfFrom h

/-- A read after a write gives the value written at its address, and the old value elsewhere. -/
theorem tabGet_tabSet_from {α : Type} [DecidableEq α] {d : α} {lo : Nat} {t : Tab α} {a b : Nat} {x : α}
    (h : tabWfFrom d lo t = true) : tabGet d (tabSet d t a x) b = if b = a then x else tabGet d t b := by
  induction t generalizing lo with
  | nil =>
    by_cases hx : x = d <;> by_cases hb : b = a <;> simp [tabSet, tabGet, hx, hb]
  | cons e t ih =>
    obtain ⟨k, v⟩ := e
    simp only [tabWfFrom, Bool.and_eq_true, decide_eq_true_eq] at h
    obtain ⟨⟨h1, h2⟩, h3⟩ := h
    rcases Nat.lt_trichotomy a k with hk | hk | hk
    · by_cases hx : x = d
      · by_cases hb : b = a
        · have : ¬ a = k := by omega
          simp [tabSet, tabGet, hk, hx, hb, this]
        · simp [tabSet, hk, hx, hb]
      · by_cases hb : b = a
        · simp [tabSet, tabGet, hk, hx, hb]
        · by_cases hba : b < a
          · have e1 : ¬ b = k := by omega
            have e2 : b < k := by omega
            simp [tabSet, tabGet, hk, hx, hb, hba, e1, e2]
          · simp [tabSet, tabGet, hk, hx, hb, hba]
    · subst hk
      by_cases hx : x = d
      · by_cases hb : b = a
        · subst hb
          simp [tabSet, hx, tabGet_of_lt h3 (Nat.lt_succ_self _)]
        · by_cases hba : b < a
          · have : tabGet d t b = d := tabGet_of_lt h3 (by omega)
            simp [tabSet, tabGet, hx, hb, hba, this]
          · simp [tabSet, tabGet, hx, hb, hba]
      · by_cases hb : b = a
        · simp [tabSet, tabGet, hx, hb]
        · simp [tabSet, tabGet, hx, hb]
    · have e1 : ¬ a < k := by omega
      have e2 : ¬ a = k := by omega
      by_cases hb : b = k
      · have : ¬ b = a := by omega
        have : ¬ k = a := by omega
        simp [tabSet, tabGet, e1, e2, hb, this]
      · by_cases hbk : b < k
        · have : ¬ b = a := by omega
          simp [tabSet, tabGet, e1, e2, hb, hbk, this]
        · simp [tabSet, tabGet, e1, e2, hb, hbk, ih h3]

theorem tabGet_tabSet {α : Type} [DecidableEq α] {d : α} {t : Tab α} {a b : Nat} {x : α} (h : tabWf d t = true) :
    tabGet d (tabSet d t a x) b = if b = a then x else tabGet d t b := tabGet_tabSet_from h

@[simp] theorem tabGet_tabSet_same {α : Type} [DecidableEq α] {d : α} {t : Tab α} {a : Nat} {x : α} (h : tabWf d t = true) :
    tabGet d (tabSet d t a x) a = x := by simp [tabGet_tabSet h]

theorem tabGet_tabSet_other {α : Type} [DecidableEq α] {d : α} {t : Tab α} {a b : Nat} {x : α} (h : tabWf d t = true)
    (hb : b ≠ a) : tabGet d (tabSet d t a x) b = tabGet d t b := by simp [tabGet_tabSet h, hb]

/-- Bytes outside a written range read as before. -/
theorem tabGet_tabPut_other {t : Tab Byte} {a c : Nat} {b : List Byte} (h : tabWf 0 t = true)
    (hc : c < a ∨ a + b.length ≤ c) : tabGet 0 (tabPut t a b) c = tabGet 0 t c := by
  induction b generalizing t a with
  | nil => rfl
  | cons x b ih =>
    simp only [List.length_cons] at hc
    rw [tabPut, ih (tabSet_wf h) (by omega), tabGet_tabSet_other h (by omega)]

/-- Bytes inside a written range read as written. -/
theorem tabGet_tabPut_in {t : Tab Byte} {a i : Nat} {b : List Byte} (h : tabWf 0 t = true) (hi : i < b.length) :
    tabGet 0 (tabPut t a b) (a + i) = b[i] := by
  induction b generalizing t a i with
  | nil => exact absurd hi (by simp)
  | cons x b ih =>
    cases i with
    | zero => rw [tabPut, tabGet_tabPut_other (tabSet_wf h) (by omega)]; exact tabGet_tabSet_same h
    | succ i =>
      have := ih (a := a + 1) (i := i) (tabSet_wf (a := a) (x := x) h) (by simpa using hi)
      rw [tabPut, show a + (i + 1) = a + 1 + i by omega, this]
      rfl

/-- A range reads back as the bytes written over it. -/
theorem tabBytes_tabPut {t : Tab Byte} {a : Nat} {b : List Byte} (h : tabWf 0 t = true) :
    tabBytes (tabPut t a b) a b.length = b := by
  induction b generalizing t a with
  | nil => rfl
  | cons x b ih =>
    have e : tabGet 0 (tabPut t a (x :: b)) a = x := tabGet_tabPut_in (a := a) (i := 0) (b := x :: b) h (by simp)
    simp only [List.length_cons, tabBytes, e]
    rw [tabPut, ih (tabSet_wf h)]

end Sys2Proof.Machine
end

