-- ==== Sys2Proof/Laws/Kept.lean ====
section
/-! SUPPORT. What every operation keeps: the queue, the fuses, and the canonical form of the byte memories. This file holds
the relation and its rules; the files Kept<n> hold one lemma per operation. -/

namespace Sys2Proof.Machine

/-- Between a first state and a later one: the queue and the manufacture fuses are the same, anti-rollback bits only rise,
and canonical memories stay canonical. -/
structure Kept (b s : State) : Prop where
  queue : s.pending = b.pending
  fuses : fusesOf s.toll = fusesOf b.toll
  rise  : fusesRise b.toll.rollback s.toll.rollback
  mem   : tabWf 0 b.dram.mem = true → tabWf 0 s.dram.mem = true
  banks : tabWf 0 b.sp.banks = true → tabWf 0 s.sp.banks = true
  accs  : tabWf 0 b.sp.accs = true → tabWf 0 s.sp.accs = true

theorem Kept.refl (s : State) : Kept s s := ⟨rfl, rfl, fun _ h => h, id, id, id⟩

/-- A state that agrees on all that `Kept` speaks of. -/
theorem kept_same {b s t : State} (h : Kept b s) (h1 : t.pending = s.pending) (h2 : fusesOf t.toll = fusesOf s.toll)
    (h3 : t.toll.rollback = s.toll.rollback) (h4 : t.dram.mem = s.dram.mem) (h5 : t.sp.banks = s.sp.banks)
    (h6 : t.sp.accs = s.sp.accs) : Kept b t :=
  ⟨h1.trans h.queue, h2.trans h.fuses, by rw [h3]; exact h.rise, by rw [h4]; exact h.mem, by rw [h5]; exact h.banks,
   by rw [h6]; exact h.accs⟩

/-- A state whose memories may differ, if they stay canonical. -/
theorem kept_mems {b s t : State} (h : Kept b s) (h1 : t.pending = s.pending) (h2 : fusesOf t.toll = fusesOf s.toll)
    (h3 : t.toll.rollback = s.toll.rollback) (h4 : tabWf 0 s.dram.mem = true → tabWf 0 t.dram.mem = true)
    (h5 : tabWf 0 s.sp.banks = true → tabWf 0 t.sp.banks = true)
    (h6 : tabWf 0 s.sp.accs = true → tabWf 0 t.sp.accs = true) : Kept b t :=
  ⟨h1.trans h.queue, h2.trans h.fuses, by rw [h3]; exact h.rise, fun x => h4 (h.mem x), fun x => h5 (h.banks x),
   fun x => h6 (h.accs x)⟩

/-- A state written out over the queue of an earlier one. -/
theorem kept_mk {b s : State} {fr : Nat} {pw : Power} {be : Beat} {ho : HostIf} {ks : Keystone} {sp : Spans} {d : Dram}
    {v : Viaduct} {g : Group} {tr : Trestle} {t : Toll} {j : Jtag} (h : Kept b s) (h2 : fusesOf t = fusesOf s.toll)
    (h3 : t.rollback = s.toll.rollback) (h4 : tabWf 0 s.dram.mem = true → tabWf 0 d.mem = true)
    (h5 : tabWf 0 s.sp.banks = true → tabWf 0 sp.banks = true) (h6 : tabWf 0 s.sp.accs = true → tabWf 0 sp.accs = true) :
    Kept b (State.mk s.pending fr pw be ho ks sp d v g tr t j) := kept_mems h rfl h2 h3 h4 h5 h6

theorem kept_ite {b s t : State} {c : Prop} [Decidable c] (hs : Kept b s) (ht : Kept b t) : Kept b (if c then s else t) := by
  by_cases h : c <;> simp [h, hs, ht]

theorem kept_foldl {α : Type} {b : State} {f : State → α → State} {l : List α} {s : State} (hs : Kept b s)
    (hf : ∀ s a, Kept b s → Kept b (f s a)) : Kept b (l.foldl f s) := by
  induction l generalizing s with
  | nil => exact hs
  | cons a l ih => exact ih (hf s a hs)

theorem kept_foldl_fst {α β : Type} {b : State} {f : State × β → α → State × β} {l : List α} {x : State × β} (hs : Kept b x.1)
    (hf : ∀ x a, Kept b x.1 → Kept b (f x a).1) : Kept b (l.foldl f x).1 := by
  induction l generalizing x with
  | nil => exact hs
  | cons a l ih => exact ih (hf x a hs)

theorem updPw_kept {b s : State} {f : Power → Power} (h : Kept b s) : Kept b (updPw s f) := kept_same h rfl rfl rfl rfl rfl rfl
theorem updBeat_kept {b s : State} {f : Beat → Beat} (h : Kept b s) : Kept b (updBeat s f) := kept_same h rfl rfl rfl rfl rfl rfl
theorem updHost_kept {b s : State} {f : HostIf → HostIf} (h : Kept b s) : Kept b (updHost s f) :=
  kept_same h rfl rfl rfl rfl rfl rfl
theorem updKs_kept {b s : State} {f : Keystone → Keystone} (h : Kept b s) : Kept b (updKs s f) :=
  kept_same h rfl rfl rfl rfl rfl rfl
theorem updVia_kept {b s : State} {f : Viaduct → Viaduct} (h : Kept b s) : Kept b (updVia s f) :=
  kept_same h rfl rfl rfl rfl rfl rfl
theorem updGrp_kept {b s : State} {f : Group → Group} (h : Kept b s) : Kept b (updGrp s f) :=
  kept_same h rfl rfl rfl rfl rfl rfl
theorem updTre_kept {b s : State} {f : Trestle → Trestle} (h : Kept b s) : Kept b (updTre s f) :=
  kept_same h rfl rfl rfl rfl rfl rfl
theorem updSp_kept {b s : State} {f : Spans → Spans} (h : Kept b s) (h1 : (f s.sp).banks = s.sp.banks)
    (h2 : (f s.sp).accs = s.sp.accs) : Kept b (updSp s f) := kept_same h rfl rfl rfl rfl h1 h2
theorem updDram_kept {b s : State} {f : Dram → Dram} (h : Kept b s) (h1 : (f s.dram).mem = s.dram.mem) :
    Kept b (updDram s f) := kept_same h rfl rfl rfl h1 rfl rfl
theorem updToll_kept {b s : State} {f : Toll → Toll} (h : Kept b s) (h1 : fusesOf (f s.toll) = fusesOf s.toll)
    (h2 : (f s.toll).rollback = s.toll.rollback) : Kept b (updToll s f) := kept_same h rfl h1 h2 rfl rfl rfl

/-- Memory may change, if it stays canonical. -/
theorem updDram_mem_kept {b s : State} {f : Dram → Dram} (h : Kept b s)
    (h1 : tabWf 0 s.dram.mem = true → tabWf 0 (f s.dram).mem = true) : Kept b (updDram s f) := kept_mems h rfl rfl rfl h1 id id
theorem updSp_mem_kept {b s : State} {f : Spans → Spans} (h : Kept b s)
    (h1 : tabWf 0 s.sp.banks = true → tabWf 0 (f s.sp).banks = true)
    (h2 : tabWf 0 s.sp.accs = true → tabWf 0 (f s.sp).accs = true) : Kept b (updSp s f) := kept_mems h rfl rfl rfl id h1 h2

/-- Fuse bits of the anti-rollback counter may be burnt. -/
theorem updToll_rise_kept {b s : State} {f : Toll → Toll} (h : Kept b s) (h1 : fusesOf (f s.toll) = fusesOf s.toll)
    (h2 : fusesRise s.toll.rollback (f s.toll).rollback) : Kept b (updToll s f) :=
  ⟨h.queue, h1.trans h.fuses, fun k hk => h2 k (h.rise k hk), h.mem, h.banks, h.accs⟩

theorem foldl_tabWf {α : Type} {f : Tab Byte → α → Tab Byte} {l : List α} {t : Tab Byte} (h : tabWf 0 t = true)
    (hf : ∀ t a, tabWf 0 t = true → tabWf 0 (f t a) = true) : tabWf 0 (l.foldl f t) = true := by
  induction l generalizing t with
  | nil => exact h
  | cons a l ih => exact ih (hf t a h)

/-- A pass over a memory that keeps or drops each entry, or changes it to a byte other than zero. -/
theorem filterMap_wfFrom {f : Nat × Byte → Option (Nat × Byte)} {t : Tab Byte} {lo : Nat} (h : tabWfFrom 0 lo t = true)
    (hf : ∀ k v e, v ≠ 0 → f (k, v) = some e → e.1 = k ∧ e.2 ≠ 0) : tabWfFrom 0 lo (t.filterMap f) = true := by
  induction t generalizing lo with
  | nil => rfl
  | cons e t ih =>
    obtain ⟨k, v⟩ := e
    simp only [tabWfFrom, Bool.and_eq_true, decide_eq_true_eq] at h
    obtain ⟨⟨h1, h2⟩, h3⟩ := h
    cases hv : f (k, v) with
    | none => rw [List.filterMap_cons_none hv]; exact ih (tabWfFrom_mono h3 (by omega))
    | some e =>
      obtain ⟨k', v'⟩ := e
      obtain ⟨e1, e2⟩ := hf k v _ h2 hv
      rw [List.filterMap_cons_some hv]
      simp only [tabWfFrom, Bool.and_eq_true, decide_eq_true_eq]
      simp only at e1 e2
      subst e1
      exact ⟨⟨h1, e2⟩, ih h3⟩

theorem testBit_setBit {v k j : Nat} (h : v.testBit j = true) : (setBit v k true).testBit j = true := by
  unfold setBit
  split
  · exact h
  · rename_i hk
    simp only [if_true]
    have hk' : v.testBit k = false := by simpa using hk
    rcases Nat.lt_trichotomy j k with hj | hj | hj
    · rw [Nat.add_comm, Nat.testBit_two_pow_add_gt hj, h]
    · subst hj; rw [h] at hk'; exact absurd hk' (by simp)
    · have hm : v / 2 ^ k % 2 = 0 := by
        have := Nat.testBit_eq_decide_div_mod_eq (x := v) (i := k)
        rw [hk'] at this
        have h3 : ¬ (v / 2 ^ k % 2 = 1) := by simpa using this.symm
        omega
      have hd : (v + 2 ^ k) / 2 ^ (k + 1) = v / 2 ^ (k + 1) := by
        rw [Nat.pow_succ, ← Nat.div_div_eq_div_mul, ← Nat.div_div_eq_div_mul, Nat.add_div_right _ (Nat.two_pow_pos k)]
        omega
      have e : j = (j - (k + 1)) + (k + 1) := by omega
      rw [e, ← Nat.testBit_div_two_pow, hd, Nat.testBit_div_two_pow, ← e, h]

end Sys2Proof.Machine
end

