-- ==== Sys2Proof/Laws/KeptOperators.lean ====
section
/-! SUPPORT. One lemma per operation: it keeps the queue, the fuses and the canonical memories. Here: records, sectors and what the operators do (spec 06 to 15). -/

set_option maxRecDepth 2000

namespace Sys2Proof.Machine

-- -------------------------------------------------------------------------------- Machine/Operands

theorem writeByte_kept {b : State} (s : State) (p : Plan) (span : Nat) (o : Operand) (pos : Nat) (v : Byte) (hs :
    Kept b s) : Kept b (writeByte s p span o pos v) := by
  unfold writeByte
  repeat' first
    | assumption | refine kept_mk ?_ rfl rfl tabSet_wf id id | refine kept_mk ?_ rfl rfl id tabSet_wf id
    | apply kept_ite | split

theorem writeBytes_kept {b : State} (s : State) (p : Plan) (span : Nat) (o : Operand) (pos : Nat) (v : List Byte)
    (hs : Kept b s) : Kept b (writeBytes s p span o pos v) := by
  induction v generalizing s pos with
  | nil => exact hs
  | cons x v ih => exact ih _ _ (writeByte_kept _ _ _ _ _ _ hs)

theorem writeBitsAt_kept {b : State} (s : State) (p : Plan) (span : Nat) (o : Operand) (bit : Int) (w : Nat) (v :
    Nat) (hs : Kept b s) : Kept b (writeBitsAt s p span o bit w v) := by
  unfold writeBitsAt
  repeat' first
    | assumption | apply writeBytes_kept | apply writeByte_kept | apply kept_ite

theorem writeRaw_kept {b : State} (s : State) (p : Plan) (span : Nat) (o : Operand) (i : Nat) (v : Nat) (hs : Kept
    b s) : Kept b (writeRaw s p span o i v) := by
  unfold writeRaw
  dsimp only
  apply writeBitsAt_kept
  assumption

theorem writeElem_kept {b : State} (s : State) (p : Plan) (span : Nat) (o : Operand) (i : Nat) (site : RngSite)
    (code : Nat) (e : Nat) (nonsat : Bool) (x : Num) (hs : Kept b s) : Kept b (writeElem s p span o i site code e
    nonsat x) := by
  unfold writeElem
  repeat' first
    | assumption | apply writeRaw_kept | split

theorem writeBlock_kept {b : State} (s : State) (p : Plan) (span : Nat) (o : Operand) (f : Fmt) (k : Nat) (site :
    RngSite) (code : Nat) (e : Nat → Nat) (xs : List Num) (hs : Kept b s) : Kept b (writeBlock s p span o f k site
    code e xs) := by
  unfold writeBlock
  repeat' first
    | assumption | apply writeBitsAt_kept | apply kept_foldl | apply writeByte_kept | intro _

theorem writeRun_kept {b : State} (s : State) (p : Plan) (span : Nat) (o : Operand) (start : Nat) (site : RngSite)
    (code : Nat) (e : Nat → Nat) (nonsat : Bool) (xs : List Num) (hs : Kept b s) : Kept b (writeRun s p span o
    start site code e nonsat xs) := by
  unfold writeRun
  repeat' first
    | assumption | apply writeElem_kept | apply writeBlock_kept | apply kept_foldl | apply kept_ite | intro _ | split

theorem padScales_kept {b : State} (s : State) (p : Plan) (span : Nat) (o : Operand) (n : Nat) (hs : Kept b s) :
    Kept b (padScales s p span o n) := by
  unfold padScales
  repeat' first
    | assumption | apply writeBytes_kept | apply kept_ite | split

theorem padTail_kept {b : State} (s : State) (p : Plan) (span : Nat) (o : Operand) (n i k : Nat) (hs : Kept b s) :
    Kept b (padTail s p span o n i k) := by
  unfold padTail
  exact kept_ite (padScales_kept _ _ _ _ _ hs) hs

theorem prefillBytes_kept {b : State} (s : State) (x : Buf) (handle pos n : Nat) (hs : Kept b s) :
    Kept b (prefillBytes s x handle pos n) := by
  induction n generalizing s pos with
  | zero => exact hs
  | succ n ih =>
    refine ih _ _ ?_
    exact kept_ite (kept_mk hs rfl rfl tabSet_wf id id) hs

theorem prefillNibbles_kept {b : State} (s : State) (p : Plan) (us : List Use) (hs : Kept b s) :
    Kept b (prefillNibbles s p us) := by
  unfold prefillNibbles
  repeat' first
    | assumption | apply prefillBytes_kept | apply kept_foldl | apply kept_ite | intro _ | split

theorem padOutput_kept {b : State} (s : State) (p : Plan) (d : Desc) (o : Operand) (n : Nat) (hs : Kept b s) : Kept
    b (padOutput s p d o n) := by
  unfold padOutput
  repeat' first
    | assumption | apply padScales_kept | apply kept_foldl | apply kept_ite | intro _

theorem stampBank_kept {b : State} (s : State) (span : Nat) (bank : Nat) (hs : Kept b s) : Kept b (stampBank s span
    bank) := by
  unfold stampBank
  refine kept_mk ?_ rfl rfl id id id
  assumption

theorem noteWrites_kept {b : State} (s : State) (p : Plan) (seq : Nat) (spans : List Nat) (us : List Use) (hs :
    Kept b s) : Kept b (noteWrites s p seq spans us) := by
  unfold noteWrites
  apply kept_foldl
  · assumption
  · intro _ _ _
    apply kept_ite
    · assumption
    · apply kept_ite
      · apply kept_foldl
        · assumption
        · intro _ _ _
          apply stampBank_kept
          assumption
      · split
        · assumption
        · apply kept_ite
          · dsimp only
            refine kept_mk ?_ rfl rfl id id id
            assumption
          · assumption

theorem cacheFill_kept {b : State} (s : State) (slice : Nat) (line : Nat) (handle : Nat) (gen : Nat) (hs : Kept b
    s) : Kept b (cacheFill s slice line handle gen) := by
  unfold cacheFill
  dsimp only
  apply kept_ite
  · assumption
  · apply kept_ite
    · assumption
    · refine kept_mk ?_ rfl rfl id id id
      assumption

theorem cacheReads_kept {b : State} (s : State) (p : Plan) (seq : Nat) (spans : List Nat) (us : List Use) (hs :
    Kept b s) : Kept b (cacheReads s p seq spans us) := by
  unfold cacheReads
  repeat' first
    | assumption | apply cacheFill_kept | apply kept_foldl | apply kept_ite | intro _ | split

-- -------------------------------------------------------------------------------- Machine/Ops

theorem sendPcie_kept {b : State} (s : State) (o : PcieOut) (hs : Kept b s) : Kept b (sendPcie s o) := by
  unfold sendPcie
  apply updHost_kept
  assumption

theorem logAer_kept {b : State} (s : State) (e : AerError) (hs : Kept b s) : Kept b (logAer s e) := by
  unfold logAer
  apply updHost_kept
  assumption

theorem raiseIrq_kept {b : State} (s : State) (src : Nat) (hs : Kept b s) : Kept b (raiseIrq s src) := by
  unfold raiseIrq
  repeat' first
    | assumption | apply sendPcie_kept | apply updHost_kept | apply kept_ite

theorem setErr_kept {b : State} (s : State) (bit : Nat) (hs : Kept b s) : Kept b (setErr s bit) := by
  unfold setErr
  apply raiseIrq_kept
  apply updHost_kept
  assumption

theorem barWrite_kept {b : State} (s : State) (poisoned : Bool) (f : State → State) (hs : Kept b s) (hf : ∀ y0,
    Kept b y0 → Kept b (f y0)) : Kept b (barWrite s poisoned f) := by
  unfold barWrite
  repeat' first
    | assumption | apply_assumption | apply logAer_kept | apply setErr_kept | apply kept_ite

theorem barRead_kept {b : State} (s : State) (f : State → State) (hs : Kept b s) (hf : ∀ y0, Kept b y0 → Kept b (f
    y0)) : Kept b (barRead s f) := by
  unfold barRead
  repeat' first
    | assumption | apply_assumption | apply sendPcie_kept | apply logAer_kept | apply kept_ite

theorem keepRecord_kept {b : State} (s : State) (e : Event) (ended : Option W64) (hs : Kept b s) :
    Kept b (keepRecord s e ended) := by
  unfold keepRecord
  extract_lets t flags r log s1
  have h1 : Kept b s1 := updToll_kept hs (by simp only [fusesOf]) (by dsimp only)
  clear_value s1
  exact kept_ite (updPw_kept h1) h1

theorem dropWindow_kept {b : State} (s : State) (source : Nat) (code : Nat) (unit : Nat) (hs : Kept b s) : Kept b
    (dropWindow s source code unit) := by
  unfold dropWindow
  refine updToll_kept ?_ rfl rfl
  assumption

theorem closeWindow_kept {b : State} (s : State) (w : Window) (hs : Kept b s) : Kept b (closeWindow s w) := by
  unfold closeWindow
  repeat' first
    | assumption | apply keepRecord_kept | apply dropWindow_kept | apply kept_ite

theorem logEvent_kept {b : State} (s : State) (e : Event) (hs : Kept b s) : Kept b (logEvent s e) := by
  unfold logEvent
  repeat' first
    | assumption | refine updToll_kept ?_ rfl rfl | apply keepRecord_kept | apply closeWindow_kept
    | apply dropWindow_kept | apply kept_ite | split | dsimp only

theorem notifyFault_kept {b : State} (s : State) (e : Event) (hs : Kept b s) : Kept b (notifyFault s e) := by
  unfold notifyFault
  repeat' first
    | assumption | apply raiseIrq_kept | apply updHost_kept | apply logEvent_kept

theorem setPlanState_kept {b : State} (s : State) (v : Nat) (hs : Kept b s) : Kept b (setPlanState s v) := by
  unfold setPlanState
  repeat' first
    | assumption | apply updHost_kept | apply raiseIrq_kept | apply kept_ite

theorem putRecord_kept {b : State} (s : State) (tag : Nat) (cmd : Nat) (status : Nat) (rs : List Nat) (hs : Kept b
    s) : Kept b (putRecord s tag cmd status rs) := by
  unfold putRecord
  repeat' first
    | assumption | apply sendPcie_kept | apply setErr_kept | apply logEvent_kept | apply kept_ite

theorem countRecord_kept {b : State} (s : State) (prio : Nat) (hs : Kept b s) : Kept b (countRecord s prio) := by
  unfold countRecord
  repeat' first
    | assumption | apply raiseIrq_kept | apply updHost_kept | apply kept_ite

theorem acceptRecord_kept {b : State} (s : State) (c : Taken) (hs : Kept b s) : Kept b (acceptRecord s c) := by
  unfold acceptRecord
  repeat' first
    | assumption | apply putRecord_kept | apply countRecord_kept | apply setErr_kept | apply kept_ite

theorem freeTag_kept {b : State} (s : State) (c : Taken) (hs : Kept b s) : Kept b (freeTag s c) := by
  unfold freeTag
  apply updHost_kept
  assumption

theorem finishCmd_kept {b : State} (s : State) (c : Taken) (status : Nat) (rs : List Nat) (hs : Kept b s) : Kept b
    (finishCmd s c status rs) := by
  unfold finishCmd
  repeat' first
    | assumption | apply putRecord_kept | apply freeTag_kept | apply setErr_kept | apply updHost_kept
    | apply countRecord_kept | apply kept_ite

theorem finishOpt_kept {b : State} (s : State) (c : Option Taken) (status : Nat) (rs : List Nat) (hs : Kept b s) :
    Kept b (finishOpt s c status rs) := by
  unfold finishOpt
  repeat' first
    | assumption | apply finishCmd_kept | split

theorem acceptCmd_kept {b : State} (s : State) (c : Taken) (hs : Kept b s) : Kept b (acceptCmd s c) := by
  unfold acceptCmd
  repeat' first
    | assumption | apply updHost_kept | apply acceptRecord_kept

theorem serve_kept {b : State} (s : State) (cmd : Nat) (tag : Nat) (f : State → Taken → State) (hs : Kept b s) (hf
    : ∀ y0 y1, Kept b y0 → Kept b (f y0 y1)) : Kept b (serve s cmd tag f) := by
  unfold serve
  repeat' first
    | assumption | apply_assumption | apply kept_ite | split

theorem hostWrite_kept {b : State} (s : State) (addr : Nat) (data : List Byte) (hs : Kept b s) : Kept b (hostWrite
    s addr data) := by
  unfold hostWrite
  repeat' first
    | assumption | apply sendPcie_kept | apply kept_foldl | intro _

-- -------------------------------------------------------------------------------- Machine/Sectors

theorem countSectors_mem (l : List SectorErr) (d : Dram) :
    (l.foldl (fun d e => if e.fatal then countBad d e.addr else countCorrected d e) d).mem = d.mem := by
  induction l generalizing d with
  | nil => rfl
  | cons e l ih => rw [List.foldl_cons, ih]; split <;> rfl

theorem loseSectors_kept {b : State} (s : State) (sel : Nat → Bool) (hs : Kept b s) : Kept b (loseSectors s sel) := by
  unfold loseSectors
  generalize s.dram.bad.filter _ = hit
  refine updDram_mem_kept hs ?_
  dsimp only
  exact fun h => foldl_tabWf (by rwa [countSectors_mem]) fun _ _ h => tabPut_wf h

theorem recordRepair_kept {b : State} (s : State) (r : Repair) (source : Nat) (unit : Nat) (detail : Nat) (hs :
    Kept b s) : Kept b (recordRepair s r source unit detail) := by
  unfold recordRepair
  apply logEvent_kept
  refine updToll_kept ?_ rfl rfl
  assumption

theorem retireRegion_kept {b : State} (s : State) (ch : Nat) (region : Nat) (hs : Kept b s) : Kept b (retireRegion
    s ch region) := by
  unfold retireRegion
  repeat' first
    | assumption | refine updDram_kept ?_ rfl | apply loseSectors_kept | apply recordRepair_kept | apply kept_ite

theorem remapRow_kept {b : State} (s : State) (k : Nat) (hs : Kept b s) : Kept b (remapRow s k) := by
  unfold remapRow
  repeat' first
    | assumption | refine updDram_kept ?_ rfl | apply recordRepair_kept | apply loseSectors_kept
    | apply retireRegion_kept | apply kept_ite

theorem settleRows_kept {b : State} (s : State) (hs : Kept b s) : Kept b (settleRows s) := by
  unfold settleRows
  dsimp only
  apply kept_foldl
  · assumption
  · intro _ _ _
    apply kept_ite
    · apply remapRow_kept
      assumption
    · assumption

theorem logLost_kept {b : State} (s t : State) (ht : Kept b t) : Kept b (logLost s t) := by
  unfold logLost
  repeat' first
    | assumption | apply logEvent_kept | apply kept_foldl | apply kept_ite | intro _

theorem settleIdle_kept {b : State} (s : State) (hs : Kept b s) : Kept b (settleIdle s) := by
  unfold settleIdle
  repeat' first
    | assumption | apply logLost_kept | apply settleRows_kept | apply kept_ite

theorem markRow_kept {b : State} (s : State) (k : Nat) (hs : Kept b s) : Kept b (markRow s k) := by
  unfold markRow
  refine updDram_kept ?_ rfl
  assumption

theorem failRow_kept {b : State} (s : State) (k : Nat) (hs : Kept b s) : Kept b (failRow s k) := by
  exact settleIdle_kept _ (markRow_kept _ _ hs)

theorem markCorrected_kept {b : State} (s : State) (e : SectorErr) (hs : Kept b s) : Kept b (markCorrected s e) := by
  unfold markCorrected
  repeat' first
    | assumption | refine updDram_kept ?_ rfl | apply markRow_kept | apply kept_ite

theorem markBad_kept {b : State} (s : State) (addr : Nat) (hs : Kept b s) : Kept b (markBad s addr) := by
  unfold markBad
  refine updDram_kept ?_ rfl
  assumption

theorem markSector_kept {b : State} (s : State) (e : SectorErr) (hs : Kept b s) : Kept b (markSector s e) := by
  unfold markSector
  repeat' first
    | assumption | apply markCorrected_kept | apply markRow_kept | apply markBad_kept | apply kept_ite

theorem touchSectors_kept {b : State} (s : State) (hit : Nat → Bool) (hs : Kept b s) : Kept b (touchSectors s hit)
    := by
  unfold touchSectors
  repeat' first
    | assumption | apply markRow_kept | apply markSector_kept | apply kept_foldl | apply kept_ite | intro _

theorem scrubSectors_kept {b : State} (s : State) (here : Nat → Bool) (ecc : List SectorErr) (again : Bool) (hs :
    Kept b s) : Kept b (scrubSectors s here ecc again) := by
  unfold scrubSectors
  repeat' first
    | assumption | refine updDram_kept ?_ rfl | apply markCorrected_kept | apply kept_foldl
    | apply settleIdle_kept | apply logEvent_kept | apply markBad_kept | apply kept_ite | intro _

theorem freshSectors_kept {b : State} (s : State) (rs : List (Nat × Nat)) (hs : Kept b s) : Kept b (freshSectors s
    rs) := by
  unfold freshSectors
  dsimp only
  refine kept_mk ?_ rfl rfl id id id
  assumption

theorem trainStack_kept {b : State} (s : State) (k : Nat) (hs : Kept b s) : Kept b (trainStack s k) := by
  unfold trainStack
  repeat' first
    | assumption | refine updDram_kept ?_ rfl | apply logEvent_kept | apply kept_foldl | intro _

theorem retrainDue_kept {b : State} (s : State) (hs : Kept b s) : Kept b (retrainDue s) := by
  unfold retrainDue
  apply kept_foldl
  · assumption
  · intro _ _ _
    apply kept_ite
    · apply trainStack_kept
      assumption
    · assumption

theorem trainAll_kept {b : State} (s : State) (weak : List (Nat × Nat)) (hs : Kept b s) : Kept b (trainAll s weak)
    := by
  unfold trainAll
  apply kept_foldl
  · refine updDram_kept ?_ rfl
    assumption
  · intro _ _ _
    apply trainStack_kept
    assumption

theorem ageHits_kept {b : State} (s : State) (hs : Kept b s) : Kept b (ageHits s) := by
  unfold ageHits
  repeat' first
    | assumption | refine updDram_kept ?_ rfl | apply kept_ite

-- -------------------------------------------------------------------------------- Machine/Operate

theorem updIssued_kept {b : State} (s : State) (seq : Nat) (f : Issued → Issued) (hs : Kept b s) : Kept b
    (updIssued s seq f) := by
  unfold updIssued
  refine kept_mk ?_ rfl rfl id id id
  assumption

theorem passDone_kept {b : State} (s : State) (seq : Nat) (pass : Nat) (status : Nat) (hs : Kept b s) : Kept b
    (passDone s seq pass status) := by
  unfold passDone
  apply updIssued_kept
  assumption

theorem operate_kept {b : State} (ops : List Nat) (seq : Nat) (pass : Nat) (uses : State → Plan → Desc → Nat → List
    Use) (f : State → Plan → Desc → Nat → State) (s : State) (hf : ∀ y0 y1 y2 y3, Kept b y0 → Kept b (f y0 y1 y2
    y3)) (hs : Kept b s) : Kept b (operate ops seq pass uses f s) := by
  unfold operate
  repeat' first
    | assumption | apply prefillNibbles_kept | apply cacheReads_kept | apply passDone_kept | apply touchSectors_kept
    | apply noteWrites_kept | apply_assumption | apply freshSectors_kept | apply kept_ite | split

theorem emitAdd_kept {b : State} (s : State) (p : Plan) (d : Desc) (o : Operand) (pos : Nat) (fmt : Nat) (wide :
    Bool) (pass : Nat) (v : Nat) (hs : Kept b s) : Kept b (emitAdd s p d o pos fmt wide pass v) := by
  unfold emitAdd
  split
  · assumption
  · dsimp only
    refine kept_mk ?_ rfl rfl id id id
    apply prefillBytes_kept
    assumption

-- -------------------------------------------------------------------------------- Machine/Dense

theorem accWrite_kept {b : State} (s : State) (span : Nat) (half : Nat) (entry : Nat) (a : Acc) (hs : Kept b s) :
    Kept b (accWrite s span half entry a) := by
  unfold accWrite
  refine kept_mk ?_ rfl rfl id id tabPut_wf
  assumption

theorem matmulOutputs_kept {b : State} (s : State) (p : Plan) (d : Desc) (pass : Nat) (hs : Kept b s) : Kept b
    (matmulOutputs s p d pass) := by
  unfold matmulOutputs
  repeat' first
    | assumption | apply accWrite_kept | apply kept_foldl | apply writeRun_kept | apply padScales_kept
    | apply emitAdd_kept | apply kept_ite | intro _ | split

theorem noteResident_kept {b : State} (s : State) (d : Desc) (hs : Kept b s) : Kept b (noteResident s d) := by
  unfold noteResident
  dsimp only
  apply kept_ite
  · refine kept_mk ?_ rfl rfl id id id
    assumption
  · assumption

theorem matmulRun_kept {b : State} (s : State) (p : Plan) (d : Desc) (pass : Nat) (hs : Kept b s) : Kept b
    (matmulRun s p d pass) := by
  unfold matmulRun noteResident
  dsimp only
  exact kept_ite (kept_same (matmulOutputs_kept s p d pass hs) rfl rfl rfl rfl rfl rfl) (matmulOutputs_kept s p d
    pass hs)

theorem reduceRun_kept {b : State} (s : State) (p : Plan) (d : Desc) (a3 : Nat) (hs : Kept b s) : Kept b (reduceRun
    s p d a3) := by
  unfold reduceRun
  dsimp only
  apply kept_ite
  · apply padOutput_kept
    apply kept_foldl
    · assumption
    · intro _ _ _
      apply writeRun_kept
      assumption
  · apply kept_foldl
    · apply padOutput_kept
      apply kept_foldl
      · assumption
      · intro _ _ _
        apply writeRun_kept
        assumption
    · intro _ _ _
      apply writeRaw_kept
      assumption

theorem copyConvertRun_kept {b : State} (s : State) (p : Plan) (d : Desc) (a3 : Nat) (hs : Kept b s) : Kept b
    (copyConvertRun s p d a3) := by
  unfold copyConvertRun
  repeat' first
    | assumption | apply writeRun_kept | apply padScales_kept | apply kept_foldl | apply kept_ite | intro _

-- -------------------------------------------------------------------------------- Machine/Vector

theorem setVec_kept {b : State} (s : State) (span : Nat) (e : VecEngine) (hs : Kept b s) : Kept b (setVec s span e)
    := by
  unfold setVec
  refine kept_mk ?_ rfl rfl id id id
  assumption

theorem vecUpd_kept {b : State} (s : State) (a : VecArgs) (f : VecEngine → VecEngine) (hs : Kept b s) : Kept b
    (vecUpd s a f) := by
  unfold vecUpd
  apply setVec_kept
  assumption

theorem vecBin_kept {b : State} (s : State) (a : VecArgs) (fl : Num → Num → Num) (iv : Int → Int → Int) (hs : Kept
    b s) : Kept b (vecBin s a fl iv) := by
  unfold vecBin
  dsimp only
  apply vecUpd_kept
  assumption

theorem vecImm_kept {b : State} (s : State) (a : VecArgs) (fl : Num → Num → Num) (iv : Int → Int → Int) (hs : Kept
    b s) : Kept b (vecImm s a fl iv) := by
  unfold vecImm
  dsimp only
  apply vecUpd_kept
  assumption

theorem vecUn_kept {b : State} (s : State) (a : VecArgs) (fl : Num → Num) (iv : Int → Int) (hs : Kept b s) : Kept b
    (vecUn s a fl iv) := by
  unfold vecUn
  dsimp only
  apply vecUpd_kept
  assumption

theorem vecBitwise_kept {b : State} (s : State) (a : VecArgs) (g : Nat → Nat → Nat) (hs : Kept b s) : Kept b
    (vecBitwise s a g) := by
  unfold vecBitwise
  dsimp only
  apply vecUpd_kept
  assumption

theorem vecCompare_kept {b : State} (s : State) (a : VecArgs) (c : Num → Num → Bool) (hs : Kept b s) : Kept b
    (vecCompare s a c) := by
  unfold vecCompare
  dsimp only
  apply vecUpd_kept
  assumption

theorem vecNopRun_kept {b : State} (s : State) (a1 : VecArgs) (hs : Kept b s) : Kept b (vecNopRun s a1) := by
  unfold vecNopRun
  assumption

theorem setvlRun_kept {b : State} (s : State) (a : VecArgs) (hs : Kept b s) : Kept b (setvlRun s a) := by
  unfold setvlRun
  apply vecUpd_kept
  assumption

theorem iotaRun_kept {b : State} (s : State) (a : VecArgs) (hs : Kept b s) : Kept b (iotaRun s a) := by
  unfold iotaRun
  apply vecUpd_kept
  assumption

theorem moviRun_kept {b : State} (s : State) (a : VecArgs) (hs : Kept b s) : Kept b (moviRun s a) := by
  unfold moviRun
  apply vecUpd_kept
  assumption

theorem ldRun_kept {b : State} (s : State) (a : VecArgs) (hs : Kept b s) : Kept b (ldRun s a) := by
  unfold ldRun
  repeat' first
    | assumption | apply vecUpd_kept | split

theorem stRun_kept {b : State} (s : State) (a : VecArgs) (hs : Kept b s) : Kept b (stRun s a) := by
  unfold stRun
  repeat' first
    | assumption | apply writeRun_kept | split

theorem randRun_kept {b : State} (s : State) (a : VecArgs) (hs : Kept b s) : Kept b (randRun s a) := by
  unfold randRun
  apply vecUpd_kept
  assumption

theorem addRun_kept {b : State} (s : State) (a : VecArgs) (hs : Kept b s) : Kept b (addRun s a) := by
  unfold addRun
  apply vecBin_kept
  assumption

theorem subRun_kept {b : State} (s : State) (a : VecArgs) (hs : Kept b s) : Kept b (subRun s a) := by
  unfold subRun
  apply vecBin_kept
  assumption

theorem mulRun_kept {b : State} (s : State) (a : VecArgs) (hs : Kept b s) : Kept b (mulRun s a) := by
  unfold mulRun
  apply vecBin_kept
  assumption

theorem fmaRun_kept {b : State} (s : State) (a : VecArgs) (hs : Kept b s) : Kept b (fmaRun s a) := by
  unfold fmaRun
  dsimp only
  apply vecUpd_kept
  assumption

theorem minRun_kept {b : State} (s : State) (a : VecArgs) (hs : Kept b s) : Kept b (minRun s a) := by
  unfold minRun
  apply vecBin_kept
  assumption

theorem maxRun_kept {b : State} (s : State) (a : VecArgs) (hs : Kept b s) : Kept b (maxRun s a) := by
  unfold maxRun
  apply vecBin_kept
  assumption

theorem absRun_kept {b : State} (s : State) (a : VecArgs) (hs : Kept b s) : Kept b (absRun s a) := by
  unfold absRun
  apply vecUn_kept
  assumption

theorem negRun_kept {b : State} (s : State) (a : VecArgs) (hs : Kept b s) : Kept b (negRun s a) := by
  unfold negRun
  apply vecUn_kept
  assumption

theorem addiRun_kept {b : State} (s : State) (a : VecArgs) (hs : Kept b s) : Kept b (addiRun s a) := by
  unfold addiRun
  apply vecImm_kept
  assumption

theorem muliRun_kept {b : State} (s : State) (a : VecArgs) (hs : Kept b s) : Kept b (muliRun s a) := by
  unfold muliRun
  apply vecImm_kept
  assumption

theorem exp2Run_kept {b : State} (s : State) (a : VecArgs) (hs : Kept b s) : Kept b (exp2Run s a) := by
  unfold exp2Run
  apply vecUn_kept
  assumption

theorem log2Run_kept {b : State} (s : State) (a : VecArgs) (hs : Kept b s) : Kept b (log2Run s a) := by
  unfold log2Run
  apply vecUn_kept
  assumption

theorem rsqrtRun_kept {b : State} (s : State) (a : VecArgs) (hs : Kept b s) : Kept b (rsqrtRun s a) := by
  unfold rsqrtRun
  apply vecUn_kept
  assumption

theorem rcpRun_kept {b : State} (s : State) (a : VecArgs) (hs : Kept b s) : Kept b (rcpRun s a) := by
  unfold rcpRun
  apply vecUn_kept
  assumption

theorem andRun_kept {b : State} (s : State) (a : VecArgs) (hs : Kept b s) : Kept b (andRun s a) := by
  unfold andRun
  apply vecBitwise_kept
  assumption

theorem orRun_kept {b : State} (s : State) (a : VecArgs) (hs : Kept b s) : Kept b (orRun s a) := by
  unfold orRun
  apply vecBitwise_kept
  assumption

theorem xorRun_kept {b : State} (s : State) (a : VecArgs) (hs : Kept b s) : Kept b (xorRun s a) := by
  unfold xorRun
  apply vecBitwise_kept
  assumption

theorem xoriRun_kept {b : State} (s : State) (a : VecArgs) (hs : Kept b s) : Kept b (xoriRun s a) := by
  unfold xoriRun
  apply vecBitwise_kept
  assumption

theorem shlRun_kept {b : State} (s : State) (a : VecArgs) (hs : Kept b s) : Kept b (shlRun s a) := by
  unfold shlRun
  apply vecBitwise_kept
  assumption

theorem ashrRun_kept {b : State} (s : State) (a : VecArgs) (hs : Kept b s) : Kept b (ashrRun s a) := by
  unfold ashrRun
  dsimp only
  apply vecBitwise_kept
  assumption

theorem cmpeqRun_kept {b : State} (s : State) (a : VecArgs) (hs : Kept b s) : Kept b (cmpeqRun s a) := by
  unfold cmpeqRun
  apply vecCompare_kept
  assumption

theorem cmpltRun_kept {b : State} (s : State) (a : VecArgs) (hs : Kept b s) : Kept b (cmpltRun s a) := by
  unfold cmpltRun
  apply vecCompare_kept
  assumption

theorem cmpleRun_kept {b : State} (s : State) (a : VecArgs) (hs : Kept b s) : Kept b (cmpleRun s a) := by
  unfold cmpleRun
  apply vecCompare_kept
  assumption

theorem selRun_kept {b : State} (s : State) (a : VecArgs) (hs : Kept b s) : Kept b (selRun s a) := by
  unfold selRun
  dsimp only
  apply vecUpd_kept
  assumption

theorem cvtRun_kept {b : State} (s : State) (a : VecArgs) (hs : Kept b s) : Kept b (cvtRun s a) := by
  unfold cvtRun
  dsimp only
  apply vecUpd_kept
  assumption

theorem permRun_kept {b : State} (s : State) (a : VecArgs) (hs : Kept b s) : Kept b (permRun s a) := by
  unfold permRun
  dsimp only
  apply vecUpd_kept
  assumption

theorem bcastRun_kept {b : State} (s : State) (a : VecArgs) (hs : Kept b s) : Kept b (bcastRun s a) := by
  unfold bcastRun
  dsimp only
  apply vecUpd_kept
  assumption

theorem slideupRun_kept {b : State} (s : State) (a : VecArgs) (hs : Kept b s) : Kept b (slideupRun s a) := by
  unfold slideupRun
  dsimp only
  apply vecUpd_kept
  assumption

theorem slidednRun_kept {b : State} (s : State) (a : VecArgs) (hs : Kept b s) : Kept b (slidednRun s a) := by
  unfold slidednRun
  dsimp only
  apply vecUpd_kept
  assumption

theorem rsumRun_kept {b : State} (s : State) (a : VecArgs) (hs : Kept b s) : Kept b (rsumRun s a) := by
  unfold rsumRun
  dsimp only
  apply vecUpd_kept
  assumption

theorem extremeRun_kept {b : State} (isMax : Bool) (s : State) (a : VecArgs) (hs : Kept b s) : Kept b (extremeRun
    isMax s a) := by
  unfold extremeRun
  repeat' first
    | assumption | apply vecUpd_kept | split | dsimp only

theorem rmaxRun_kept {b : State} (s : State) (a : VecArgs) (hs : Kept b s) : Kept b (rmaxRun s a) := by
  unfold rmaxRun
  apply extremeRun_kept
  assumption

theorem rminRun_kept {b : State} (s : State) (a : VecArgs) (hs : Kept b s) : Kept b (rminRun s a) := by
  unfold rminRun
  apply extremeRun_kept
  assumption

theorem psumRun_kept {b : State} (s : State) (a : VecArgs) (hs : Kept b s) : Kept b (psumRun s a) := by
  unfold psumRun
  dsimp only
  apply vecUpd_kept
  assumption

theorem pmaxRun_kept {b : State} (s : State) (a : VecArgs) (hs : Kept b s) : Kept b (pmaxRun s a) := by
  unfold pmaxRun
  dsimp only
  apply vecUpd_kept
  assumption

theorem segpsumRun_kept {b : State} (s : State) (a : VecArgs) (hs : Kept b s) : Kept b (segpsumRun s a) := by
  unfold segpsumRun
  dsimp only
  apply vecUpd_kept
  assumption

theorem vecAdvance_kept {b : State} (s : State) (span : Nat) (hs : Kept b s) : Kept b (vecAdvance s span) := by
  unfold vecAdvance
  repeat' first
    | assumption | apply setVec_kept | apply kept_ite | split

theorem vecTable_kept {b : State} {op : Nat} {f : State → VecArgs → State} (h : vecTable op = some f) (s : State)
    (a : VecArgs)
    (hs : Kept b s) : Kept b (f s a) := by
  unfold vecTable at h
  split at h <;> first
    | (rw [← Option.some.inj h]; first
      | with_reducible exact vecNopRun_kept _ _ hs
      | with_reducible exact setvlRun_kept _ _ hs
      | with_reducible exact iotaRun_kept _ _ hs
      | with_reducible exact moviRun_kept _ _ hs
      | with_reducible exact ldRun_kept _ _ hs
      | with_reducible exact stRun_kept _ _ hs
      | with_reducible exact randRun_kept _ _ hs
      | with_reducible exact addRun_kept _ _ hs
      | with_reducible exact subRun_kept _ _ hs
      | with_reducible exact mulRun_kept _ _ hs
      | with_reducible exact fmaRun_kept _ _ hs
      | with_reducible exact minRun_kept _ _ hs
      | with_reducible exact maxRun_kept _ _ hs
      | with_reducible exact absRun_kept _ _ hs
      | with_reducible exact negRun_kept _ _ hs
      | with_reducible exact addiRun_kept _ _ hs
      | with_reducible exact muliRun_kept _ _ hs
      | with_reducible exact exp2Run_kept _ _ hs
      | with_reducible exact log2Run_kept _ _ hs
      | with_reducible exact rsqrtRun_kept _ _ hs
      | with_reducible exact rcpRun_kept _ _ hs
      | with_reducible exact andRun_kept _ _ hs
      | with_reducible exact orRun_kept _ _ hs
      | with_reducible exact xorRun_kept _ _ hs
      | with_reducible exact xoriRun_kept _ _ hs
      | with_reducible exact shlRun_kept _ _ hs
      | with_reducible exact ashrRun_kept _ _ hs
      | with_reducible exact cmpeqRun_kept _ _ hs
      | with_reducible exact cmpltRun_kept _ _ hs
      | with_reducible exact cmpleRun_kept _ _ hs
      | with_reducible exact selRun_kept _ _ hs
      | with_reducible exact cvtRun_kept _ _ hs
      | with_reducible exact permRun_kept _ _ hs
      | with_reducible exact bcastRun_kept _ _ hs
      | with_reducible exact slideupRun_kept _ _ hs
      | with_reducible exact slidednRun_kept _ _ hs
      | with_reducible exact rsumRun_kept _ _ hs
      | with_reducible exact rmaxRun_kept _ _ hs
      | with_reducible exact rminRun_kept _ _ hs
      | with_reducible exact psumRun_kept _ _ hs
      | with_reducible exact pmaxRun_kept _ _ hs
      | with_reducible exact segpsumRun_kept _ _ hs)
    | exact absurd h (by simp)

theorem vecSteps_kept {b : State} (p : Plan) (d : Desc) (span : Nat) (n : Nat) (s : State) (hs : Kept b s) :
    Kept b (vecSteps p d span n s) := by
  induction n generalizing s with
  | zero => exact hs
  | succ n ih =>
    simp only [vecSteps]
    split
    · exact hs
    · rename_i hf
      exact ih _ (vecAdvance_kept _ _ (vecTable_kept hf _ _ hs))

theorem vecPad_kept {b : State} (p : Plan) (d : Desc) (t : State) (j : Nat) (k : Nat) (ht : Kept b t) : Kept b
    (vecPad p d t j k) := by
  unfold vecPad
  repeat' first
    | assumption | apply padScales_kept | apply kept_ite

theorem vecProgramRun_kept {b : State} (s : State) (p : Plan) (d : Desc) (a3 : Nat) (hs : Kept b s) : Kept b
    (vecProgramRun s p d a3) := by
  unfold vecProgramRun
  repeat' first
    | assumption | apply vecPad_kept | apply kept_foldl | apply updIssued_kept | apply vecSteps_kept
    | apply setVec_kept | intro _ | split | dsimp only

-- -------------------------------------------------------------------------------- Machine/Scans

theorem scanLine_kept {b : State} (s : State) (p : Plan) (d : Desc) (seg : Bool) (t : State) (line : Nat) (_ :
    Kept b s) (ht : Kept b t) : Kept b (scanLine s p d seg t line) := by
  unfold scanLine
  repeat' first
    | assumption | apply writeRaw_kept | apply writeElem_kept | apply kept_foldl_fst | apply kept_ite | intro _
    | split

theorem scanRun_kept {b : State} (seg : Bool) (s : State) (p : Plan) (d : Desc) (a4 : Nat) (hs : Kept b s) : Kept b
    (scanRun seg s p d a4) := by
  unfold scanRun
  repeat' first
    | assumption | apply scanLine_kept | apply kept_foldl | intro _

theorem affineLine_kept {b : State} (s : State) (p : Plan) (d : Desc) (t : State) (line : Nat) (_ : Kept b s) (ht
    : Kept b t) : Kept b (affineLine s p d t line) := by
  unfold affineLine
  repeat' first
    | assumption | apply writeRaw_kept | apply writeElem_kept | apply kept_foldl_fst | apply kept_ite | intro _

theorem affineRun_kept {b : State} (s : State) (p : Plan) (d : Desc) (a3 : Nat) (hs : Kept b s) : Kept b (affineRun
    s p d a3) := by
  unfold affineRun
  repeat' first
    | assumption | apply affineLine_kept | apply kept_foldl | intro _

-- -------------------------------------------------------------------------------- Machine/Attention

theorem fwdRow_kept {b : State} (s : State) (p : Plan) (d : Desc) (b' : List Byte) (span : Nat) (t : State) (r :
    Nat) (h' : Nat) (_ : Kept b s) (ht : Kept b t) : Kept b (fwdRow s p d b' span t r h') := by
  unfold fwdRow
  repeat' first
    | assumption | apply padTail_kept | apply writeRaw_kept | apply writeRun_kept

theorem attnFwdRun_kept {b : State} (s : State) (p : Plan) (d : Desc) (a3 : Nat) (hs : Kept b s) : Kept b
    (attnFwdRun s p d a3) := by
  unfold attnFwdRun
  dsimp only
  apply kept_foldl
  · assumption
  · intro _ _ _
    apply kept_foldl
    · assumption
    · intro _ _ _
      apply kept_foldl
      · assumption
      · intro _ _ _
        apply fwdRow_kept
        · assumption
        · assumption

theorem putEntries_kept {b : State} (s : State) (span : Nat) (half : Nat) (a3 : Nat) (l : List Num) (hs : Kept b s)
    : Kept b (putEntries s span half a3 l) := by
  unfold putEntries
  refine kept_mk ?_ rfl rfl id id tabPut_wf
  assumption

theorem relayHalves_kept {b : State} (s : State) (p : Plan) (d : Desc) (t : State) (x : Nat) (_ : Kept b s) (ht :
    Kept b t) : Kept b (relayHalves s p d t x) := by
  unfold relayHalves
  dsimp only
  split
  · assumption
  · split
    · apply putEntries_kept
      apply putEntries_kept
      assumption
    · apply putEntries_kept
      apply putEntries_kept
      apply putEntries_kept
      apply putEntries_kept
      assumption

theorem attnBwdRun_kept {b : State} (s : State) (p : Plan) (d : Desc) (a3 : Nat) (hs : Kept b s) : Kept b
    (attnBwdRun s p d a3) := by
  unfold attnBwdRun
  dsimp only
  apply kept_foldl
  · apply kept_foldl
    · apply kept_foldl
      · apply kept_ite
        · assumption
        · apply kept_foldl
          · assumption
          · intro _ _ _
            split
            · assumption
            · apply kept_foldl
              · assumption
              · intro _ _ _
                apply writeRaw_kept
                assumption
      · intro _ _ _
        apply kept_foldl
        · assumption
        · intro _ _ _
          apply kept_foldl
          · assumption
          · intro _ _ _
            apply writeElem_kept
            assumption
    · intro _ _ _
      apply kept_foldl
      · assumption
      · intro _ _ _
        apply kept_foldl
        · assumption
        · intro _ _ _
          apply writeElem_kept
          apply writeElem_kept
          assumption
  · intro _ _ _
    apply relayHalves_kept
    · assumption
    · assumption

-- -------------------------------------------------------------------------------- Machine/Window

theorem windowRows_kept {b : State} (p : Plan) (d : Desc) (pass : Nat) (s : State) (f : State → Nat → Nat → Nat →
    Nat → State) (hs : Kept b s) (hf : ∀ y0 y1 y2 y3 y4, Kept b y0 → Kept b (f y0 y1 y2 y3 y4)) : Kept b
    (windowRows p d pass s f) := by
  unfold windowRows
  dsimp only
  apply kept_foldl
  · assumption
  · intro _ _ _
    apply kept_foldl
    · assumption
    · intro _ _ _
      apply kept_foldl
      · assumption
      · intro _ _ _
        apply_assumption
        assumption

theorem fillLines_kept {b : State} (s : State) (p : Plan) (d : Desc) (pass : Nat) (t : State) (_ : Kept b s) (ht :
    Kept b t) : Kept b (fillLines s p d pass t) := by
  unfold fillLines
  repeat' first
    | assumption | apply writeBytes_kept | apply kept_foldl | intro _

theorem finishWindow_kept {b : State} (p : Plan) (d : Desc) (pass : Nat) (t : State) (ht : Kept b t) : Kept b
    (finishWindow p d pass t) := by
  unfold finishWindow
  dsimp only
  apply kept_ite
  · assumption
  · apply kept_ite
    · apply kept_foldl
      · assumption
      · intro _ _ _
        apply padScales_kept
        assumption
    · apply padScales_kept
      assumption

theorem convRun_kept {b : State} (s : State) (p : Plan) (d : Desc) (pass : Nat) (hs : Kept b s) : Kept b (convRun s
    p d pass) := by
  unfold convRun
  dsimp only
  apply finishWindow_kept
  apply fillLines_kept
  · assumption
  · apply windowRows_kept
    · assumption
    · intro _ _ _ _ _ _
      apply kept_foldl
      · assumption
      · intro _ _ _
        apply writeRun_kept
        assumption

theorem poolRun_kept {b : State} (s : State) (p : Plan) (d : Desc) (pass : Nat) (hs : Kept b s) : Kept b (poolRun s
    p d pass) := by
  unfold poolRun
  dsimp only
  apply finishWindow_kept
  apply fillLines_kept
  · assumption
  · apply windowRows_kept
    · assumption
    · intro _ _ _ _ _ _
      apply kept_ite
      · apply kept_foldl
        · assumption
        · intro _ _ _
          apply writeRun_kept
          assumption
      · apply kept_foldl
        · apply kept_foldl
          · assumption
          · intro _ _ _
            apply writeRun_kept
            assumption
        · intro _ _ _
          apply writeRaw_kept
          assumption

-- -------------------------------------------------------------------------------- Machine/DecodePhase

theorem matvecRun_kept {b : State} (s : State) (p : Plan) (d : Desc) (pass : Nat) (hs : Kept b s) : Kept b
    (matvecRun s p d pass) := by
  unfold matvecRun
  repeat' first
    | assumption | apply padScales_kept | apply emitAdd_kept | apply writeRun_kept | apply kept_foldl
    | apply kept_ite | intro _ | split

theorem copyBits_kept {b : State} (s : State) (t : State) (p : Plan) (seq : Nat) (span : Nat) (src : Operand) (dst
    : Operand) (from' : Nat) (to' : Nat) (n : Nat) (_ : Kept b s) (ht : Kept b t) : Kept b (copyBits s t p seq
    span src dst from' to' n) := by
  unfold copyBits
  split
  · assumption
  · dsimp only
    apply kept_ite
    · apply kept_foldl
      · apply kept_foldl
        · assumption
        · intro _ _ _
          apply writeRaw_kept
          assumption
      · intro _ _ _
        apply writeByte_kept
        assumption
    · apply kept_foldl
      · assumption
      · intro _ _ _
        apply writeRaw_kept
        assumption

theorem appendSlot_kept {b : State} (s : State) (p : Plan) (d : Desc) (b' : List Byte) (act : List Nat) (t : State)
    (x : Nat) (hs : Kept b s) (ht : Kept b t) : Kept b (appendSlot s p d b' act t x) := by
  unfold appendSlot
  dsimp only
  apply kept_ite
  · assumption
  · apply noteWrites_kept
    apply kept_foldl
    · assumption
    · intro _ _ _
      apply copyBits_kept
      · assumption
      · apply copyBits_kept
        · assumption
        · assumption

theorem decodeRow_kept {b : State} (s : State) (k : State) (p : Plan) (d : Desc) (b' : List Byte) (act : List Nat)
    (t : State) (x : Nat) (h' : Nat) (_ : Kept b s) (_ : Kept b k) (ht : Kept b t) : Kept b (decodeRow s k p d b'
    act t x h') := by
  unfold decodeRow
  repeat' first
    | assumption | apply writeRaw_kept | apply writeRun_kept | apply kept_ite

theorem attnDecodeRun_kept {b : State} (s : State) (p : Plan) (d : Desc) (a3 : Nat) (hs : Kept b s) : Kept b
    (attnDecodeRun s p d a3) := by
  unfold attnDecodeRun
  repeat' first
    | assumption | apply decodeRow_kept | apply appendSlot_kept | apply kept_foldl | intro _

theorem fillWorking_kept {b : State} (s : State) (bf : Buf) (handle : Nat) (hs : Kept b s) :
    Kept b (fillWorking s bf handle) := by
  unfold fillWorking
  extract_lets src dst wrote kept mem
  have hm : tabWf 0 s.dram.mem = true → tabWf 0 mem = true := by
    intro hm
    refine foldl_tabWf (tabKeep_wf hm) fun t a h => ?_
    split
    · exact tabSet_wf h
    · exact h
  clear_value mem
  exact kept_mk hs rfl rfl hm id id

theorem tblPut_kept {b : State} (s : State) (a : Nat) (o : Nat) (n : Nat) (v : Nat) (hs : Kept b s) : Kept b
    (tblPut s a o n v) := by
  unfold tblPut
  refine kept_mk ?_ rfl rfl tabPut_wf id id
  assumption

theorem initTable_kept {b : State} (s : State) (room a : Nat) (hs : Kept b s) : Kept b (initTable s room a) := by
  unfold initTable
  refine kept_ite hs ?_
  extract_lets n slots s1 s2 s3 s4 s5 s6 m first m2
  have h6 : Kept b s6 := tblPut_kept _ _ _ _ _ (tblPut_kept _ _ _ _ _ (tblPut_kept _ _ _ _ _ (tblPut_kept _ _ _ _ _
    (tblPut_kept _ _ _ _ _ (tblPut_kept _ _ _ _ _ hs)))))
  clear_value s6
  refine kept_mk h6 rfl rfl (fun hm => filterMap_wfFrom (tabKeep_wf hm) fun k v e hv he => ?_) id id
  dsimp only at he
  split at he
  · split at he
    · exact absurd he (by simp)
    · cases he
      exact ⟨rfl, by assumption⟩
  · cases he
    exact ⟨rfl, hv⟩

theorem openTable_kept {b : State} (s : State) (p : Plan) (d : Desc) (hs : Kept b s) : Kept b (openTable s p d).1
    := by
  unfold openTable
  split
  · dsimp only
    assumption
  · dsimp only
    apply initTable_kept
    apply freshSectors_kept
    refine kept_mk ?_ rfl rfl id id id
    apply fillWorking_kept
    assumption

theorem indexInsert_kept {b : State} (s : State) (a : Nat) (h' : Nat) (k : Nat) (hs : Kept b s) : Kept b
    (indexInsert s a h' k) := by
  unfold indexInsert
  dsimp only
  apply tblPut_kept
  assumption

theorem shiftBack_kept {b : State} (a slots n i j : Nat) (s : State) (hs : Kept b s) :
    Kept b (shiftBack a slots n i j s) := by
  induction n generalizing i j s with
  | zero => exact hs
  | succ n ih =>
    unfold shiftBack
    extract_lets j2 e home st s2
    have h2 : Kept b s2 := tblPut_kept _ _ _ _ _ hs
    clear_value s2
    exact kept_ite hs (kept_ite (ih _ _ _ hs) (ih _ _ _ (tblPut_kept _ _ _ _ _ h2)))

theorem indexRemove_kept {b : State} (s : State) (a : Nat) (k : Nat) (hs : Kept b s) : Kept b (indexRemove s a k)
    := by
  unfold indexRemove
  repeat' first
    | assumption | apply shiftBack_kept | apply tblPut_kept

theorem writeResult_kept {b : State} (t : State) (p : Plan) (d : Desc) (q : Nat) (blocks : List Nat) (ht : Kept b
    t) : Kept b (writeResult t p d q blocks) := by
  unfold writeResult
  repeat' first
    | assumption | apply writeRaw_kept | apply kept_foldl | intro _

theorem prefixLookupRun_kept {b : State} (s : State) (p : Plan) (d : Desc) (n : Nat) (hs : Kept b s) :
    Kept b (prefixLookupRun s p d n) := by
  unfold prefixLookupRun
  have h := openTable_kept s p d hs
  revert h
  generalize openTable s p d = r
  obtain ⟨t, a⟩ := r
  intro h
  dsimp only
  apply tblPut_kept
  refine kept_foldl h fun t q ht => writeResult_kept _ _ _ _ _ (kept_foldl ht fun t k h => tblPut_kept _ _ _ _ _ h)

theorem freeNode_kept {b : State} (s : State) (a : Nat) (slots : Nat) (k : Nat) (hs : Kept b s) : Kept b (freeNode
    s a slots k) := by
  unfold freeNode
  dsimp only
  apply kept_ite
  · apply tblPut_kept
    apply tblPut_kept
    apply indexRemove_kept
    assumption
  · apply tblPut_kept
    apply tblPut_kept
    apply tblPut_kept
    apply indexRemove_kept
    assumption

theorem fillNode_kept {b : State} (s : State) (a : Nat) (slots : Nat) (k : Nat) (ns : Nat) (h' : Nat) (parent :
    Nat) (block : Nat) (toks : List Nat) (hs : Kept b s) : Kept b (fillNode s a slots k ns h' parent block toks) := by
  unfold fillNode
  dsimp only
  apply kept_ite
  · apply indexInsert_kept
    apply tblPut_kept
    apply kept_foldl
    · apply tblPut_kept
      apply tblPut_kept
      apply tblPut_kept
      apply tblPut_kept
      apply tblPut_kept
      apply tblPut_kept
      assumption
    · intro _ _ _
      apply tblPut_kept
      assumption
  · apply tblPut_kept
    apply indexInsert_kept
    apply tblPut_kept
    apply kept_foldl
    · apply tblPut_kept
      apply tblPut_kept
      apply tblPut_kept
      apply tblPut_kept
      apply tblPut_kept
      apply tblPut_kept
      assumption
    · intro _ _ _
      apply tblPut_kept
      assumption

theorem insertBlocks_kept {b : State} (s : State) (p : Plan) (d : Desc) (a q stamp n i prev parent : Nat) (t : State)
    (ht : Kept b t) : Kept b (insertBlocks s p d a q stamp n i prev parent t).1 := by
  induction n generalizing i prev parent t with
  | zero => exact ht
  | succ n ih =>
    unfold insertBlocks
    extract_lets slots cap toks ns h go block room
    have hgo : ∀ t k ev, Kept b t → Kept b (go t k ev).1 := fun t k ev h => ih _ _ _ _ (tblPut_kept _ _ _ _ _ h)
    clear_value go
    split
    · exact hgo _ _ _ ht
    · have hroom : ∀ x, room = some x → Kept b x.1 := by
        intro x hr
        unfold room at hr
        split at hr
        · obtain ⟨v, _, hv⟩ := Option.map_eq_some_iff.mp hr
          clear hr
          rw [← hv]
          dsimp only
          exact freeNode_kept _ _ _ _ ht
        · rw [← Option.some.inj hr]
          exact ht
      clear_value room
      split
      · exact ht
      · have ht' := hroom _ rfl
        split
        · exact ht'
        · exact hgo _ _ _ (fillNode_kept _ _ _ _ _ _ _ _ _ ht')

theorem insertAll_kept {b : State} (s : State) (p : Plan) (d : Desc) (hs : Kept b s) : Kept b (insertAll s p d).1 := by
  unfold insertAll
  have h := openTable_kept s p d hs
  revert h
  generalize openTable s p d = r
  obtain ⟨t, a⟩ := r
  intro h
  refine kept_foldl_fst h fun x q hx => ?_
  exact writeResult_kept _ _ _ _ _ (insertBlocks_kept _ _ _ _ _ _ _ _ _ _ _ (tblPut_kept _ _ _ _ _ hx))

theorem prefixInsertRun_kept {b : State} (s : State) (p : Plan) (d : Desc) (n : Nat) (hs : Kept b s) :
    Kept b (prefixInsertRun s p d n) := by
  unfold prefixInsertRun
  exact kept_foldl (insertAll_kept s p d hs) fun t v ht => writeRaw_kept _ _ _ _ _ _ ht

-- -------------------------------------------------------------------------------- Machine/Update

theorem addNorm_kept {b : State} (s : State) (r : NormRec) (hs : Kept b s) : Kept b (addNorm s r) := by
  unfold addNorm
  refine kept_mk ?_ rfl rfl id id id
  assumption

theorem upWrite_kept {b : State} (s : State) (t : State) (p : Plan) (d : Desc) (o : Operand) (i : Nat) (j : Nat)
    (held : Bool) (x : Num) (_ : Kept b s) (ht : Kept b t) : Kept b (upWrite s t p d o i j held x) := by
  unfold upWrite
  repeat' first
    | assumption | apply writeElem_kept | apply writeRaw_kept | apply kept_ite

theorem upWriteBlock_kept {b : State} (s : State) (t : State) (p : Plan) (d : Desc) (f : Fmt) (k : Nat) (es : List
    UpElem) (_ : Kept b s) (ht : Kept b t) : Kept b (upWriteBlock s t p d f k es) := by
  unfold upWriteBlock
  dsimp only
  apply kept_ite
  · apply writeBlock_kept
    assumption
  · apply kept_foldl
    · apply writeByte_kept
      assumption
    · intro _ _ _
      apply kept_ite
      · apply writeRaw_kept
        assumption
      · apply writeRaw_kept
        assumption

theorem upWriteAll_kept {b : State} (s : State) (p : Plan) (d : Desc) (es : List UpElem) (hs : Kept b s) : Kept b
    (upWriteAll s p d es) := by
  unfold upWriteAll
  repeat' first
    | assumption | apply upWriteBlock_kept | apply upWrite_kept | apply kept_foldl | apply padScales_kept
    | apply writeRaw_kept | apply kept_ite | intro _ | split

theorem updateElemRun_kept {b : State} (s : State) (p : Plan) (d : Desc) (a3 : Nat) (hs : Kept b s) : Kept b
    (updateElemRun s p d a3) := by
  unfold updateElemRun
  repeat' first
    | assumption | apply upWriteAll_kept | apply addNorm_kept | apply kept_ite

theorem updateMatrixRun_kept {b : State} (s : State) (p : Plan) (d : Desc) (pass : Nat) (hs : Kept b s) : Kept b
    (updateMatrixRun s p d pass) := by
  unfold updateMatrixRun
  repeat' first
    | assumption | apply upWriteAll_kept | apply addNorm_kept | apply kept_ite

theorem normProbeRun_kept {b : State} (s : State) (p : Plan) (d : Desc) (a3 : Nat) (hs : Kept b s) : Kept b
    (normProbeRun s p d a3) := by
  unfold normProbeRun
  apply addNorm_kept
  assumption

end Sys2Proof.Machine
end

