-- ==== Sys2Proof/Laws/KeptShared.lean ====
section
/-! SUPPORT. One lemma per operation: it keeps the queue, the fuses and the canonical memories. Here: what several chapters' commands share. -/

set_option maxRecDepth 2000

namespace Sys2Proof.Machine

-- -------------------------------------------------------------------------------- Machine/DramOps

theorem applyAdd_kept {b : State} (s : State) (x : Add) (hs : Kept b s) : Kept b (applyAdd s x) := by
  unfold applyAdd
  extract_lets t n
  have ht : Kept b t := touchSectors_kept _ _ (updDram_kept hs rfl)
  clear_value t
  exact kept_ite (updIssued_kept _ _ _ (failRow_kept _ _ ht))
    (freshSectors_kept _ _ (updDram_mem_kept ht fun h => tabPut_wf h))

theorem memorySideAdd_kept {b : State} (s : State) (ch : Nat) (hs : Kept b s) : Kept b (memorySideAdd s ch) := by
  unfold memorySideAdd
  repeat' first
    | assumption | refine updDram_kept ?_ rfl | apply applyAdd_kept | apply kept_ite | split | dsimp only

theorem addDone_kept {b : State} (s : State) (ch : Nat) (span : Nat) (seq : Nat) (hs : Kept b s) : Kept b (addDone
    s ch span seq) := by
  unfold addDone
  repeat' first
    | assumption | refine updDram_kept ?_ rfl | apply kept_ite | split

theorem dramRefresh_kept {b : State} (s : State) (ch : Nat) (bank : Nat) (hs : Kept b s) : Kept b (dramRefresh s ch
    bank) := by
  unfold dramRefresh
  repeat' first
    | assumption | refine updDram_kept ?_ rfl | apply kept_ite

theorem backgroundScrub_kept {b : State} (s : State) (ch : Nat) (ecc : List SectorErr) (hs : Kept b s) : Kept b
    (backgroundScrub s ch ecc) := by
  unfold backgroundScrub
  repeat' first
    | assumption | refine updDram_kept ?_ rfl | apply scrubSectors_kept | apply kept_ite

theorem bar2Read_kept {b : State} (s : State) (off : Nat) (len : Nat) (ecc : List SectorErr) (hs : Kept b s) : Kept
    b (bar2Read s off len ecc) := by
  unfold bar2Read
  dsimp only
  apply barRead_kept
  · assumption
  · intro _ _
    apply kept_ite
    · apply sendPcie_kept
      apply setErr_kept
      assumption
    · split
      · apply settleIdle_kept
        apply sendPcie_kept
        apply kept_foldl
        · apply touchSectors_kept
          assumption
        · intro _ _ _
          apply markSector_kept
          assumption
      · apply settleIdle_kept
        apply sendPcie_kept
        apply logEvent_kept
        apply markRow_kept
        apply logAer_kept
        apply kept_foldl
        · apply touchSectors_kept
          assumption
        · intro _ _ _
          apply markSector_kept
          assumption

theorem putSectors_kept {b : State} (s : State) (a : Nat) (data : List Byte) (hs : Kept b s) :
    Kept b (putSectors s a data).1 := by
  unfold putSectors
  extract_lets t bads mem u
  have ht : Kept b t := touchSectors_kept _ _ hs
  have hm : tabWf 0 t.dram.mem = true → tabWf 0 mem = true := fun h => foldl_tabWf h fun m x hm => by
    split
    · exact hm
    · exact tabSet_wf hm
  clear_value bads t mem
  exact kept_foldl (freshSectors_kept _ _ (updDram_mem_kept ht hm)) fun s sec h => markRow_kept _ _ h

theorem bar2Bytes_kept {b : State} (s : State) (a : Nat) (data : List Byte) (hs : Kept b s) : Kept b (bar2Bytes s a
    data) := by
  unfold bar2Bytes
  dsimp only
  apply settleIdle_kept
  apply kept_foldl
  · apply putSectors_kept
    assumption
  · intro _ _ _
    apply notifyFault_kept
    assumption

theorem bar2Write_kept {b : State} (s : State) (off : Nat) (data : List Byte) (poisoned : Bool) (hs : Kept b s) :
    Kept b (bar2Write s off data poisoned) := by
  unfold bar2Write
  repeat' first
    | assumption | apply bar2Bytes_kept | apply updHost_kept | apply setErr_kept | apply kept_ite

-- -------------------------------------------------------------------------------- Machine/March

theorem clearTags_kept {b : State} (s : State) (sel : Nat → Bool) (hs : Kept b s) : Kept b (clearTags s sel) := by
  unfold clearTags
  refine updSp_kept ?_ rfl rfl
  assumption

theorem marchSpans_kept {b : State} (s : State) (sel : Nat → Bool) (hs : Kept b s) : Kept b (marchSpans s sel) := by
  unfold marchSpans
  refine updSp_mem_kept (clearTags_kept _ _ hs) ?_ ?_
  · dsimp only
    exact tabKeep_wf
  · dsimp only
    exact tabKeep_wf

theorem noteCells_kept {b : State} (s : State) (l : List Cell) (hs : Kept b s) : Kept b (noteCells s l) := by
  unfold noteCells
  repeat' first
    | assumption | refine updSp_kept ?_ rfl rfl | apply kept_ite

theorem repairSram_kept {b : State} (s : State) (a : Sram) (hs : Kept b s) : Kept b (repairSram s a) := by
  unfold repairSram
  dsimp only
  apply kept_foldl
  · apply kept_foldl
    · assumption
    · intro _ _ _
      apply recordRepair_kept
      assumption
  · intro _ _ _
    apply recordRepair_kept
    assumption

theorem repairSrams_kept {b : State} (s : State) (sel : Sram → Bool) (hs : Kept b s) : Kept b (repairSrams s sel)
    := by
  unfold repairSrams
  repeat' first
    | assumption | apply repairSram_kept | apply kept_foldl

theorem substitute_kept {b : State} (s : State) (x : Nat) (hs : Kept b s) : Kept b (substitute s x) := by
  unfold substitute
  extract_lets k old s1 fails lost s2
  have h1 : Kept b s1 := clearTags_kept s _ hs
  have h2 : Kept b s2 := by
    refine updSp_mem_kept h1 ?_ id
    dsimp only
    exact tabKeep_wf
  clear_value s1 s2 lost
  exact kept_ite (recordRepair_kept _ _ _ _ _ (updSp_kept h1 rfl rfl))
    (recordRepair_kept _ _ _ _ _ (kept_ite (updKs_kept h2) h2))

theorem moveSlow_kept {b : State} (s : State) (x : Nat) (hs : Kept b s) : Kept b (moveSlow s x) := by
  unfold moveSlow
  repeat' first
    | assumption | with_reducible apply substitute_kept | with_reducible refine updSp_kept ?_ ?_ ?_
    | with_reducible apply kept_ite | exact rfl | intro _ | split

theorem retirePhys_kept {b : State} (s : State) (p : Nat) (hs : Kept b s) : Kept b (retirePhys s p) := by
  unfold retirePhys
  repeat' first
    | assumption | refine updSp_kept ?_ rfl rfl | apply substitute_kept | apply kept_ite | split

theorem unretire_kept {b : State} (s : State) (p : Nat) (hs : Kept b s) : Kept b (unretire s p) := by
  unfold unretire
  repeat' first
    | assumption | refine updSp_kept ?_ rfl rfl | refine updToll_kept ?_ rfl rfl

theorem disableSet_kept {b : State} (s : State) (q : Nat) (set : Nat) (hs : Kept b s) : Kept b (disableSet s q set)
    := by
  unfold disableSet
  repeat' first
    | assumption | refine updSp_kept ?_ rfl rfl | apply recordRepair_kept | apply kept_ite

theorem retireFailing_kept {b : State} (s : State) (sel : Sram → Bool) (hs : Kept b s) : Kept b (retireFailing s
    sel) := by
  unfold retireFailing
  repeat' first
    | assumption | apply disableSet_kept | apply kept_foldl | apply retirePhys_kept | intro _ | split

theorem marchRepair_kept {b : State} (s : State) (sel : Sram → Bool) (hs : Kept b s) : Kept b (marchRepair s sel)
    := by
  unfold marchRepair
  apply retireFailing_kept
  apply repairSrams_kept
  assumption

theorem marchSpan_kept {b : State} (s : State) (x : Nat) (hs : Kept b s) : Kept b (marchSpan s x) := by
  unfold marchSpan
  repeat' first
    | assumption | refine updSp_kept ?_ rfl rfl | apply marchRepair_kept | apply marchSpans_kept

-- -------------------------------------------------------------------------------- Machine/SpanOps

theorem dropCache_kept {b : State} (s : State) (hs : Kept b s) : Kept b (dropCache s) := by
  unfold dropCache
  refine updSp_kept ?_ rfl rfl
  assumption

theorem dropOldLines_kept {b : State} (s : State) (hs : Kept b s) : Kept b (dropOldLines s) := by
  unfold dropOldLines
  refine updSp_kept ?_ rfl rfl
  assumption

theorem marchTest_kept {b : State} (s : State) (tag : Nat) (hs : Kept b s) : Kept b (marchTest s tag) := by
  unfold marchTest
  repeat' first
    | assumption | apply updKs_kept | apply finishCmd_kept | apply serve_kept | apply acceptCmd_kept
    | apply kept_ite | intro _

theorem marchDestroys_kept {b : State} (s : State) (c : Taken) (hs : Kept b s) : Kept b (marchDestroys s c) := by
  unfold marchDestroys
  repeat' first
    | assumption | refine updSp_kept ?_ rfl rfl | apply marchSpans_kept

theorem marchPreserves_kept {b : State} (s : State) (c : Taken) (hs : Kept b s) : Kept b (marchPreserves s c) := by
  unfold marchPreserves
  repeat' first
    | assumption | refine updSp_kept ?_ rfl rfl | apply kept_foldl | apply kept_ite | intro _ | split

theorem marchTestEnd_kept {b : State} (s : State) (cells : List Cell) (hs : Kept b s) : Kept b (marchTestEnd s
    cells) := by
  unfold marchTestEnd
  split
  · assumption
  · dsimp only
    apply updKs_kept
    apply finishCmd_kept
    apply kept_ite
    · apply marchRepair_kept
      apply kept_ite
      · apply marchDestroys_kept
        apply noteCells_kept
        apply updKs_kept
        assumption
      · apply marchPreserves_kept
        apply noteCells_kept
        apply updKs_kept
        assumption
    · apply kept_ite
      · apply marchDestroys_kept
        apply noteCells_kept
        apply updKs_kept
        assumption
      · apply marchPreserves_kept
        apply noteCells_kept
        apply updKs_kept
        assumption

-- -------------------------------------------------------------------------------- Machine/Link

theorem setPort_kept {b : State} (s : State) (p : Nat) (x : Port) (hs : Kept b s) : Kept b (setPort s p x) := by
  unfold setPort
  apply updVia_kept
  assumption

theorem updPort_kept {b : State} (s : State) (p : Nat) (f : Port → Port) (hs : Kept b s) : Kept b (updPort s p f)
    := by
  unfold updPort
  apply setPort_kept
  assumption

theorem sendPlain_kept {b : State} (s : State) (n : Nat) (kind : Nat) (b' : List Byte) (hs : Kept b s) : Kept b
    (sendPlain s n kind b') := by
  unfold sendPlain
  apply updPort_kept
  assumption

theorem beginRetrain_kept {b : State} (s : State) (n : Nat) (hs : Kept b s) : Kept b (beginRetrain s n) := by
  unfold beginRetrain
  apply raiseIrq_kept
  apply updPort_kept
  assumption

theorem sendLink_kept {b : State} (s : State) (port : Nat) (i : Instr) (hs : Kept b s) : Kept b (sendLink s port i)
    := by
  unfold sendLink
  apply sendPlain_kept
  apply updVia_kept
  assumption

theorem portRetrain_kept {b : State} (s : State) (n : Nat) (hs : Kept b s) : Kept b (portRetrain s n) := by
  unfold portRetrain
  repeat' first
    | assumption | apply sendLink_kept | apply beginRetrain_kept | apply kept_ite

theorem resendLimit_kept {b : State} (s : State) (n : Nat) (hs : Kept b s) : Kept b (resendLimit s n) := by
  unfold resendLimit
  repeat' first
    | assumption | with_reducible apply portRetrain_kept | with_reducible apply kept_ite | intro _ | split

theorem pump_kept {b : State} (s : State) (n : Nat) (hs : Kept b s) : Kept b (pump s n) := by
  unfold pump
  repeat' first
    | assumption | with_reducible apply resendLimit_kept | with_reducible apply setPort_kept
    | with_reducible apply kept_ite | intro _ | split

theorem queueFlits_kept {b : State} (s : State) (n : Nat) (fs : List Flit) (hs : Kept b s) : Kept b (queueFlits s n
    fs) := by
  unfold queueFlits
  apply pump_kept
  apply updPort_kept
  assumption

theorem sendVia_kept {b : State} (s : State) (port : Nat) (i : Instr) (hs : Kept b s) : Kept b (sendVia s port i)
    := by
  unfold sendVia
  repeat' first
    | assumption | apply updVia_kept | apply queueFlits_kept | apply kept_ite

theorem routeFlits_kept {b : State} (s : State) (dest : Coord) (fs : List Flit) (hs : Kept b s) : Kept b
    (routeFlits s dest fs) := by
  unfold routeFlits
  repeat' first
    | assumption | apply queueFlits_kept | apply logEvent_kept | split

theorem sendTo_kept {b : State} (s : State) (dest : Coord) (i : Instr) (hs : Kept b s) : Kept b (sendTo s dest i)
    := by
  unfold sendTo
  apply routeFlits_kept
  apply updVia_kept
  assumption

theorem sendRank_kept {b : State} (s : State) (r : Nat) (i : Instr) (hs : Kept b s) : Kept b (sendRank s r i) := by
  unfold sendRank
  repeat' first
    | assumption | apply sendTo_kept | split

theorem flood_kept {b : State} (s : State) (except : Option Nat) (i : Nat → Instr) (hs : Kept b s) : Kept b (flood
    s except i) := by
  unfold flood
  repeat' first
    | assumption | apply sendVia_kept | apply kept_foldl | apply kept_ite | intro _

theorem sendCtl_kept {b : State} (s : State) (r : Nat) (status : Nat) (i : Ctl → Instr) (hs : Kept b s) : Kept b
    (sendCtl s r status i) := by
  unfold sendCtl
  repeat' first
    | assumption | apply sendTo_kept | split

theorem sendJ_kept {b : State} (s : State) (r : Nat) (i : JMsg → Instr) (hs : Kept b s) : Kept b (sendJ s r i) := by
  unfold sendJ
  repeat' first
    | assumption | apply sendTo_kept | split

theorem armPort_kept {b : State} (s : State) (n code : Nat) (hs : Kept b s) : Kept b (armPort s n code) := by
  unfold armPort
  repeat' first
    | assumption | with_reducible apply updKs_kept | with_reducible apply kept_ite | intro _ | split

theorem armPorts_kept {b : State} (s : State) (code : Nat → Nat) (hs : Kept b s) : Kept b (armPorts s code) := by
  unfold armPorts
  repeat' first
    | with_reducible assumption | with_reducible apply armPort_kept | with_reducible apply kept_foldl | intro _
    | dsimp only | split

theorem armWaiting_kept {b : State} (s : State) (n : Nat) (hs : Kept b s) : Kept b (armWaiting s n) := by
  unfold armWaiting
  repeat' first
    | assumption | with_reducible apply armPort_kept | intro _ | split

theorem sendNext_kept {b : State} (s : State) (port : Nat) (i : Ctl → Instr) (hs : Kept b s) : Kept b (sendNext s
    port i) := by
  unfold sendNext
  repeat' first
    | assumption | with_reducible apply sendVia_kept | with_reducible apply sendTo_kept
    | with_reducible apply kept_ite | intro _ | split

theorem resendIdent_kept {b : State} (s : State) (old : State) (hs : Kept b s) (_ : Kept b old) : Kept b
    (resendIdent s old) := by
  unfold resendIdent
  repeat' first
    | assumption | apply sendLink_kept | apply kept_foldl | apply kept_ite | intro _

theorem leaveBy_kept {b s t : State} {port : Nat} {dest : Coord} {fs : List Flit} (hs : Kept b s)
    (h : leaveBy s port dest fs = some t) : Kept b t := by
  obtain ⟨e, _, rfl⟩ := Option.map_eq_some_iff.mp h
  exact queueFlits_kept _ _ _ hs

theorem sendReady_kept {b : State} (s : State) (port r msgSeq cls len : Nat) (hs : Kept b s) :
    Kept b (sendReady s port r msgSeq cls len) := by
  unfold sendReady
  split
  · exact hs
  · extract_lets h m t
    have ht : Kept b t := updVia_kept hs
    clear_value t
    cases hl : leaveBy t port _ _ with
    | none => exact logEvent_kept _ _ ht
    | some u => exact leaveBy_kept ht hl

theorem showLock_kept {b : State} (s : State) (hs : Kept b s) : Kept b (showLock s) := by
  unfold showLock
  apply updHost_kept
  assumption

theorem retime_kept {b : State} (s : State) (hs : Kept b s) : Kept b (retime s) := by
  unfold retime
  repeat' first
    | assumption | apply updBeat_kept | apply showLock_kept | apply kept_ite | split

theorem forgetMarkers_kept {b : State} (s : State) (n : Nat) (hs : Kept b s) : Kept b (forgetMarkers s n) := by
  unfold forgetMarkers
  apply retime_kept
  apply updBeat_kept
  assumption

theorem forgetDelay_kept {b : State} (s : State) (n : Nat) (hs : Kept b s) : Kept b (forgetDelay s n) := by
  unfold forgetDelay
  apply updBeat_kept
  assumption

-- -------------------------------------------------------------------------------- Machine/Segment

theorem putMem_kept {b : State} (s : State) (a : Nat) (v : List Byte) (hs : Kept b s) : Kept b (putMem s a v) :=
  updDram_mem_kept hs tabPut_wf

theorem runContext_kept {b : State} (s : State) (c : Ctx) (hs : Kept b s) : Kept b (runContext s c).1 := by
  unfold runContext
  dsimp only
  refine kept_mk ?_ rfl rfl id id id
  assumption

theorem runContexts_kept {b : State} (s : State) (p : Plan) (seq : Nat) (hs : Kept b s) : Kept b (runContexts s p
    seq) := by
  unfold runContexts
  repeat' first
    | assumption | apply runContext_kept | apply updKs_kept | apply kept_foldl_fst | intro _ | split

theorem putWorking_kept {b : State} (s : State) (off : Nat) (b' : List Byte) (hs : Kept b s) : Kept b (putWorking s
    off b') := by
  unfold putWorking
  repeat' first
    | with_reducible assumption | with_reducible apply freshSectors_kept | with_reducible apply putMem_kept | intro _
    | dsimp only | split

theorem enterContexts_kept {b : State} (s : State) (p : Plan) (seq : Nat) (hs : Kept b s) : Kept b (enterContexts s
    p seq) := by
  unfold enterContexts
  repeat' first
    | with_reducible assumption | with_reducible apply putWorking_kept | with_reducible apply updKs_kept
    | with_reducible apply kept_foldl | intro _ | dsimp only | split

theorem beginSegment_kept {b : State} (s : State) (p : Plan) (seq : Nat) (hs : Kept b s) : Kept b (beginSegment s p
    seq) := by
  unfold beginSegment
  apply updKs_kept
  assumption

theorem regEffect_kept {b : State} (s : State) (old : Tab Nat) (i : Nat) (hs : Kept b s) : Kept b (regEffect s old
    i) := by
  unfold regEffect
  repeat' first
    | assumption | with_reducible refine updSp_kept ?_ ?_ ?_ | with_reducible apply kept_ite | exact rfl | intro _
    | split

theorem armAll_kept {b : State} (s : State) (c : BlockCfg) (hs : Kept b s) : Kept b (armAll s c) := by
  unfold armAll
  repeat' first
    | with_reducible assumption | with_reducible apply updKs_kept | with_reducible apply regEffect_kept
    | with_reducible apply kept_foldl | intro _ | dsimp only | split

theorem armAt_kept {b : State} (s : State) (p : Plan) (seq : Nat) (hs : Kept b s) : Kept b (armAt s p seq) := by
  unfold armAt
  repeat' first
    | with_reducible assumption | with_reducible apply armAll_kept | with_reducible apply updKs_kept
    | with_reducible refine updSp_kept ?_ ?_ ?_ | with_reducible rfl | exact rfl | intro _ | dsimp only | split

theorem dropSegment_kept {b : State} (s : State) (keep : List Nat) (hs : Kept b s) : Kept b (dropSegment s keep) := by
  unfold dropSegment
  repeat' first
    | assumption | refine updSp_kept ?_ rfl rfl | refine updDram_kept ?_ rfl | apply updTre_kept
    | apply updKs_kept

theorem keepNorms_kept {b : State} (s : State) (step : Nat) (hs : Kept b s) : Kept b (keepNorms s step) := by
  unfold keepNorms
  repeat' first
    | with_reducible assumption | with_reducible apply updKs_kept | with_reducible apply putWorking_kept
    | with_reducible apply kept_ite | intro _ | dsimp only | split

theorem resumeAt_kept {b : State} (s : State) (p : Plan) (r : Rec) (keepNorms : Nat → Bool) (hs : Kept b s) : Kept
    b (resumeAt s p r keepNorms) := by
  unfold resumeAt
  repeat' first
    | with_reducible assumption | with_reducible apply keepNorms_kept | with_reducible apply updKs_kept
    | with_reducible apply enterContexts_kept | with_reducible apply armAt_kept
    | with_reducible apply beginSegment_kept | with_reducible apply kept_ite | intro _ | dsimp only | split

-- -------------------------------------------------------------------------------- Machine/Journal

theorem undefinedBytes_kept {b : State} (s : State) (a n : Nat) (hs : Kept b s) : Kept b (undefinedBytes s a n) := by
  induction n generalizing s a with
  | zero => exact hs
  | succ n ih => exact ih _ _ (kept_mk hs rfl rfl tabSet_wf id id)

theorem undefineKind0_kept {b : State} (s : State) (p : Plan) (hs : Kept b s) : Kept b (undefineKind0 s p) := by
  unfold undefineKind0
  apply kept_foldl
  · assumption
  · intro _ _ _
    apply kept_ite
    · apply undefinedBytes_kept
      assumption
    · assumption

theorem finishStart_kept {b : State} (s : State) (status : Nat) (hs : Kept b s) : Kept b (finishStart s status) := by
  unfold finishStart
  apply finishOpt_kept
  apply updKs_kept
  assumption

theorem finishPause_kept {b : State} (s : State) (status : Nat) (hs : Kept b s) : Kept b (finishPause s status) := by
  unfold finishPause
  repeat' first
    | assumption | apply updKs_kept | apply finishCmd_kept | split

theorem applySetting_kept {b : State} (s : State) (a1 : Setting) (hs : Kept b s) : Kept b (applySetting s a1) := by
  unfold applySetting
  repeat' first
    | assumption | refine updSp_kept ?_ rfl rfl | apply updKs_kept | apply kept_ite | split

theorem applyDue_kept {b : State} (s : State) (hs : Kept b s) : Kept b (applyDue s) := by
  unfold applyDue
  repeat' first
    | assumption | apply applySetting_kept | apply updKs_kept | apply kept_foldl

theorem holdPlan_kept {b : State} (s : State) (hs : Kept b s) : Kept b (holdPlan s) := by
  unfold holdPlan
  repeat' first
    | assumption | apply settleRows_kept | apply setPlanState_kept | apply applyDue_kept | apply finishPause_kept

theorem finishReshard_kept {b : State} (s : State) (status : Nat) (rs : List Nat) (hs : Kept b s) : Kept b
    (finishReshard s status rs) := by
  unfold finishReshard
  repeat' first
    | assumption | apply updKs_kept | apply finishOpt_kept | split

theorem updReshard_kept {b : State} (s : State) (f : ReshardWork → ReshardWork) (hs : Kept b s) : Kept b
    (updReshard s f) := by
  unfold updReshard
  apply updKs_kept
  assumption

theorem sendOld_kept {b : State} (s : State) (r : Nat) (status : Nat) (i : Ctl → Instr) (hs : Kept b s) : Kept b
    (sendOld s r status i) := by
  unfold sendOld
  repeat' first
    | assumption | apply sendTo_kept | split

theorem passReshardToken_kept {b : State} (s : State) (p : Plan) (t : ReshardToken) (agree : Bool) (hs : Kept b s)
    : Kept b (passReshardToken s p t agree) := by
  unfold passReshardToken
  apply sendOld_kept
  apply updKs_kept
  assumption

theorem joinToken_kept {b : State} (s : State) (hs : Kept b s) : Kept b (joinToken s) := by
  unfold joinToken
  split
  · split
    · assumption
    · dsimp only
      apply kept_ite
      · assumption
      · apply kept_ite
        · apply sendOld_kept
          apply updReshard_kept
          assumption
        · split
          · assumption
          · apply kept_ite
            · assumption
            · apply passReshardToken_kept
              apply updReshard_kept
              assumption
  · assumption

theorem restoreEpoch_kept {b : State} (s : State) (w : ReshardWork) (hs : Kept b s) : Kept b (restoreEpoch s w) := by
  unfold restoreEpoch
  repeat' first
    | with_reducible assumption | with_reducible apply updVia_kept | with_reducible apply armPorts_kept
    | with_reducible apply updKs_kept | with_reducible apply kept_ite | intro _ | dsimp only | split

theorem settlePause_kept {b : State} (s : State) (w : ReshardWork) (hs : Kept b s) : Kept b (settlePause s w) := by
  unfold settlePause
  repeat' first
    | assumption | apply holdPlan_kept | apply kept_ite

theorem reshardFails_kept {b : State} (s : State) (status : Nat) (hs : Kept b s) : Kept b (reshardFails s status)
    := by
  unfold reshardFails
  repeat' first
    | assumption | apply updReshard_kept | apply holdPlan_kept | apply restoreEpoch_kept
    | apply finishReshard_kept | apply joinToken_kept | apply kept_ite | split

theorem tellReshardFault_kept {b : State} (s : State) (status : Nat) (hs : Kept b s) : Kept b (tellReshardFault s
    status) := by
  unfold tellReshardFault
  repeat' first
    | assumption | apply sendOld_kept | apply kept_foldl | apply kept_ite | intro _ | split

theorem reshardFault_kept {b : State} (s : State) (status : Nat) (hs : Kept b s) : Kept b (reshardFault s status)
    := by
  unfold reshardFault
  apply reshardFails_kept
  apply tellReshardFault_kept
  assumption

theorem leaveReshardPier_kept {b : State} (s : State) (hs : Kept b s) : Kept b (leaveReshardPier s) := by
  unfold leaveReshardPier
  repeat' first
    | assumption | apply updKs_kept | apply updReshard_kept | apply kept_ite

theorem stopPlan_kept {b : State} (s : State) (hs : Kept b s) : Kept b (stopPlan s) := by
  unfold stopPlan
  split
  · assumption
  · dsimp only
    apply undefineKind0_kept
    apply updGrp_kept
    apply updKs_kept
    apply dropSegment_kept
    assumption

theorem abortRun_kept {b : State} (s : State) (startStatus : Nat) (hs : Kept b s) : Kept b (abortRun s startStatus)
    := by
  unfold abortRun
  repeat' first
    | assumption | apply finishReshard_kept | apply settleRows_kept | apply setPlanState_kept
    | apply applyDue_kept | apply finishStart_kept | apply finishPause_kept | apply stopPlan_kept
    | apply tellReshardFault_kept

theorem endRun_kept {b : State} (s : State) (status : Nat) (hs : Kept b s) : Kept b (endRun s status) := by
  unfold endRun
  apply abortRun_kept
  assumption

theorem checkMemory_kept {b : State} (s : State) (hs : Kept b s) : Kept b (checkMemory s) := by
  unfold checkMemory
  repeat' first
    | assumption | apply endRun_kept | apply kept_ite

theorem formStep_kept {b : State} (s : State) (p : Plan) (hs : Kept b s) : Kept b (formStep s p) := by
  unfold formStep
  repeat' first
    | assumption | apply updKs_kept | apply kept_ite

theorem formPending_kept {b : State} (s : State) (p : Plan) (atPier : Bool) (hs : Kept b s) : Kept b (formPending s
    p atPier) := by
  unfold formPending
  repeat' first
    | assumption | refine updSp_kept ?_ rfl rfl | apply updKs_kept | apply logEvent_kept | apply kept_foldl
    | apply kept_ite | intro _

theorem foundSector_kept {b : State} (s : State) (sec : Nat) (hs : Kept b s) : Kept b (foundSector s sec) := by
  unfold foundSector
  refine updDram_kept ?_ rfl
  assumption

theorem dropNormRecord_kept {b : State} (s : State) (i : Nat) (hs : Kept b s) : Kept b (dropNormRecord s i) := by
  unfold dropNormRecord
  dsimp only
  apply updKs_kept
  assumption

theorem floodJ_kept {b : State} (s : State) (except : Option Nat) (jt : Nat) (count : Nat) (pier : Nat) (i : Nat →
    Instr) (hs : Kept b s) : Kept b (floodJ s except jt count pier i) := by
  unfold floodJ
  repeat' first
    | assumption | apply updGrp_kept | apply flood_kept | apply kept_ite

theorem joinRewind_kept {b : State} (s : State) (count : Nat) (cause : Byte) (coord : Nat) (need : Nat) (hs : Kept
    b s) : Kept b (joinRewind s count cause coord need) := by
  unfold joinRewind
  dsimp only
  apply kept_foldl
  · apply updGrp_kept
    apply updKs_kept
    apply dropSegment_kept
    apply kept_ite
    · apply reshardFails_kept
      assumption
    · assumption
  · intro _ _ _
    apply kept_ite
    · assumption
    · apply updPort_kept
      assumption

theorem startRewind_kept {b : State} (s : State) (cause : Nat) (need : Nat) (hs : Kept b s) : Kept b (startRewind s
    cause need) := by
  unfold startRewind
  dsimp only
  apply floodJ_kept
  apply joinRewind_kept
  assumption

theorem endGroup_kept {b : State} (s : State) (hs : Kept b s) : Kept b (endGroup s) := by
  unfold endGroup
  repeat' first
    | with_reducible assumption | with_reducible apply endRun_kept | with_reducible apply startRewind_kept
    | with_reducible apply kept_ite | intro _ | dsimp only | split

theorem rerunStep_kept {b : State} (s : State) (hs : Kept b s) : Kept b (rerunStep s) := by
  unfold rerunStep
  repeat' first
    | assumption | with_reducible apply sendVia_kept | with_reducible apply kept_foldl | with_reducible apply kept_ite
    | intro _ | split

theorem restoreWorking_kept {b : State} (s : State) (sec : Nat) (hs : Kept b s) : Kept b (restoreWorking s sec) := by
  unfold restoreWorking
  extract_lets off first other logged both
  have hl : Kept b logged := logEvent_kept _ _ hs
  have hb : ∀ t, Kept b t → Kept b (both t) := fun t h => foundSector_kept _ _ (foundSector_kept _ _ h)
  clear_value logged both
  refine kept_ite (foundSector_kept _ _ (putMem_kept _ _ _ hs)) ?_
  split
  · exact hb _ (dropNormRecord_kept _ _ hl)
  · exact rerunStep_kept _ (hb _ hl)
  · exact kept_ite (hb _ hl) (kept_ite hs (endGroup_kept _ hs))

theorem settleWorking_kept {b : State} (s : State) (hs : Kept b s) : Kept b (settleWorking s) := by
  unfold settleWorking
  repeat' first
    | assumption | apply restoreWorking_kept | apply kept_foldl

theorem restoreSector_kept {b : State} (s : State) (p : Plan) (stepStart : Bool) (sec : Nat) (hs : Kept b s) : Kept
    b (restoreSector s p stepStart sec) := by
  unfold restoreSector
  repeat' first
    | assumption | apply restoreWorking_kept | apply holdPlan_kept | apply updGrp_kept | apply sendVia_kept
    | apply foundSector_kept | apply notifyFault_kept | apply logEvent_kept | apply kept_ite | split

theorem restoreLost_kept {b : State} (s : State) (p : Plan) (stepStart : Bool) (hs : Kept b s) : Kept b
    (restoreLost s p stepStart) := by
  unfold restoreLost
  repeat' first
    | assumption | apply restoreSector_kept | apply kept_foldl | apply kept_ite | intro _

theorem repairSpans_kept {b : State} (s : State) (hs : Kept b s) : Kept b (repairSpans s) := by
  unfold repairSpans
  repeat' first
    | assumption | with_reducible refine updSp_kept ?_ ?_ ?_ | with_reducible apply marchSpan_kept
    | with_reducible apply moveSlow_kept | with_reducible apply kept_foldl | exact rfl | intro _ | split

theorem noteLost_kept {b : State} (s : State) (hs : Kept b s) : Kept b (noteLost s) := by
  unfold noteLost
  repeat' first
    | with_reducible assumption | with_reducible apply putWorking_kept | with_reducible apply kept_ite | intro _
    | dsimp only | split

theorem pierActions_kept {b : State} (s : State) (p : Plan) (stepStart : Bool) (swapFor : Option Nat) (hs : Kept b
    s) : Kept b (pierActions s p stepStart swapFor) := by
  unfold pierActions
  repeat' first
    | with_reducible assumption | with_reducible apply noteLost_kept | with_reducible apply checkMemory_kept
    | with_reducible apply settleRows_kept | with_reducible apply retrainDue_kept
    | with_reducible apply dropOldLines_kept | with_reducible apply repairSpans_kept
    | with_reducible apply restoreLost_kept | with_reducible apply enterContexts_kept | with_reducible apply kept_ite
    | intro _ | dsimp only | split

theorem logReplay_kept {b : State} (s : State) (cause : Nat) (pier : Option Nat) (hs : Kept b s) : Kept b
    (logReplay s cause pier) := by
  unfold logReplay
  apply logEvent_kept
  assumption

theorem holdAtPier_kept {b : State} (s : State) (pier : Option Nat) (hs : Kept b s) : Kept b (holdAtPier s pier) := by
  unfold holdAtPier
  apply holdPlan_kept
  apply updKs_kept
  assumption

theorem replayFrom_kept {b : State} (s : State) (p : Plan) (pier : Option Nat) (gens : Bool) (hold : Bool) (hs :
    Kept b s) : Kept b (replayFrom s p pier gens hold) := by
  unfold replayFrom
  repeat' first
    | with_reducible assumption | with_reducible apply endGroup_kept | with_reducible apply dropSegment_kept
    | with_reducible apply updKs_kept | with_reducible apply leaveReshardPier_kept
    | with_reducible apply pierActions_kept | with_reducible apply holdAtPier_kept
    | with_reducible apply resumeAt_kept | with_reducible apply kept_foldl | with_reducible apply kept_ite | intro _
    | dsimp only | split

theorem stepRestart_kept {b : State} (s : State) (p : Plan) (hold : Bool) (hs : Kept b s) : Kept b (stepRestart s p
    hold) := by
  unfold stepRestart
  repeat' first
    | with_reducible assumption | with_reducible apply endGroup_kept | with_reducible apply dropSegment_kept
    | with_reducible apply updKs_kept | with_reducible apply leaveReshardPier_kept
    | with_reducible apply pierActions_kept | with_reducible apply holdAtPier_kept
    | with_reducible apply resumeAt_kept | with_reducible apply kept_ite | intro _ | dsimp only | split

theorem countRewind_kept {b : State} (s : State) (pier : Option Nat) (hs : Kept b s) : Kept b (countRewind s pier)
    := by
  unfold countRewind
  apply updKs_kept
  assumption

theorem localRestart_kept {b : State} (s : State) (p : Plan) (cause : Nat) (hs : Kept b s) : Kept b (localRestart s
    p cause) := by
  unfold localRestart
  repeat' first
    | assumption | with_reducible apply endGroup_kept | with_reducible apply stepRestart_kept
    | with_reducible apply logReplay_kept | with_reducible apply countRewind_kept | with_reducible apply kept_ite
    | intro _ | split

theorem afterReplay_kept {b : State} (s : State) (p : Plan) (hs : Kept b s) : Kept b (afterReplay s p) := by
  unfold afterReplay
  apply kept_ite
  · apply kept_ite
    · apply localRestart_kept
      assumption
    · apply startRewind_kept
      assumption
  · assumption

theorem localReplay_kept {b : State} (s : State) (p : Plan) (cause : Nat) (hs : Kept b s) : Kept b (localReplay s p
    cause) := by
  unfold localReplay
  repeat' first
    | assumption | with_reducible apply endGroup_kept | with_reducible apply afterReplay_kept
    | with_reducible apply replayFrom_kept | with_reducible apply logReplay_kept
    | with_reducible apply countRewind_kept | with_reducible apply kept_ite | intro _ | split

theorem replayFault_kept {b : State} (s : State) (status : Nat) (hs : Kept b s) : Kept b (replayFault s status) := by
  unfold replayFault
  repeat' first
    | with_reducible assumption | with_reducible apply reshardFault_kept | with_reducible apply localReplay_kept
    | with_reducible apply localRestart_kept | with_reducible apply startRewind_kept | with_reducible apply kept_ite
    | intro _ | dsimp only | split

theorem coordFault_kept {b : State} (s : State) (status : Nat) (hs : Kept b s) : Kept b (coordFault s status) := by
  unfold coordFault
  repeat' first
    | with_reducible assumption | with_reducible apply reshardFault_kept | with_reducible apply localReplay_kept
    | with_reducible apply startRewind_kept | with_reducible apply kept_ite | intro _ | dsimp only | split

theorem protocolError_kept {b : State} (s : State) (port : Nat) (seq : Nat) (hs : Kept b s) : Kept b (protocolError
    s port seq) := by
  unfold protocolError
  apply coordFault_kept
  apply notifyFault_kept
  assumption

theorem holdReshard_kept {b : State} (s : State) (e : PierEntry) (hs : Kept b s) : Kept b (holdReshard s e) := by
  unfold holdReshard
  repeat' first
    | assumption | apply updReshard_kept | apply kept_ite

theorem pierComplete_kept {b : State} (s : State) (p : Plan) (e : PierEntry) (hs : Kept b s) : Kept b (pierComplete
    s p e) := by
  unfold pierComplete
  repeat' first
    | with_reducible assumption | with_reducible apply logEvent_kept | with_reducible apply updKs_kept
    | with_reducible apply holdReshard_kept | with_reducible apply applyDue_kept | with_reducible apply holdPlan_kept
    | with_reducible apply finishStart_kept | with_reducible apply kept_ite | intro _ | dsimp only | split

theorem sendSegmentTime_kept {b : State} (s : State) (p : Plan) (pier : Nat) (hs : Kept b s) : Kept b
    (sendSegmentTime s p pier) := by
  unfold sendSegmentTime
  repeat' first
    | with_reducible assumption | with_reducible refine updSp_kept ?_ ?_ ?_ | with_reducible apply sendNext_kept
    | with_reducible apply kept_foldl | with_reducible apply kept_ite | exact rfl | intro _ | dsimp only | split

theorem holdWatermark_kept {b : State} (s : State) (p : Plan) (pier : Nat) (step : Nat) (hs : Kept b s) : Kept b
    (holdWatermark s p pier step) := by
  unfold holdWatermark
  repeat' first
    | with_reducible assumption | with_reducible apply updGrp_kept | with_reducible apply pierComplete_kept
    | with_reducible apply kept_ite | intro _ | dsimp only | split

theorem tryWatermark_kept {b : State} (s : State) (p : Plan) (pier : Nat) (step : Nat) (hs : Kept b s) : Kept b
    (tryWatermark s p pier step) := by
  unfold tryWatermark
  repeat' first
    | assumption | apply holdWatermark_kept | apply floodJ_kept | apply kept_ite

theorem pierWritten_kept {b : State} (s : State) (p : Plan) (e : PierEntry) (hs : Kept b s) : Kept b (pierWritten s
    p e) := by
  unfold pierWritten
  repeat' first
    | with_reducible assumption | with_reducible apply updKs_kept | with_reducible refine updSp_kept ?_ ?_ ?_
    | with_reducible apply keepNorms_kept | with_reducible apply formPending_kept
    | with_reducible apply sendSegmentTime_kept | with_reducible apply pierActions_kept
    | with_reducible apply afterReplay_kept | with_reducible apply pierComplete_kept
    | with_reducible apply tryWatermark_kept | with_reducible apply updGrp_kept | with_reducible apply sendJ_kept
    | with_reducible apply kept_foldl | with_reducible apply kept_ite | with_reducible rfl | exact rfl | intro _
    | dsimp only | split

theorem carryForward_kept {b : State} (s : State) (p : Plan) (hs : Kept b s) : Kept b (carryForward s p) := by
  unfold carryForward
  apply kept_foldl
  · assumption
  · intro _ _ _
    apply kept_ite
    · apply fillWorking_kept
      assumption
    · assumption

theorem journalWrite_kept {b : State} (s : State) (off : Nat) (b' : List Byte) (hs : Kept b s) : Kept b
    (journalWrite s off b') := by
  unfold journalWrite
  repeat' first
    | assumption | apply sendVia_kept | apply freshSectors_kept | apply putMem_kept | split | dsimp only

theorem noteUnmirrored_kept {b : State} (s : State) (hs : Kept b s) : Kept b (noteUnmirrored s) := by
  unfold noteUnmirrored
  repeat' first
    | assumption | apply updKs_kept | apply logEvent_kept | apply kept_ite

theorem pierRun_kept {b : State} (s : State) (seq : Nat) (hs : Kept b s) : Kept b (pierRun s seq) := by
  unfold pierRun
  split
  · assumption
  · split
    · assumption
    · apply kept_ite
      · assumption
      · dsimp only
        apply kept_ite
        · apply pierWritten_kept
          apply journalWrite_kept
          apply kept_ite
          · apply formStep_kept
            apply runContexts_kept
            apply carryForward_kept
            apply noteUnmirrored_kept
            assumption
          · apply runContexts_kept
            apply carryForward_kept
            apply noteUnmirrored_kept
            assumption
        · apply updKs_kept
          apply journalWrite_kept
          apply kept_ite
          · apply formStep_kept
            apply runContexts_kept
            apply carryForward_kept
            apply noteUnmirrored_kept
            assumption
          · apply runContexts_kept
            apply carryForward_kept
            apply noteUnmirrored_kept
            assumption

theorem writeStartRecord_kept {b : State} (s : State) (p : Plan) (hs : Kept b s) : Kept b (writeStartRecord s p) := by
  unfold writeStartRecord
  dsimp only
  apply freshSectors_kept
  apply putMem_kept
  apply putMem_kept
  apply settleWorking_kept
  assumption

theorem journalUpdate_kept {b : State} (s : State) (p : Plan) (seq : Nat) (hs : Kept b s) : Kept b (journalUpdate s
    p seq) := by
  unfold journalUpdate
  repeat' first
    | assumption | apply updKs_kept | apply journalWrite_kept | split

-- -------------------------------------------------------------------------------- Machine/Execute

theorem writeShadows_kept {b : State} (s : State) (p : Plan) (i : Nat) (hs : Kept b s) : Kept b (writeShadows s p
    i) := by
  unfold writeShadows
  dsimp only
  apply updKs_kept
  assumption

theorem setupShadowWrite_kept {b : State} (s : State) (hs : Kept b s) : Kept b (setupShadowWrite s) := by
  unfold setupShadowWrite
  repeat' first
    | assumption | apply writeShadows_kept | apply kept_ite | split

theorem armEffect_kept {b : State} (s : State) (b' : Block) (old : BlockCfg) (hs : Kept b s) : Kept b (armEffect s
    b' old) := by
  unfold armEffect
  repeat' first
    | assumption | refine updSp_kept ?_ rfl rfl | apply kept_ite | split

theorem blockArm_kept {b : State} (s : State) (b' : Block) (hs : Kept b s) : Kept b (blockArm s b') := by
  unfold blockArm
  repeat' first
    | assumption | apply updKs_kept | apply armEffect_kept | apply kept_ite | split

theorem noteActivity_kept {b : State} (s : State) (hs : Kept b s) : Kept b (noteActivity s) := by
  unfold noteActivity
  repeat' first
    | assumption | with_reducible refine updSp_kept ?_ ?_ ?_ | with_reducible apply updTre_kept
    | with_reducible apply kept_foldl | with_reducible apply kept_ite | exact rfl | intro _ | split

theorem descriptorIssue_kept {b : State} (s : State) (hs : Kept b s) : Kept b (descriptorIssue s) := by
  unfold descriptorIssue
  repeat' first
    | assumption | apply replayFault_kept | apply noteActivity_kept | apply notifyFault_kept | apply updKs_kept
    | apply kept_ite | split | dsimp only

theorem startSend_kept {b : State} (s : State) (e : Nat × Xfer) (hs : Kept b s) : Kept b (startSend s e) := by
  unfold startSend
  repeat' first
    | assumption | apply protocolError_kept | apply updKs_kept | apply kept_ite

theorem startXfers_kept {b : State} (s : State) (p : Plan) (seq : Nat) (hs : Kept b s) : Kept b (startXfers s p
    seq) := by
  unfold startXfers
  repeat' first
    | assumption | apply updKs_kept | apply startSend_kept | apply kept_foldl | apply sendReady_kept
    | apply kept_ite | intro _

theorem startTrestle_kept {b : State} (s : State) (p : Plan) (d : Desc) (hs : Kept b s) : Kept b (startTrestle s p
    d) := by
  unfold startTrestle
  repeat' first
    | assumption | apply updTre_kept | apply kept_foldl | apply kept_ite | intro _ | split

theorem clearLane_kept {b : State} (s : State) (u : Nat) (hs : Kept b s) : Kept b (clearLane s u) := by
  unfold clearLane
  repeat' first
    | assumption | refine updSp_kept ?_ rfl rfl | apply kept_ite

theorem startOn_kept {b : State} (s : State) (p : Plan) (d : Desc) (u : Nat) (hs : Kept b s) : Kept b (startOn s p
    d u) := by
  unfold startOn
  repeat' first
    | with_reducible assumption | with_reducible apply updKs_kept | with_reducible apply clearLane_kept
    | with_reducible apply updIssued_kept | with_reducible apply noteActivity_kept
    | with_reducible apply startTrestle_kept | with_reducible apply startXfers_kept | with_reducible apply kept_ite
    | intro _ | dsimp only | split

theorem descriptorStart_kept {b : State} (s : State) (u : Option Nat) (hs : Kept b s) : Kept b (descriptorStart s
    u) := by
  unfold descriptorStart
  repeat' first
    | assumption | apply updKs_kept | apply startOn_kept | apply kept_ite | split

theorem handEntry_kept {b : State} (p : Plan) (d : Desc) (pass : Nat) (s : State) (x : Nat) (e : Nat × Nat × Nat)
    (hs : Kept b s) : Kept b (handEntry p d pass s x e) := by
  unfold handEntry
  repeat' first
    | assumption | refine updSp_kept ?_ rfl rfl | apply updIssued_kept | apply kept_ite

theorem bankHandover_kept {b : State} (s : State) (seq : Nat) (hs : Kept b s) : Kept b (bankHandover s seq) := by
  unfold bankHandover
  repeat' first
    | assumption | apply handEntry_kept | apply passDone_kept | apply kept_foldl | apply updIssued_kept
    | apply kept_ite | intro _ | split

theorem completeDesc_kept {b : State} (s : State) (p : Plan) (d : Desc) (hs : Kept b s) : Kept b (completeDesc s p
    d) := by
  unfold completeDesc
  repeat' first
    | assumption | refine updDram_kept ?_ rfl | apply journalUpdate_kept | apply updKs_kept
    | apply noteActivity_kept | apply kept_ite

theorem descriptorComplete_kept {b : State} (s : State) (u : Option Nat) (seq : Nat) (status : Byte) (hs : Kept b
    s) : Kept b (descriptorComplete s u seq status) := by
  unfold descriptorComplete
  repeat' first
    | assumption | refine updSp_kept ?_ rfl rfl | apply updIssued_kept | apply replayFault_kept
    | apply logEvent_kept | apply completeDesc_kept | apply notifyFault_kept | apply kept_ite | split | dsimp only

-- -------------------------------------------------------------------------------- Machine/TollOps

theorem bootComponent_kept {b : State} (s : State) (comp : Nat) (hs : Kept b s) : Kept b (bootComponent s comp).1
    := by
  unfold bootComponent
  repeat' first
    | assumption | refine updToll_kept ?_ rfl rfl | apply logEvent_kept | split

theorem showStaged_kept {b : State} (s : State) (hs : Kept b s) : Kept b (showStaged s) := by
  unfold showStaged
  apply updHost_kept
  assumption

theorem setStaged_kept {b : State} (s : State) (comp : Nat) (on : Bool) (hs : Kept b s) : Kept b (setStaged s comp
    on) := by
  unfold setStaged
  apply showStaged_kept
  refine updToll_kept ?_ rfl rfl
  assumption

theorem stageImage_kept {b : State} (s : State) (comp : Nat) (b' : List Byte) (hs : Kept b s) : Kept b (stageImage
    s comp b').1 := by
  unfold stageImage
  dsimp only
  split
  · dsimp only
    apply raiseIrq_kept
    apply setStaged_kept
    refine updToll_kept ?_ rfl rfl
    assumption
  · dsimp only
    apply logEvent_kept
    apply setStaged_kept
    refine updToll_kept ?_ rfl rfl
    assumption

theorem verifyStaged_kept {b : State} (s : State) (comps : Nat) (hs : Kept b s) : Kept b (verifyStaged s comps) := by
  unfold verifyStaged
  apply kept_foldl
  · assumption
  · intro _ _ _
    dsimp only
    apply kept_ite
    · assumption
    · apply logEvent_kept
      apply setStaged_kept
      assumption

theorem platformEvent_kept {b : State} (s : State) (code : Nat) (unit : Nat) (start : Bool) (hs : Kept b s) : Kept
    b (platformEvent s code unit start) := by
  unfold platformEvent
  repeat' first
    | assumption | refine updToll_kept ?_ rfl rfl | split

theorem protectionEvent_kept {b : State} (s : State) (code : Nat) (unit : Nat) (reading : Nat) (start : Bool)
    (severity : Nat) (status : Nat) (hs : Kept b s) : Kept b (protectionEvent s code unit reading start severity
    status) := by
  unfold protectionEvent
  repeat' first
    | assumption | apply logEvent_kept | apply platformEvent_kept | apply raiseIrq_kept | apply updHost_kept

theorem addFloor_kept {b : State} (s : State) (f : Floor) (hs : Kept b s) : Kept b (addFloor s f) := by
  unfold addFloor
  repeat' first
    | assumption | refine updToll_kept ?_ rfl rfl | apply protectionEvent_kept | apply kept_ite

theorem dropFloor_kept {b : State} (s : State) (f : Floor) (hs : Kept b s) : Kept b (dropFloor s f) := by
  unfold dropFloor
  apply protectionEvent_kept
  refine updToll_kept ?_ rfl rfl
  assumption

theorem endFloors_kept {b : State} (s : State) (hs : Kept b s) : Kept b (endFloors s) := by
  unfold endFloors
  repeat' first
    | assumption | apply dropFloor_kept | apply kept_foldl

-- -------------------------------------------------------------------------------- Machine/Commands

theorem drawRandom_kept {b : State} (s : State) (n : Nat) (hs : Kept b s) : Kept b (drawRandom s n).1 := by
  unfold drawRandom
  dsimp only
  refine updToll_kept ?_ rfl rfl
  assumption

theorem getInfo_kept {b : State} (s : State) (tag : Nat) (hs : Kept b s) : Kept b (getInfo s tag) := by
  unfold getInfo
  repeat' first
    | assumption | apply finishCmd_kept | apply serve_kept | apply kept_ite | intro _

theorem getStatus_kept {b : State} (s : State) (tag : Nat) (hs : Kept b s) : Kept b (getStatus s tag) := by
  unfold getStatus
  repeat' first
    | assumption | apply finishCmd_kept | apply serve_kept | apply kept_ite | intro _

theorem nopCmd_kept {b : State} (s : State) (tag : Nat) (hs : Kept b s) : Kept b (nopCmd s tag) := by
  unfold nopCmd
  repeat' first
    | assumption | apply finishCmd_kept | apply serve_kept | intro _

theorem logUnfit_kept {b : State} (s : State) (hs : Kept b s) : Kept b (logUnfit s) := by
  unfold logUnfit
  repeat' first
    | assumption | with_reducible apply logEvent_kept | with_reducible apply kept_foldl | intro _ | split

theorem loadPlan_kept {b : State} (s : State) (tag : Nat) (hs : Kept b s) : Kept b (loadPlan s tag) := by
  unfold loadPlan
  repeat' first
    | assumption | with_reducible apply serve_kept | with_reducible apply finishCmd_kept
    | with_reducible apply acceptCmd_kept | with_reducible apply logUnfit_kept
    | with_reducible apply setPlanState_kept | with_reducible apply updKs_kept | with_reducible apply kept_ite
    | intro _ | split

theorem forgetPlan_kept {b : State} (s : State) (hs : Kept b s) : Kept b (forgetPlan s) := by
  unfold forgetPlan
  repeat' first
    | with_reducible assumption | with_reducible apply armAll_kept | with_reducible apply dropSegment_kept
    | with_reducible apply updKs_kept | with_reducible refine updSp_kept ?_ ?_ ?_ | with_reducible apply updGrp_kept
    | with_reducible rfl | exact rfl | intro _ | dsimp only | split

theorem unloadPlan_kept {b : State} (s : State) (tag : Nat) (hs : Kept b s) : Kept b (unloadPlan s tag) := by
  unfold unloadPlan
  apply serve_kept
  · assumption
  · intro _ _ _
    dsimp only
    apply kept_ite
    · apply finishCmd_kept
      assumption
    · apply kept_ite
      · apply finishCmd_kept
        assumption
      · apply finishCmd_kept
        apply setPlanState_kept
        apply forgetPlan_kept
        apply finishReshard_kept
        apply finishStart_kept
        apply applyDue_kept
        assumption

theorem finishLong_kept {b : State} (s : State) (cmd : Nat) (status : Nat) (hs : Kept b s) : Kept b (finishLong s
    cmd status) := by
  unfold finishLong
  apply finishOpt_kept
  assumption

theorem applyAbort_kept {b : State} (s : State) (hs : Kept b s) : Kept b (applyAbort s) := by
  unfold applyAbort
  repeat' first
    | assumption | apply abortRun_kept | apply finishLong_kept | apply updKs_kept | apply setPlanState_kept
    | apply kept_ite

theorem abortCmd_kept {b : State} (s : State) (tag : Nat) (hs : Kept b s) : Kept b (abortCmd s tag) := by
  unfold abortCmd
  repeat' first
    | assumption | apply acceptCmd_kept | apply serve_kept | apply applyAbort_kept | apply finishCmd_kept
    | apply kept_ite | intro _

theorem resetCounters_kept {b : State} (s : State) (hs : Kept b s) : Kept b (resetCounters s) := by
  unfold resetCounters
  repeat' first
    | assumption | refine updSp_kept ?_ rfl rfl | apply updTre_kept | apply updKs_kept

theorem clearDecisions_kept {b : State} (s : State) (p : Plan) (hs : Kept b s) : Kept b (clearDecisions s p) := by
  unfold clearDecisions
  repeat' first
    | assumption | with_reducible apply freshSectors_kept | with_reducible apply putMem_kept
    | with_reducible apply journalWrite_kept | with_reducible apply kept_foldl | with_reducible apply kept_ite
    | intro _ | split

theorem lostAtStart_kept {b : State} (s : State) (p : Plan) (hs : Kept b s) : Kept b (lostAtStart s p) := by
  unfold lostAtStart
  repeat' first
    | assumption | with_reducible apply restoreLost_kept | with_reducible apply endGroup_kept
    | with_reducible apply kept_ite | intro _ | split

theorem beginRun_kept {b : State} (s : State) (p : Plan) (hs : Kept b s) : Kept b (beginRun s p) := by
  unfold beginRun
  repeat' first
    | with_reducible assumption | with_reducible apply updKs_kept | with_reducible apply armAll_kept
    | with_reducible apply updVia_kept | with_reducible refine updSp_kept ?_ ?_ ?_ | with_reducible apply updGrp_kept
    | with_reducible apply enterContexts_kept | with_reducible apply beginSegment_kept
    | with_reducible apply writeStartRecord_kept | with_reducible apply formPending_kept
    | with_reducible apply clearDecisions_kept | with_reducible apply lostAtStart_kept
    | with_reducible apply setPlanState_kept | with_reducible apply noteUnmirrored_kept | with_reducible rfl
    | exact rfl | intro _ | dsimp only | split

theorem startCompare_kept {b : State} (s : State) (p : Plan) (hs : Kept b s) : Kept b (startCompare s p) := by
  unfold startCompare
  repeat' first
    | assumption | apply sendCtl_kept | apply kept_foldl | apply updKs_kept | apply updVia_kept | apply kept_ite
    | intro _

theorem failStart_kept {b : State} (s : State) (status : Nat) (hs : Kept b s) : Kept b (failStart s status) := by
  unfold failStart
  apply finishStart_kept
  apply updVia_kept
  assumption

theorem startAdmission_kept {b : State} (s : State) (p : Plan) (hs : Kept b s) : Kept b (startAdmission s p) := by
  unfold startAdmission
  split
  · apply failStart_kept
    apply updGrp_kept
    assumption
  · dsimp only
    apply sendVia_kept
    apply updKs_kept
    apply writeStartRecord_kept
    apply formPending_kept
    assumption

theorem checkDigests_kept {b : State} (s : State) (p : Plan) (hs : Kept b s) : Kept b (checkDigests s p) := by
  unfold checkDigests
  repeat' first
    | assumption | apply beginRun_kept | apply failStart_kept | apply startAdmission_kept | apply kept_ite

theorem floodEnded_kept {b : State} (s : State) (p : Plan) (hs : Kept b s) : Kept b (floodEnded s p) := by
  unfold floodEnded
  repeat' first
    | assumption | apply checkDigests_kept | apply startCompare_kept | apply kept_ite

theorem startFlood_kept {b : State} (s : State) (p : Plan) (hs : Kept b s) : Kept b (startFlood s p) := by
  unfold startFlood
  repeat' first
    | assumption | with_reducible apply updKs_kept | with_reducible apply flood_kept
    | with_reducible apply updGrp_kept | with_reducible apply updVia_kept | with_reducible apply failStart_kept
    | with_reducible apply floodEnded_kept | with_reducible apply kept_ite | intro _ | split

theorem lostAtResume_kept {b : State} (s : State) (hs : Kept b s) : Kept b (lostAtResume s) := by
  unfold lostAtResume
  repeat' first
    | assumption | with_reducible apply afterReplay_kept | with_reducible apply restoreLost_kept
    | with_reducible apply kept_ite | intro _ | split

theorem startCmd_kept {b : State} (s : State) (tag : Nat) (hs : Kept b s) : Kept b (startCmd s tag) := by
  unfold startCmd
  repeat' first
    | with_reducible assumption | with_reducible apply serve_kept | with_reducible apply finishCmd_kept
    | with_reducible apply acceptCmd_kept | with_reducible apply updKs_kept | with_reducible apply dropCache_kept
    | with_reducible apply resetCounters_kept | with_reducible apply lostAtResume_kept
    | with_reducible apply setPlanState_kept | with_reducible apply formPending_kept
    | with_reducible apply startFlood_kept | with_reducible apply kept_ite | intro _ | dsimp only | split

theorem releaseHold_kept {b : State} (s : State) (hs : Kept b s) : Kept b (releaseHold s) := by
  unfold releaseHold
  split
  · split
    · apply endRun_kept
      assumption
    · dsimp only
      apply setPlanState_kept
      apply resumeAt_kept
      apply updKs_kept
      assumption
  · apply setPlanState_kept
    assumption

theorem resumeCmd_kept {b : State} (s : State) (tag : Nat) (hs : Kept b s) : Kept b (resumeCmd s tag) := by
  unfold resumeCmd
  repeat' first
    | assumption | with_reducible apply serve_kept | with_reducible apply finishCmd_kept
    | with_reducible apply lostAtResume_kept | with_reducible apply releaseHold_kept
    | with_reducible apply dropCache_kept | with_reducible apply kept_ite | intro _ | split

theorem pauseAtPier_kept {b : State} (s : State) (tag : Nat) (hs : Kept b s) : Kept b (pauseAtPier s tag) := by
  unfold pauseAtPier
  repeat' first
    | assumption | apply acceptCmd_kept | apply serve_kept | apply updKs_kept | apply finishCmd_kept
    | apply kept_ite | intro _ | split

theorem rankMsg_kept {b : State} (s : State) (c : Ctl) (r : Nat) (epoch : W32) (x : Coord) (hs : Kept b s) : Kept b
    (rankMsg s c r epoch x) := by
  unfold rankMsg
  repeat' first
    | assumption | apply kept_foldl | apply updVia_kept | apply sendVia_kept | apply failStart_kept
    | apply flood_kept | apply floodEnded_kept | apply kept_ite | intro _ | split

theorem rankFloodTimeout_kept {b : State} (s : State) (hs : Kept b s) : Kept b (rankFloodTimeout s) := by
  unfold rankFloodTimeout
  repeat' first
    | assumption | apply failStart_kept | apply kept_ite

theorem groupDigest_kept {b : State} (s : State) (c : Ctl) (r : Nat) (d : List Byte) (hs : Kept b s) : Kept b
    (groupDigest s c r d) := by
  unfold groupDigest
  repeat' first
    | assumption | apply checkDigests_kept | apply sendCtl_kept | apply updVia_kept | apply kept_ite | split

theorem groupDigestTimeout_kept {b : State} (s : State) (hs : Kept b s) : Kept b (groupDigestTimeout s) := by
  unfold groupDigestTimeout
  repeat' first
    | assumption | apply failStart_kept | apply kept_ite

theorem setSetting_kept {b : State} (s : State) (x : Setting) (hs : Kept b s) : Kept b (setSetting s x) := by
  unfold setSetting
  repeat' first
    | assumption | apply applySetting_kept | apply updKs_kept | apply kept_ite

theorem pacePolicy_kept {b : State} (s : State) (tag : Nat) (hs : Kept b s) : Kept b (pacePolicy s tag) := by
  unfold pacePolicy
  repeat' first
    | assumption | apply setSetting_kept | apply finishCmd_kept | apply serve_kept | apply kept_ite | intro _

theorem commitPolicy_kept {b : State} (s : State) (tag : Nat) (hs : Kept b s) : Kept b (commitPolicy s tag) := by
  unfold commitPolicy
  repeat' first
    | assumption | apply setSetting_kept | apply finishCmd_kept | apply serve_kept | apply kept_ite | intro _

theorem replayControl_kept {b : State} (s : State) (tag : Nat) (hs : Kept b s) : Kept b (replayControl s tag) := by
  unfold replayControl
  repeat' first
    | assumption | apply setSetting_kept | apply finishCmd_kept | apply serve_kept | apply releaseHold_kept
    | apply kept_ite | intro _

theorem bindHostRegion_kept {b : State} (s : State) (tag : Nat) (hs : Kept b s) : Kept b (bindHostRegion s tag) := by
  unfold bindHostRegion
  repeat' first
    | assumption | apply updHost_kept | apply finishCmd_kept | apply serve_kept | apply kept_ite | intro _

theorem normRecordsRead_kept {b : State} (s : State) (tag : Nat) (hs : Kept b s) : Kept b (normRecordsRead s tag)
    := by
  unfold normRecordsRead
  repeat' first
    | assumption | apply acceptCmd_kept | apply serve_kept | apply hostWrite_kept | apply finishCmd_kept
    | apply kept_ite | intro _ | split

theorem newPrefixKey_kept {b : State} (s : State) (hs : Kept b s) : Kept b (newPrefixKey s) := by
  unfold newPrefixKey
  dsimp only
  apply updKs_kept
  apply drawRandom_kept
  assumption

theorem prefixTable_kept {b : State} (s : State) (tag : Nat) (hs : Kept b s) : Kept b (prefixTable s tag) := by
  unfold prefixTable
  apply serve_kept
  · assumption
  · intro _ _ _
    dsimp only
    apply kept_ite
    · apply finishCmd_kept
      assumption
    · apply kept_ite
      · apply finishCmd_kept
        assumption
      · apply kept_ite
        · apply finishCmd_kept
          assumption
        · apply finishCmd_kept
          split
          · apply updKs_kept
            assumption
          · apply updKs_kept
            assumption
          · apply newPrefixKey_kept
            assumption
          · assumption

theorem scrubRange_kept {b : State} (s : State) (a : Nat) (n : Nat) (ecc : List SectorErr) (hs : Kept b s) : Kept b
    (scrubRange s a n ecc) := by
  unfold scrubRange
  apply scrubSectors_kept
  assumption

theorem clearScrub_kept {b : State} (s : State) (hs : Kept b s) : Kept b (clearScrub s) := by
  unfold clearScrub
  refine updDram_kept ?_ rfl
  assumption

theorem memoryScrub_kept {b : State} (s : State) (tag : Nat) (ecc : List SectorErr) (hs : Kept b s) : Kept b
    (memoryScrub s tag ecc) := by
  unfold memoryScrub
  repeat' first
    | assumption | refine updDram_kept ?_ rfl | apply serve_kept | apply finishCmd_kept | apply clearScrub_kept
    | apply acceptCmd_kept | apply scrubRange_kept | apply kept_ite | intro _ | split

-- -------------------------------------------------------------------------------- Machine/Comm

theorem updXfer_kept {b : State} (s : State) (idx : Nat) (f : XferRun → XferRun) (hs : Kept b s) : Kept b (updXfer
    s idx f) := by
  unfold updXfer
  apply updKs_kept
  assumption

theorem trySend_kept {b : State} (s : State) (idx : Nat) (b' : List Byte) (hs : Kept b s) : Kept b (trySend s idx
    b') := by
  unfold trySend
  split
  · exact hs
  · refine kept_ite hs ?_
    split
    · exact hs
    · split
      · exact logEvent_kept _ _ (updXfer_kept _ _ _ hs)
      · rename_i h
        exact updXfer_kept _ _ _ (leaveBy_kept hs h)

theorem markRecv_kept {b : State} (s : State) (idx : Nat) (hs : Kept b s) : Kept b (markRecv s idx) := by
  unfold markRecv
  apply updXfer_kept
  assumption

theorem exchange_kept {b : State} (s : State) (p : Plan) (seq : Nat) (out : List Byte) (land : State → List Byte →
    State) (hs : Kept b s) (hland : ∀ y0 y1, Kept b y0 → Kept b (land y0 y1)) : Kept b (exchange s p seq out land)
    := by
  unfold exchange
  repeat' first
    | assumption | apply_assumption | apply markRecv_kept | apply trySend_kept | split | dsimp only

theorem progress_kept {b : State} (ops : List Nat) (seq : Nat) (pass : Nat) (f : State → Plan → Desc → State ×
    Bool) (s : State) (hf : ∀ y0 y1 y2, Kept b y0 → Kept b (f y0 y1 y2).1) (hs : Kept b s) : Kept b (progress ops
    seq pass f s) := by
  unfold progress
  repeat' first
    | with_reducible assumption | with_reducible apply hf | with_reducible apply touchSectors_kept
    | with_reducible apply passDone_kept | with_reducible apply cacheReads_kept | with_reducible apply freshSectors_kept
    | with_reducible apply noteWrites_kept | with_reducible apply kept_ite | intro _ | dsimp only | split

theorem receiveReadyMsg_kept {b : State} (s : State) (c : Ctl) (msgSeq : Nat) (cls : Nat) (len : Nat) (hs : Kept b
    s) : Kept b (receiveReadyMsg s c msgSeq cls len) := by
  unfold receiveReadyMsg
  repeat' first
    | assumption | apply updKs_kept | apply updXfer_kept | apply protocolError_kept | apply kept_ite | split

theorem dataMessageReceive_kept {b : State} (s : State) (m : DataMsg) (hs : Kept b s) : Kept b (dataMessageReceive
    s m) := by
  unfold dataMessageReceive
  repeat' first
    | assumption | apply updXfer_kept | apply protocolError_kept | apply kept_ite | split | dsimp only

theorem ringPassWork_kept {b : State} (s : State) (p : Plan) (d : Desc) (hs : Kept b s) : Kept b (ringPassWork s p
    d).1 := by
  unfold ringPassWork
  repeat' first
    | assumption | apply writeBytes_kept | apply kept_foldl | apply exchange_kept | intro _ | split | dsimp only

theorem chainLand_kept {b : State} (s : State) (p : Plan) (d : Desc) (b' : List Byte) (hs : Kept b s) : Kept b
    (chainLand s p d b') := by
  unfold chainLand
  repeat' first
    | assumption | apply writeBytes_kept | apply kept_foldl | apply kept_ite | intro _

theorem weightChainWork_kept {b : State} (s : State) (p : Plan) (d : Desc) (hs : Kept b s) : Kept b
    (weightChainWork s p d).1 := by
  unfold weightChainWork
  split
  · split
    · split
      · split
        · dsimp only
          split
          · dsimp only
            assumption
          · split
            · dsimp only
              apply chainLand_kept
              apply trySend_kept
              apply markRecv_kept
              assumption
            · dsimp only
              apply trySend_kept
              apply markRecv_kept
              assumption
        · dsimp only
          split
          · dsimp only
            assumption
          · split
            · dsimp only
              apply chainLand_kept
              apply markRecv_kept
              assumption
            · dsimp only
              apply markRecv_kept
              assumption
      · dsimp only
        split
        · dsimp only
          assumption
        · split
          · dsimp only
            apply chainLand_kept
            apply markRecv_kept
            assumption
          · dsimp only
            apply markRecv_kept
            assumption
    · split
      · split
        · dsimp only
          split
          · dsimp only
            apply chainLand_kept
            apply trySend_kept
            apply markRecv_kept
            assumption
          · dsimp only
            apply trySend_kept
            apply markRecv_kept
            assumption
        · dsimp only
          split
          · dsimp only
            apply chainLand_kept
            apply markRecv_kept
            assumption
          · dsimp only
            apply markRecv_kept
            assumption
      · dsimp only
        split
        · dsimp only
          apply chainLand_kept
          apply markRecv_kept
          assumption
        · dsimp only
          apply markRecv_kept
          assumption
  · split
    · split
      · split
        · dsimp only
          assumption
        · dsimp only
          assumption
      · dsimp only
        assumption
    · split
      · split
        · dsimp only
          split
          · dsimp only
            apply chainLand_kept
            apply trySend_kept
            assumption
          · dsimp only
            apply trySend_kept
            assumption
        · dsimp only
          split
          · dsimp only
            apply chainLand_kept
            assumption
          · dsimp only
            assumption
      · dsimp only
        split
        · dsimp only
          apply chainLand_kept
          assumption
        · dsimp only
          assumption

end Sys2Proof.Machine
end

