-- ==== Sys2Proof/Laws/KeptRows.lean ====
section
/-! SUPPORT. One lemma per operation: it keeps the queue, the fuses and the canonical memories. Here: the host interface, links, power, the Tollhouse and management (spec 04, 14, 16 to 22). -/

set_option maxRecDepth 2000

namespace Sys2Proof.Machine

-- -------------------------------------------------------------------------------- Machine/Trestle

theorem partEntry_kept {b : State} (s : State) (d : Desc) (pass : Nat) (hs : Kept b s) : Kept b (partEntry s d
    pass) := by
  unfold partEntry
  repeat' first
    | assumption | apply updTre_kept | apply kept_ite | split

theorem partTrestle_kept {b : State} (s : State) (p : Plan) (d : Desc) (pass : Nat) (hs : Kept b s) : Kept b
    (partTrestle s p d pass).1 := by
  unfold partTrestle
  repeat' first
    | assumption | apply updKs_kept | apply partEntry_kept | split | dsimp only

theorem peerTrestle_kept {b : State} (s : State) (p : Plan) (d : Desc) (hs : Kept b s) : Kept b (peerTrestle s p d)
    := by
  unfold peerTrestle
  repeat' first
    | assumption | apply writeBytes_kept | apply exchange_kept | intro _

theorem partPeer_kept {b : State} (s : State) (p : Plan) (whole : Desc) (d : Desc) (pass : Nat) (hs : Kept b s) :
    Kept b (partPeer s p whole d pass).1 := by
  unfold partPeer
  split
  · dsimp only
    split
    · dsimp only
      assumption
    · dsimp only
      split
      · assumption
      · split
        · assumption
        · apply kept_ite
          · apply markRecv_kept
            apply writeBytes_kept
            assumption
          · apply writeBytes_kept
            assumption
  · dsimp only
    split
    · dsimp only
      assumption
    · dsimp only
      apply kept_ite
      · apply trySend_kept
        split
        · assumption
        · split
          · assumption
          · apply kept_ite
            · apply markRecv_kept
              apply writeBytes_kept
              assumption
            · apply writeBytes_kept
              assumption
      · apply updXfer_kept
        split
        · assumption
        · split
          · assumption
          · apply kept_ite
            · apply markRecv_kept
              apply writeBytes_kept
              assumption
            · apply writeBytes_kept
              assumption

theorem trestleWork_kept {b : State} (s : State) (p : Plan) (d : Desc) (hs : Kept b s) : Kept b (trestleWork s p
    d).1 := by
  unfold trestleWork
  repeat' first
    | assumption | apply peerTrestle_kept | apply partPeer_kept | apply partTrestle_kept | split

theorem copyCmd_kept {b : State} (s : State) (cmd : Nat) (tag : Nat) (toHost : Bool) (hs : Kept b s) : Kept b
    (copyCmd s cmd tag toHost) := by
  unfold copyCmd
  repeat' first
    | assumption | apply acceptCmd_kept | apply serve_kept | apply updTre_kept | apply finishCmd_kept
    | apply kept_ite | intro _ | split

theorem endCopy_kept {b : State} (s : State) (c : Copy) (status : Nat) (n : Nat) (hs : Kept b s) : Kept b (endCopy
    s c status n) := by
  unfold endCopy
  repeat' first
    | assumption | apply finishCmd_kept | apply updTre_kept

theorem setTurn_kept {b : State} (s : State) (toHost : Bool) (n : Nat) (hs : Kept b s) : Kept b (setTurn s toHost
    n) := by
  unfold setTurn
  apply updTre_kept
  assumption

theorem updEntry_kept {b : State} (s : State) (seq : Nat) (f : TEntry → TEntry) (hs : Kept b s) : Kept b (updEntry
    s seq f) := by
  unfold updEntry
  apply updTre_kept
  assumption

theorem dropEntry_kept {b : State} (s : State) (seq : Nat) (hs : Kept b s) : Kept b (dropEntry s seq) := by
  unfold dropEntry
  apply updTre_kept
  assumption

theorem entryDone_kept {b : State} (s : State) (seq : Nat) (hs : Kept b s) : Kept b (entryDone s seq) := by
  unfold entryDone
  repeat' first
    | assumption | apply updKs_kept | apply dropEntry_kept

theorem entryFails_kept {b : State} (s : State) (seq : Nat) (hs : Kept b s) : Kept b (entryFails s seq) := by
  unfold entryFails
  repeat' first
    | assumption | apply updIssued_kept | apply dropEntry_kept

theorem countTo_kept {b : State} (s : State) (n : Nat) (hs : Kept b s) : Kept b (countTo s n) := by
  unfold countTo
  apply updTre_kept
  assumption

theorem countFrom_kept {b : State} (s : State) (n : Nat) (hs : Kept b s) : Kept b (countFrom s n) := by
  unfold countFrom
  apply updTre_kept
  assumption

theorem issueReads_kept {b : State} (s : State) (copy : Bool) (seq : Nat) (host : Nat) (dev : Nat) (n : Nat) (hs :
    Kept b s) : Kept b (issueReads s copy seq host dev n) := by
  unfold issueReads
  repeat' first
    | assumption | apply updTre_kept | apply kept_foldl | apply sendPcie_kept | intro _

theorem lastRead_kept {b : State} (s : State) (e : TEntry) (hs : Kept b s) : Kept b (lastRead s e) := by
  unfold lastRead
  repeat' first
    | assumption | apply sendPcie_kept | apply updTre_kept

theorem noteWrite_kept {b : State} (s : State) (copy : Bool) (id host : Nat) (hs : Kept b s) : Kept b (noteWrite s
    copy id host) := by
  unfold noteWrite
  repeat' first
    | with_reducible assumption | with_reducible apply updTre_kept | intro _ | dsimp only | split

theorem entryChunk_kept {b : State} (s : State) (e : TEntry) (hs : Kept b s) : Kept b (entryChunk s e) := by
  unfold entryChunk
  repeat' first
    | with_reducible assumption | with_reducible apply touchSectors_kept | with_reducible apply entryFails_kept
    | with_reducible apply noteWrite_kept | with_reducible apply countTo_kept | with_reducible apply hostWrite_kept
    | with_reducible apply updEntry_kept | with_reducible apply lastRead_kept | with_reducible apply issueReads_kept
    | with_reducible apply kept_ite | intro _ | dsimp only | split

theorem copyChunk_kept {b : State} (s : State) (c : Copy) (hs : Kept b s) : Kept b (copyChunk s c) := by
  unfold copyChunk
  repeat' first
    | with_reducible assumption | with_reducible apply endCopy_kept | with_reducible apply touchSectors_kept
    | with_reducible apply countTo_kept | with_reducible apply hostWrite_kept | with_reducible apply noteWrite_kept
    | with_reducible apply updTre_kept | with_reducible apply logEvent_kept | with_reducible apply failRow_kept
    | with_reducible apply issueReads_kept | with_reducible apply kept_ite | intro _ | dsimp only | split

theorem settleCopy_kept {b : State} (s : State) (toHost : Bool) (hs : Kept b s) : Kept b (settleCopy s toHost) := by
  unfold settleCopy
  repeat' first
    | with_reducible assumption | with_reducible apply endCopy_kept | with_reducible apply kept_ite | intro _
    | dsimp only | split

theorem trestleChunk_kept {b : State} (s : State) (toHost : Bool) (hs : Kept b s) : Kept b (trestleChunk s toHost)
    := by
  unfold trestleChunk
  repeat' first
    | with_reducible assumption | with_reducible apply settleCopy_kept | with_reducible apply entryChunk_kept
    | with_reducible apply setTurn_kept | with_reducible apply copyChunk_kept | with_reducible apply updTre_kept
    | with_reducible apply kept_ite | intro _ | dsimp only | split

theorem requestFails_kept {b : State} (s : State) (copy : Bool) (seq : Nat) (host : Nat) (pcieStatus : Nat) (hs :
    Kept b s) : Kept b (requestFails s copy seq host pcieStatus) := by
  unfold requestFails
  repeat' first
    | assumption | apply entryFails_kept | apply endCopy_kept | apply logEvent_kept | apply kept_ite | split

theorem readLands_kept {b : State} (s : State) (r : TRead) (data : List Byte) (hs : Kept b s) : Kept b (readLands s
    r data) := by
  unfold readLands
  dsimp only
  apply kept_ite
  · split
    · apply settleIdle_kept
      apply putSectors_kept
      apply countFrom_kept
      apply updTre_kept
      assumption
    · apply kept_ite
      · apply endCopy_kept
        apply settleIdle_kept
        apply putSectors_kept
        apply countFrom_kept
        apply updTre_kept
        assumption
      · apply kept_ite
        · apply endCopy_kept
          apply settleIdle_kept
          apply putSectors_kept
          apply countFrom_kept
          apply updTre_kept
          assumption
        · apply settleIdle_kept
          apply putSectors_kept
          apply countFrom_kept
          apply updTre_kept
          assumption
  · split
    · apply countFrom_kept
      apply updTre_kept
      assumption
    · split
      · apply countFrom_kept
        apply updTre_kept
        assumption
      · apply kept_ite
        · apply entryFails_kept
          apply putSectors_kept
          apply countFrom_kept
          apply updTre_kept
          assumption
        · apply kept_ite
          · apply entryDone_kept
            apply putSectors_kept
            apply countFrom_kept
            apply updTre_kept
            assumption
          · apply putSectors_kept
            apply countFrom_kept
            apply updTre_kept
            assumption

theorem writeFails_kept {b : State} (s : State) (w : TWrite) (pcieStatus : Nat) (hs : Kept b s) : Kept b (writeFails
    s w pcieStatus) := by
  unfold writeFails
  repeat' first
    | with_reducible assumption | with_reducible apply logEvent_kept | with_reducible apply requestFails_kept
    | with_reducible apply kept_ite | intro _ | dsimp only | split

theorem trestleCompletion_kept {b : State} (s : State) (how : Completion) (pcieStatus : Nat) (data : List Byte) (hs
    : Kept b s) : Kept b (trestleCompletion s how pcieStatus data) := by
  unfold trestleCompletion
  repeat' first
    | with_reducible assumption | with_reducible apply logAer_kept | with_reducible apply writeFails_kept
    | with_reducible apply updTre_kept | with_reducible apply requestFails_kept | with_reducible apply entryDone_kept
    | with_reducible apply readLands_kept | with_reducible apply kept_ite | intro _ | dsimp only | split

-- -------------------------------------------------------------------------------- Machine/BeatClock

theorem lockNow_kept {b : State} (s : State) (hs : Kept b s) : Kept b (lockNow s) := by
  unfold lockNow
  repeat' first
    | with_reducible assumption | with_reducible apply updBeat_kept | with_reducible apply showLock_kept
    | with_reducible refine updToll_kept ?_ ?_ ?_ | with_reducible apply kept_ite | with_reducible rfl | exact rfl
    | intro _ | dsimp only | split

theorem advanceBeat_kept {b : State} (s : State) (hs : Kept b s) : Kept b (advanceBeat s) := by
  unfold advanceBeat
  repeat' first
    | with_reducible assumption | with_reducible apply lockNow_kept | with_reducible apply updBeat_kept
    | with_reducible apply kept_ite | intro _ | dsimp only | split

theorem countActivity_kept {b : State} (s : State) (a : BeatActivity) (hs : Kept b s) : Kept b (countActivity s a)
    := by
  unfold countActivity
  refine updSp_kept ?_ rfl rfl
  apply noteActivity_kept
  assumption

theorem noteSectors_kept {b : State} (s : State) (a : BeatActivity) (hs : Kept b s) : Kept b (noteSectors s a) := by
  unfold noteSectors
  repeat' first
    | assumption | refine updDram_kept ?_ rfl | apply kept_ite

theorem refillLine_banks (q : Spans) (slice line : Nat) :
    (refillLine q slice line).banks = q.banks ∧ (refillLine q slice line).accs = q.accs := by
  unfold refillLine
  split <;> exact ⟨rfl, rfl⟩

theorem noteEvents_kept {b : State} (s : State) (a : BeatActivity) (hs : Kept b s) : Kept b (noteEvents s a) := by
  unfold noteEvents
  extract_lets t u
  have ht : Kept b t := noteSectors_kept _ _ (noteCells_kept _ _ hs)
  have same : ∀ (l : List (Nat × Nat)) (q : Spans), (l.foldl (fun q l => refillLine q l.1 l.2) q).banks = q.banks
      ∧ (l.foldl (fun q l => refillLine q l.1 l.2) q).accs = q.accs := by
    intro l
    induction l with
    | nil => exact fun q => ⟨rfl, rfl⟩
    | cons x l ih =>
      intro q
      exact ⟨(ih _).1.trans (refillLine_banks q x.1 x.2).1, (ih _).2.trans (refillLine_banks q x.1 x.2).2⟩
  exact updHost_kept (updSp_kept ht (same _ _).1 (same _ _).2)

theorem countLate_kept {b : State} (s : State) (hs : Kept b s) : Kept b (countLate s) := by
  unfold countLate
  repeat' first
    | assumption | apply updTre_kept | apply kept_ite | split | dsimp only

theorem beatBoundary_kept {b : State} (s : State) (a : BeatActivity) (hs : Kept b s) : Kept b (beatBoundary s a) := by
  unfold beatBoundary
  repeat' first
    | assumption | apply advanceBeat_kept | apply noteEvents_kept | apply countLate_kept
    | apply countActivity_kept | apply ageHits_kept | apply kept_ite

theorem beatMarkerSend_kept {b : State} (s : State) (tx : Nat) (hs : Kept b s) : Kept b (beatMarkerSend s tx) := by
  unfold beatMarkerSend
  repeat' first
    | assumption | apply sendPlain_kept | apply kept_foldl | apply updBeat_kept | apply retime_kept
    | apply kept_ite | intro _

theorem noteEcho_kept {b : State} (s : State) (n : Nat) (m : Marker) (at' : Nat) (hs : Kept b s) : Kept b (noteEcho
    s n m at') := by
  unfold noteEcho
  repeat' first
    | assumption | apply updBeat_kept | split

theorem compareMarker_kept {b : State} (s : State) (n : Nat) (m : Marker) (arrival : Int) (hs : Kept b s) : Kept b
    (compareMarker s n m arrival) := by
  unfold compareMarker
  repeat' first
    | with_reducible assumption | with_reducible apply lockNow_kept | with_reducible apply updBeat_kept
    | with_reducible apply kept_ite | intro _ | dsimp only | split

theorem beatMarker_kept {b : State} (s : State) (n : Nat) (m : Marker) (arrival : Int) (hs : Kept b s) : Kept b
    (beatMarker s n m arrival) := by
  unfold beatMarker
  repeat' first
    | assumption | apply updBeat_kept | apply compareMarker_kept | apply noteEcho_kept | apply retime_kept
    | apply kept_ite

theorem bearingTimeout_kept {b : State} (s : State) (b' : Bearing) (waiting : Option Nat) (hs : Kept b s) : Kept b
    (bearingTimeout s b' waiting) := by
  unfold bearingTimeout
  repeat' first
    | assumption | apply updIssued_kept | apply notifyFault_kept | apply replayFault_kept | apply kept_ite
    | split

theorem segmentTimeMsg_kept {b : State} (s : State) (c : Ctl) (pier : Nat) (origin : Nat) (time : Nat) (hs : Kept b
    s) : Kept b (segmentTimeMsg s c pier origin time) := by
  unfold segmentTimeMsg
  repeat' first
    | with_reducible assumption | with_reducible refine updSp_kept ?_ ?_ ?_ | with_reducible apply sendNext_kept
    | with_reducible apply kept_ite | with_reducible rfl | exact rfl | intro _ | dsimp only | split

theorem stepBay_kept {b : State} (tmax : Nat) (tmed : Nat) (s : State) (b' : Nat) (hs : Kept b s) : Kept b (stepBay
    tmax tmed s b') := by
  unfold stepBay
  dsimp only
  apply kept_ite
  · assumption
  · apply kept_ite
    · refine updSp_kept ?_ rfl rfl
      assumption
    · apply kept_ite
      · apply kept_ite
        · refine updSp_kept ?_ rfl rfl
          assumption
        · refine updSp_kept ?_ rfl rfl
          assumption
      · assumption

theorem countSlow_kept {b : State} (s : State) (hs : Kept b s) : Kept b (countSlow s) := by
  unfold countSlow
  refine updSp_kept ?_ rfl rfl
  assumption

theorem laggard_kept {b : State} (s : State) (own : Nat) (tmed : Nat) (hs : Kept b s) : Kept b (laggard s own tmed)
    := by
  unfold laggard
  extract_lets n s1 s2
  have h1 : Kept b s1 := countSlow_kept s hs
  clear_value s1
  have h2 : Kept b s2 := by
    unfold s2
    apply raiseIrq_kept
    apply logEvent_kept
    exact updSp_kept h1 rfl rfl
  clear_value s2
  refine kept_ite (updSp_kept h1 rfl rfl) ?_
  split
  · exact kept_ite h2 (updSp_kept h2 rfl rfl)
  · exact h2

theorem paceMatchDecision_kept {b : State} (s : State) (hs : Kept b s) : Kept b (paceMatchDecision s) := by
  unfold paceMatchDecision
  split
  · dsimp only
    apply kept_ite
    · assumption
    · apply laggard_kept
      apply kept_ite
      · apply kept_foldl
        · refine updSp_kept ?_ rfl rfl
          assumption
        · intro _ _ _
          apply stepBay_kept
          assumption
      · refine updSp_kept ?_ rfl rfl
        assumption
  · assumption

-- -------------------------------------------------------------------------------- Machine/Collective

theorem clRun.stage_kept {b : State} (p : Plan) (d : Desc) (m : CMsg) (v : List Byte) (s : State) (hs : Kept b s) :
    Kept b (clRun.stage p d m v s) := kept_ite hs (writeBytes_kept _ _ _ _ _ _ hs)

theorem clRun.keep_kept {b : State} (p : Plan) (d : Desc) (m : CMsg) (w : List W32) (s : State) (hs : Kept b s) :
    Kept b (clRun.keep p d m w s) := by
  unfold clRun.keep
  exact kept_ite hs (kept_foldl hs fun t v ht => writeRaw_kept _ _ _ _ _ _ ht)

theorem clRun_kept {b : State} (p : Plan) (d : Desc) (T : Nat) (l : List (CMsg × Nat)) (held : List Nat) (s : State)
    (w : List W32) (hs : Kept b s) : Kept b (clRun p d T l held s w).1 := by
  induction l generalizing held s w with
  | nil => exact hs
  | cons e l ih =>
    obtain ⟨m, idx⟩ := e
    simp only [clRun]
    split
    · exact ih _ _ _ hs
    · split
      · exact ih _ _ _ hs
      · split
        · exact ih _ _ _ (trySend_kept _ _ _ hs)
        · split
          · exact ih _ _ _ hs
          · exact ih _ _ _ (clRun.keep_kept _ _ _ _ _ (clRun.stage_kept _ _ _ _ _ (markRecv_kept _ _ hs)))

theorem undefinedElem_kept {b : State} (s : State) (n : Nat) (i : Nat) (hs : Kept b s) : Kept b (undefinedElem s n
    i).1 := by
  unfold undefinedElem
  dsimp only
  refine kept_mk ?_ rfl rfl id id id
  assumption

theorem clFinish_kept {b : State} (s : State) (p : Plan) (d : Desc) (w : List W32) (hs : Kept b s) : Kept b
    (clFinish s p d w) := by
  unfold clFinish
  repeat' first
    | assumption | apply undefinedElem_kept | apply writeRaw_kept | apply kept_foldl | apply kept_ite | intro _

theorem clComplete_kept {b : State} (s : State) (p : Plan) (d : Desc) (w : List W32) (hs : Kept b s) : Kept b
    (clComplete s p d w) := by
  unfold clComplete
  repeat' first
    | with_reducible assumption | with_reducible apply clFinish_kept | with_reducible apply updKs_kept | intro _
    | dsimp only | split

theorem collectiveWork_kept {b : State} (s : State) (p : Plan) (d : Desc) (hs : Kept b s) : Kept b (collectiveWork
    s p d).1 := by
  unfold collectiveWork
  repeat' first
    | with_reducible assumption | with_reducible apply clRun_kept | with_reducible apply clComplete_kept
    | with_reducible apply updKs_kept | with_reducible apply kept_ite | intro _ | dsimp only | split

theorem accumulate_kept {b : State} (s : State) (p : Plan) (d : Desc) (hs : Kept b s) : Kept b (accumulate s p d)
    := by
  unfold accumulate
  dsimp only
  apply writeRaw_kept
  assumption

theorem finishRun_kept {b : State} (d : Desc) (l : List (CMsg × Nat)) (s : State) (w : List W32) (hs : Kept b s) :
    Kept b (finishRun d l s w).1 := by
  induction l generalizing s w with
  | nil => exact hs
  | cons e l ih =>
    obtain ⟨m, idx⟩ := e
    unfold finishRun
    split
    · exact ih _ _ hs
    · extract_lets
      split
      · split
        · exact ih _ _ (trySend_kept _ _ _ hs)
        · exact trySend_kept _ _ _ hs
      · split
        · exact hs
        · exact ih _ _ (markRecv_kept _ _ hs)

theorem finishNorm_kept {b : State} (s : State) (p : Plan) (d : Desc) (hs : Kept b s) : Kept b (finishNorm s p d).1
    := by
  unfold finishNorm
  dsimp only
  split
  · split
    · dsimp only
      apply writeBytes_kept
      apply updKs_kept
      apply finishRun_kept
      assumption
    · dsimp only
      apply updKs_kept
      apply finishRun_kept
      assumption
  · split
    · dsimp only
      apply writeBytes_kept
      apply updKs_kept
      apply finishRun_kept
      assumption
    · dsimp only
      apply updKs_kept
      apply finishRun_kept
      assumption

theorem globalNormWork_kept {b : State} (s : State) (p : Plan) (d : Desc) (hs : Kept b s) : Kept b (globalNormWork
    s p d).1 := by
  unfold globalNormWork
  repeat' first
    | assumption | apply finishNorm_kept | apply accumulate_kept | split

-- -------------------------------------------------------------------------------- Machine/Admission

theorem refreshDone_kept {b : State} (s : State) (hs : Kept b s) : Kept b (refreshDone s) := by
  unfold refreshDone
  repeat' first
    | assumption | apply dropCache_kept | apply sendJ_kept | apply marchSpans_kept | apply updGrp_kept

theorem askRefresh_kept {b : State} (s : State) (p : Plan) (hs : Kept b s) : Kept b (askRefresh s p) := by
  unfold askRefresh
  repeat' first
    | assumption | apply sendVia_kept | apply updGrp_kept | apply refreshDone_kept | apply kept_foldl
    | apply kept_ite | intro _

theorem gensFromStepPier_kept {b : State} (s : State) (p : Plan) (hs : Kept b s) : Kept b (gensFromStepPier s p) := by
  unfold gensFromStepPier
  split
  · assumption
  · split
    · assumption
    · apply updKs_kept
      assumption

theorem flipBack_kept {b : State} (s : State) (p : Plan) (hs : Kept b s) : Kept b (flipBack s p) := by
  unfold flipBack
  apply updKs_kept
  assumption

theorem checkGeneration_kept {b : State} (s : State) (p : Plan) (step : Nat) (gen : Nat) (hs : Kept b s) : Kept b
    (checkGeneration s p step gen) := by
  unfold checkGeneration
  repeat' first
    | assumption | apply updGrp_kept | apply flipBack_kept | apply askRefresh_kept | apply logEvent_kept
    | apply failStart_kept | apply kept_ite

theorem rerunUpdate_kept {b : State} (s : State) (p : Plan) (e : PierEntry) (r : Rec) (mark : Nat × Nat) (hs : Kept
    b s) : Kept b (rerunUpdate s p e r mark) := by
  unfold rerunUpdate
  repeat' first
    | with_reducible assumption | with_reducible apply updGrp_kept | with_reducible apply updKs_kept
    | with_reducible apply formPending_kept | with_reducible apply resumeAt_kept | with_reducible apply kept_foldl
    | with_reducible apply kept_ite | intro _ | dsimp only | split

theorem rerunDone_kept {b : State} (s : State) (p : Plan) (hs : Kept b s) : Kept b (rerunDone s p) := by
  unfold rerunDone
  repeat' first
    | with_reducible assumption | with_reducible apply dropSegment_kept | with_reducible apply updGrp_kept
    | with_reducible apply checkGeneration_kept | with_reducible apply updKs_kept | intro _ | dsimp only | split

theorem generationCheck_kept {b : State} (s : State) (p : Plan) (step : Nat) (gen : Nat) (hs : Kept b s) : Kept b
    (generationCheck s p step gen) := by
  unfold generationCheck
  repeat' first
    | assumption | apply checkGeneration_kept | apply rerunUpdate_kept | apply gensFromStepPier_kept | split
    | dsimp only

-- -------------------------------------------------------------------------------- Machine/Commit

theorem commitDone_kept {b : State} (s : State) (p : Plan) (seq : Nat) (status : Nat) (i : Issued) (hs : Kept b s)
    : Kept b (commitDone s p seq status i) := by
  unfold commitDone
  repeat' first
    | assumption | apply notifyFault_kept | apply logEvent_kept | apply updKs_kept | apply kept_ite | split

theorem applyCommit_kept {b : State} (s : State) (p : Plan) (seq : Nat) (hs : Kept b s) : Kept b (applyCommit s p
    seq) := by
  unfold applyCommit
  repeat' first
    | with_reducible assumption | with_reducible apply updKs_kept | with_reducible apply rerunDone_kept
    | with_reducible apply formStep_kept | with_reducible apply commitDone_kept | with_reducible apply keepNorms_kept
    | with_reducible apply kept_foldl | intro _ | dsimp only | split

theorem abortAttempt_kept {b : State} (s : State) (p : Plan) (hs : Kept b s) : Kept b (abortAttempt s p) := by
  unfold abortAttempt
  repeat' first
    | with_reducible assumption | with_reducible apply updKs_kept | with_reducible apply replayFrom_kept
    | with_reducible apply logReplay_kept | with_reducible apply localRestart_kept
    | with_reducible apply startRewind_kept | with_reducible apply endRun_kept | with_reducible apply kept_ite
    | intro _ | dsimp only | split

theorem applyDecision_kept {b : State} (s : State) (p : Plan) (w : CommitWork) (o : Bool) (hs : Kept b s) : Kept b
    (applyDecision s p w o) := by
  unfold applyDecision
  repeat' first
    | with_reducible assumption | with_reducible apply applyCommit_kept | with_reducible apply abortAttempt_kept
    | with_reducible apply commitDone_kept | with_reducible apply updKs_kept | with_reducible apply kept_ite | intro _
    | dsimp only | split

theorem sendDecision_kept {b : State} (s : State) (p : Plan) (a : Attempt) (o : Bool) (all : Bool) (hs : Kept b s)
    : Kept b (sendDecision s p a o all) := by
  unfold sendDecision
  repeat' first
    | assumption | apply sendCtl_kept | apply kept_foldl | intro _

theorem decisionRecorded_kept {b : State} (s : State) (p : Plan) (w : CommitWork) (o : Bool) (hs : Kept b s) : Kept
    b (decisionRecorded s p w o) := by
  unfold decisionRecorded
  repeat' first
    | with_reducible assumption | with_reducible apply sendDecision_kept | with_reducible apply applyDecision_kept
    | with_reducible apply updKs_kept | intro _ | dsimp only | split

theorem recordDecision_kept {b : State} (s : State) (p : Plan) (w : CommitWork) (o : Bool) (lead : Option Bool) (hs
    : Kept b s) : Kept b (recordDecision s p w o lead) := by
  unfold recordDecision
  repeat' first
    | assumption | apply decisionRecorded_kept | apply updKs_kept | apply journalWrite_kept | apply kept_ite

theorem leaderVote_kept {b : State} (s : State) (p : Plan) (w : CommitWork) (count : Nat) (agree : Bool) (hs : Kept
    b s) : Kept b (leaderVote s p w count agree) := by
  unfold leaderVote
  apply recordDecision_kept
  assumption

theorem passToken_kept {b : State} (s : State) (p : Plan) (hs : Kept b s) : Kept b (passToken s p) := by
  unfold passToken
  repeat' first
    | assumption | apply sendCtl_kept | apply updKs_kept | apply leaderVote_kept | apply kept_ite | split

theorem preparedNow_kept {b : State} (s : State) (p : Plan) (w : CommitWork) (hs : Kept b s) : Kept b (preparedNow
    s p w) := by
  unfold preparedNow
  repeat' first
    | assumption | apply sendCtl_kept | apply updKs_kept | apply passToken_kept | apply leaderVote_kept
    | apply kept_ite

theorem writePending_kept {b : State} (s : State) (p : Plan) (d : Desc) (hs : Kept b s) : Kept b (writePending s p
    d) := by
  unfold writePending
  dsimp only
  apply freshSectors_kept
  apply noteWrites_kept
  apply writeBytes_kept
  assumption

theorem prepare_kept {b : State} (s : State) (p : Plan) (d : Desc) (a : Attempt) (hs : Kept b s) : Kept b (prepare
    s p d a) := by
  unfold prepare
  dsimp only
  apply kept_ite
  · apply preparedNow_kept
    apply journalWrite_kept
    apply journalWrite_kept
    apply updKs_kept
    apply freshSectors_kept
    apply noteWrites_kept
    apply writeBytes_kept
    assumption
  · apply journalWrite_kept
    apply journalWrite_kept
    apply updKs_kept
    apply freshSectors_kept
    apply noteWrites_kept
    apply writeBytes_kept
    assumption

theorem prepareFailed_kept {b : State} (s : State) (p : Plan) (d : Desc) (a : Attempt) (st : Nat) (hs : Kept b s) :
    Kept b (prepareFailed s p d a st) := by
  unfold prepareFailed
  repeat' first
    | assumption | apply preparedNow_kept | apply notifyFault_kept

theorem commitRun_kept {b : State} (s : State) (seq : Nat) (hs : Kept b s) : Kept b (commitRun s seq) := by
  unfold commitRun
  split
  · assumption
  · apply kept_ite
    · assumption
    · dsimp only
      apply kept_ite
      · apply formStep_kept
        apply commitDone_kept
        assumption
      · split
        · apply kept_ite
          · apply prepare_kept
            assumption
          · apply prepareFailed_kept
            assumption
        · apply recordDecision_kept
          apply kept_ite
          · apply writePending_kept
            assumption
          · assumption

theorem commitAck_kept {b : State} (s : State) (p : Plan) (off : Nat) (hs : Kept b s) : Kept b (commitAck s p off)
    := by
  unfold commitAck
  repeat' first
    | assumption | apply preparedNow_kept | apply decisionRecorded_kept | apply kept_ite | split

theorem joinAttempt_kept {b : State} (s : State) (p : Plan) (a : Attempt) (hs : Kept b s) : Kept b (joinAttempt s p
    a) := by
  unfold joinAttempt
  repeat' first
    | with_reducible assumption | with_reducible apply updKs_kept | with_reducible apply recordDecision_kept
    | with_reducible apply kept_ite | intro _ | dsimp only | split

theorem voteMsg_kept {b : State} (s : State) (c : Ctl) (a : Attempt) (count : Nat) (agree : Bool) (digest : List
    Byte) (hs : Kept b s) : Kept b (voteMsg s c a count agree digest) := by
  unfold voteMsg
  repeat' first
    | assumption | apply passToken_kept | apply joinAttempt_kept | apply updKs_kept | apply kept_ite | split

theorem voteTimeout_kept {b : State} (s : State) (hs : Kept b s) : Kept b (voteTimeout s) := by
  unfold voteTimeout
  repeat' first
    | assumption | apply recordDecision_kept | apply kept_ite | split

theorem mirrorDecision_kept {b : State} (s : State) (p : Plan) (a : Attempt) (o : Bool) (hs : Kept b s) : Kept b
    (mirrorDecision s p a o) := by
  unfold mirrorDecision
  apply kept_ite
  · dsimp only
    apply freshSectors_kept
    apply putMem_kept
    assumption
  · assumption

theorem decisionMsg_kept {b : State} (s : State) (c : Ctl) (a : Attempt) (o : Bool) (hs : Kept b s) : Kept b
    (decisionMsg s c a o) := by
  unfold decisionMsg
  split
  · assumption
  · apply kept_ite
    · assumption
    · dsimp only
      split
      · apply kept_ite
        · apply joinAttempt_kept
          assumption
        · apply journalWrite_kept
          apply mirrorDecision_kept
          apply sendDecision_kept
          apply joinAttempt_kept
          assumption
      · apply kept_ite
        · apply joinAttempt_kept
          assumption
        · apply recordDecision_kept
          apply mirrorDecision_kept
          apply sendDecision_kept
          apply joinAttempt_kept
          assumption

theorem noteReply_kept {b : State} (s : State) (p : Plan) (a : Attempt) (r : Nat) (o : Nat) (hs : Kept b s) : Kept
    b (noteReply s p a r o).1 := by
  unfold noteReply
  repeat' first
    | assumption | apply updKs_kept | split | dsimp only

theorem joinRecovery_kept {b : State} (s : State) (p : Plan) (a : Attempt) (hs : Kept b s) : Kept b (joinRecovery s
    p a) := by
  unfold joinRecovery
  repeat' first
    | assumption | apply flood_kept | apply updKs_kept

theorem recoveryStart_kept {b : State} (s : State) (hs : Kept b s) : Kept b (recoveryStart s) := by
  unfold recoveryStart
  split
  · apply kept_ite
    · assumption
    · dsimp only
      apply joinRecovery_kept
      apply flood_kept
      assumption
  · assumption

theorem recoveryQueryMsg_kept {b : State} (s : State) (c : Ctl) (a : Attempt) (asker : Nat) (hs : Kept b s) : Kept
    b (recoveryQueryMsg s c a asker) := by
  unfold recoveryQueryMsg
  repeat' first
    | with_reducible assumption | with_reducible apply joinAttempt_kept | with_reducible apply flood_kept
    | with_reducible apply joinRecovery_kept | with_reducible apply kept_ite | intro _ | dsimp only | split

theorem recoveryReplyMsg_kept {b : State} (s : State) (c : Ctl) (a : Attempt) (o : Nat) (r : Nat) (hs : Kept b s) :
    Kept b (recoveryReplyMsg s c a o r) := by
  unfold recoveryReplyMsg
  repeat' first
    | assumption | apply flood_kept | apply joinAttempt_kept | apply noteReply_kept | apply kept_ite | split

theorem recoveryWindowEnd_kept {b : State} (s : State) (hs : Kept b s) : Kept b (recoveryWindowEnd s) := by
  unfold recoveryWindowEnd
  repeat' first
    | with_reducible assumption | with_reducible apply updKs_kept | with_reducible apply recordDecision_kept
    | with_reducible apply sendDecision_kept | with_reducible apply kept_foldl | with_reducible apply kept_ite
    | intro _ | dsimp only | split

-- -------------------------------------------------------------------------------- Machine/HostIface

theorem slotWrite_kept {b : State} (s : State) (off : Nat) (data : List Byte) (hs : Kept b s) : Kept b (slotWrite s
    off data) := by
  unfold slotWrite
  repeat' first
    | assumption | apply updHost_kept | apply setErr_kept | apply kept_ite

theorem mailboxSlotWrite_kept {b : State} (s : State) (off : Nat) (data : List Byte) (poisoned : Bool) (hs : Kept b
    s) : Kept b (mailboxSlotWrite s off data poisoned) := by
  unfold mailboxSlotWrite
  repeat' first
    | assumption | apply slotWrite_kept | apply barWrite_kept | apply kept_ite | intro _

theorem mailboxTake_kept {b : State} (s : State) (hs : Kept b s) : Kept b (mailboxTake s) := by
  unfold mailboxTake
  apply kept_ite
  · assumption
  · split
    · assumption
    · dsimp only
      apply kept_ite
      · apply setErr_kept
        apply updHost_kept
        assumption
      · apply kept_ite
        · apply finishCmd_kept
          apply updHost_kept
          assumption
        · apply kept_ite
          · apply finishCmd_kept
            apply updHost_kept
            assumption
          · apply kept_ite
            · apply finishCmd_kept
              apply updHost_kept
              assumption
            · apply updHost_kept
              apply updHost_kept
              assumption

theorem ctrlWrite_kept {b : State} (s : State) (v : Nat) (hs : Kept b s) : Kept b (ctrlWrite s v) := by
  unfold ctrlWrite
  apply updHost_kept
  assumption

theorem cqEnable_kept {b : State} (s : State) (value : W32) (poisoned : Bool) (hs : Kept b s) : Kept b (cqEnable s
    value poisoned) := by
  unfold cqEnable
  repeat' first
    | assumption | apply ctrlWrite_kept | apply barWrite_kept | intro _

theorem flushMsix_kept {b : State} (s : State) (hs : Kept b s) : Kept b (flushMsix s) := by
  unfold flushMsix
  apply kept_foldl
  · assumption
  · intro _ _ _
    apply kept_ite
    · apply sendPcie_kept
      apply updHost_kept
      assumption
    · assumption

theorem msixWrite_kept {b : State} (s : State) (off : Nat) (data : List Byte) (hs : Kept b s) : Kept b (msixWrite s
    off data) := by
  unfold msixWrite
  repeat' first
    | assumption | apply flushMsix_kept | apply updHost_kept | apply kept_ite

theorem regStore_kept {b : State} (s : State) (off : Nat) (v : Nat) (hs : Kept b s) : Kept b (regStore s off v) := by
  unfold regStore
  repeat' first
    | assumption | apply updHost_kept | apply ctrlWrite_kept | apply kept_ite

theorem registerWrite_kept {b : State} (s : State) (off : Nat) (data : List Byte) (poisoned : Bool) (hs : Kept b s)
    : Kept b (registerWrite s off data poisoned) := by
  unfold registerWrite
  repeat' first
    | assumption | apply regStore_kept | apply msixWrite_kept | apply barWrite_kept | apply kept_ite | intro _

theorem hcBeatLoRead_kept {b : State} (s : State) (hs : Kept b s) : Kept b (hcBeatLoRead s) := by
  unfold hcBeatLoRead
  repeat' first
    | assumption | apply updHost_kept | apply barRead_kept | apply sendPcie_kept | apply kept_ite | intro _

theorem coalesceTimerExpiry_kept {b : State} (s : State) (src : Nat) (hs : Kept b s) : Kept b (coalesceTimerExpiry
    s src) := by
  unfold coalesceTimerExpiry
  repeat' first
    | assumption | apply updHost_kept | apply raiseIrq_kept | apply kept_ite

-- -------------------------------------------------------------------------------- Machine/JtagOps

theorem jtagScan_kept {b : State} (s : State) (ir : Nat) (tdi : List Bool) (hs : Kept b s) : Kept b (jtagScan s ir
    tdi) := by
  unfold jtagScan
  apply kept_ite
  · assumption
  · dsimp only
    apply kept_ite
    · refine kept_mk ?_ rfl rfl id id id
      assumption
    · apply kept_ite
      · refine kept_mk ?_ rfl rfl id id id
        assumption
      · apply kept_ite
        · refine kept_mk ?_ rfl rfl id id id
          assumption
        · apply kept_ite
          · refine kept_mk ?_ rfl rfl id id id
            assumption
          · refine kept_mk ?_ rfl rfl id id id
            assumption

-- -------------------------------------------------------------------------------- Machine/LinkRows

theorem flowCheck_kept {b : State} (s : State) (n : Nat) (c : Nat) (l : Nat) (hs : Kept b s) : Kept b (flowCheck s
    n c l) := by
  unfold flowCheck
  dsimp only
  apply kept_ite
  · apply sendLink_kept
    apply updPort_kept
    assumption
  · apply kept_ite
    · apply sendLink_kept
      apply updPort_kept
      assumption
    · assumption

theorem acceptFlit_kept {b : State} (s : State) (n : Nat) (f : Flit) (hs : Kept b s) : Kept b (acceptFlit s n f) := by
  unfold acceptFlit
  repeat' first
    | assumption | apply flowCheck_kept | apply updPort_kept | apply kept_ite

theorem idleAck_kept {b : State} (s : State) (n : Nat) (hs : Kept b s) : Kept b (idleAck s n) := by
  unfold idleAck
  repeat' first
    | assumption | apply sendPlain_kept | apply kept_ite

theorem flitReceive_kept {b : State} (s : State) (n : Nat) (fecOk : Bool) (f : Flit) (crc : W32) (hs : Kept b s) :
    Kept b (flitReceive s n fecOk f crc) := by
  unfold flitReceive
  repeat' first
    | with_reducible assumption | with_reducible apply updPort_kept | with_reducible apply pump_kept
    | with_reducible apply armWaiting_kept | with_reducible apply idleAck_kept | with_reducible apply acceptFlit_kept
    | with_reducible apply sendLink_kept | with_reducible apply kept_ite | intro _ | dsimp only | split

theorem flitForward_kept {b : State} (s : State) (n : Nat) (c : Nat) (l : Nat) (hs : Kept b s) : Kept b
    (flitForward s n c l) := by
  unfold flitForward
  split
  · assumption
  · dsimp only
    split
    · apply flowCheck_kept
      apply updPort_kept
      apply logEvent_kept
      assumption
    · apply kept_ite
      · apply pump_kept
        apply flowCheck_kept
        apply updPort_kept
        apply updPort_kept
        assumption
      · assumption

theorem resendClass_kept {b : State} (s : State) (n : Nat) (c : Nat) (fs : List Flit) (hs : Kept b s) : Kept b
    (resendClass s n c fs) := by
  unfold resendClass
  repeat' first
    | assumption | apply portRetrain_kept | apply updPort_kept | apply pump_kept | apply kept_ite

theorem classResendTimeout_kept {b : State} (s : State) (n : Nat) (c : Nat) (hs : Kept b s) : Kept b
    (classResendTimeout s n c) := by
  unfold classResendTimeout
  repeat' first
    | assumption | apply resendClass_kept | apply kept_ite

theorem nackMsg_kept {b : State} (s : State) (n : Nat) (c : Nat) (expected : Nat) (hs : Kept b s) : Kept b (nackMsg
    s n c expected) := by
  unfold nackMsg
  repeat' first
    | assumption | apply resendClass_kept | apply kept_ite

theorem xoffMsg_kept {b : State} (s : State) (n : Nat) (c : Nat) (l : Nat) (hs : Kept b s) : Kept b (xoffMsg s n c
    l) := by
  unfold xoffMsg
  repeat' first
    | assumption | apply updPort_kept | apply kept_ite

theorem xonMsg_kept {b : State} (s : State) (n : Nat) (c : Nat) (l : Nat) (hs : Kept b s) : Kept b (xonMsg s n c l)
    := by
  unfold xonMsg
  repeat' first
    | assumption | apply updPort_kept | apply pump_kept | apply kept_ite

theorem retrainRequestMsg_kept {b : State} (s : State) (n : Nat) (hs : Kept b s) : Kept b (retrainRequestMsg s n)
    := by
  unfold retrainRequestMsg
  repeat' first
    | assumption | apply beginRetrain_kept | apply kept_ite

theorem portChange_kept {b : State} (s : State) (n : Nat) (st : PortState) (hs : Kept b s) : Kept b (portChange s n
    st) := by
  unfold portChange
  repeat' first
    | assumption | apply raiseIrq_kept | apply updPort_kept | apply kept_ite

theorem rerouteFlit_kept {b : State} (s : State) (f : Flit) (hs : Kept b s) : Kept b (rerouteFlit s f) := by
  unfold rerouteFlit
  apply routeFlits_kept
  assumption

theorem rerouteQueue_kept {b : State} (s : State) (n : Nat) (hs : Kept b s) : Kept b (rerouteQueue s n) := by
  unfold rerouteQueue
  repeat' first
    | with_reducible assumption | with_reducible apply rerouteFlit_kept | with_reducible apply updPort_kept
    | with_reducible apply kept_foldl | intro _ | dsimp only | split

theorem leaveService_kept {b : State} (s : State) (n : Nat) (hs : Kept b s) : Kept b (leaveService s n) := by
  unfold leaveService
  repeat' first
    | with_reducible assumption | with_reducible apply rerouteQueue_kept | with_reducible apply forgetMarkers_kept
    | with_reducible apply armWaiting_kept | intro _ | dsimp only | split

theorem stopPort_kept {b : State} (s : State) (n : Nat) (st : PortState) (hs : Kept b s) : Kept b (stopPort s n st)
    := by
  unfold stopPort
  repeat' first
    | with_reducible assumption | with_reducible apply leaveService_kept | with_reducible apply updPort_kept
    | with_reducible apply portChange_kept | intro _ | dsimp only | split

theorem linkAct_kept {b : State} (s : State) (c : Taken) (hs : Kept b s) : Kept b (linkAct s c).1 := by
  unfold linkAct
  repeat' first
    | with_reducible assumption | with_reducible apply portChange_kept | with_reducible apply updPort_kept
    | with_reducible apply portRetrain_kept | with_reducible apply stopPort_kept | with_reducible apply kept_foldl
    | intro _ | dsimp only | split

theorem ungroup_kept {b : State} (s : State) (hs : Kept b s) : Kept b (ungroup s) := by
  unfold ungroup
  repeat' first
    | assumption | apply resendIdent_kept | apply updVia_kept

theorem formFails_kept {b : State} (s : State) (w : FormWork) (status : Nat) (rs : List Nat) (hs : Kept b s) : Kept
    b (formFails s w status rs) := by
  unfold formFails
  repeat' first
    | with_reducible assumption | with_reducible apply finishCmd_kept | with_reducible apply ungroup_kept | intro _
    | dsimp only | split

theorem noteBypass_kept {b : State} (s : State) (hs : Kept b s) : Kept b (noteBypass s) := by
  unfold noteBypass
  apply updVia_kept
  assumption

theorem formDone_kept {b : State} (s : State) (c : Taken) (f : Formation) (hs : Kept b s) : Kept b (formDone s c f)
    := by
  unfold formDone
  repeat' first
    | assumption | apply resendIdent_kept | apply finishCmd_kept | apply noteBypass_kept | apply updVia_kept

theorem formRefused_kept {b : State} (s : State) (w : FormWork) (i : Instr) (hs : Kept b s) : Kept b (formRefused s
    w i) := by
  unfold formRefused
  exact formFails_kept _ _ _ _ (kept_foldl hs fun t n ht => kept_ite (sendVia_kept _ _ _ ht) ht)

theorem formHere_kept {b : State} (s : State) (w : FormWork) (n : Nat) (i : Instr) (hs : Kept b s) : Kept b
    (formHere s w n i) := by
  unfold formHere
  repeat' first
    | with_reducible assumption | with_reducible apply formRefused_kept | with_reducible apply formDone_kept
    | with_reducible apply updVia_kept | with_reducible apply kept_ite | intro _ | dsimp only | split

theorem replayForms_kept {b : State} (s : State) (hs : Kept b s) : Kept b (replayForms s) := by
  unfold replayForms
  repeat' first
    | assumption | apply formHere_kept | apply kept_foldl | apply updVia_kept | intro _ | split

theorem beginForm_kept {b : State} (s : State) (c : Taken) (hs : Kept b s) : Kept b (beginForm s c) := by
  unfold beginForm
  split
  · apply finishCmd_kept
    apply ungroup_kept
    assumption
  · dsimp only
    apply kept_ite
    · apply formDone_kept
      apply ungroup_kept
      assumption
    · apply kept_ite
      · apply finishCmd_kept
        apply ungroup_kept
        assumption
      · apply replayForms_kept
        apply kept_foldl
        · apply updVia_kept
          apply ungroup_kept
          assumption
        · intro _ _ _
          apply sendVia_kept
          assumption

theorem beginLink_kept {b : State} (s : State) (c : Taken) (hs : Kept b s) : Kept b (beginLink s c) := by
  unfold beginLink
  repeat' first
    | assumption | apply updVia_kept | apply resendIdent_kept | apply linkAct_kept | apply finishCmd_kept
    | apply kept_ite

theorem nextLink_kept {b : State} (n : Nat) (s : State) (hs : Kept b s) : Kept b (nextLink n s) := by
  induction n generalizing s with
  | zero => exact hs
  | succ n ih =>
    simp only [nextLink]
    split
    · exact hs
    · split
      · exact hs
      · split
        · exact ih _ (kept_ite (beginForm_kept _ _ hs) (finishCmd_kept _ _ _ _ hs))
        · exact ih _ (beginLink_kept _ _ hs)

theorem linkQueue_kept {b : State} (s : State) (hs : Kept b s) : Kept b (linkQueue s) := by
  unfold linkQueue
  apply nextLink_kept
  assumption

theorem linkControl_kept {b : State} (s : State) (tag : Nat) (hs : Kept b s) : Kept b (linkControl s tag) := by
  unfold linkControl
  repeat' first
    | assumption | apply linkQueue_kept | apply finishCmd_kept | apply serve_kept | apply acceptCmd_kept
    | apply kept_ite | intro _

theorem ringForm_kept {b : State} (s : State) (tag : Nat) (hs : Kept b s) : Kept b (ringForm s tag) := by
  unfold ringForm
  repeat' first
    | assumption | apply acceptCmd_kept | apply serve_kept | apply finishCmd_kept | apply linkQueue_kept
    | apply ungroup_kept | apply kept_ite | intro _

theorem formRow_kept {b : State} (s : State) (c : Ctl) (len : Nat) (pos : Nat) (ver : W32) (step : Byte) (bypass :
    Bool) (id : W64) (hs : Kept b s) : Kept b (formRow s c len pos ver step bypass id) := by
  unfold formRow
  repeat' first
    | assumption | apply sendVia_kept | apply formHere_kept | apply noteBypass_kept | apply linkQueue_kept
    | apply updVia_kept | apply kept_ite | split

theorem checkForm_kept {b : State} (s : State) (hs : Kept b s) : Kept b (checkForm s) := by
  unfold checkForm
  repeat' first
    | with_reducible assumption | with_reducible apply linkQueue_kept | with_reducible apply formFails_kept
    | with_reducible apply kept_ite | intro _ | dsimp only | split

theorem formTimeout_kept {b : State} (s : State) (hs : Kept b s) : Kept b (formTimeout s) := by
  unfold formTimeout
  repeat' first
    | with_reducible assumption | with_reducible apply linkQueue_kept | with_reducible apply formFails_kept | intro _
    | dsimp only | split

theorem linkPortDone_kept {b : State} (s : State) (n : Nat) (hs : Kept b s) : Kept b (linkPortDone s n) := by
  unfold linkPortDone
  repeat' first
    | assumption | apply linkQueue_kept | apply updVia_kept | apply finishCmd_kept | apply kept_ite | split

theorem portFails_kept {b : State} (s : State) (n : Nat) (hs : Kept b s) : Kept b (portFails s n) := by
  unfold portFails
  repeat' first
    | with_reducible assumption | with_reducible apply stopPort_kept | with_reducible apply coordFault_kept
    | with_reducible apply notifyFault_kept | with_reducible apply logEvent_kept | with_reducible apply kept_ite
    | intro _ | dsimp only | split

theorem learnCoord_kept {b : State} (s : State) (hs : Kept b s) : Kept b (learnCoord s) := by
  unfold learnCoord
  repeat' first
    | assumption | apply updVia_kept | apply kept_ite | split

theorem portTrains_kept {b : State} (s : State) (n : Nat) (spare : Bool) (rtt : Nat) (hs : Kept b s) : Kept b
    (portTrains s n spare rtt) := by
  unfold portTrains
  repeat' first
    | with_reducible assumption | with_reducible apply updPort_kept | with_reducible apply leaveService_kept
    | with_reducible apply logEvent_kept | with_reducible apply raiseIrq_kept | with_reducible apply pump_kept
    | with_reducible apply sendLink_kept | with_reducible apply forgetDelay_kept
    | with_reducible apply armWaiting_kept | with_reducible apply resendIdent_kept
    | with_reducible apply learnCoord_kept | with_reducible apply kept_ite | intro _ | dsimp only | split

theorem portTrainingComplete_kept {b : State} (s : State) (n : Nat) (failed : List Nat) (rtt : Nat) (hs : Kept b s)
    : Kept b (portTrainingComplete s n failed rtt) := by
  unfold portTrainingComplete
  repeat' first
    | with_reducible assumption | with_reducible apply portFails_kept | with_reducible apply leaveService_kept
    | with_reducible apply updPort_kept | with_reducible apply portTrains_kept
    | with_reducible apply linkPortDone_kept | with_reducible apply checkForm_kept | with_reducible apply kept_ite
    | intro _ | dsimp only | split

theorem identMsg_kept {b : State} (s : State) (n : Nat) (i : Ident) (hs : Kept b s) : Kept b (identMsg s n i) := by
  unfold identMsg
  repeat' first
    | with_reducible assumption | with_reducible apply portChange_kept | with_reducible apply updPort_kept
    | with_reducible apply leaveService_kept | with_reducible apply logEvent_kept
    | with_reducible apply checkForm_kept | with_reducible apply resendIdent_kept
    | with_reducible apply learnCoord_kept | with_reducible apply kept_ite | intro _ | dsimp only | split

-- -------------------------------------------------------------------------------- Machine/PowerReset

theorem unstage_kept {b : State} (s : State) (hs : Kept b s) : Kept b (unstage s) := by
  unfold unstage
  split
  · dsimp only
    exact setStaged_kept _ _ _ (updToll_kept (kept_mk hs rfl rfl id id id) rfl rfl)
  · exact hs

theorem dropHeld_kept {b : State} (s : State) (hs : Kept b s) : Kept b (dropHeld s) := by
  unfold dropHeld
  repeat' first
    | with_reducible assumption | with_reducible apply updKs_kept | with_reducible apply unstage_kept
    | with_reducible apply updVia_kept | intro _ | dsimp only | split

theorem dropCommands_kept {b : State} (s : State) (hs : Kept b s) : Kept b (dropCommands s) := by
  unfold dropCommands
  repeat' first
    | with_reducible assumption | with_reducible refine updToll_kept ?_ ?_ ?_ | with_reducible apply dropHeld_kept
    | with_reducible rfl | exact rfl | intro _ | dsimp only | split

theorem coreReset_kept {b : State} (s : State) (hs : Kept b s) : Kept b (coreReset s) := by
  unfold coreReset
  have h := dropHeld_kept s hs
  generalize dropHeld s = t at h ⊢
  exact updHost_kept (updDram_kept (kept_mk h rfl rfl id (fun _ => rfl) (fun _ => rfl)) rfl)

theorem powerOff_kept {b : State} (s : State) (hs : Kept b s) : Kept b (powerOff s) := by
  unfold powerOff
  have h := coreReset_kept _ (dropCommands_kept s hs)
  generalize coreReset (dropCommands s) = t at h ⊢
  exact kept_mk h rfl rfl (fun _ => rfl) id id

theorem showAlerts_kept {b : State} (s : State) (hs : Kept b s) : Kept b (showAlerts s) := by
  unfold showAlerts
  apply updHost_kept
  assumption

theorem bootToll_kept {b : State} (s : State) (hs : Kept b s) : Kept b (bootToll s).1 := by
  unfold bootToll
  dsimp only
  split
  · dsimp only
    apply showStaged_kept
    apply updPw_kept
    apply updHost_kept
    refine updToll_kept ?_ rfl rfl
    apply bootComponent_kept
    apply updPw_kept
    refine updToll_kept ?_ rfl rfl
    assumption
  · dsimp only
    apply updPw_kept
    apply bootComponent_kept
    apply updPw_kept
    refine updToll_kept ?_ rfl rfl
    assumption

theorem p3v3AuxRise_kept {b : State} (s : State) (straps : Byte) (hs : Kept b s) : Kept b (p3v3AuxRise s straps) := by
  unfold p3v3AuxRise
  refine kept_ite hs ?_
  have h := powerOff_kept s hs
  generalize powerOff s = t at h ⊢
  exact showAlerts_kept _ (bootToll_kept _ ⟨h.queue, hs.fuses, hs.rise, h.mem, h.banks, h.accs⟩)

theorem p3v3AuxLoss_kept {b : State} (s : State) (hs : Kept b s) : Kept b (p3v3AuxLoss s) := by
  unfold p3v3AuxLoss
  apply kept_ite
  · assumption
  · dsimp only
    apply updPw_kept
    refine updToll_kept ?_ rfl rfl
    apply powerOff_kept
    assumption

theorem startFails_kept {b : State} (s : State) (stage : Stage) (hs : Kept b s) : Kept b (startFails s stage) := by
  unfold startFails
  apply logEvent_kept
  apply updPw_kept
  assumption

theorem applySpareMap_kept {b : State} (s : State) (hs : Kept b s) : Kept b (applySpareMap s) := by
  unfold applySpareMap
  dsimp only
  apply kept_foldl
  · refine updSp_kept ?_ rfl rfl
    assumption
  · intro _ _ _
    apply kept_ite
    · apply substitute_kept
      assumption
    · assumption

theorem announce_kept {b : State} (s : State) (old : State) (hs : Kept b s) (hold : Kept b old) : Kept b (announce s
    old) := by
  unfold announce
  repeat' first
    | with_reducible assumption | with_reducible apply resendIdent_kept | with_reducible apply learnCoord_kept
    | intro _ | dsimp only | split

theorem bootCore_kept {b : State} (s : State) (env : StartEnv) (hs : Kept b s) : Kept b (bootCore s env) := by
  unfold bootCore
  repeat' first
    | with_reducible assumption | with_reducible apply bootComponent_kept | with_reducible apply startFails_kept
    | with_reducible apply updHost_kept | with_reducible apply announce_kept | with_reducible apply raiseIrq_kept
    | with_reducible apply newPrefixKey_kept | with_reducible apply marchRepair_kept
    | with_reducible apply noteCells_kept | with_reducible apply marchSpans_kept
    | with_reducible apply applySpareMap_kept | with_reducible apply updPw_kept | with_reducible apply kept_ite
    | intro _ | dsimp only | split

theorem startDram_kept {b : State} (s : State) (env : StartEnv) (hs : Kept b s) : Kept b (startDram s env) := by
  unfold startDram
  dsimp only
  apply trainAll_kept
  refine kept_mk ?_ rfl rfl ?_ ?_ ?_
  · assumption
  · intro _
    rfl
  · intro _
    assumption
  · intro _
    assumption

theorem startPorts_kept {b : State} (s : State) (hs : Kept b s) : Kept b (startPorts s) := by
  unfold startPorts
  apply kept_foldl
  · assumption
  · intro _ _ _
    apply updPort_kept
    assumption

theorem startRails_kept {b : State} (s : State) (env : StartEnv) (again : Bool) (hs : Kept b s) : Kept b
    (startRails s env again) := by
  unfold startRails
  dsimp only
  apply kept_ite
  · apply kept_ite
    · apply startFails_kept
      apply updPw_kept
      apply updPw_kept
      assumption
    · apply logEvent_kept
      apply updPw_kept
      apply updPw_kept
      apply updPw_kept
      assumption
  · apply bootCore_kept
    apply startPorts_kept
    apply startDram_kept
    apply kept_ite
    · apply addFloor_kept
      refine kept_mk ?_ rfl rfl id id id
      apply updPw_kept
      apply updPw_kept
      assumption
    · refine kept_mk ?_ rfl rfl id id id
      apply updPw_kept
      apply updPw_kept
      assumption

theorem coreRestart_kept {b : State} (s : State) (env : StartEnv) (hs : Kept b s) : Kept b (coreRestart s env) := by
  unfold coreRestart
  repeat' first
    | with_reducible assumption | with_reducible apply announce_kept | with_reducible apply coreReset_kept
    | with_reducible apply updPw_kept | with_reducible apply bootCore_kept | with_reducible apply settleIdle_kept
    | with_reducible apply trainAll_kept | intro _ | dsimp only | split

theorem restoreActive_kept {b : State} (s : State) (w : ActivateWork) (env : StartEnv) (hs : Kept b s) : Kept b
    (restoreActive s w env) := by
  unfold restoreActive
  repeat' first
    | with_reducible assumption | with_reducible refine updToll_kept ?_ ?_ ?_ | with_reducible apply bootToll_kept
    | with_reducible apply coreRestart_kept | with_reducible apply finishOpt_kept | with_reducible apply kept_ite
    | with_reducible rfl | exact rfl | intro _ | dsimp only | split

theorem checkActivation_kept {b : State} (s : State) (env : StartEnv) (hs : Kept b s) : Kept b (checkActivation s
    env) := by
  unfold checkActivation
  repeat' first
    | assumption | apply restoreActive_kept | apply kept_ite | split

theorem powerGood_kept {b : State} (s : State) (env : StartEnv) (hs : Kept b s) : Kept b (powerGood s env) := by
  unfold powerGood
  repeat' first
    | with_reducible assumption | with_reducible apply checkActivation_kept | with_reducible apply startRails_kept
    | with_reducible apply updPw_kept | with_reducible apply kept_ite | intro _ | dsimp only | split

theorem railRetry_kept {b : State} (s : State) (env : StartEnv) (hs : Kept b s) : Kept b (railRetry s env) := by
  unfold railRetry
  repeat' first
    | with_reducible assumption | with_reducible apply checkActivation_kept | with_reducible apply startRails_kept
    | with_reducible apply kept_ite | intro _ | dsimp only | split

theorem warmReset_kept {b : State} (s : State) (hs : Kept b s) : Kept b (warmReset s) := by
  unfold warmReset
  repeat' first
    | with_reducible assumption | with_reducible apply announce_kept | with_reducible apply coreReset_kept
    | with_reducible apply dropCommands_kept | with_reducible refine updDram_kept ?_ ?_
    | with_reducible apply updHost_kept | with_reducible apply showAlerts_kept | with_reducible apply updPw_kept
    | with_reducible rfl | exact rfl | intro _ | dsimp only | split

theorem warmRelease_kept {b : State} (s : State) (env : StartEnv) (hs : Kept b s) : Kept b (warmRelease s env) := by
  unfold warmRelease
  repeat' first
    | with_reducible assumption | with_reducible apply updPw_kept | with_reducible apply trainAll_kept
    | with_reducible refine updDram_kept ?_ ?_ | with_reducible apply bootCore_kept
    | with_reducible apply settleIdle_kept | with_reducible rfl | exact rfl | intro _ | dsimp only | split

theorem holdPcie_kept {b : State} (s : State) (hs : Kept b s) : Kept b (holdPcie s) := by
  unfold holdPcie
  have h := dropCommands_kept s hs
  generalize dropCommands s = t at h ⊢
  exact showAlerts_kept _ (updHost_kept (kept_mk h rfl rfl id id id))

theorem perstNAssert_kept {b : State} (s : State) (hs : Kept b s) : Kept b (perstNAssert s) := by
  unfold perstNAssert
  apply kept_ite
  · assumption
  · dsimp only
    apply kept_ite
    · apply warmReset_kept
      apply updPw_kept
      assumption
    · apply kept_ite
      · apply updPw_kept
        assumption
      · apply holdPcie_kept
        apply updPw_kept
        apply updPw_kept
        assumption

theorem perstNRelease_kept {b : State} (s : State) (env : StartEnv) (hs : Kept b s) : Kept b (perstNRelease s env)
    := by
  unfold perstNRelease
  apply kept_ite
  · assumption
  · dsimp only
    apply kept_ite
    · apply warmRelease_kept
      apply updPw_kept
      assumption
    · apply kept_ite
      · apply updPw_kept
        apply updPw_kept
        assumption
      · apply updPw_kept
        assumption

theorem burnTo_fuses (t : Toll) (n : Nat) : fusesOf (burnTo t n) = fusesOf t := by
  unfold burnTo
  extract_lets blank
  clear_value blank
  generalize List.take _ _ = l
  induction l generalizing t with
  | nil => rfl
  | cons i l ih => exact ih _

theorem burnTo_rise (t : Toll) (n : Nat) : fusesRise t.rollback (burnTo t n).rollback := by
  unfold burnTo
  extract_lets blank
  generalize List.take _ _ = l
  clear_value blank
  induction l generalizing t with
  | nil => exact fun k h => h
  | cons i l ih =>
    intro k hk
    refine ih _ k ?_
    have hk2 : k < 128 := by
      by_cases h : k < 128
      · exact h
      · rw [Nat.testBit_lt_two_pow (Nat.lt_of_lt_of_le t.rollback.isLt (Nat.pow_le_pow_right (by decide) (by
    omega)))] at hk
        exact absurd hk (by simp)
    rw [BitVec.toNat_ofNat, Nat.testBit_mod_two_pow, testBit_setBit (testBit_setBit hk)]
    simp [hk2]

theorem finishActivate_kept {b : State} (s : State) (w : ActivateWork) (hs : Kept b s) : Kept b (finishActivate s
    w) := by
  refine raiseIrq_kept _ _ (finishOpt_kept _ _ _ _ (kept_foldl (updToll_rise_kept hs ?_ ?_) fun s c h =>
    kept_ite (setStaged_kept _ _ _ h) h))
  · exact burnTo_fuses _ _
  · exact burnTo_rise _ _

theorem readiness_kept {b : State} (s : State) (hs : Kept b s) : Kept b (readiness s) := by
  unfold readiness
  apply kept_ite
  · assumption
  · dsimp only
    apply kept_ite
    · split
      · apply finishActivate_kept
        apply raiseIrq_kept
        apply updHost_kept
        apply updPw_kept
        assumption
      · apply raiseIrq_kept
        apply updHost_kept
        apply updPw_kept
        assumption
    · split
      · apply kept_ite
        · apply warmReset_kept
          split
          · apply finishActivate_kept
            apply raiseIrq_kept
            apply updHost_kept
            apply updPw_kept
            assumption
          · apply raiseIrq_kept
            apply updHost_kept
            apply updPw_kept
            assumption
        · apply warmRelease_kept
          apply warmReset_kept
          split
          · apply finishActivate_kept
            apply raiseIrq_kept
            apply updHost_kept
            apply updPw_kept
            assumption
          · apply raiseIrq_kept
            apply updHost_kept
            apply updPw_kept
            assumption
      · apply warmReset_kept
        split
        · apply finishActivate_kept
          apply raiseIrq_kept
          apply updHost_kept
          apply updPw_kept
          assumption
        · apply raiseIrq_kept
          apply updHost_kept
          apply updPw_kept
          assumption

theorem p12vLoss_kept {b : State} (s : State) (hs : Kept b s) : Kept b (p12vLoss s) := by
  unfold p12vLoss
  apply kept_ite
  · assumption
  · dsimp only
    apply kept_ite
    · apply kept_ite
      · apply updPw_kept
        apply updPw_kept
        assumption
      · apply updPw_kept
        assumption
    · apply showAlerts_kept
      apply showStaged_kept
      apply logEvent_kept
      apply powerOff_kept
      apply endFloors_kept
      apply updPw_kept
      assumption

theorem flrEffect_kept {b : State} (s : State) (hs : Kept b s) : Kept b (flrEffect s) := by
  unfold flrEffect
  have h := dropCommands_kept s hs
  generalize dropCommands s = t at h ⊢
  have h2 : Kept b (if planState t = plNone then t else forgetPlan (applyDue (stopPlan t))) :=
    kept_ite h (forgetPlan_kept _ (applyDue_kept _ (stopPlan_kept _ h)))
  dsimp only
  generalize (if planState t = plNone then t else forgetPlan (applyDue (stopPlan t))) = u at h2 ⊢
  exact settleIdle_kept _ (showAlerts_kept _ (updHost_kept (kept_mk h2 rfl rfl id id id)))

theorem hotReset_kept {b : State} (s : State) (hs : Kept b s) : Kept b (hotReset s) := by
  unfold hotReset
  apply kept_ite
  · assumption
  · apply updHost_kept
    apply flrEffect_kept
    assumption

theorem functionLevelReset_kept {b : State} (s : State) (hs : Kept b s) : Kept b (functionLevelReset s) := by
  unfold functionLevelReset
  apply kept_ite
  · assumption
  · apply updHost_kept
    apply flrEffect_kept
    assumption

theorem tollhouseReset_kept {b : State} (s : State) (cause : TollCause) (env : StartEnv) (hs : Kept b s) : Kept b
    (tollhouseReset s cause env) := by
  unfold tollhouseReset
  repeat' first
    | with_reducible assumption | with_reducible apply announce_kept | with_reducible apply coreReset_kept
    | with_reducible apply dropCommands_kept | with_reducible apply setPlanState_kept
    | with_reducible apply bootToll_kept | with_reducible apply logEvent_kept | with_reducible apply updHost_kept
    | with_reducible apply checkActivation_kept | with_reducible apply coreRestart_kept
    | with_reducible apply kept_ite | intro _ | dsimp only | split

theorem thermtripNRelease_kept {b : State} (s : State) (hs : Kept b s) : Kept b (thermtripNRelease s) := by
  unfold thermtripNRelease
  repeat' first
    | assumption | apply updPw_kept | apply protectionEvent_kept | apply kept_ite

theorem pcieLinkTrained_kept {b : State} (s : State) (rate : PcieRate) (width : PcieWidth) (partnerFlit : Bool)
    (cfg : PcieConfig) (hs : Kept b s) : Kept b (pcieLinkTrained s rate width partnerFlit cfg) := by
  unfold pcieLinkTrained
  repeat' first
    | assumption | apply updHost_kept | apply kept_ite

-- -------------------------------------------------------------------------------- Machine/Tollhouse

theorem settleVolt_kept {b : State} (s : State) (x : Nat) (hs : Kept b s) : Kept b (settleVolt s x) := by
  unfold settleVolt
  repeat' first
    | assumption | refine updSp_kept ?_ rfl rfl | apply kept_ite

theorem sampleCond_kept {b : State} (s : State) (c : HoldCond) (hs : Kept b s) : Kept b (sampleCond s c) := by
  unfold sampleCond
  repeat' first
    | assumption | refine updToll_kept ?_ rfl rfl | apply protectionEvent_kept | apply kept_ite
    | exact kept_foldl hs fun t x ht => settleVolt_kept t x ht

theorem warnHot_kept {b : State} (s : State) (hs : Kept b s) : Kept b (warnHot s) := by
  unfold warnHot
  repeat' first
    | with_reducible assumption | with_reducible apply logEvent_kept | with_reducible apply platformEvent_kept
    | with_reducible refine updToll_kept ?_ ?_ ?_ | with_reducible apply kept_foldl | with_reducible apply kept_ite
    | with_reducible rfl | exact rfl | intro _ | dsimp only | split

theorem refreshRate_kept {b : State} (s : State) (x : Sample) (hs : Kept b s) : Kept b (refreshRate s x) := by
  unfold refreshRate
  repeat' first
    | with_reducible assumption | with_reducible apply platformEvent_kept | with_reducible refine updDram_kept ?_ ?_
    | with_reducible apply kept_foldl | with_reducible apply kept_ite | with_reducible rfl | exact rfl | intro _
    | dsimp only | split

theorem sensorSample_kept {b : State} (s : State) (x : Sample) (hs : Kept b s) : Kept b (sensorSample s x) := by
  unfold sensorSample
  repeat' first
    | with_reducible assumption | with_reducible apply refreshRate_kept | with_reducible refine updToll_kept ?_ ?_ ?_
    | with_reducible apply sampleCond_kept | with_reducible apply warnHot_kept | with_reducible apply kept_foldl
    | with_reducible apply kept_ite | with_reducible rfl | exact rfl | intro _ | dsimp only | split

theorem hardwareFloor_kept {b : State} (s : State) (c : Comparator) (hs : Kept b s) : Kept b (hardwareFloor s c) := by
  unfold hardwareFloor
  repeat' first
    | assumption | apply addFloor_kept | apply kept_ite

theorem hardwareFloorRelease_kept {b : State} (s : State) (c : Comparator) (hs : Kept b s) : Kept b
    (hardwareFloorRelease s c) := by
  unfold hardwareFloorRelease
  apply kept_ite
  · assumption
  · dsimp only
    apply kept_ite
    · apply dropFloor_kept
      assumption
    · apply protectionEvent_kept
      refine updToll_kept ?_ rfl rfl
      apply dropFloor_kept
      assumption

theorem prochotNAssert_kept {b : State} (s : State) (hs : Kept b s) : Kept b (prochotNAssert s) := by
  unfold prochotNAssert
  repeat' first
    | assumption | apply addFloor_kept | apply updPw_kept | apply kept_ite

theorem prochotNDeassert_kept {b : State} (s : State) (hs : Kept b s) : Kept b (prochotNDeassert s) := by
  unfold prochotNDeassert
  repeat' first
    | assumption | apply dropFloor_kept | apply updPw_kept | apply kept_ite

theorem trip_kept {b : State} (s : State) (x : TripSensor) (reading : Int) (hs : Kept b s) : Kept b (trip s x
    reading) := by
  unfold trip
  repeat' first
    | with_reducible assumption | with_reducible apply updPw_kept | with_reducible apply protectionEvent_kept
    | with_reducible apply showStaged_kept | with_reducible refine updToll_kept ?_ ?_ ?_
    | with_reducible apply showAlerts_kept | with_reducible apply powerOff_kept | with_reducible apply endFloors_kept
    | with_reducible apply kept_ite | with_reducible rfl | exact rfl | intro _ | dsimp only | split

theorem eventRecord_kept {b : State} (s : State) (e : Event) (hs : Kept b s) : Kept b (eventRecord s e) := by
  unfold eventRecord
  apply logEvent_kept
  assumption

theorem coalesceWindowEnd_kept {b : State} (s : State) (source : Nat) (code : Nat) (unit : Nat) (hs : Kept b s) :
    Kept b (coalesceWindowEnd s source code unit) := by
  unfold coalesceWindowEnd
  repeat' first
    | assumption | apply closeWindow_kept | apply kept_ite | split

theorem logPersist_kept {b : State} (s : State) (hs : Kept b s) : Kept b (logPersist s) := by
  unfold logPersist
  repeat' first
    | assumption | refine updToll_kept ?_ rfl rfl | apply kept_ite

theorem telemetryRead_kept {b : State} (s : State) (tag : Nat) (hs : Kept b s) : Kept b (telemetryRead s tag) := by
  unfold telemetryRead
  repeat' first
    | assumption | apply hostWrite_kept | apply finishCmd_kept | apply serve_kept | apply kept_ite | intro _
    | split

theorem hostReads_kept {b : State} (s : State) (a : Nat) (n : Nat) (hs : Kept b s) : Kept b (hostReads s a n) := by
  unfold hostReads
  repeat' first
    | assumption | apply sendPcie_kept | apply kept_foldl | intro _

theorem beginStage_kept {b : State} (s : State) (c : Taken) (hs : Kept b s) : Kept b (beginStage s c) := by
  unfold beginStage
  repeat' first
    | assumption | refine updToll_kept ?_ rfl rfl | apply finishCmd_kept | apply hostReads_kept | split

theorem nextUpdate_kept {b : State} (s : State) (hs : Kept b s) : Kept b (nextUpdate s) := by
  unfold nextUpdate
  repeat' first
    | with_reducible assumption | with_reducible apply beginStage_kept | with_reducible apply kept_ite | intro _
    | dsimp only | split

theorem fwStage_kept {b : State} (s : State) (tag : Nat) (hs : Kept b s) : Kept b (fwStage s tag) := by
  unfold fwStage
  repeat' first
    | with_reducible assumption | with_reducible apply serve_kept | with_reducible apply finishCmd_kept
    | with_reducible apply nextUpdate_kept | with_reducible apply acceptCmd_kept | with_reducible apply kept_ite
    | intro _ | dsimp only | split

theorem fwStageDone_kept {b : State} (s : State) (image : List Byte) (hs : Kept b s) : Kept b (fwStageDone s image)
    := by
  unfold fwStageDone
  repeat' first
    | with_reducible assumption | with_reducible apply stageImage_kept | with_reducible apply logEvent_kept
    | with_reducible refine updToll_kept ?_ ?_ ?_ | with_reducible apply nextUpdate_kept
    | with_reducible apply finishCmd_kept | with_reducible apply kept_ite | with_reducible rfl | exact rfl | intro _
    | dsimp only | split

theorem busyOthers_kept {b : State} (s : State) (keep : Option Nat) (hs : Kept b s) : Kept b (busyOthers s keep) := by
  unfold busyOthers
  dsimp only
  apply kept_foldl
  · apply kept_foldl
    · assumption
    · intro _ _ _
      apply kept_ite
      · assumption
      · apply finishCmd_kept
        assumption
  · intro _ _ _
    apply kept_ite
    · assumption
    · apply kept_ite
      · apply setErr_kept
        apply updHost_kept
        assumption
      · apply finishCmd_kept
        apply updHost_kept
        assumption

theorem activateImages_kept {b : State} (s : State) (cmd : Option Taken) (comps : BitVec 3) (env : StartEnv) (hs :
    Kept b s) :
    Kept b (activateImages s cmd comps env) := by
  have act : ∀ (l : List Nat) (t : Toll),
      fusesOf (l.foldl (fun t c => if comps.toNat.testBit c then setActive t c (inactiveWhich t c) else t) t) =
    fusesOf t
        ∧ (l.foldl (fun t c => if comps.toNat.testBit c then setActive t c (inactiveWhich t c) else t) t).rollback
    = t.rollback := by
    intro l
    induction l with
    | nil => exact fun t => ⟨rfl, rfl⟩
    | cons c l ih =>
      intro t
      rw [List.foldl_cons]
      split
      · exact ⟨(ih _).1.trans rfl, (ih _).2.trans rfl⟩
      · exact ih t
  unfold activateImages
  extract_lets w s1 s2 was r img r2
  have h2 : Kept b s2 := updHost_kept (updToll_kept hs (act [0, 1, 2] s.toll).1 (act [0, 1, 2] s.toll).2)
  have h3 : Kept b r.1 := by
    unfold r
    split
    · exact bootToll_kept _ h2
    · exact h2
  have h4 : Kept b r2.1 := by
    unfold r2
    split
    · exact kept_foldl h3 fun s p h => unretire_kept _ _ h
    · exact h3
  clear_value r2 img r was s2
  exact kept_ite (restoreActive_kept _ _ _ h4) (kept_ite h4 (kept_ite (updPw_kept h4) (checkActivation_kept _ _
    (coreRestart_kept _ _ h4))))

theorem activateStaged_kept {b : State} (s : State) (c : Taken) (env : StartEnv) (hs : Kept b s) : Kept b
    (activateStaged s c env) := by
  unfold activateStaged
  repeat' first
    | with_reducible assumption | with_reducible apply verifyStaged_kept | with_reducible apply nextUpdate_kept
    | with_reducible apply finishCmd_kept | with_reducible apply activateImages_kept
    | with_reducible apply dropCommands_kept | with_reducible apply busyOthers_kept | with_reducible apply kept_ite
    | intro _ | dsimp only | split

theorem fwActivate_kept {b : State} (s : State) (tag : Nat) (env : StartEnv) (hs : Kept b s) : Kept b (fwActivate s
    tag env) := by
  unfold fwActivate
  repeat' first
    | with_reducible assumption | with_reducible apply nextUpdate_kept | with_reducible apply finishCmd_kept
    | with_reducible apply activateStaged_kept | with_reducible apply serve_kept | with_reducible apply acceptCmd_kept
    | with_reducible apply kept_ite | intro _ | dsimp only | split

-- -------------------------------------------------------------------------------- Machine/Oob

theorem answer_kept {b : State} (s : State) (b' : List Byte) (hs : Kept b s) : Kept b (answer s b') := by
  unfold answer
  refine updToll_kept ?_ rfl rfl
  assumption

theorem mctp_kept {b : State} (s : State) (cmd : Nat) (code : Nat) (data : List Byte) (hs : Kept b s) : Kept b
    (mctp s cmd code data) := by
  unfold mctp
  repeat' first
    | assumption | apply answer_kept | apply kept_ite

theorem setEndpointId_kept {b : State} (s : State) (eid : Byte) (hs : Kept b s) : Kept b (setEndpointId s eid) := by
  unfold setEndpointId
  repeat' first
    | assumption | refine updToll_kept ?_ rfl rfl | apply mctp_kept | apply kept_ite

theorem mctpVersions_kept {b : State} (s : State) (ty : Byte) (hs : Kept b s) : Kept b (mctpVersions s ty) := by
  unfold mctpVersions
  repeat' first
    | assumption | apply mctp_kept | apply kept_ite

theorem dynamicAddress_kept {b : State} (s : State) (a : BitVec 7) (hs : Kept b s) : Kept b (dynamicAddress s a) := by
  unfold dynamicAddress
  repeat' first
    | assumption | refine updToll_kept ?_ rfl rfl | apply kept_ite

theorem pldm_kept {b : State} (s : State) (ty : Nat) (cmd : Nat) (code : Nat) (data : List Byte) (hs : Kept b s) :
    Kept b (pldm s ty cmd code data) := by
  unfold pldm
  repeat' first
    | assumption | apply answer_kept | apply kept_ite

theorem pldmDiscovery_kept {b : State} (s : State) (q : Type0Request) (hs : Kept b s) : Kept b (pldmDiscovery s q)
    := by
  unfold pldmDiscovery
  repeat' first
    | with_reducible assumption | with_reducible apply pldm_kept | with_reducible apply kept_ite | intro _
    | dsimp only | split

theorem pldm2_kept {b : State} (s : State) (cmd : Nat) (code : Nat) (data : List Byte) (hs : Kept b s) : Kept b
    (pldm2 s cmd code data) := by
  unfold pldm2
  repeat' first
    | assumption | apply pldm_kept | apply kept_ite

theorem getPdr_kept {b : State} (s : State) (h' : Nat) (hs : Kept b s) : Kept b (getPdr s h') := by
  unfold getPdr
  repeat' first
    | assumption | apply pldm2_kept | apply kept_ite

theorem getSensorReading_kept {b : State} (s : State) (id : Nat) (hs : Kept b s) : Kept b (getSensorReading s id)
    := by
  unfold getSensorReading
  repeat' first
    | assumption | apply pldm2_kept | apply kept_ite

theorem getNumericEffecterValue_kept {b : State} (s : State) (id : Nat) (hs : Kept b s) : Kept b
    (getNumericEffecterValue s id) := by
  unfold getNumericEffecterValue
  repeat' first
    | assumption | apply pldm2_kept | apply kept_ite

theorem setNumericEffecterValue_kept {b : State} (s : State) (id : Nat) (v : Nat) (hs : Kept b s) : Kept b
    (setNumericEffecterValue s id v) := by
  unfold setNumericEffecterValue
  repeat' first
    | assumption | refine updToll_kept ?_ rfl rfl | apply pldm2_kept | apply kept_ite

theorem setEventReceiver_kept {b : State} (s : State) (eid : Byte) (hs : Kept b s) : Kept b (setEventReceiver s
    eid) := by
  unfold setEventReceiver
  repeat' first
    | assumption | refine updToll_kept ?_ rfl rfl | apply pldm2_kept | apply kept_ite

theorem requestUpdate_kept {b : State} (s : State) (hs : Kept b s) : Kept b (requestUpdate s) := by
  unfold requestUpdate
  repeat' first
    | assumption | refine updToll_kept ?_ rfl rfl | apply pldm_kept | apply kept_ite

theorem firmwareData_kept {b : State} (s : State) (comp : Nat) (data : List Byte) (hs : Kept b s) : Kept b
    (firmwareData s comp data) := by
  unfold firmwareData
  apply kept_ite
  · assumption
  · dsimp only
    apply kept_ite
    · apply pldm_kept
      apply setStaged_kept
      refine updToll_kept ?_ rfl rfl
      assumption
    · apply kept_ite
      · apply bootToll_kept
        refine updToll_kept ?_ rfl rfl
        apply stageImage_kept
        refine updToll_kept ?_ rfl rfl
        assumption
      · apply stageImage_kept
        refine updToll_kept ?_ rfl rfl
        assumption

theorem activateFirmware_kept {b : State} (s : State) (env : StartEnv) (hs : Kept b s) : Kept b (activateFirmware s
    env) := by
  unfold activateFirmware
  dsimp only
  apply kept_ite
  · apply pldm_kept
    assumption
  · apply kept_ite
    · apply pldm_kept
      refine updToll_kept ?_ rfl rfl
      apply verifyStaged_kept
      assumption
    · apply activateImages_kept
      apply dropCommands_kept
      apply busyOthers_kept
      apply pldm_kept
      refine updToll_kept ?_ rfl rfl
      apply verifyStaged_kept
      assumption

theorem spdm_kept {b : State} (s : State) (ch : OobChannel) (code : Nat) (p1 : Nat) (p2 : Nat) (data : List Byte)
    (hs : Kept b s) : Kept b (spdm s ch code p1 p2 data) := by
  unfold spdm
  repeat' first
    | assumption | apply answer_kept | apply kept_ite

theorem spdmError_kept {b : State} (s : State) (ch : OobChannel) (e : Nat) (hs : Kept b s) : Kept b (spdmError s ch
    e) := by
  unfold spdmError
  apply spdm_kept
  assumption

theorem setNegotiated_kept {b : State} (s : State) (ch : OobChannel) (b' : Bool) (hs : Kept b s) : Kept b
    (setNegotiated s ch b') := by
  unfold setNegotiated
  repeat' first
    | assumption | refine updToll_kept ?_ rfl rfl | apply kept_ite

theorem getVersion_kept {b : State} (s : State) (ch : OobChannel) (hs : Kept b s) : Kept b (getVersion s ch) := by
  unfold getVersion
  apply spdm_kept
  apply setNegotiated_kept
  assumption

theorem negotiate_kept {b : State} (s : State) (ch : OobChannel) (brainpool : Bool) (hs : Kept b s) : Kept b
    (negotiate s ch brainpool) := by
  unfold negotiate
  repeat' first
    | assumption | apply setNegotiated_kept | apply spdmError_kept | apply spdm_kept | apply kept_ite

theorem getDigests_kept {b : State} (s : State) (ch : OobChannel) (hs : Kept b s) : Kept b (getDigests s ch) := by
  unfold getDigests
  repeat' first
    | assumption | apply spdm_kept | apply spdmError_kept | apply kept_ite

theorem getCertificate_kept {b : State} (s : State) (ch : OobChannel) (slot : Nat) (off : Nat) (len : Nat) (hs :
    Kept b s) : Kept b (getCertificate s ch slot off len) := by
  unfold getCertificate
  repeat' first
    | assumption | apply spdm_kept | apply spdmError_kept | apply kept_ite

theorem challenge_kept {b : State} (s : State) (ch : OobChannel) (slot : Nat) (nonce : List Byte) (hs : Kept b s) :
    Kept b (challenge s ch slot nonce) := by
  unfold challenge
  repeat' first
    | assumption | apply drawRandom_kept | apply spdm_kept | apply spdmError_kept | apply kept_ite

theorem getMeasurements_kept {b : State} (s : State) (ch : OobChannel) (i : Nat) (signed : Bool) (nonce : List
    Byte) (hs : Kept b s) : Kept b (getMeasurements s ch i signed nonce) := by
  unfold getMeasurements
  repeat' first
    | assumption | apply drawRandom_kept | apply spdm_kept | apply spdmError_kept | apply kept_ite

end Sys2Proof.Machine
end

