-- ==== Sys2Proof/Laws/KeptReplay.lean ====
section
/-! SUPPORT. One lemma per operation: it keeps the queue, the fuses and the canonical memories. Here: replay, validation and re-shards (spec 03, 17, 19). -/

set_option maxRecDepth 2000

namespace Sys2Proof.Machine

-- -------------------------------------------------------------------------------- Machine/Replay

theorem mirrorWriteMsg_kept {b : State} (s : State) (j : JMsg) (off : Nat) (data : List Byte) (hs : Kept b s) :
    Kept b (mirrorWriteMsg s j off data) := by
  unfold mirrorWriteMsg
  repeat' first
    | with_reducible assumption | with_reducible apply freshSectors_kept | with_reducible apply putMem_kept
    | with_reducible apply updGrp_kept | with_reducible apply sendVia_kept | with_reducible apply kept_ite | intro _
    | dsimp only | split

theorem updateAcked_kept {b : State} (s : State) (hs : Kept b s) : Kept b (updateAcked s) := by
  unfold updateAcked
  repeat' first
    | with_reducible assumption | with_reducible apply updKs_kept | intro _ | dsimp only | split

theorem mirrorAckMsg_kept {b : State} (s : State) (j : JMsg) (off : Nat) (a3 : Nat) (hs : Kept b s) : Kept b
    (mirrorAckMsg s j off a3) := by
  unfold mirrorAckMsg
  repeat' first
    | with_reducible assumption | with_reducible apply updateAcked_kept | with_reducible apply commitAck_kept
    | with_reducible apply pierWritten_kept | with_reducible apply kept_ite | intro _ | dsimp only | split

theorem sendMirror_kept {b : State} (s : State) (port : Nat) (b' : Nat) (off : Nat) (len : Nat) (hs : Kept b s) :
    Kept b (sendMirror s port b' off len) := by
  unfold sendMirror
  apply sendVia_kept
  assumption

theorem resendJournal_kept {b : State} (s : State) (port : Nat) (hs : Kept b s) : Kept b (resendJournal s port) :=
    by
  unfold resendJournal
  repeat' first
    | with_reducible assumption | with_reducible apply sendVia_kept | with_reducible apply kept_foldl
    | with_reducible apply kept_ite | intro _ | dsimp only | split

theorem mirrorReadMsg_kept {b : State} (s : State) (j : JMsg) (off : Nat) (len : Nat) (hs : Kept b s) : Kept b
    (mirrorReadMsg s j off len) := by
  unfold mirrorReadMsg
  repeat' first
    | with_reducible assumption | with_reducible apply sendMirror_kept | with_reducible apply resendJournal_kept
    | with_reducible apply kept_ite | intro _ | dsimp only | split

theorem mirrorDataMsg_kept {b : State} (s : State) (j : JMsg) (off : Nat) (data : List Byte) (hs : Kept b s) : Kept
    b (mirrorDataMsg s j off data) := by
  unfold mirrorDataMsg
  repeat' first
    | assumption | apply putMem_kept | apply freshSectors_kept | apply kept_ite

theorem pierDoneMsg_kept {b : State} (s : State) (j : JMsg) (pier : Nat) (step : W64) (hs : Kept b s) : Kept b
    (pierDoneMsg s j pier step) := by
  unfold pierDoneMsg
  repeat' first
    | assumption | apply updGrp_kept | apply tryWatermark_kept | apply kept_ite | split

theorem watermarkMsg_kept {b : State} (s : State) (j : JMsg) (pier : Nat) (step : W64) (hs : Kept b s) : Kept b
    (watermarkMsg s j pier step) := by
  unfold watermarkMsg
  repeat' first
    | assumption | apply floodJ_kept | apply holdWatermark_kept | apply kept_ite | split

theorem rewindMsg_kept {b : State} (s : State) (j : JMsg) (pier : Nat) (cause : Byte) (need : Nat) (coord : Nat)
    (replaces : Nat) (hs : Kept b s) : Kept b (rewindMsg s j pier cause need coord replaces) := by
  unfold rewindMsg
  repeat' first
    | with_reducible assumption | with_reducible apply floodJ_kept | with_reducible apply joinRewind_kept
    | with_reducible apply updGrp_kept | with_reducible apply kept_ite | intro _ | dsimp only | split

theorem quiesce_kept {b : State} (s : State) (hs : Kept b s) : Kept b (quiesce s) := by
  unfold quiesce
  repeat' first
    | assumption | apply sendJ_kept | apply updGrp_kept | apply kept_ite | split

theorem quiescedMsg_kept {b : State} (s : State) (j : JMsg) (pier : Nat) (need : Nat) (step : W64) (hs : Kept b s)
    : Kept b (quiescedMsg s j pier need step) := by
  unfold quiescedMsg
  repeat' first
    | assumption | apply updGrp_kept | apply kept_ite | split

theorem pauseAfterRestart_kept {b : State} (s : State) (pier : Nat) (hs : Kept b s) : Kept b (pauseAfterRestart s
    pier) := by
  unfold pauseAfterRestart
  repeat' first
    | assumption | apply holdPlan_kept | apply kept_ite

theorem standAt_kept {b : State} (s : State) (pier : Option Nat) (hs : Kept b s) : Kept b (standAt s pier) := by
  unfold standAt
  apply updGrp_kept
  assumption

theorem applyRestart.finishAdmit_kept {b : State} (s : State) (hs : Kept b s) : Kept b (applyRestart.finishAdmit s)
    := by
  unfold applyRestart.finishAdmit
  repeat' first
    | assumption | apply setPlanState_kept | apply updGrp_kept | apply updKs_kept

theorem applyRestart_kept {b : State} (s : State) (p : Plan) (pier : Nat) (target : Nat) (hs : Kept b s) : Kept b
    (applyRestart s p pier target) := by
  unfold applyRestart
  repeat' first
    | with_reducible assumption | with_reducible apply updGrp_kept | with_reducible apply updKs_kept
    | with_reducible apply afterReplay_kept | with_reducible apply pauseAfterRestart_kept
    | with_reducible apply replayFrom_kept | with_reducible apply standAt_kept | with_reducible apply logReplay_kept
    | with_reducible apply stepRestart_kept | with_reducible apply notifyFault_kept | with_reducible apply endRun_kept
    | with_reducible apply setPlanState_kept | with_reducible apply applyRestart.finishAdmit_kept
    | with_reducible apply kept_ite | intro _ | dsimp only | split

theorem restartMsg_kept {b : State} (s : State) (j : JMsg) (pier : Nat) (target : Nat) (step : W64) (hs : Kept b s)
    : Kept b (restartMsg s j pier target step) := by
  unfold restartMsg
  repeat' first
    | assumption | apply updGrp_kept | apply formStep_kept | apply applyRestart_kept | apply updKs_kept
    | apply floodJ_kept | apply kept_ite | split

theorem sendRestart_kept {b : State} (s : State) (p : Plan) (pier : Nat) (target : Nat) (hs : Kept b s) : Kept b
    (sendRestart s p pier target) := by
  unfold sendRestart
  repeat' first
    | assumption | apply applyRestart_kept | apply floodJ_kept

theorem quietPeriodEnd_kept {b : State} (s : State) (hs : Kept b s) : Kept b (quietPeriodEnd s) := by
  unfold quietPeriodEnd
  repeat' first
    | assumption | apply updKs_kept | apply updGrp_kept | apply sendRestart_kept | apply kept_ite | split

theorem coordinatorLossTimeout_kept {b : State} (s : State) (hs : Kept b s) : Kept b (coordinatorLossTimeout s) := by
  unfold coordinatorLossTimeout
  repeat' first
    | assumption | apply countRewind_kept | apply updGrp_kept | apply sendRestart_kept | apply kept_ite | split

theorem coordinatorTakeover_kept {b : State} (s : State) (hs : Kept b s) : Kept b (coordinatorTakeover s) := by
  unfold coordinatorTakeover
  repeat' first
    | assumption | apply updGrp_kept | apply floodJ_kept | apply kept_ite | split

theorem aliveSend_kept {b : State} (s : State) (hs : Kept b s) : Kept b (aliveSend s) := by
  unfold aliveSend
  apply kept_ite
  · assumption
  · apply kept_foldl
    · assumption
    · intro _ _ _
      split
      · assumption
      · apply sendVia_kept
        assumption

theorem aliveMsg_kept {b : State} (s : State) (j : JMsg) (a2 : Nat) (ps : Nat) (beat : W64) (hs : Kept b s) : Kept
    b (aliveMsg s j a2 ps beat) := by
  unfold aliveMsg
  repeat' first
    | assumption | apply updGrp_kept | apply kept_ite

theorem silentMember_kept {b : State} (s : State) (r : Nat) (hs : Kept b s) : Kept b (silentMember s r) := by
  unfold silentMember
  dsimp only
  apply kept_ite
  · assumption
  · apply kept_ite
    · apply updGrp_kept
      apply updGrp_kept
      assumption
    · apply kept_ite
      · apply reshardFault_kept
        apply notifyFault_kept
        apply updGrp_kept
        assumption
      · apply startRewind_kept
        apply updGrp_kept
        apply notifyFault_kept
        apply updGrp_kept
        assumption

theorem fetchMsg_kept {b : State} (s : State) (j : JMsg) (h' : Nat) (off : Nat) (len : Nat) (hs : Kept b s) : Kept
    b (fetchMsg s j h' off len) := by
  unfold fetchMsg
  repeat' first
    | assumption | apply sendVia_kept | apply kept_ite | split

theorem refreshHalf_kept {b : State} (s : State) (a : Nat) (data : List Byte) (hs : Kept b s) : Kept b (refreshHalf
    s a data) := by
  unfold refreshHalf
  repeat' first
    | with_reducible assumption | with_reducible apply freshSectors_kept | with_reducible apply putMem_kept
    | with_reducible apply kept_ite | intro _ | dsimp only | split

theorem stage_kept {b : State} (s : State) (b' : List Byte) (hs : Kept b s) : Kept b (stage s b') := by
  unfold stage
  repeat' first
    | with_reducible assumption | with_reducible apply putWorking_kept | with_reducible apply kept_ite | intro _
    | dsimp only | split

theorem fetchDataMsg_kept {b : State} (s : State) (j : JMsg) (h' : Nat) (st : Byte) (off : Nat) (data : List Byte)
    (hs : Kept b s) : Kept b (fetchDataMsg s j h' st off data) := by
  unfold fetchDataMsg
  repeat' first
    | with_reducible assumption | with_reducible apply updGrp_kept | with_reducible apply endGroup_kept
    | with_reducible apply refreshHalf_kept | with_reducible apply stage_kept | with_reducible apply freshSectors_kept
    | with_reducible apply putMem_kept | with_reducible apply refreshDone_kept | with_reducible apply kept_ite
    | intro _ | dsimp only | split

theorem fetchNoAnswer_kept {b : State} (s : State) (hs : Kept b s) : Kept b (fetchNoAnswer s) := by
  unfold fetchNoAnswer
  repeat' first
    | with_reducible assumption | with_reducible apply endGroup_kept | with_reducible apply updGrp_kept
    | with_reducible apply sendVia_kept | with_reducible apply kept_foldl | with_reducible apply kept_ite | intro _
    | dsimp only | split

theorem returnJournal_kept {b : State} (s : State) (p : Plan) (port : Nat) (b' : Nat) (hs : Kept b s) : Kept b
    (returnJournal s p port b') := by
  unfold returnJournal
  dsimp only
  apply kept_ite
  · apply sendMirror_kept
    apply kept_foldl
    · assumption
    · intro _ _ _
      apply kept_ite
      · apply sendMirror_kept
        assumption
      · assumption
  · apply kept_foldl
    · assumption
    · intro _ _ _
      apply kept_ite
      · apply sendMirror_kept
        assumption
      · assumption

theorem admitMsg_kept {b : State} (s : State) (j : JMsg) (step : W64) (gen : W32) (hs : Kept b s) : Kept b
    (admitMsg s j step gen) := by
  unfold admitMsg
  repeat' first
    | assumption | apply returnJournal_kept | apply generationCheck_kept | apply sendVia_kept
    | apply logEvent_kept | apply kept_ite | split

theorem admittedMsg_kept {b : State} (s : State) (j : JMsg) (hs : Kept b s) : Kept b (admittedMsg s j) := by
  unfold admittedMsg
  repeat' first
    | assumption | apply updGrp_kept | apply sendRestart_kept | apply kept_ite | split

-- -------------------------------------------------------------------------------- Machine/Validate

theorem writeReport_kept {b : State} (s : State) (base : Nat) (f : VFail) (splits : List Split) (hs : Kept b s) :
    Kept b (writeReport s base f splits) := by
  unfold writeReport
  dsimp only
  apply kept_ite
  · assumption
  · apply freshSectors_kept
    apply putMem_kept
    assumption

theorem noteUnread_kept {b : State} (s : State) (base : Nat) (f : VFail) (hs : Kept b s) : Kept b (noteUnread s
    base f) := by
  unfold noteUnread
  repeat' first
    | assumption | apply failRow_kept | apply logEvent_kept | apply kept_ite

theorem loadedPlan_kept {b : State} (s : State) (p : Plan) (hs : Kept b s) : Kept b (loadedPlan s p) := by
  unfold loadedPlan
  repeat' first
    | assumption | apply updVia_kept | apply logEvent_kept | apply updKs_kept | apply clearTags_kept

theorem endLoad_kept {b : State} (s : State) (base : Nat) (hs : Kept b s) : Kept b (endLoad s base) := by
  unfold endLoad
  dsimp only
  split
  · apply finishOpt_kept
    apply settleIdle_kept
    apply setPlanState_kept
    apply loadedPlan_kept
    apply writeReport_kept
    apply touchSectors_kept
    assumption
  · apply finishOpt_kept
    apply setPlanState_kept
    apply updKs_kept
    apply noteUnread_kept
    apply writeReport_kept
    apply touchSectors_kept
    assumption

-- -------------------------------------------------------------------------------- Machine/Reshard

theorem movedCtx_kept {b : State} (s : State) (p : Plan) (c : CtxMove) (hs : Kept b s) : Kept b (movedCtx s p c).1
    := by
  unfold movedCtx
  split
  · dsimp only
    assumption
  · dsimp only
    refine kept_mk ?_ rfl rfl id id id
    assumption

theorem moveContexts_kept {b : State} (s : State) (p : Plan) (cs : List CtxMove) (hs : Kept b s) : Kept b
    (moveContexts s p cs).1 := by
  unfold moveContexts
  repeat' first
    | assumption | apply movedCtx_kept | apply kept_foldl_fst | intro _

theorem retireRecords_kept {b : State} (s : State) (p : Plan) (epoch : Nat) (hs : Kept b s) : Kept b (retireRecords
    s p epoch) := by
  unfold retireRecords
  repeat' first
    | with_reducible assumption | with_reducible apply putMem_kept | with_reducible apply kept_foldl
    | with_reducible apply kept_ite | intro _ | dsimp only | split

theorem enterRing_kept {b : State} (s : State) (w : ReshardWork) (hs : Kept b s) : Kept b (enterRing s w) := by
  unfold enterRing
  repeat' first
    | assumption | apply resendIdent_kept | apply updGrp_kept | apply updVia_kept

theorem switchPlan_kept {b : State} (s : State) (p : Plan) (w : ReshardWork) (q : Plan) (e : PierEntry) (hs : Kept
    b s) : Kept b (switchPlan s p w q e) := by
  unfold switchPlan
  dsimp only
  apply kept_ite
  · apply holdPlan_kept
    apply finishReshard_kept
    apply armAt_kept
    apply beginSegment_kept
    apply journalWrite_kept
    apply updGrp_kept
    apply dropCache_kept
    apply enterContexts_kept
    apply updKs_kept
    apply enterRing_kept
    apply dropSegment_kept
    apply retireRecords_kept
    apply moveContexts_kept
    assumption
  · apply finishReshard_kept
    apply armAt_kept
    apply beginSegment_kept
    apply journalWrite_kept
    apply updGrp_kept
    apply dropCache_kept
    apply enterContexts_kept
    apply updKs_kept
    apply enterRing_kept
    apply dropSegment_kept
    apply retireRecords_kept
    apply moveContexts_kept
    assumption

theorem doSwitch_kept {b : State} (s : State) (p : Plan) (w : ReshardWork) (hs : Kept b s) : Kept b (doSwitch s p
    w) := by
  unfold doSwitch
  repeat' first
    | with_reducible assumption | with_reducible apply switchPlan_kept | intro _ | dsimp only | split

theorem beginMoves_kept {b : State} (s : State) (w : ReshardWork) (hs : Kept b s) : Kept b (beginMoves s w) := by
  unfold beginMoves
  repeat' first
    | with_reducible assumption | with_reducible apply updKs_kept | with_reducible apply armPorts_kept
    | with_reducible apply startSend_kept | with_reducible apply sendReady_kept | with_reducible apply kept_foldl
    | with_reducible apply kept_ite | intro _ | dsimp only | split

theorem reshardForm_kept {b : State} (s : State) (w : ReshardWork) (n : Nat) (i : Instr) (hs : Kept b s) : Kept b
    (reshardForm s w n i) := by
  unfold reshardForm
  dsimp only
  apply kept_ite
  · apply updReshard_kept
    assumption
  · apply kept_ite
    · apply reshardFault_kept
      apply kept_foldl
      · assumption
      · intro _ _ _
        apply kept_ite
        · apply sendVia_kept
          assumption
        · assumption
    · assumption

theorem beginStep5_kept {b : State} (s : State) (p : Plan) (w : ReshardWork) (hs : Kept b s) : Kept b (beginStep5 s
    p w) := by
  unfold beginStep5
  dsimp only
  apply kept_ite
  · apply flood_kept
    apply updKs_kept
    assumption
  · apply kept_ite
    · apply reshardFault_kept
      apply flood_kept
      apply updKs_kept
      assumption
    · apply kept_foldl
      · apply updVia_kept
        apply kept_foldl
        · apply flood_kept
          apply updKs_kept
          assumption
        · intro _ _ _
          apply sendVia_kept
          assumption
      · intro _ _ _
        split
        · apply kept_ite
          · apply reshardForm_kept
            assumption
          · assumption
        · assumption

theorem reshardRefused_kept {b : State} (s : State) (w : ReshardWork) (hs : Kept b s) : Kept b (reshardRefused s w)
    := by
  unfold reshardRefused
  repeat' first
    | assumption | apply restoreEpoch_kept | apply finishReshard_kept | apply settlePause_kept | apply kept_ite

theorem applyReshard_kept {b : State} (s : State) (p : Plan) (w : ReshardWork) (phase : Nat) (status : Nat) (go :
    Bool) (hs : Kept b s) : Kept b (applyReshard s p w phase status go) := by
  unfold applyReshard
  repeat' first
    | assumption | apply doSwitch_kept | apply reshardFails_kept | apply reshardRefused_kept
    | apply beginStep5_kept | apply kept_ite

theorem sendReshardDecision_kept {b : State} (s : State) (p : Plan) (epoch : Nat) (phase : Nat) (go : Bool) (hs :
    Kept b s) : Kept b (sendReshardDecision s p epoch phase go) := by
  unfold sendReshardDecision
  repeat' first
    | assumption | apply sendOld_kept | apply kept_foldl | intro _

theorem decideReshard_kept {b : State} (s : State) (p : Plan) (w : ReshardWork) (phase : Nat) (go : Bool) (hs :
    Kept b s) : Kept b (decideReshard s p w phase go) := by
  unfold decideReshard
  apply applyReshard_kept
  apply sendReshardDecision_kept
  assumption

theorem advanceToken_kept {b : State} (s : State) (hs : Kept b s) : Kept b (advanceToken s) := by
  unfold advanceToken
  repeat' first
    | assumption | apply updReshard_kept | apply applyReshard_kept | apply joinToken_kept | apply kept_ite | split

theorem advanceMoves_kept {b : State} (s : State) (hs : Kept b s) : Kept b (advanceMoves s) := by
  unfold advanceMoves
  split
  · assumption
  · apply kept_ite
    · apply beginMoves_kept
      assumption
    · apply kept_ite
      · apply updReshard_kept
        assumption
      · assumption

theorem advance_kept {b : State} (s : State) (hs : Kept b s) : Kept b (advance s) := by
  unfold advance
  repeat' first
    | assumption | apply advanceToken_kept | apply advanceMoves_kept

theorem dissent_kept {b : State} (s : State) (epoch : Nat) (mapAddr : Nat) (hs : Kept b s) : Kept b (dissent s
    epoch mapAddr) := by
  unfold dissent
  repeat' first
    | assumption | apply passReshardToken_kept | apply sendOld_kept | apply updKs_kept | apply kept_ite | split
    | dsimp only

theorem reshardCmd_kept {b : State} (s : State) (tag : Nat) (hs : Kept b s) : Kept b (reshardCmd s tag) := by
  unfold reshardCmd
  apply serve_kept
  · assumption
  · intro _ _ _
    dsimp only
    apply kept_ite
    · apply finishCmd_kept
      assumption
    · apply kept_ite
      · apply finishCmd_kept
        assumption
      · split
        · split
          · apply updKs_kept
            apply acceptCmd_kept
            assumption
          · apply finishCmd_kept
            apply dissent_kept
            apply acceptCmd_kept
            assumption
        · apply finishCmd_kept
          apply acceptCmd_kept
          assumption

theorem reshardInvalid_kept {b : State} (s : State) (w : ReshardWork) (status : Nat) (hs : Kept b s) : Kept b
    (reshardInvalid s w status) := by
  unfold reshardInvalid
  repeat' first
    | assumption | apply settlePause_kept | apply finishReshard_kept | apply dissent_kept

theorem endReshardCheck_kept {b : State} (s : State) (w : ReshardWork) (hs : Kept b s) : Kept b (endReshardCheck s
    w) := by
  unfold endReshardCheck
  dsimp only
  split
  · apply reshardInvalid_kept
    apply noteUnread_kept
    apply writeReport_kept
    assumption
  · apply kept_ite
    · apply updReshard_kept
      apply writeReport_kept
      assumption
    · apply reshardInvalid_kept
      apply writeReport_kept
      assumption

theorem validationEnd_kept {b : State} (s : State) (hs : Kept b s) : Kept b (validationEnd s) := by
  unfold validationEnd
  repeat' first
    | assumption | apply endReshardCheck_kept | apply advance_kept | apply endLoad_kept | apply kept_ite | split

theorem moveBytes_kept {b : State} (s : State) (w : ReshardWork) (x : Move) (hs : Kept b s) : Kept b (moveBytes s w
    x).1 := by
  unfold moveBytes
  repeat' first
    | assumption | apply markRecv_kept | apply putSectors_kept | apply trySend_kept | split | dsimp only

theorem reshardPermute_kept {b : State} (s : State) (seq : Nat) (hs : Kept b s) : Kept b (reshardPermute s seq) := by
  unfold reshardPermute
  split
  · assumption
  · split
    · assumption
    · apply kept_ite
      · assumption
      · dsimp only
        apply kept_ite
        · apply reshardFault_kept
          apply notifyFault_kept
          apply kept_ite
          · assumption
          · apply touchSectors_kept
            assumption
        · split
          · apply moveBytes_kept
            apply kept_ite
            · assumption
            · apply touchSectors_kept
              assumption
          · apply advance_kept
            apply updReshard_kept
            apply moveBytes_kept
            apply kept_ite
            · assumption
            · apply touchSectors_kept
              assumption
          · apply reshardFault_kept
            apply notifyFault_kept
            apply moveBytes_kept
            apply kept_ite
            · assumption
            · apply touchSectors_kept
              assumption

theorem reshardTokenMsg_kept {b : State} (s : State) (c : Ctl) (t : ReshardToken) (hs : Kept b s) : Kept b
    (reshardTokenMsg s c t) := by
  unfold reshardTokenMsg
  repeat' first
    | assumption | apply updKs_kept | apply sendReshardDecision_kept | apply advance_kept
    | apply passReshardToken_kept | apply decideReshard_kept | apply kept_ite | split

theorem reshardTokenTimeout_kept {b : State} (s : State) (hs : Kept b s) : Kept b (reshardTokenTimeout s) := by
  unfold reshardTokenTimeout
  repeat' first
    | assumption | apply decideReshard_kept | apply kept_ite | split

theorem reshardDecisionMsg_kept {b : State} (s : State) (c : Ctl) (epoch : Nat) (phase : Nat) (go : Bool) (hs :
    Kept b s) : Kept b (reshardDecisionMsg s c epoch phase go) := by
  unfold reshardDecisionMsg
  repeat' first
    | assumption | apply sendReshardDecision_kept | apply applyReshard_kept | apply advance_kept | apply kept_ite
    | split | dsimp only

theorem reshardRank_kept {b : State} (s : State) (w : ReshardWork) (c : Ctl) (r : Nat) (epoch : W32) (x : Coord)
    (hs : Kept b s) : Kept b (reshardRank s w c r epoch x) := by
  unfold reshardRank
  repeat' first
    | assumption | apply updReshard_kept | apply flood_kept | apply reshardFault_kept | apply kept_ite | split

theorem rankRow_kept {b : State} (s : State) (c : Ctl) (r : Nat) (epoch : W32) (x : Coord) (hs : Kept b s) : Kept b
    (rankRow s c r epoch x) := by
  unfold rankRow
  repeat' first
    | assumption | apply rankMsg_kept | apply advance_kept | apply reshardRank_kept | apply kept_ite | split

theorem rankTimeoutRow_kept {b : State} (s : State) (hs : Kept b s) : Kept b (rankTimeoutRow s) := by
  unfold rankTimeoutRow
  repeat' first
    | assumption | apply rankFloodTimeout_kept | apply reshardFault_kept | apply kept_ite | split

theorem formAnyRow_kept {b : State} (s : State) (c : Ctl) (len : Nat) (pos : Nat) (ver : W32) (step : Byte) (bypass
    : Bool) (id : W64) (hs : Kept b s) : Kept b (formAnyRow s c len pos ver step bypass id) := by
  unfold formAnyRow
  repeat' first
    | assumption | apply formRow_kept | apply advance_kept | apply reshardForm_kept | apply kept_ite | split

theorem formTimeoutRow_kept {b : State} (s : State) (hs : Kept b s) : Kept b (formTimeoutRow s) := by
  unfold formTimeoutRow
  repeat' first
    | assumption | apply formTimeout_kept | apply reshardFault_kept | apply kept_ite | split

end Sys2Proof.Machine
end

