-- ==== Sys2Proof/Laws/Vector.lean ====
section
/-! SUPPORT. The vector engine: what a write of a register leaves, lane by lane, and what the sequence of R233 leaves. -/

namespace Sys2Proof.Machine

@[simp] theorem vecOf_setVec_same {s : State} {x : Nat} {e : VecEngine} (h : tabWf VecEngine.reset s.sp.vec = true) :
    vecOf (setVec s x e) x = e := tabGet_tabSet_same h

theorem vecOf_setVec_other {s : State} {x y : Nat} {e : VecEngine} (h : tabWf VecEngine.reset s.sp.vec = true) (hy : y ≠ x) :
    vecOf (setVec s x e) y = vecOf s y := tabGet_tabSet_other h hy

@[simp] theorem noVec_setVec (s : State) (x : Nat) (e : VecEngine) : noVec (setVec s x e) = noVec s := rfl

theorem setVec_wf {s : State} {x : Nat} {e : VecEngine} (h : tabWf VecEngine.reset s.sp.vec = true) :
    tabWf VecEngine.reset (setVec s x e).sp.vec = true := tabSet_wf h

theorem leNat_leBytes (n v : Nat) : leNat (leBytes n v) = v % 2 ^ (8 * n) := by
  induction n generalizing v with
  | zero => simp [leBytes, leNat, Nat.mod_one]
  | succ n ih =>
    have e : 2 ^ (8 * (n + 1)) = 256 * 2 ^ (8 * n) := by rw [Nat.mul_succ, Nat.pow_add, Nat.mul_comm]
    rw [leBytes, leNat, ih, BitVec.toNat_ofNat, e, Nat.mod_mul]

theorem leBytes_length (n v : Nat) : (leBytes n v).length = n := by
  induction n generalizing v with
  | zero => rfl
  | succ n ih => simp [leBytes, ih]

theorem tabBytes_eq {t : Tab Byte} {a n : Nat} : tabBytes t a n = (List.range n).map fun i => tabGet 0 t (a + i) := by
  induction n generalizing a with
  | zero => rfl
  | succ n ih =>
    rw [tabBytes, ih, List.range_succ_eq_map, List.map_cons, List.map_map]
    congr 1
    apply List.map_congr_left
    intro i _
    simp only [Function.comp]
    congr 1
    omega

theorem leNat_zeros (n : Nat) : leNat (List.replicate n 0) = 0 := by
  induction n with
  | zero => rfl
  | succ n ih => rw [List.replicate_succ, leNat, ih]; rfl

/-- Piece k of a concatenation of pieces of one length. -/
theorem flatMap_piece {w : Nat} {l : List Nat} {k i : Nat} (hk : k < l.length) (hi : i < w) :
    (l.flatMap (leBytes w))[k * w + i]? = (leBytes w l[k])[i]? := by
  induction l generalizing k with
  | nil => exact absurd hk (by simp)
  | cons x l ih =>
    cases k with
    | zero =>
      rw [List.flatMap_cons, List.getElem?_append_left (by rw [leBytes_length]; omega)]
      simp
    | succ k =>
      have h := ih (k := k) (by simpa using hk)
      rw [List.flatMap_cons, List.getElem?_append_right (by rw [leBytes_length, Nat.succ_mul]; omega), leBytes_length]
      rw [show (k + 1) * w + i - w = k * w + i by rw [Nat.succ_mul]; omega, h]
      rfl

theorem flatMap_leBytes_length (w : Nat) (l : List Nat) : (l.flatMap (leBytes w)).length = l.length * w := by
  induction l with
  | nil => simp
  | cons x l ih => rw [List.flatMap_cons, List.length_append, ih, leBytes_length, List.length_cons, Nat.succ_mul]; omega

/-- The 256 bytes that a register takes. -/
def regBytes (f : Fmt) (lanes : List Nat) : List Byte :=
  let bytes := (lanes.flatMap (leBytes (laneWidth f))).take 256
  bytes ++ zeros (256 - bytes.length)

theorem regBytes_length (f : Fmt) (lanes : List Nat) : (regBytes f lanes).length = 256 := by
  unfold regBytes
  extract_lets b
  have h : b.length ≤ 256 := by unfold b; rw [List.length_take]; exact Nat.min_le_left _ _
  rw [List.length_append, zeros, List.length_replicate]
  omega

theorem putReg_regs (e : VecEngine) (vd : Nat) (f : Fmt) (lanes : List Nat) :
    (putReg e vd f lanes).regs = tabPut e.regs (vd * 256) (regBytes f lanes) := rfl

theorem regBytes_lane {f : Fmt} {lanes : List Nat} {k : Nat} (hk : k < laneCount f) :
    leNat ((List.range (laneWidth f)).map fun i => (regBytes f lanes).getD (k * laneWidth f + i) 0)
      = lanes.getD k 0 % 2 ^ (8 * laneWidth f) := by
  by_cases hw : laneWidth f = 0
  · simp [hw, leNat, Nat.mod_one]
  have hm : max 1 (laneWidth f) = laneWidth f := by omega
  rw [laneCount, hm] at hk
  have hb : k * laneWidth f + laneWidth f ≤ 256 := by
    have := Nat.mul_le_mul_right (laneWidth f) (Nat.succ_le_of_lt hk)
    rw [Nat.succ_mul] at this
    exact Nat.le_trans this (Nat.div_mul_le_self _ _)
  have key : ∀ i, i < laneWidth f → (regBytes f lanes).getD (k * laneWidth f + i) 0 =
      (leBytes (laneWidth f) (lanes.getD k 0)).getD i 0 := by
    intro i hi
    have h256 : k * laneWidth f + i < 256 := by omega
    unfold regBytes
    extract_lets b
    by_cases hl : k < lanes.length
    · have hb2 : k * laneWidth f + i < b.length := by
        unfold b
        rw [List.length_take, flatMap_leBytes_length]
        have := Nat.mul_le_mul_right (laneWidth f) (Nat.succ_le_of_lt hl)
        rw [Nat.succ_mul] at this
        omega
      rw [List.getD_eq_getElem?_getD, List.getElem?_append_left hb2]
      unfold b
      rw [List.getElem?_take_of_lt h256, flatMap_piece hl hi, List.getD_eq_getElem?_getD]
      congr 3
      rw [List.getD_eq_getElem?_getD, List.getElem?_eq_getElem hl]
      rfl
    · have hd : lanes.getD k 0 = 0 := by
        rw [List.getD_eq_getElem?_getD, List.getElem?_eq_none (by omega)]
        rfl
      have hb2 : b.length ≤ k * laneWidth f + i := by
        unfold b
        rw [List.length_take, flatMap_leBytes_length]
        have := Nat.mul_le_mul_right (laneWidth f) (Nat.le_of_not_lt hl)
        omega
      have h0 : ∀ n i : Nat, (leBytes n 0).getD i 0 = 0 := by
        intro n
        induction n with
        | zero => intro i; rfl
        | succ n ih => intro i; cases i with
          | zero => rfl
          | succ i => exact ih i
      rw [hd, h0, List.getD_eq_getElem?_getD, List.getElem?_append_right hb2, zeros, List.getElem?_replicate]
      split <;> rfl
  rw [List.map_congr_left (fun i hi => key i (List.mem_range.mp hi)), ← leNat_leBytes]
  congr 1
  apply List.ext_getElem
  · simp [leBytes_length]
  · intro i h1 h2
    simp [List.getD_eq_getElem?_getD]
    rw [List.getElem?_eq_getElem (by simpa using h2)]
    rfl

/-- A register that has been written reads, lane by lane, as the lanes written, and zero past them. -/
theorem rawLane_putReg {e : VecEngine} {vd k : Nat} {f : Fmt} {lanes : List Nat} (h : tabWf 0 e.regs = true)
    (hk : k < laneCount f) : rawLane (putReg e vd f lanes) vd f k = lanes.getD k 0 % 2 ^ (8 * laneWidth f) := by
  rw [rawLane, tabBytes_eq, ← regBytes_lane hk]
  congr 1
  apply List.map_congr_left
  intro i hi
  have hi := List.mem_range.mp hi
  have hb : k * laneWidth f + i < 256 := by
    rw [laneCount] at hk
    have hm : max 1 (laneWidth f) = laneWidth f := by omega
    rw [hm] at hk
    have := Nat.mul_le_mul_right (laneWidth f) (Nat.succ_le_of_lt hk)
    rw [Nat.succ_mul] at this
    have := Nat.le_trans this (Nat.div_mul_le_self 256 (laneWidth f))
    omega
  rw [putReg_regs, show vd * 256 + k * laneWidth f + i = vd * 256 + (k * laneWidth f + i) by omega,
    tabGet_tabPut_in h (by rw [regBytes_length]; exact hb)]
  rw [List.getD_eq_getElem?_getD, List.getElem?_eq_getElem (by rw [regBytes_length]; exact hb)]
  rfl

/-- Other registers keep their bytes. -/
theorem putReg_other {e : VecEngine} {vd r k : Nat} {f : Fmt} {lanes : List Nat} (h : tabWf 0 e.regs = true) (hr : r ≠ vd)
    (hk : k < 256) : tabGet 0 (putReg e vd f lanes).regs (r * 256 + k) = tabGet 0 e.regs (r * 256 + k) := by
  rw [putReg_regs, tabGet_tabPut_other h]
  rw [regBytes_length]
  rcases Nat.lt_or_gt_of_ne hr with h | h
  · left; omega
  · right; omega

/-- What the sequence does to an engine that runs a program: only index, strip and vector lengths move. -/
def vecNext (d : Desc) (span : Nat) (e : VecEngine) : VecEngine :=
  if e.index + 1 < vpLength d then
    (if e.index + 1 = vpLoop d then { e with index := e.index + 1, vl := e.stripVl } else { e with index := e.index + 1 })
  else
    let r := vpRun d ((span - d.spanFirst) / d.spanStride)
    if e.strip + 1 < r.1 + r.2 then
      { e with index := vpLoop d, strip := e.strip + 1, vl := stripLen d (e.strip + 1), stripVl := stripLen d (e.strip + 1) }
    else { e with index := vpLength d }

theorem vecAdvance_none {s : State} {x : Nat} (h : vecProg s x = none) : vecAdvance s x = s := by
  simp [vecAdvance, h]

theorem vecAdvance_some {s : State} {x : Nat} {p : Plan} {d : Desc} (h : vecProg s x = some (p, d)) :
    vecAdvance s x = setVec s x (vecNext d x (vecOf s x)) := by
  simp only [vecAdvance, h, vecNext]
  split
  · rfl
  · split <;> rfl

theorem vecSeq_vecNext {d : Desc} {x : Nat} {e e' : VecEngine} (h : vecSeq e' = vecSeq e) :
    vecSeq (vecNext d x e') = vecSeq (vecNext d x e) := by
  obtain ⟨r, vl, sv, st, ix, sq, fi, ln, la⟩ := e
  obtain ⟨r', vl', sv', st', ix', sq', fi', ln', la'⟩ := e'
  simp only [vecSeq, VecEngine.mk.injEq, true_and, and_true] at h
  obtain ⟨rfl, rfl, rfl, rfl, rfl, rfl⟩ := h
  simp only [vecNext]
  split
  · split <;> rfl
  · split <;> rfl

@[simp] theorem vecNext_regs (d : Desc) (x : Nat) (e : VecEngine) : (vecNext d x e).regs = e.regs := by
  unfold vecNext; split
  · split <;> rfl
  · dsimp only; split <;> rfl
@[simp] theorem vecNext_lane (d : Desc) (x : Nat) (e : VecEngine) : (vecNext d x e).lane = e.lane := by
  unfold vecNext; split
  · split <;> rfl
  · dsimp only; split <;> rfl
@[simp] theorem vecNext_laneAt (d : Desc) (x : Nat) (e : VecEngine) : (vecNext d x e).laneAt = e.laneAt := by
  unfold vecNext; split
  · split <;> rfl
  · dsimp only; split <;> rfl

theorem setVec_setVec {s : State} {x : Nat} {e e' : VecEngine} (h : tabWf VecEngine.reset s.sp.vec = true) :
    ∀ y, vecOf (setVec (setVec s x e) x e') y = vecOf (setVec s x e') y := by
  intro y
  by_cases hy : y = x
  · subst hy; rw [vecOf_setVec_same (setVec_wf h), vecOf_setVec_same h]
  · rw [vecOf_setVec_other (setVec_wf h) hy, vecOf_setVec_other h hy, vecOf_setVec_other h hy]

/-- The program of a span does not depend on its registers. -/
theorem vecProg_setVec {s : State} {x : Nat} {e : VecEngine} (h : tabWf VecEngine.reset s.sp.vec = true)
    (he : e.seq = (vecOf s x).seq) : vecProg (setVec s x e) x = vecProg s x := by
  unfold vecProg
  rw [vecOf_setVec_same h, he]
  rfl

/-- The sequence after a change of registers and flag: what it would have been, with the change. -/
theorem vecAdvance_setVec {s : State} {x : Nat} {e : VecEngine} (h : tabWf VecEngine.reset s.sp.vec = true)
    (he : vecSeq e = vecSeq (vecOf s x)) :
    let t := vecAdvance (setVec s x e) x
    (vecOf t x).regs = e.regs ∧ (vecOf t x).lane = e.lane ∧ (vecOf t x).laneAt = e.laneAt
      ∧ vecSeq (vecOf t x) = vecSeq (vecOf (vecAdvance s x) x) ∧ (∀ y, y ≠ x → vecOf t y = vecOf s y) ∧ noVec t = noVec s := by
  have hs : e.seq = (vecOf s x).seq := by
    have : (vecSeq e).seq = (vecSeq (vecOf s x)).seq := by rw [he]
    exact this
  have hp := vecProg_setVec h hs
  cases hq : vecProg s x with
  | none =>
    rw [hq] at hp
    simp only [vecAdvance_none hp, vecAdvance_none hq, vecOf_setVec_same h]
    exact ⟨trivial, trivial, trivial, he, fun y hy => vecOf_setVec_other h hy, rfl⟩
  | some pd =>
    obtain ⟨p, d⟩ := pd
    rw [hq] at hp
    simp only [vecAdvance_some hp, vecAdvance_some hq, vecOf_setVec_same (setVec_wf h), vecOf_setVec_same h, vecNext_regs,
      vecNext_lane, vecNext_laneAt, noVec_setVec]
    refine ⟨trivial, trivial, trivial, vecSeq_vecNext he, fun y hy => ?_, trivial⟩
    rw [vecOf_setVec_other (setVec_wf h) hy, vecOf_setVec_other h hy]

/-- A row that writes one register, and perhaps sets LANE_RANGE, runs as `VecWrites` says. -/
theorem vecRow_writes {i : Instr} {a : VecArgs} {f : Fmt} {lanes : List Nat} {out : Bool} {s : State}
    {run : State → VecArgs → State} (hw : vecWf s a.span = true) (he : exec i s = vecRow run a s)
    (hr : run s a = setVec s a.span (noteLane (putReg (vecOf s a.span) a.vd f lanes) out)) : VecWrites i a f lanes out s := by
  simp only [vecWf, Bool.and_eq_true] at hw
  obtain ⟨h1, h2⟩ := hw
  have hseq : vecSeq (noteLane (putReg (vecOf s a.span) a.vd f lanes) out) = vecSeq (vecOf s a.span) := by
    unfold noteLane; split <;> rfl
  have hregs : (noteLane (putReg (vecOf s a.span) a.vd f lanes) out).regs = (putReg (vecOf s a.span) a.vd f lanes).regs := by
    unfold noteLane; split <;> rfl
  obtain ⟨g1, g2, g3, g4, g5, g6⟩ := vecAdvance_setVec h1 hseq
  refine ⟨_, by rw [he, vecRow, hr], fun k hk => ?_, fun r k hr hk => ?_, ?_, ?_, g4, g5, g6⟩
  · rw [← rawLane_putReg h2 hk]
    unfold rawLane
    rw [g1, hregs]
  · rw [g1, hregs, putReg_other h2 hr hk]
  · rw [g2]; unfold noteLane; cases out <;> simp [putReg]
  · rw [g3]; unfold noteLane
    cases out
    · simp [putReg]
    · simp only [if_true, putReg]
      cases (vecOf s a.span).laneAt <;> rfl

end Sys2Proof.Machine
end

