-- ==== Sys2Proof/Tests/Slice0.lean ====
section
/-! SUPPORT. Tests: ill-formed commands are refused; small results that the manual's rules and tables fix; and for every
statement of Certificates/Slice0/Obligations.lean that has hypotheses, states that meet them (the theorems `wit_…`). -/

namespace Sys2Proof.Tests
set_option Elab.async false
open Sys2Proof Sys2Proof.Machine

-- ------------------------------------------------------------------------------------------------ helpers

def origin : Coord := ⟨0, 0, 0⟩
def ctl0 : Ctl := { port := 0, src := origin, tag := 7, status := 0 }
def jmsg : JMsg := { port := 0, tag := 7, sender := 1, count := 0 }
def env : StartEnv := { railsOk := true, keystoneSramOk := true, weakLanes := [], cells := [] }
def quiet : BeatActivity :=
  { busy := 0, secded := [], badLines := [], cells := [], sectors := [], weakLanes := [], pcie := [], accepts := true }
def flit0 : Flit :=
  { kind := 2, cls := 0, last := true, dateline := false, around := false, index := 0, msgSeq := 0, lseq := 0,
    acks := [0, 0, 0, 0], dest := origin, src := origin, payload := List.replicate 232 0 }
def ident0 : Ident :=
  { port := 1, version := 1, stepping := 0xB0, coordValid := true, formed := false, deviceId := 5, resultVer := 0, coord := ⟨1, 0, 0⟩,
    dims := ⟨4, 1, 1⟩, tag := 0 }
def marker0 : Marker :=
  { beat := 5, txOffset := 3, hops := 0, locked := true, echoReq := false, echo := false, rootId := 1, echoBeat := 0, echoHold := 0 }
def att0 : Attempt := { step := 0, gen := 1, att := 0 }
def digest0 : List Byte := List.replicate 48 1
def vec0 : VecArgs := { span := 0, vd := 1, va := 2, vb := 3, fmt := 0, rnd := 0, opd := 0 }

/-- The host attached, the device ready, records enabled. -/
def up (s : State) : State := { s with host := { s.host with linkUp := true, ctrl := 1, status := 0x02 } }
def s0 : State := up State.reset
/-- The plan state of Table 4-5. -/
def inState (v : Nat) (s : State) : State := { s with host := { s.host with status := BitVec.ofNat 32 (2 + 4 * v) } }

/-- The state after a command. -/
def after (i : Instr) (s : State) : State := match exec i s with | .next t => t | _ => s

def cmdOf (cmd : Nat) (pay : List Byte) : Taken := { tag := 3, prio := 0, cmd := cmd, payload := pay }
/-- A command taken and next to be served. -/
def serving (cmd : Nat) (pay : List Byte) (s : State) : State :=
  { s with host := { s.host with taken := [cmdOf cmd pay], inUse := [3] } }

def opnd (handle fmt : Nat) : List Byte := leBytes 2 handle ++ leBytes 1 fmt ++ leBytes 13 0
def desc (op seq count : Nat) (body : List Byte) : Desc :=
  { opcode := op, flags := 0, seq := seq, spanFirst := 0, spanCount := count, spanStride := 1, context := 0, round := 0, deps := [0, 0, 0, 0],
    rngStream := 0, tensorId := 0, body := body, base := 0, skips := [] }
def buf (kind : Nat) : Buf := { addr := 0x100000, size := 4096, tensorId := 1, kind := kind, placement := 0, flags := 0 }
def planOf (n : Nat) (ds : List Desc) : Plan :=
  { base := 0x40000000, seed := 0, ringLength := n, ringPos := 0, ringGroups := 1, groupIndex := 0, headGroup := 1, contexts := 1,
    epoch := 1, groupTag := 7, loopPhase := 0, digest := digest0, bufs := [buf 0, buf 2, buf 1], phases := [⟨1, 0, 0⟩], setups := [],
    descs := ds, piers := [⟨ds.length, 0, 1⟩], xfers := [], param := [], splits := [], stepLocal := true }
/-- A plan loaded, in a plan state. -/
def loaded (v : Nat) (p : Plan) (s : State) : State :=
  inState v { s with ks := { s.ks with plan := some p, shadowed := true, order := 1 } }
def issued (seq : Nat) (wait run : List Nat) : Issued :=
  { seq := seq, order := 1, waiting := wait, running := run, passesRun := [], status := 0, detail := (0, 0), handed := [] }
/-- A running plan with descriptors outstanding. -/
def withIssued (l : List Issued) (s : State) : State := { s with ks := { s.ks with issued := l } }

/-- A trained port, and ports by number. -/
def portUp : Port := { Port.reset with st := .trained }
def withPorts (l : List (Nat × Port)) (s : State) : State := { s with via := { s.via with ports := l } }
/-- Two devices along X: this one rank 0 at the origin, its neighbour rank 1. -/
def pair (s : State) : State :=
  withPorts [(0, portUp), (1, portUp)]
    { s with via := { s.via with coord := some origin, dims := some ⟨2, 1, 1⟩, ranks := [(0, origin), (1, ⟨1, 0, 0⟩)] } }

-- ------------------------------------------------------------------------------------------------ well-formed commands

/-- Every check of WellFormed.lean refuses a command that fails it. -/
theorem test_ill_formed_links :
    [Instr.portRetrain 8, .flitForward 0 4 0, .flitForward 0 0 2, .nack 0 0 4096, .beatMarker 0 { marker0 with hops := 65536 } 0,
     .flitReceive 0 true { flit0 with payload := [] } 0, .flitReceive 0 true { flit0 with acks := [0] } 0, .ident 0 { ident0 with port := 256 },
     .dataMessageReceive ⟨0, ⟨64, 0, 0⟩, 0, 0, 0, 0, 0, []⟩, .rank ctl0 (2 ^ 32) 1 origin, .rank { ctl0 with port := 8 } 0 1 origin,
     .vote ctl0 { att0 with att := 256 } 0 true digest0, .groupDigest ctl0 0 [], .mirrorWrite { jmsg with sender := 2 ^ 32 } 0 [],
     .addDone 1024 0 0, .dramRefresh 0 32, .trestleCompletion .data 8 [], .fetch jmsg 65536 0 0].map Instr.wf
      = List.replicate 18 false := by decide +kernel

theorem test_ill_formed_others :
    [Instr.blockArm (.router 32), .blockArm (.channel 1024), .blockArm (.bankTable 512), .bearingTimeout (.keystone 4) none,
     .bearingTimeout .pcie (some 512), .mailboxSlotWrite 0x8020 ⟨[0], false⟩, .registerWrite 0x4000000 ⟨[0], false⟩, .coalesceTimerExpiry 2, .nop 512,
     .memoryScrub 512 [], .descriptorStart (some 512), .matmul (2 ^ 32) 0, .matmul 0 65536, .pier (2 ^ 32), .setvl { vec0 with span := 512 },
     .setvl { vec0 with vd := 32 }, .setvl { vec0 with fmt := 16 }, .sensorSample { Sample.zero with bayTemp := [] },
     .hardwareFloor (.dram 16), .trip (.serdes 8) 0, .requestFirmwareData 0 [], .requestFirmwareData 4 [], .challenge .mctp 0 [], .marchTestEnd [⟨.bank 528 0, 0, 0, 0, false, false⟩] [] [], .beatBoundary { quiet with weakLanes := [(0, 154)] },
     .pcieLinkTrained .gt32 .x16 false ⟨true, 29, 128, 512, 8, .d0⟩, .pcieLinkTrained .gt32 .x16 false ⟨true, 30, 128, 512, 9, .d0⟩].map Instr.wf
      = List.replicate 27 false := by decide +kernel

theorem test_well_formed :
    [Instr.portRetrain 7, .flitForward 7 3 1, .flitReceive 0 true flit0 0, .ident 0 ident0, .beatMarker 0 marker0 0, .nop 511,
     .blockArm (.bankTable 511), .setvl vec0, .mirrorWrite jmsg 0 [], .groupDigest ctl0 0 digest0, .matmul 1 0,
     .pcieLinkTrained .gt32 .x16 false ⟨true, 41, 128, 512, 14, .d3hot⟩, .beatBoundary quiet, .powerGood env].map Instr.wf = List.replicate 14 true := by decide +kernel

/-- The table gives no row any bits, so no word spells a command. -/
theorem test_no_word_decodes : decodeTableWord 16 0 = none ∧ State.reset.withFetchWord 16 0 = State.reset := ⟨rfl, rfl⟩

-- ------------------------------------------------------------------------------------------------ the queue, and the vector engines

/-- StepTakesFront: a queue with a command in front, and an empty one. -/
theorem wit_StepTakesFront : State.reset.pending = [] ∧ ({ State.reset with pending := [.readiness] } : State).pending = .readiness :: [] :=
  ⟨rfl, rfl⟩

/-- StepKeepsMemoriesCanonical: a canonical memory with a byte listed, and a step that goes on. -/
theorem wit_StepKeepsMemories :
    let s : State := { State.reset with dram := { State.reset.dram with mem := [(5, 1)] }, pending := [.readiness] }
    Memory.wf s = true ∧ step s = .next { s with pending := [] } := ⟨by decide +kernel, rfl⟩

/-- FusesAndQueueAreKept: a command that answers a next state. -/
theorem wit_FusesAreKept : exec .readiness State.reset = .next State.reset := rfl

/-- Engine 0 with two INT32 or FP32 lanes in VA = 2 and VB = 3. -/
def engine (vl a0 a1 b0 b1 : Nat) : State :=
  { s0 with sp := { s0.sp with vec := [(0, { VecEngine.reset with
      regs := tabPut (tabPut [] 512 (leBytes 4 a0 ++ leBytes 4 a1)) 768 (leBytes 4 b0 ++ leBytes 4 b1), vl := vl, stripVl := vl })] } }
def int0 : VecArgs := { vec0 with fmt := 8 }
/-- Lanes 0 and 1 of VD = 1 after an instruction. -/
def lanes (i : Instr) (s : State) : List Nat :=
  let e := vecOf (after i s) 0
  [laneBits e 1 .int32 0, laneBits e 1 .int32 1]

/-- Every statement on vector instructions: canonical registers at the ends of VL, with one lane below it at least. -/
theorem wit_Vector : vecWf State.reset 511 = true ∧ vecWf (engine 1 1 2 3 4) 0 = true ∧ 0 < (vecOf (engine 1 1 2 3 4) 0).vl
    ∧ vecWf (engine 64 1 2 3 4) 0 = true ∧ 0 < (vecOf (engine 64 1 2 3 4) 0).vl := by decide +kernel

/-- A VEC_PROGRAM of two words, of one strip of two elements, running on span 0. -/
def vecPlan : Plan :=
  planOf 1 [desc opVecProgram 1 1 (opnd 0 0 ++ opnd noOperand 0 ++ opnd noOperand 0 ++ opnd 0 0 ++ opnd noOperand 0
    ++ leBytes 4 0 ++ leBytes 1 2 ++ leBytes 1 1 ++ leBytes 2 2 ++ leBytes 8 2)]
def vecRuns : State :=
  let s := withIssued [issued 1 [] [0]] (loaded plRunning vecPlan (engine 2 1 2 3 4))
  { s with sp := { s.sp with vec := [(0, { vecOf s 0 with seq := 1 })] } }

/-- VectorSequenceAndMemory: an engine that runs no program, and one that runs one. -/
theorem wit_VectorSequence : vecProg s0 0 = none ∧ (vecProg vecRuns 0).isSome = true ∧ vecWf vecRuns 0 = true := by decide +kernel

/-- Table 11-3: integer lanes wrap; 2³¹ − 1 plus 1 is −2³¹. -/
theorem test_add_wraps : lanes (.add int0) (engine 2 0x7FFFFFFF 5 1 0xFFFFFFFF) = [0x80000000, 4] := by decide +kernel
/-- FP32: 1 + 2 = 3 and 1.5 + (−1.5) = +0. -/
theorem test_add_fp32 : lanes (.add vec0) (engine 2 0x3F800000 0x3FC00000 0x40000000 0xBFC00000) = [0x40400000, 0] := by decide +kernel
theorem test_sub : lanes (.sub int0) (engine 2 3 0 5 1) = [0xFFFFFFFE, 0xFFFFFFFF] := by decide +kernel
theorem test_mul_wraps : lanes (.mul int0) (engine 2 0x10000 7 0x10000 6) = [0, 42] := by decide +kernel
theorem test_mul_fp32 : lanes (.mul vec0) (engine 2 0x40400000 0x3F000000 0x40000000 0x3F000000) = [0x40C00000, 0x3E800000] := by decide +kernel
/-- R234: NaN wins a MIN. -/
theorem test_min_nan : lanes (.min vec0) (engine 2 0x7FC00000 0xBF800000 0 0) = [0x7FC00000, 0xBF800000] := by decide +kernel
theorem test_abs_neg : lanes (.abs int0) (engine 2 0xFFFFFFFF 3 0 0) = [1, 3] ∧ lanes (.neg int0) (engine 2 1 0 0 0) = [0xFFFFFFFF, 0] := by
  decide +kernel
/-- RSQRT of 4 is 0.5, of +0 is +Inf; RCP of 2 is 0.5. -/
theorem test_rsqrt_rcp : lanes (.rsqrt vec0) (engine 2 0x40800000 0 0 0) = [0x3F000000, 0x7F800000]
    ∧ lanes (.rcp vec0) (engine 2 0x40000000 0x3F800000 0 0) = [0x3F000000, 0x3F800000] := by decide +kernel
theorem test_exp2 : lanes (.exp2 vec0) (engine 2 0x40400000 0 0 0) = [0x41000000, 0x3F800000] := by decide +kernel
theorem test_shifts : lanes (.shl { int0 with opd := 4 }) (engine 2 0xF0000001 1 0 0) = [0x10, 0x10]
    ∧ lanes (.ashr { int0 with opd := 4 }) (engine 2 0xF0000000 0x10 0 0) = [0xFF000000, 1] := by decide +kernel
theorem test_compare : lanes (.cmplt int0) (engine 2 0xFFFFFFFF 5 0 5) = [1, 0] ∧ lanes (.cmple int0) (engine 2 0xFFFFFFFF 5 0 5) = [1, 1] := by
  decide +kernel
/-- R238: PERM of a lane at VL or above writes zero and sets LANE_RANGE. -/
theorem test_perm_range : lanes (.perm int0) (engine 2 8 9 1 2) = [9, 0] := by decide +kernel
theorem test_slides : lanes (.slideup { int0 with opd := 1 }) (engine 2 8 9 0 0) = [0, 8]
    ∧ lanes (.slidedn { int0 with opd := 1 }) (engine 2 8 9 0 0) = [9, 0] := by decide +kernel
/-- Table 11-3: RMAX writes the winner's value and lane. -/
theorem test_rmax : lanes (.rmax int0) (engine 2 8 9 0 0) = [9, 1] ∧ lanes (.rsum int0) (engine 2 8 9 0 0) = [17, 0] := by decide +kernel
/-- PSUM starts from VC[0], here register 3. -/
theorem test_psum : lanes (.psum { int0 with opd := 3 }) (engine 2 8 9 100 0) = [108, 117] := by decide +kernel
theorem test_movi_iota : lanes (.movi { int0 with opd := 77 }) (engine 2 0 0 0 0) = [77, 77] ∧ lanes (.iota int0) (engine 2 5 5 5 5) = [0, 1] := by
  decide +kernel

-- ------------------------------------------------------------------------------------------------ host interface

/-- A state with bytes in the mailbox slots. -/
def inSlots (off : Nat) (b : List Byte) (s : State) : State := { s with host := { s.host with slots := tabPut s.host.slots off b } }
/-- Dword 0 of a slot: OWN, TAG, PRIO and CMD (Table 4-10). -/
def head (own tag prio cmd : Nat) : List Byte := leBytes 4 (own * 2 ^ 31 + tag * 2 ^ 19 + prio * 2 ^ 16 + cmd)

/-- Every statement on accesses of the host: the device answers. -/
theorem wit_Answers : Answers s0 ∧ Answers (inSlots 0x7F80 (head 1 3 0 1) s0) := ⟨⟨rfl, rfl⟩, rfl, rfl⟩
/-- OwnedAndPartialWritesDropped: the last slot owned; a write of two bytes of a dword 0. -/
theorem wit_OwnedAndPartial :
    0x7FFC + 4 ≤ 0x8000
    ∧ (slotsReached 0x7FFC 4).any (slotOwned (inSlots 0x7F80 (head 1 3 0 1) s0).host) = true ∧ partialWrite 0 2 = true
    ∧ partialWrite 0x7F82 4 = true := by decide +kernel
/-- MailboxSlotsAreWrittenAndTaken, its first clause: a payload byte and a whole dword 0 of a free slot, of a tag outstanding and of one that is not. -/
theorem wit_SlotWrite :
    (slotsReached 0x7F80 4).any (slotOwned s0.host) = false ∧ partialWrite 0x7F80 4 = false ∧ partialWrite 4 1 = false := by decide +kernel
/-- R77: the dropped write leaves the slot, and HC_ERR.OWNED_WRITE is set. -/
theorem test_owned_write :
    after (.mailboxSlotWrite 8 ⟨[1], false⟩) (inSlots 0 (head 1 3 0 1) s0) = setErr (inSlots 0 (head 1 3 0 1) s0) errOwned := by decide +kernel

/-- CommandsWaitForReadiness: MBOX_LIVE 0; a LOAD_PLAN owned while NOT_READY is 1. -/
theorem wit_CommandsWait :
    mboxLive State.reset.host = false ∧ (let s : State := inSlots 128 (head 1 511 7 0x10) { s0 with host := { s0.host with status := 0x23 } };
      mboxLive s.host = true ∧ cqEn s.host = true ∧ notReady s.host = true ∧ nextSlot s.host = some 1 ∧ s.host.collided.contains 1 = false
        ∧ (copySlot s.host 1).cmd = cmdLoadPlan ∧ (copySlot s.host 1).tag = 511) := by
  and_intros <;> first | decide +kernel | rfl
/-- MailboxSlotsAreWrittenAndTaken, its others: a tag collision, an undefined CMD and a NOP; R79: PRIO 7 in slot 255 goes before PRIO 6 in slot 0. -/
theorem wit_MailboxTakes :
    (let s : State := inSlots 0 (head 1 3 0 0xFFFE) { s0 with host := { s0.host with collided := [0] } };
      nextSlot s.host = some 0 ∧ s.host.collided.contains 0 = true)
    ∧ nextSlot (inSlots 0 (head 1 3 0 0xEEEE) s0).host = some 0 ∧ commands.contains 0xEEEE = false
    ∧ commands.contains cmdNop = true ∧ bitsOf (slotHead (inSlots 0 (head 1 3 0 cmdNop) s0).host 0) 30 28 = 0
    ∧ nextSlot (inSlots 0x7F80 (head 1 4 7 cmdNop) (inSlots 0 (head 1 3 6 cmdNop) s0)).host = some 255 := by
  and_intros <;> first | decide +kernel | rfl

/-- HostRegisterWritesAndTimer: CQ_EN 1 and 0; a source with a record not signalled, with interrupts on and off. -/
theorem wit_HostRegisters :
    cqEn s0.host = true ∧ cqEn { s0.host with ctrl := 0 } = false ∧ (leBytes 4 5).length = 4 ∧ irqLive s0.host = false
    ∧ irqLive { s0.host with ctrl := 3, msixEn := true } = true
    ∧ tabGet 0 s0.host.coalCount 1 = 0 ∧ tabGet 0 { s0.host with coalCount := [(1, 3)] }.coalCount 1 ≠ 0 := by decide +kernel
/-- FinalRecord: records are written; and CQ_EN rises. -/
theorem wit_FinalRecord : Records s0 ∧ cqEn { s0.host with ctrl := 0 } = false ∧ (1 : W32).toNat.testBit 0 = true := by
  and_intros <;> decide +kernel
/-- R82, R83: a NOP of tag 3 completes with two writes, PHASE 1 and STATUS OK. -/
theorem test_nop_record :
    (after (.nop 3) (serving cmdNop [] s0)).host.out
        = [.write 0x68 (zeros 24), .write 0x60 (leBytes 4 0x80030000 ++ leBytes 4 0xFF)] := by
  decide +kernel
/-- R70: a poisoned register write is dropped, logged by AER and reported in HC_ERR. -/
theorem test_poison :
    after (.registerWrite 0x1010 ⟨[0, 0x10, 0, 0], true⟩) { s0 with host := { s0.host with ctrl := 0 } }
      = setErr { s0 with host := { s0.host with ctrl := 0, aer := [.poisonedTlp] } } errPoison := by decide +kernel
/-- R68: the configuration header. -/
theorem test_header : (pcieFunction s0).deviceId = 0x1280 ∧ (pcieFunction s0).classCode = 0x120000 := ⟨rfl, rfl⟩
/-- R73: HC_BEAT_LO answers the low half, and the high half is latched. -/
theorem test_beat_read :
    (let t := after .hcBeatLoRead { s0 with beat := { s0.beat with number := 0x500000007 } };
      (t.host.out, bar0Read t 0x1034)) = ([.readData [7, 0, 0, 0]], 5) := by decide +kernel

-- ------------------------------------------------------------------------------------------------ mailbox commands

/-- The pay of a command as it stands from offset 4 on. -/
def pay0 (n : Nat) (b : List Byte) : List Byte := b ++ zeros (n - b.length)
theorem served_serving (cmd : Nat) (pay : List Byte) (s : State) : Served (serving cmd pay s) cmd 3 (cmdOf cmd pay) := ⟨rfl, rfl, rfl⟩
def clean (cmd : Nat) (pay : List Byte) (fields : List (Nat × Nat)) : Bool := payClean (cmdOf cmd pay) fields

/-- QueryAndReportCommands: page 3 of GET_INFO, clean and unclean payloads, a data set and a step of norm records in bounds. -/
theorem wit_QueryAndReport :
    clean cmdGetInfo [3] [(4, 1)] = true ∧ payAt (cmdOf cmdGetInfo [3]) 4 1 ≤ 3 ∧ clean cmdGetStatus [] [] = true ∧ clean cmdNop [0] [] = true
    ∧ clean cmdNop [1] [] = false
    ∧ (let c := cmdOf cmdTelemetryRead (leBytes 2 0 ++ leBytes 1 63 ++ leBytes 1 0 ++ leBytes 8 0 ++ leBytes 4 64)
       let s : State := { s0 with host := { s0.host with regions := [⟨63, 0x1000, 0x1000⟩] } };
       payClean c [(4, 2), (6, 1), (8, 8), (0x10, 4)] = true ∧ payAt c 0x10 4 = 64 ∧ (telemetrySet s 0 64).isSome = true
        ∧ regionAddr s 63 0 64 = some 0x1000)
    ∧ (let c := cmdOf cmdNormRecordsRead (leBytes 1 15 ++ leBytes 1 0 ++ leBytes 1 63 ++ leBytes 1 0 ++ leBytes 8 0xFE0 ++ leBytes 4 32)
       let s : State := { s0 with host := { s0.host with regions := [⟨63, 0x1000, 0x1000⟩] } };
       payClean c [(4, 1), (6, 1), (8, 8), (0x10, 4)] = true ∧ payAt c 4 1 = 15 ∧ regionAddr s 63 0xFE0 32 = some 0x1FE0) := by
  and_intros <;> decide +kernel

/-- CommandsOutOfStateAreBusy: each command's clean payload, and a plan state outside its row of the table. -/
theorem wit_OutOfState :
    clean cmdLoadPlan (leBytes 4 0 ++ leBytes 8 4096) [(8, 8)] = true ∧ planState (inState plAborted s0) ≠ plNone
    ∧ clean cmdUnloadPlan [] [] = true ∧ planState (inState plRunning s0) = plRunning ∧ clean cmdStart (leBytes 4 1) [(4, 4)] = true
    ∧ clean cmdPauseAtPier (leBytes 2 0xFFFF) [(4, 2)] = true ∧ planState s0 = plNone ∧ clean cmdResume [] [] = true
    ∧ planState (inState plLoading s0) = plLoading := by decide +kernel
/-- R37: LOAD_PLAN on a device with a loaded plan completes with BUSY. -/
theorem test_load_busy :
    let s := serving cmdLoadPlan (leBytes 4 0 ++ leBytes 8 4096) (loaded plLoaded (planOf 1 []) s0)
    exec (.loadPlan 3) s = .next (finishCmd s (cmdOf cmdLoadPlan (leBytes 4 0 ++ leBytes 8 4096)) stBusy []) := by rfl

def onePier : Plan := planOf 1 [desc opPier 1 0 []]
/-- PlanCommands: each command in a plan state of its row. -/
theorem wit_PlanCommands :
    presents s0 = true ∧ planState s0 = plNone ∧ planState (loaded plLoaded onePier s0) = plLoaded
    ∧ planState (loaded plPaused onePier s0) = plPaused ∧ planState (loaded plAborted onePier s0) = plAborted
    ∧ (loaded plLoaded onePier s0).ks.plan = some onePier ∧ s0.ks.startTag = none ∧ s0.ks.marchTag = none ∧ s0.ks.pauseReq = none
    ∧ planState (loaded plRunning onePier s0) = plRunning ∧ reshardAt s0 3 = false
    ∧ pierAhead (loaded plRunning onePier s0) onePier 0xFFFF = true ∧ pierAhead (loaded plRunning onePier s0) onePier 0 = true
    ∧ ({ s0.ks with startTag := some (cmdOf cmdStart []) } : Keystone).startTag ≠ none ∧ clean cmdAbort [] [] = true := by decide +kernel
/-- R92: ABORT of a running plan leaves the plan state ABORTED. -/
theorem test_abort :
    planState (after (.abort 3) (serving cmdAbort [] (loaded plRunning onePier s0))) = plAborted := by
  decide +kernel
/-- UNLOAD_PLAN from LOADED leaves NONE. -/
theorem test_unload :
    (let t := after (.unloadPlan 3) (serving cmdUnloadPlan [] (loaded plLoaded onePier s0)); (planState t, t.ks.plan)) = (plNone, none) := by decide +kernel

/-- SettingCommands: the ends of each range. -/
theorem wit_Settings :
    clean cmdPacePolicy (leBytes 1 2 ++ leBytes 1 0 ++ leBytes 2 850) [(4, 1), (6, 2)] = true ∧ 850 % 5 = 0
    ∧ payAt (cmdOf cmdPacePolicy (leBytes 1 2 ++ leBytes 1 0 ++ leBytes 2 550)) 6 2 = 550
    ∧ payAt (cmdOf cmdPacePolicy [1]) 4 1 < 2 ∧ clean cmdCommitPolicy [15, 3] [(4, 1), (5, 1)] = true ∧ reshardAt s0 3 = false
    ∧ segmentHeld s0 = false ∧ clean cmdReplayControl [3] [(4, 1), (5, 1)] = true ∧ payAt (cmdOf cmdReplayControl [2]) 4 1 = 2
    ∧ segmentHeld (inState plPaused { s0 with ks := { s0.ks with heldRestart := some 0 } }) = true
    ∧ payAt (cmdOf cmdCommitPolicy [15, 3]) 4 1 = 15 ∧ clean cmdReplayControl [1, 15] [(4, 1), (5, 1)] = true
    ∧ (let c := cmdOf cmdBind (leBytes 4 63 ++ leBytes 8 0x1000 ++ leBytes 8 0x2000)
       payClean c [(4, 1), (8, 8), (0x10, 8)] = true ∧ planUsesRegion s0 63 = false ∧ payAt c 8 8 % 4096 = 0 ∧ payAt c 0x10 8 = 0x2000)
    ∧ clean cmdPrefixTable [0] [(4, 1), (8, 4)] = true ∧ clean cmdPrefixTable (leBytes 4 2 ++ leBytes 4 1048576) [(4, 1), (8, 4)] = true
    ∧ planState (inState plPaused s0) = plPaused ∧ payAt (cmdOf cmdPrefixTable [1]) 4 1 = 1 ∧ payAt (cmdOf cmdPrefixTable [3]) 4 1 = 3 := by
  and_intros <;> decide +kernel

-- ------------------------------------------------------------------------------------------------ DRAM, adds, copies

def listed (m : Tab Byte) (s : State) : State := { s with dram := { s.dram with mem := m } }
def failing (l : List Nat) (s : State) : State := { s with dram := { s.dram with bad := l } }

/-- A state in which errors of these sectors have not been met yet. -/
def flawed (l : List SectorErr) (s : State) : State := { s with dram := { s.dram with flaws := l } }
/-- Statements that ask for DRAM that nothing ails. -/
theorem wit_DramClean : DramClean s0 := ⟨rfl, rfl, rfl⟩
/-- HostReadsAndWritesDram: the last byte of the accessible range, one past it, a sector that cannot be read, one that the write covers in
part, and errors not met yet, of both kinds. -/
theorem wit_HostDram :
    bar2Base s0.host = 0 ∧ bar2Ok s0 (reservedStart - 4) 4 = true ∧ bar2Ok s0 (reservedStart - 3) 4 = false
    ∧ lostMemory s0 (reservedStart - 32) = false ∧ s0.dram.bad = [] ∧ (failing [0] s0).dram.bad.contains (31 / 32) = true
    ∧ Memory.wf s0 = true ∧ Memory.wf (listed [(0, 1), (7, 2)] s0) = true
    ∧ (flawed [⟨0, true, 0⟩] s0).dram.flaws = [⟨0, true, 0⟩] ∧ (flawed [⟨0, false, 35⟩] s0).dram.flaws = [⟨0, false, 35⟩]
    ∧ rangeHits 28 4 (0 / 32) = true ∧ partHits 28 4 0 = true ∧ partHits 0 32 0 = false
    ∧ planState (failing [0] (inState plRunning s0)) = plRunning ∧ (failing [0] (inState plRunning s0)).dram.bad = [0] := by decide +kernel
/-- R74: the host reads what it wrote. -/
theorem test_write_then_read :
    (after (.bar2Read 64 4 []) (after (.bar2Write 64 [1, 2, 3, 0] false) s0)).host.out = [.readData [1, 2, 3, 0]] := by decide +kernel
theorem test_zero_write_unlists : (after (.bar2Write 7 [0] false) (listed [(0, 1), (7, 2)] s0)).dram.mem = [(0, 1)] := by decide +kernel

def add0 : Add := { channel := 0, addr := 64, pos := 64, wide := false, fmt := 0, key := 65536, handle := 0, value := 0x3F800000 }
def floatAdd (s : State) : State := { s with dram := { s.dram with adds := [add0] } }
/-- A MATMUL body (Table 7-3): A and B in buffer 0, OUT in buffer `out`, no BIAS, M, N, K, SCALE 1.0, BM and BN 1, the ACC field, SPLIT_K 1. -/
def mmBody (out m n k acc : Nat) : List Byte :=
  opnd 0 0 ++ opnd 0 0 ++ opnd out 0 ++ opnd noOperand 0 ++ leBytes 4 m ++ leBytes 4 n ++ leBytes 4 k ++ leBytes 4 0 ++ leBytes 4 0x3F800000
    ++ [1, 1, 0, BitVec.ofNat 8 acc, 0, 1]
/-- A MATMUL whose adds go to buffer 2, on span 0, with its pass run. -/
def addPlan : Plan :=
  planOf 1 [desc opMatmul 1 1 (mmBody 2 1 1 1 8)]
def addRuns : State := withIssued [{ issued 1 [] [0] with passesRun := [0] }] (loaded plRunning addPlan s0)
def lateAdd : Add := { add0 with channel := channelOf 0x100000, key := 2 * 65536, handle := 2 }
/-- An add of a higher order key waits while that MATMUL has sent no marker. -/
def addWaits : State :=
  { addRuns with dram := { addRuns.dram with adds := [lateAdd] } }
theorem wit_MemorySideAdds :
    Memory.wf (floatAdd s0) = true ∧ (floatAdd s0).dram.adds = [add0] ∧ (floatAdd s0).dram.window = [] ∧ addReady (floatAdd s0) add0 = true
    ∧ (floatAdd s0).dram.bad.contains (add0.addr / 32) = false
    ∧ (flawed [⟨64, false, 0⟩] (floatAdd s0)).dram.flaws.all (fun e => !e.fatal) = true
    ∧ (let s := failing [2] (inState plRunning (floatAdd s0)); s.dram.bad.contains (add0.addr / 32) && planState s == plRunning && addReady s add0) = true
    ∧ addReady addWaits lateAdd = false ∧ addWaits.dram.adds = [lateAdd]
    ∧ (match running addRuns 1 with
        | some (p, d, i) => addsTo d (mmOut d).handle && (targets d).contains 0 && i.passesRun.length == passesOf p 1
        | none => false) = true
    ∧ addRuns.dram.markers.contains (1023, 0, 1) = false := by decide +kernel
/-- R315: 1 + 0.5 = 1.5 at the element. -/
theorem test_add_sums :
    memNat (after (.memorySideAdd 0) (floatAdd (listed (tabPut [] 64 (leBytes 4 0x3F000000)) s0))).dram.mem 64 4 = 0x3FC00000 := by decide +kernel

def bound (s : State) : State := { s with host := { s.host with regions := [⟨63, 0x100000, 0x10000⟩] } }
def copyPay (len : Nat) : List Byte := leBytes 4 63 ++ leBytes 8 0 ++ leBytes 8 64 ++ leBytes 8 len
def copy0 (toHost : Bool) : Copy :=
  { cmd := cmdOf (if toHost then cmdCopyToHost else cmdCopyToDevice) (copyPay 64), toHost := toHost, host := 0x100000, dev := 64, len := 64, done := 0 }
def entry0 : TEntry := { key := 65536, seq := 1, toHost := true, host := 0x100000, pos := 0, len := 64, done := 0 }
def tre (c : List Copy) (e : List TEntry) (r : List TRead) (n : Nat) (s : State) : State :=
  { s with tre := { s.tre with copies := c, entries := e, reads := r, turnTo := n } }
def read0 : TRead := { copy := true, seq := 0, host := 0x100000, dev := 64, len := 4, last := false }

/-- CopiesRunInChunks: a copy of 64 bytes at the start of its region; each way that plan entries and copies can be waiting; a copy of two
chunks at its first and its second; a read outstanding, alone, before another, and the last of an OFFLOAD. -/
theorem wit_Copies :
    clean cmdCopyToHost (copyPay 64) [(4, 1), (8, 8), (0x10, 8), (0x18, 8)] = true ∧ copyClash (bound s0) (cmdOf cmdCopyToHost (copyPay 64)) = false
    ∧ cpLen (cmdOf cmdCopyToHost (copyPay 64)) = 64 ∧ cpOffset (cmdOf cmdCopyToHost (copyPay 64)) = 0
    ∧ cpDev (cmdOf cmdCopyToHost (copyPay 64)) + 64 ≤ reservedStart ∧ regionAddr (bound s0) 63 0 64 = some 0x100000
    ∧ nextEntry s0 true = none ∧ nextCopy s0 true = none ∧ nextEntry (tre [] [entry0] [] 0 s0) true = some entry0
    ∧ nextCopy (tre [copy0 true] [] [] 0 s0) true = some (copy0 true) ∧ nextCopy (tre [copy0 false] [] [] 0 s0) false = some (copy0 false)
    ∧ turnOf (tre [copy0 true] [entry0] [] 3 s0).tre true = 3 ∧ turnOf (tre [copy0 true] [entry0] [] 2 s0).tre true = 2
    ∧ copyClash s0 (copy0 true).cmd = false ∧ goodBytes s0 64 64 = 64 ∧ (copy0 true).done = 0 ∧ min 4096 (64 - 0) = 64
    ∧ (let c := { copy0 true with len := 4160, done := 4096 }; nextCopy (tre [c] [] [] 0 s0) true = some c ∧ 0 < c.done ∧ min 4096 (c.len - c.done) = 64)
    ∧ (let c := { copy0 true with done := 64 }; (tre [c] [] [] 0 s0).tre.copies.head? = some c ∧ c.done = c.len ∧ settleCopy (tre [c] [] [] 0 s0) true ≠ tre [c] [] [] 0 s0)
    ∧ settleCopy (tre [copy0 true] [entry0] [] 3 s0) true = tre [copy0 true] [entry0] [] 3 s0
    ∧ (copy0 true).cmd.tag = (⟨true, 3, 0x100000⟩ : TWrite).id ∧ Completion.timeout ≠ .writeFailed
    ∧ partHits read0.dev read0.len 2 = true ∧ s0.dram.bad.contains 2 = false ∧ ([9, 8, 7, 6] : List Byte).length = read0.len
    ∧ [read0].any (·.copy) = true ∧ (Completion.timeout ≠ .data) ∧ ({ read0 with copy := false, last := true, len := 0 } : TRead).copy = false
    ∧ (tre [copy0 false] [] [read0, read0] 0 s0).tre.reads = [read0, read0] ∧ (tre [copy0 false] [] [read0] 0 s0).tre.copies.head? = some (copy0 false) := by
  decide +kernel
/-- R364: the bytes of a completion land at the read's device address. -/
theorem test_completion : (after (.trestleCompletion .data 0 [9, 8, 7, 6]) (tre [copy0 false] [] [read0, read0] 0 s0)).dram.mem
    = [(64, 9), (65, 8), (66, 7), (67, 6)] := by decide +kernel

-- ------------------------------------------------------------------------------------------------ tests, links, firmware, validation

def railsOn (s : State) : State := { s with pw := { s.pw with stage := .ready, rails := true, p12v := true } }
/-- MarchTestsAndDramUpkeep: TARGET 2 at an INDEX and at its last; both modes, without REPAIR; cells reached and not; the scrub modes; a fatal
sector in the range while a plan runs; channels powered. -/
theorem wit_MarchAndUpkeep :
    clean cmdMarchTest [2, 1, 0xFF, 1, 1] [(4, 1), (5, 1), (6, 2), (8, 1)] = true
    ∧ mtTarget (cmdOf cmdMarchTest [2, 1, 0xFF, 1, 1]) = 2 ∧ mtMode (cmdOf cmdMarchTest [2, 1, 0xFF, 1, 1]) = 1
    ∧ mtIndex (cmdOf cmdMarchTest [2, 1, 0xFF, 1, 1]) + 1 = mtLimit (cmdOf cmdMarchTest [2, 1, 0xFF, 1, 1])
    ∧ mtMode (cmdOf cmdMarchTest [2, 0, 5, 0, 0]) = 0 ∧ mtRepair (cmdOf cmdMarchTest [2, 0, 5, 0, 0]) = false
    ∧ mtSram s0 (cmdOf cmdMarchTest [2, 0, 5, 0, 0]) (.bank 5 3) = true ∧ mtSram s0 (cmdOf cmdMarchTest [2, 0, 5, 0, 0]) (.bank 6 3) = false
    ∧ ({ s0.ks with marchTag := some (cmdOf cmdMarchTest [2, 0, 5, 0, 0]) } : Keystone).marchTag ≠ none
    ∧ payAt (cmdOf cmdMemoryScrub (leBytes 4 0 ++ leBytes 8 mib ++ leBytes 8 mib)) 8 8 ≤ mib ∧ mib < mib + mib
    ∧ channelOf 0 = 0 ∧ channelAddr 0 / 1024 = tabGet 0 s0.dram.scrubPos 0 ∧ planState (inState plRunning (railsOn s0)) = plRunning
    ∧ payAt (cmdOf cmdMarchTest [2, 1, 0xFF, 1, 1]) 8 1 ≤ 1 ∧ notReady s0.host = false ∧ planState s0 = plNone ∧ s0.ks.marchTag = none
    ∧ clean cmdMemoryScrub [2] [(4, 1), (8, 8), (0x10, 8)] = true ∧ payAt (cmdOf cmdMemoryScrub [2]) 4 1 = 2
    ∧ payAt (cmdOf cmdMemoryScrub [1]) 4 1 = 1
    ∧ clean cmdMemoryScrub (leBytes 4 0 ++ leBytes 8 mib ++ leBytes 8 (reservedStart - mib)) [(4, 1), (8, 8), (0x10, 8)] = true
    ∧ reservedStart % mib = 0 ∧ s0.dram.bad = [] ∧ (railsOn s0).pw.rails = true ∧ s0.dram.selfRef = false
    ∧ ({ s0.dram with scrubOn := true } : Dram).scrubOn = true := by decide +kernel
/-- R308: a refresh passes from the last row of a bank to its first. -/
theorem test_refresh_wraps :
    (after (.dramRefresh 1023 31) { railsOn s0 with dram := { s0.dram with refRow := [(32767, bankRows - 1)] } }).dram.refRow = [] := by
  decide +kernel

/-- RING_FORM of one device with tag 7 (Table 16-8). -/
def formPay : List Byte :=
  leBytes 4 7 ++ [1, 1, 1, 0, 0, 0, 0, 0] ++ leBytes 2 1 ++ leBytes 2 1 ++ leBytes 2 0 ++ leBytes 2 1 ++ zeros 20
/-- LinkCommands: all ports named; a body in range and one out of range. -/
theorem wit_LinkCommands :
    clean cmdLinkControl [0xFF, 0] [(4, 1), (5, 1)] = true ∧ payAt (cmdOf cmdLinkControl [0xFF, 0]) 4 1 ≠ 0 ∧ lcAction (cmdOf cmdLinkControl [0xFF, 0]) = 0
    ∧ clean cmdRingForm formPay formFields = true ∧ planState s0 = plNone ∧ checkFormation (formationOf (cmdOf cmdRingForm [])) = none
    ∧ (checkFormation (formationOf (cmdOf cmdRingForm formPay))).map (·.shape) = some 0 ∧ linkBusy s0 = false ∧ s0.host.long = [] := by
  decide +kernel
/-- R341: a device alone forms its group at once. -/
theorem test_form_alone :
    (after (.ringForm 3) (serving cmdRingForm formPay s0)).via.formed.map (fun f => (f.tag, f.length, f.pos)) = some (7, 1, 0) := by decide +kernel

def stagePay : List Byte := leBytes 4 63 ++ leBytes 8 0 ++ leBytes 8 512
/-- FirmwareCommands: an image in a bound region; the update path taken; components staged. -/
theorem wit_Firmware :
    clean cmdFwStage stagePay [(4, 1), (8, 8), (0x10, 8)] = true ∧ (bound s0).toll.update = .none ∧ (bound s0).host.long = [] ∧ regionAddr (bound s0) 63 0 512 = some 0x100000
    ∧ (let c := cmdOf cmdFwStage stagePay
       let s : State := { s0 with toll := { s0.toll with update := .inBand c }, host := { s0.host with long := [c] } };
       s.toll.update = .inBand c ∧ s.host.long = [c] ∧ imgComponent (([] : List Byte).take (payAt c 0x10 8) ++ zeros (payAt c 0x10 8)) < 3)
    ∧ clean cmdFwActivate [7] [(4, 1)] = true ∧ payAt (cmdOf cmdFwActivate [7]) 4 1 = 7 ∧ planState (inState plLoaded s0) ≠ plNone
    ∧ planState s0 = plNone
    ∧ (∀ k, k < 3 → (payAt (cmdOf cmdFwActivate [7]) 4 1).testBit k = true → ({ s0.toll with staged := 7 } : Toll).staged.toNat.testBit k = true) := by
  and_intros <;> decide +kernel

/-- The least plan image of Tables 3-2, 3-3 and 3-11: one phase of one setup record (port presets), one descriptor, its step-closing PIER. -/
def imageBytes : List (Nat × List Byte) :=
  let sect := fun i off count size => (0x40 + 16 * i, leBytes 8 off ++ leBytes 4 count ++ leBytes 4 size)
  [(0x00, leBytes 4 0x4E414C50 ++ leBytes 2 3 ++ leBytes 2 0 ++ leBytes 4 256), (0x10, leBytes 8 0x1600), (0x20, leBytes 2 1), (0x24, leBytes 2 1),
   (0x28, leBytes 2 1 ++ leBytes 2 1), (0x30, leBytes 4 7), sect 0 0x100 0 32, sect 1 0x100 1 16, sect 2 0x500 1 256, sect 3 0x200 1 128,
   sect 4 0x300 1 16, sect 5 0x400 0 32, sect 6 0x400 0 1, (0xB0, leBytes 8 0x600 ++ leBytes 4 4096),
   (0x100, leBytes 4 1 ++ leBytes 4 0 ++ leBytes 2 1), (0x500, leBytes 2 3 ++ leBytes 2 0 ++ leBytes 2 8), (0x200, leBytes 2 opPier ++ leBytes 2 0 ++ leBytes 4 1), (0x20C, [1, 0xFF]), (0x300, leBytes 4 1)]
/-- The image at address 0 of a device in a group of one. -/
def imageMem : Tab Byte := imageBytes.foldl (fun m x => tabPut m x.1 x.2) []
def oneRing : Formation :=
  { tag := 7, dims := ⟨1, 1, 1⟩, coord := origin, length := 1, groups := 1, groupIdx := 0, head := 1, shape := 0, snakeW := 0, origin := origin,
    epoch := 0, exclude := 0, pos := 0, plusPort := 0, minusPort := 1 }
def loading : State :=
  let s := inState plLoading s0
  { s with ks := { s.ks with loading := some 0 }, dram := { s.dram with mem := imageMem }, via := { s.via with formed := some oneRing, given := some oneRing, coord := some origin, dims := some ⟨1, 1, 1⟩ } }
/-- The state once the image's sectors have been read. -/
def met (s : State) : State := touchSectors s (rangeHits 0 (hdr s.dram.mem 0 0x10 8))
/-- ValidationEnds: an image that passes every check, and one of zeros that fails check 1 at the MAGIC. -/
theorem wit_ValidationEnds :
    loading.ks.loading = some 0 ∧ planState loading = plLoading ∧ (validateImage (met loading) 0 loading.via.given loading.via.bypass).isOk = true
    ∧ (match validateImage (met (listed [] loading)) 0 loading.via.given loading.via.bypass with | .error f => (f.check, f.index) | .ok _ => (0, 0)) = (1, 0) := by
  decide +kernel

-- ------------------------------------------------------------------------------------------------ operators

def bankOp (b : Nat) : List Byte := leBytes 2 bankOperand ++ [0, BitVec.ofNat 8 b] ++ zeros 12
/-- Operand `k` of a body of `n` is bank 0 of the span; the others are absent; `rest` follows. -/
def bankBody (n k : Nat) (rest : List Byte) : List Byte :=
  (List.range n).flatMap (fun j => if j = k then bankOp 0 else opnd noOperand 0) ++ rest
/-- A descriptor with this body runs on span 0, whose bank 0 has this segment tag and whose banks have this owner, but for the
line bank of a POOL, which is the matrix engine's (R255). -/
def opState (op : Nat) (body param : List Byte) (xs : List Xfer) (owner tag : Nat) : State :=
  let s := withIssued [issued 1 [] [0]] (loaded plRunning { planOf 1 [desc op 1 1 body] with param := param, xfers := xs } s0)
  { s with sp := { s.sp with owners := [0, 1, 2, 3].foldl (fun t k => tabSet 0 t k (if op = opPool ∧ k = 1 then 1 else owner)) [], tags := tabSet 0 [] 0 (BitVec.ofNat 32 tag) } }
/-- The tag of the running segment in these states (R106). -/
def tagNow : Nat := (currentTag (opState 0 [] [] [] 0 0)).toNat
/-- The pass is due, the banks are owned or not, and the operands meet a status or none: hypotheses of OperatorRow. -/
def passMeets (op : Nat) (uses : State → Plan → Desc → Nat → List Use) (owned fails : Bool) (s : State) : Bool :=
  match running s 1 with
  | none => false
  | some (p, d, i) =>
    let e := partDesc p d 0
    let us := present (uses s p e 0)
    decide (d.opcode = op ∧ i.passesRun.length = 0 ∧ 0 < passesOf p 1) && partTurn s p d 0 && banksOwned s e us == owned
      && (operandStatus (touchSectors s (usesSector s p e us)) p e us != 0) == fails
/-- The three cases of OperatorRow: a bank of another owner, a stale bank, and neither. -/
def rowMeets (op : Nat) (uses : State → Plan → Desc → Nat → List Use) (body param : List Byte) (owner : Nat) : Bool :=
  passMeets op uses false false (opState op body param [] 7 tagNow) && passMeets op uses true true (opState op body param [] owner 77)
    && passMeets op uses true false (opState op body param [] owner tagNow)
/-- The further cases of MovingRow: the work ends, or an entry of the transfer table is still to come. -/
def workEnds (op : Nat) (work : State → Plan → Desc → State × Bool) (body : List Byte) (xs : List Xfer) (owner : Nat) : Bool :=
  let s := opState op body [] xs owner tagNow
  match running s 1 with
  | none => false
  | some (p, d, _) =>
    let e := partDesc p d 0
    passMeets op (fun _ p d _ => descUses p d) true false s && (work (cacheReads s p 1 (unitSpans e) (descUses p e)) p e).2
def oneXfer : List Xfer := [{ seq := 1, kind := 1, port := 0, cls := 0, peer := 0, msgSeq := 1, len := 4 }]
def movingMeets (op : Nat) (work : State → Plan → Desc → State × Bool) (body : List Byte) (owner : Nat) : Bool :=
  rowMeets op (fun _ p d _ => descUses p d) body [] owner && workEnds op work body [] owner
    && passMeets op (fun _ p d _ => descUses p d) true false (opState op body [] oneXfer owner tagNow) && !workEnds op work body oneXfer owner

theorem wit_DenseAndUpdate :
    rowMeets opMatmul (fun _ p d _ => matmulUses p d) (bankBody 8 0 []) [] 1 = true ∧ rowMeets opDgrad (fun _ p d _ => matmulUses p d) (bankBody 8 0 []) [] 1 = true
    ∧ rowMeets opWgrad (fun _ p d _ => matmulUses p d) (bankBody 8 0 []) [] 1 = true ∧ rowMeets opReduce (fun _ p d _ => reduceUses p d) (bankBody 8 0 []) [] 1 = true
    ∧ rowMeets opCopyConvert (fun _ p d _ => copyConvertUses p d) (bankBody 8 0 []) [] 0 = true
    ∧ rowMeets opUpdateElem (fun s p d _ => updateRunUses s p d) (bankBody 8 0 []) [] 2 = true
    ∧ rowMeets opUpdateMatrix (fun s p d _ => updateRunUses s p d) (bankBody 8 0 []) [] 2 = true
    ∧ rowMeets opNormProbe (fun _ p d _ => normProbeUses p d) (bankBody 8 0 []) [] 2 = true := by decide +kernel
/-- One row and one key of one head of 4 elements (Tables 8-2 and 8-5). -/
def attnBody : List Byte := bankBody 5 0 (leBytes 4 0 ++ leBytes 4 1 ++ leBytes 4 1)
def attnParam : List Byte := leBytes 2 1 ++ leBytes 2 1 ++ leBytes 2 4 ++ zeros 186
/-- A window of one element over a map of one element of two channels, line bank 1 (Table 12-2). -/
def windowParam : List Byte :=
  leBytes 4 1 ++ leBytes 4 1 ++ [1, 2, 3, 4, 5, 6].flatMap (fun _ => leBytes 2 1) ++ zeros 16 ++ leBytes 2 2 ++ leBytes 2 2 ++ leBytes 2 1
    ++ leBytes 2 1 ++ zeros 12 ++ [1, 0] ++ zeros 6 ++ opnd noOperand 0 ++ opnd noOperand 0
theorem wit_AttentionDecodePrefix :
    rowMeets opAttnFwd (fun _ p d _ => attnFwdUses p d) attnBody attnParam 3 = true ∧ rowMeets opAttnBwd (fun _ p d _ => attnBwdUses p d) attnBody attnParam 3 = true
    ∧ rowMeets opMatvec (fun s p d _ => matvecActive s p d) (bankBody 4 1 []) [] 1 = true
    ∧ rowMeets opAttnDecode (fun s p d _ => decodeUses s p d) (bankBody 4 9 []) (zeros 48 ++ bankOp 0) 3 = true
    ∧ rowMeets opPrefixLookup (fun s p d _ => lookupUses s p d) (bankBody 8 1 []) [] 0 = true
    ∧ rowMeets opPrefixInsert (fun s p d _ => insertUses s p d) (bankBody 8 1 []) [] 0 = true := by decide +kernel
theorem wit_VectorAndWindow :
    rowMeets opVecProgram (fun _ p d _ => vecProgramUses p d) (bankBody 8 0 []) [] 2 = true ∧ rowMeets opScan (fun _ p d _ => scanUses p d) (bankBody 8 0 []) [] 2 = true
    ∧ rowMeets opSegScan (fun _ p d _ => scanUses p d) (bankBody 8 0 []) [] 2 = true ∧ rowMeets opAffineScan (fun _ p d _ => affineUses p d) (bankBody 8 0 []) [] 2 = true
    ∧ rowMeets opConvTaps (fun _ => windowPassUses) (bankBody 4 0 []) windowParam 1 = true ∧ rowMeets opPool (fun _ => windowPassUses) (bankBody 4 0 []) windowParam 2 = true := by
  decide +kernel
theorem wit_Moving :
    movingMeets opRingPass ringPassWork (bankBody 8 0 []) 4 = true ∧ movingMeets opWeightChain weightChainWork (bankBody 3 0 []) 0 = true
    ∧ movingMeets opCollective collectiveWork (bankBody 3 0 []) 0 = true
    ∧ movingMeets opGlobalNorm globalNormWork (bankBody 2 0 (zeros 10 ++ [1])) 2 = true
    ∧ movingMeets opOffload trestleWork (bankBody 2 0 []) 0 = true
    ∧ movingMeets opPrefetch trestleWork (bankBody 2 1 (zeros 18 ++ [1])) 0 = true := by decide +kernel

/-- A MATMUL of one by one by one, A and B and OUT in buffer 0. -/
def oneProduct : State :=
  listed (tabPut [] 0x100000 (leBytes 4 0x40400000))
    (withIssued [issued 1 [] [0]] (loaded plRunning (planOf 1 [desc opMatmul 1 1 (mmBody 0 1 1 1 0)]) s0))
/-- MatmulStoresItsProduct: all its premises, in a state whose operands are dense and whole. -/
theorem wit_MatmulStores :
    passMeets opMatmul (fun _ p d _ => matmulUses p d) true false oneProduct = true ∧ Memory.wf oneProduct = true
    ∧ (match running oneProduct 1 with
        | some (p, d, _) => decide (splitRun p d = none ∧ mmAccOut d = 0 ∧ fmtOf (mmOut d).fmt = some .fp32 ∧ (mmOut d).stream = 0
            ∧ (mmOut d).skip = 0 ∧ isBank (mmOut d) = false ∧ p.bufs[(mmOut d).handle]? = some (buf 0))
        | none => false) = true := by decide +kernel
/-- R155: 3 × 3 = 9, and its pass is recorded. -/
theorem test_matmul : memNat (after (.matmul 1 0) oneProduct).dram.mem 0x100000 4 = 0x41100000
    ∧ (issuedOf (after (.matmul 1 0) oneProduct) 1).map (·.passesRun) = some [0] := by decide +kernel

-- ------------------------------------------------------------------------------------------------ plan execution

/-- A COPY_CONVERT on spans 0 to n − 1, then the step-closing PIER. -/
def twoDescs (n : Nat) : Plan := planOf 1 [desc opCopyConvert 1 n (opnd 0 0 ++ opnd 0 0), desc opPier 2 0 []]
/-- Two phases, the second with its own setup record of kind 4 for bay 0. -/
def twoPhases : Plan := { twoDescs 1 with phases := [⟨1, 0, 1⟩, ⟨2, 1, 1⟩], setups := [⟨3, 0, zeros 8⟩, ⟨4, 0, zeros 64⟩] }
def arming (keys : List Nat) : State :=
  let s := loaded plRunning twoPhases s0
  { s with ks := { s.ks with toArm := keys } }

/-- SetupRecordsShadowAndArm: records not yet written; a block still to arm; the next phase; and blocks of three kinds that arm. -/
theorem wit_SetupRecords :
    (loaded plRunning twoPhases s0).ks.plan = some twoPhases ∧ planState (arming []) = plRunning ∧ (arming []).ks.haltIssue = false
    ∧ ({ (arming []).ks with shadowed := false } : Keystone).shadowed = false ∧ (arming []).ks.shadowed = true
    ∧ (arming [1096]).ks.toArm ≠ [] ∧ (arming []).ks.toArm = [] ∧ nextPhase (arming []) twoPhases = some 1
    ∧ (arming [blockKey (.bankTable 511)]).ks.toArm.contains (blockKey (.bankTable 511)) = true
    ∧ (arming [blockKey (.regulator 31)]).ks.toArm.contains (blockKey (.regulator 31)) = true
    ∧ (arming [blockKey (.port 7)]).ks.toArm.contains (blockKey (.port 7)) = true ∧ (arming []).ks.issued = []
    ∧ unissuedBefore (arming []) twoPhases = [] ∧ (portOf (arming []) 7).retry = [] ∧ (arming []).ks.reshardW = none ∧ tabWf 0 (arming []).sp.owners = true
    ∧ tabWf 0 (arming []).ks.armed.owners = true ∧ tabWf 0 (arming []).ks.armed.regs = true ∧ tabWf 700 (arming []).sp.volts = true
    ∧ tabWf 0 (arming []).ks.armed.chans = true ∧ tabWf 0 (arming []).ks.armed.ports = true
    ∧ tabGet 0 ({ BlockCfg.reset with regs := [(31, 850)] } : BlockCfg).regs 31 ≠ 0 := by decide +kernel

/-- Table 2-3: under P-READ the first slot of a channel carries reads and the fifth writes. -/
theorem test_preset :
    (let s := arming [blockKey (.channel 1023)]
     let t := after (.blockArm (.channel 1023)) { s with ks := { s.ks with shadow := { s.ks.shadow with chans := [(1023, 1)] } } }
     (dramSlot t 1023 0, dramSlot t 1023 4, dramSlot t 0 4)) = (.read, .write, .write) := by decide +kernel
def queued (p : Plan) (q : Tab (List Nat)) (l : List Issued) : State :=
  let s := withIssued l (loaded plRunning p s0)
  { s with ks := { s.ks with queues := q, nextSeq := l.length + 1 } }
def keystoneDesc : Plan := planOf 1 [desc opCommit 1 0 (opnd 0 0), desc opPier 2 0 []]
/-- DescriptorsIssueAndStart: a full queue and an empty one; a head that may start, with a span beside it, and one that may not (the
plan is paused); a descriptor of the Keystone. -/
theorem wit_IssueAndStart :
    descAt (twoDescs 1) 1 ≠ none ∧ 8 ≤ (tabGet [] (queued (twoDescs 1) [(0, [1, 1, 1, 1, 1, 1, 1, 1])] []).ks.queues 0).length
    ∧ (let s := queued (twoDescs 2) [] [];
       planState s = plRunning ∧ held s = false ∧ s.ks.shadowed = true ∧ s.ks.issueOrder ≤ s.ks.order ∧ s.ks.updMap = [] ∧ s.ks.accLost = false
        ∧ (match descAt (twoDescs 2) s.ks.nextSeq with
            | some d => windowOpen s (twoDescs 2) d && (targets d).all fun x => decide ((tabGet [] s.ks.queues x).length < 8)
            | none => false) = true)
    ∧ (let s := queued (twoDescs 2) [(0, [1]), (1, [1])] [issued 1 [0, 1] []];
       (tabGet [] s.ks.queues 0).head? = some 1 ∧ issuedOf s 1 = some (issued 1 [0, 1] [])
        ∧ (match descAt (twoDescs 2) 1 with
            | some d => mayStart s (twoDescs 2) d (issued 1 [0, 1] []) && runBoundary s (twoDescs 2) d 0 && d.seq == 1
                && !(mayStart (inState plPaused s) (twoDescs 2) d (issued 1 [0, 1] []))
            | none => false) = true)
    ∧ (let s := queued keystoneDesc [] [issued 1 [512] []];
       s.ks.issued = [issued 1 [512] []] ∧ (issued 1 [512] []).waiting = [ksUnit]
        ∧ (match descAt keystoneDesc 1 with | some d => mayStart s keystoneDesc d (issued 1 [512] []) | none => false) = true) := by
  and_intros <;> first | decide +kernel | rfl
/-- R50: DESCRIPTOR_ISSUE puts SEQ 1 in the queues of both target spans. -/
theorem test_issue : (after .descriptorIssue (queued (twoDescs 2) [] [])).ks.queues = [(0, [1]), (1, [1])] := by decide +kernel
/-- DescriptorsComplete: the work done on the only unit, and with another unit still running; a failing status. -/
theorem wit_DescriptorsComplete :
    (let s := withIssued [{ issued 1 [] [0] with passesRun := [0] }] (loaded plRunning (twoDescs 1) s0);
      (match descAt (twoDescs 1) 1, issuedOf s 1 with
        | some d, some i => decide (i.running.contains 0 = true ∧ i.status = 0 ∧ d.opcode ≠ opPier ∧ d.opcode ≠ opCommit ∧ i.waiting = []
            ∧ d.seq = 1 ∧ isReport d = false ∧ inUpdatePhase (twoDescs 1) 1 = false ∧ i.running = [0]) && workDone s (twoDescs 1) d i
        | _, _ => false) = true)
    ∧ (let s := withIssued [{ issued 1 [] [0, 1] with passesRun := [0] }] (loaded plRunning (twoDescs 2) s0);
      (match descAt (twoDescs 2) 1, issuedOf s 1 with
        | some d, some i => workDone s (twoDescs 2) d i && i.running.any (· != 0)
        | _, _ => false) = true)
    ∧ isInformational 0x50 = false ∧ (0x50 : Byte) ≠ 0 := by decide +kernel
/-- R51: the last report ends the descriptor. -/
theorem test_complete :
    issuedOf (after (.descriptorComplete (some 0) 1 0) (withIssued [{ issued 1 [] [0] with passesRun := [0] }] (loaded plRunning (twoDescs 1) s0))) 1
      = none := by decide +kernel

/-- Bank 3 of span 0 goes from master 0 to master 1. -/
def handover : Plan := planOf 1 [desc opBankHandover 1 1 ([1, 0, 0, 0] ++ [3, 0, 1, 0])]
def handing (owner : Nat) : State :=
  let s := withIssued [issued 1 [] [0]] (loaded plRunning handover s0)
  { s with sp := { s.sp with owners := tabSet 0 [] 3 owner } }
theorem wit_BanksHandedOver :
    (match issuedPlan (handing 0) 1 with
      | some (p, d, i) => decide (i.running.contains 0 = true ∧ d.opcode = opBankHandover ∧ hoEntries d = [(3, (0, 1))] ∧ (hoEntries d).map (·.1) = [3] ∧ i.handed = [] ∧ i.passesRun = [] ∧ d.seq = 1 ∧ 0 < passesOf p 1)
          && partTurn (handing 0) p d 0 && masterDone (handing 0) p d 0 0 3 0
      | none => false) = true
    ∧ tabGet 0 (handing 0).sp.owners 3 = 0 ∧ tabGet 0 (handing 2).sp.owners 3 ≠ 0 ∧ tabWf 0 (handing 0).sp.owners = true := by decide +kernel
theorem test_handover : (after (.bankHandover 1) (handing 0)).sp.owners = [(3, 1)] := by decide +kernel

-- ------------------------------------------------------------------------------------------------ piers, commit, re-shard moves

def pairPlan (ds : List Desc) : Plan := planOf 2 ds
def pierAlone : State := withIssued [issued 1 [] [512]] (loaded plRunning onePier s0)
def pierPair : State := withIssued [issued 1 [] [512]] (loaded plRunning (pairPlan [desc opPier 1 0 []]) (pair s0))
def commitPlan : Plan := planOf 1 [desc opPier 1 0 [], desc opCommit 2 0 (opnd 1 0 ++ opnd 0 0), desc opPier 3 0 []]
def withDones (l : List (Nat × Nat)) (s : State) : State := { s with grp := { s.grp with dones := l } }
def heldPier (st : PierStage) (s : State) : State := { s with ks := { s.ks with pierWork := some { seq := 1, index := 0, stage := st } } }
/-- PiersAreWrittenAndEnded: a pier of a device alone and of a pair; one with a lower descriptor outstanding; the coordinator with and
without every PIER_DONE; a member that is not the coordinator; a watermark seen before, and one for a member that holds. -/
theorem wit_Piers :
    (running pierAlone 1).isSome = true ∧ pierBySeq onePier 1 = some ⟨1, 0, 1⟩ ∧ pierAlone.ks.pierWork = none ∧ pierAlone.grp.rewindW = none
    ∧ pierAlone.ks.reshardW = none ∧ pierAlone.ks.issued.all (fun j => decide (1 ≤ j.seq)) = true
    ∧ (let w := fun (s : State) (p : Plan) =>
         let v := runContexts (carryForward (noteUnmirrored s) p) p 1
         mirrorPort (journalWrite v 0 (pierRecord v p ⟨1, 0, 1⟩));
       w pierAlone onePier = none ∧ w pierPair (pairPlan [desc opPier 1 0 []]) = some 1)
    ∧ (updatePier onePier).any (fun x => x.seq == 1) = false ∧ (updatePier { commitPlan with piers := [⟨1, 0, 0⟩, ⟨3, 1, 1⟩] }).any (fun x => x.seq == 1) = true
    ∧ (running (withIssued [issued 1 [] [0], issued 2 [] [512]] (loaded plRunning (twoDescs 1) s0)) 2).isSome = true
    ∧ jOk pierPair jmsg = true ∧ pierPair.grp.count ≤ jmsg.count ∧ isCoord pierPair = true
    ∧ isCoord { pierPair with grp := { pierPair.grp with coord := 1 } } = false
    ∧ (List.range 2).all (fun r => ((jmsg.sender, 0) :: (withDones [(0, 0)] pierPair).grp.dones).contains (r, 0)) = true
    ∧ ((jmsg.sender, 0) :: pierPair.grp.dones).contains (0, 0) = false
    ∧ ({ pierPair.grp with flooded := [(6, (0, stepKey 0 0))] } : Group).flooded.contains (6, jmsg.count, stepKey 0 0) = true
    ∧ pierPair.grp.flooded.contains (6, jmsg.count, stepKey 0 0) = false
    ∧ (heldPier .holding pierPair).ks.pierWork = some { seq := 1, index := 0, stage := .holding } := by decide +kernel
/-- Table 19-3: a device alone writes and completes the pier at once; the step closes. -/
theorem test_pier_alone : (after (.pier 1) pierAlone).ks.lastPier = some 0 ∧ (after (.pier 1) pierAlone).ks.issued = []
    ∧ (after (.pier 1) pierAlone).ks.stepsClosed = 1 := by decide +kernel

/-- PaceMatchingAndBearings: a group of one whose time is held; a bearing with and without a waiting descriptor; a segment time that has
gone round, and one that goes on. -/
theorem wit_PaceMatching :
    (let s : State := { loaded plRunning onePier s0 with ks := { (loaded plRunning onePier s0).ks with lastPier := some 0 }, sp := { s0.sp with segTimes := [(0, (0, 100))] } };
      s.ks.lastPier = some 0 ∧ s.ks.pace.1 = 0 ∧ timesOf s 0 = [(0, 100)] ∧ tabWf 700 s.sp.volts = true ∧ planState s = plRunning)
    ∧ ((railsOn s0).pw.stage ≠ .off ∧ bearingHeld (railsOn s0) .pcie = false ∧ bearingHeld s0 (.dram 1023) = true)
    ∧ s0.ks.plan = none ∧ ctl0.tag = BitVec.ofNat 32 (pairPlan []).groupTag ∧ 1 ≠ (pairPlan []).ringPos
    ∧ ((pairPlan []).ringPos + 1) % 2 = 1 ∧ ((planOf 3 []).ringPos + 1) % 3 ≠ 2
    ∧ ({ s0.via with formed := some oneRing } : Viaduct).formed = some oneRing := by
  and_intros <;> first | decide +kernel | rfl

/-- BeatAdvancesAndMarkers: no upstream; an upstream, early, late and in step, with a correction due and not due; a number to adopt, adopted
before and not; a port that trains; markers sent 1,023 beats ago; a marker of the upstream, measured, near and far. -/
def follows (diff : Int) (since : Nat) : State :=
  { railsOn (withPorts [(0, portUp)] s0) with beat := { s0.beat with upstream := some 0, diff := diff, sinceCorr := since, delays := [(0, 40)] } }
theorem wit_Beat :
    (railsOn s0).pw.stage ≠ .off ∧ s0.beat.upstream = none ∧ (follows 3 16).beat.upstream ≠ none ∧ 16 ≤ (follows 3 16).beat.sinceCorr
    ∧ 2 < (follows 3 16).beat.diff ∧ (follows (-3) 16).beat.diff < -2 ∧ (follows 3 15).beat.sinceCorr < 16 ∧ (follows 2 16).beat.diff ≤ 2
    ∧ ({ (follows 2 16).beat with lead := some 7 } : Beat).lead = some 7 ∧ (follows 2 16).beat.locked = false ∧ (follows 2 16).beat.adopted = false
    ∧ ({ (follows 2 16).beat with adopted := true } : Beat).adopted = true ∧ (follows 2 16).beat.lead = none
    ∧ (nearestBeat (203 - marker0.txOffset - 40) marker0.beat).1.natAbs ≤ 2 ∧ 2 < (nearestBeat (206 - marker0.txOffset - 40) marker0.beat).1.natAbs
    ∧ linkedPorts (follows 0 16) ≠ [] ∧ (follows 0 16).beat.markerAt = none ∧ tabWf Port.reset (follows 0 16).via.ports = true
    ∧ isLinked (follows 0 16) 0 = true ∧ (1023 : W64).toNat < (0 : W64).toNat + 1024 ∧ marker0.echo = false
    ∧ (follows 0 16).beat.upstream = some 0 ∧ ((follows 0 16).beat.delays.find? fun d => d.1 == 0) = some (0, 40) := by decide +kernel
/-- R13: a device that follows none counts beats of 160 periods. -/
theorem test_beat :
    (let t := after (.beatBoundary quiet) (railsOn s0); (t.beat.number, t.beat.ticks, t.beat.length)) = (1, 160, 160) := by decide +kernel

def commits (bad : List Nat) (m : Tab Byte) : State := failing bad (listed m (withIssued [issued 2 [] [512]] (loaded plRunning commitPlan s0)))
/-- CommitPreparesAndFlips: an unreadable CLIP; a step committed already (record 0 holds step 0); a step not committed with no decision
held; one with a decision COMMIT in the journal. -/
def stepOne (s : State) : State := { s with ks := { s.ks with tCounter := 1 } }
theorem wit_Commit :
    (match running (commits [] []) 2 with
      | some (p, d, i) => decide (d.opcode = opCommit ∧ i.status = 0 ∧ operandStatus (commits [] []) p (partDesc p d 0) (descUses p d) = 0
          ∧ operandStatus (commits [] []) p d (descUses p d) = 0 ∧ operandStatus (commits [0x8000] []) p d (descUses p d) ≠ 0)
      | none => false) = true
    ∧ (commits [] []).ks.commitW = none ∧ (commits [] []).grp.rewindW = none
    ∧ (committedRecord (commits [] []) commitPlan).1 = (commits [] []).ks.tCounter.toNat
    ∧ (committedRecord (stepOne (commits [] [])) commitPlan).1 ≠ (stepOne (commits [] [])).ks.tCounter.toNat
    ∧ heldDecision (stepOne (commits [] [])) commitPlan (ownAttempt (stepOne (commits [] [])) commitPlan) = 0
    ∧ (let m := tabPut [] (journalBase + decisionOff commitPlan) (decisionEntry (ownAttempt (stepOne (commits [] [])) commitPlan) true);
       heldDecision (stepOne (commits [] m)) commitPlan (ownAttempt (stepOne (commits [] m)) commitPlan) = 1)
    ∧ heldDecision (stepOne (commits [0x8000] [])) commitPlan (ownAttempt (stepOne (commits [0x8000] [])) commitPlan) = 0
    ∧ (committedRecord (stepOne (commits [0x8000] [])) commitPlan).1 ≠ 1 ∧ (commits [] []).grp.rerun = none
    ∧ issuedOf (commits [] []) 2 = some (issued 2 [] [512]) ∧ tabWf 0 (commits [] []).ks.gens = true ∧ Memory.wf (commits [] []) = true := by
  and_intros <;> first | decide +kernel | rfl

/-- A re-shard image (Table 17-4) at 0x10000000 with one descriptor: 4 bytes from 0x200 to 0x400 within the device. -/
def moveImage : Tab Byte :=
  [(0x200, [1, 2, 3, 4]), (0x1000002C, leBytes 4 1), (0x10000030, leBytes 8 0x100),
   (0x10000100, leBytes 2 opReshardPermute ++ leBytes 2 0 ++ leBytes 4 1), (0x10000120, leBytes 8 0x200 ++ leBytes 8 0x400 ++ leBytes 8 4 ++ leBytes 1 2)].foldl
    (fun m x => tabPut m x.1 x.2) []
def reshardWork (phase : Nat) (joined : Bool) (plan : Option Plan) : ReshardWork :=
  { tag := 3, epoch := 2, mapAddr := 0x10000000, form := oneRing, plan := plan, phase := phase, pier := 0, joined := joined, ranks := [], seen := [],
    early := [], ports := [], moved := 0, bytes := 0, retried := false }
def resharding (w : ReshardWork) (s : State) : State := { s with ks := { s.ks with reshardW := some w } }
/-- ReshardPermutes: a copy within the device, in step 6 and before it, in turn and out of turn; a transfer entry that its peer has filled and
one that it has not; one whose bytes have left and one that waits. -/
theorem wit_ReshardPermutes :
    (imgMoves moveImage 0x10000000)[1 - 1]? = some ⟨1, 0x200, 0x400, 4, 2⟩ ∧ (reshardWork 2 false none).phase ≠ 3
    ∧ (reshardWork 3 false none).phase = 3 ∧ (reshardWork 3 false none).moved + 1 = 1
    ∧ rangeBad (listed moveImage s0).dram.bad 0x200 4 = false ∧ 2 ≠ (reshardWork 3 false none).moved + 1
    ∧ (let x := fun (k : Nat) (sent : Bool) (b : Option (List Byte)) =>
         ({ idx := 2 ^ 32, x := ⟨1, k, 1, 0, 1, 1, 4⟩, ready := false, sent := sent, data := b } : XferRun)
       let s := fun (r : XferRun) => { s0 with ks := { s0.ks with xfers := [r] } }
       received (s (x 1 false none)) (2 ^ 32) = none ∧ received (s (x 1 false (some [1, 2, 3, 4]))) (2 ^ 32) = some [1, 2, 3, 4]
        ∧ xferUsed (trySend (s (x 0 false none)) (2 ^ 32) [1, 2, 3, 4]) (2 ^ 32) = false
        ∧ xferUsed (trySend (s (x 0 true none)) (2 ^ 32) [1, 2, 3, 4]) (2 ^ 32) = true) := by decide +kernel
theorem test_permute :
    tabBytes (after (.reshardPermute 1) (listed moveImage (resharding (reshardWork 3 false none) (loaded plRunning onePier s0)))).dram.mem 0x400 4
      = [1, 2, 3, 4] := by decide +kernel

-- ------------------------------------------------------------------------------------------------ Viaduct

def seqFlit (lseq : Nat) : Flit := { flit0 with lseq := lseq, src := ⟨1, 0, 0⟩ }
def linked (q : Port) : State := withPorts [(0, portUp), (1, q)] { s0 with via := { s0.via with coord := some origin, dims := some ⟨4, 1, 1⟩ } }
def laneFlit (dest : Coord) : Flit := { flit0 with dest := dest, src := ⟨3, 0, 0⟩ }
/-- FlitsAreSequencedAndForwarded: a trained port; a flit in sequence for this device; one out of sequence, in a suspect class and not;
flits to send again, resent seven times and less; a flit with a route that is free and its turn, one whose route is stopped, one addressed
past the torus, and an empty lane. -/
theorem wit_Flits :
    isTrained (linked portUp) 1 = true ∧ tabWf Port.reset (linked portUp).via.ports = true ∧ sequenced (seqFlit 0) = true ∧ (seqFlit 0).cls < 4
    ∧ portUp.rx.length = 4 ∧ portUp.retry = [] ∧ portUp.queue = [] ∧ (seqFlit 0).lseq = portUp.rx.getD 0 0
    ∧ (seqFlit 0).dest = ownCoord (linked portUp) ∧ (seqFlit 0).last = true ∧ (seqFlit 4095).lseq ≠ portUp.rx.getD 0 0
    ∧ ({ portUp with suspect := [0] } : Port).suspect.contains 0 = true ∧ portUp.suspect.contains 0 = false ∧ (linked portUp).ks.rearm = []
    ∧ [0, 1, 2, 3].any (forwardWaits (linked portUp) 1) = false ∧ portUp.again = [] ∧ portUp.resent = [] ∧ portUp.stopped = [] ∧ tabWf 0 ({ portUp with resent := [(5, 6)] } : Port).resent = true
    ∧ (({ portUp with retry := [seqFlit 4, seqFlit 5] } : Port).retry.map flitKey).Nodup ∧ flitKey (seqFlit 5) = 5
    ∧ ({ portUp with resent := [(5, 7)] } : Port).resent.all (fun x => decide (x.2 < 8)) = true
    ∧ tabGet 0 ({ portUp with resent := [(5, 7)] } : Port).resent (flitKey (seqFlit 5)) = 7 ∧ tabGet 0 portUp.resent (flitKey (seqFlit 4)) ≠ 7
    ∧ forwardTurn (linked { portUp with lanes := [laneFlit ⟨1, 0, 0⟩] }) 1 0 0 = true
    ∧ forwardTurn (linked { portUp with lanes := [laneFlit ⟨1, 0, 0⟩] }) 3 0 0 = false
    ∧ (5 : W32) ≠ flitCrc flit0
    ∧ (portOf (linked portUp) 1).lanes = []
    ∧ (({ portUp with lanes := [laneFlit ⟨1, 0, 0⟩] } : Port).lanes.find? fun f => f.cls == 0 && laneOf f == 0) = some (laneFlit ⟨1, 0, 0⟩)
    ∧ (routeTo (linked portUp) ⟨1, 0, 0⟩ (some 1) false false).map (·.port) = some 0
    ∧ maySend (linked portUp) 0 (portOf (linked portUp) 0) (laneFlit ⟨1, 0, 0⟩) = true
    ∧ maySend (linked portUp) 0 { portUp with stopped := [(0, 0)] } (laneFlit ⟨1, 0, 0⟩) = false
    ∧ routeTo (linked portUp) origin (some 1) false false = none := by decide +kernel
/-- R325: an accepted flit advances the LSEQ expected of its class only. -/
theorem test_flit : (portOf (after (.flitReceive 1 true (seqFlit 0) (flitCrc (seqFlit 0))) (linked portUp)) 1).rx = [1, 0, 0, 0] := by decide +kernel
/-- R321: the two parity-checked codewords of a flit are codewords of the RS(544,514) code: every syndrome is zero. -/
theorem test_fec : (rsSyndromes (rsCodeword [1, 2, 3])).all (· == 0) = true := by decide +kernel
/-- R324: CRC-32C of the check string "123456789" is 0xE306_9283 (the standard's check value). -/
theorem test_crc32c : crc32c ([0x31, 0x32, 0x33, 0x34, 0x35, 0x36, 0x37, 0x38, 0x39] : List Byte) = 0xE3069283 := by decide +kernel

def training (retrain : Bool) : Port := { Port.reset with st := .training, retrain := retrain }
theorem wit_PortsTrain :
    isTrained (linked portUp) 1 = true ∧ tabWf Port.reset (linked (training true)).via.ports = true ∧ (training true).st = .training
    ∧ (linked (training true)).via.linkTag = none ∧ (training true).queue = [] ∧ (([3, 3] : List Nat).filter (· < 9)).eraseDups.length ≤ 1
    ∧ 2 ≤ (([0, 8] : List Nat).filter (· < 9)).eraseDups.length ∧ (training true).peer = none ∧ (linked (training false)).ks.plan = none
    ∧ (linked (training true)).via.formW = none ∧ (linked (training true)).ks.rearm = [] ∧ ((training true).retry.map flitKey).Nodup ∧ (training true).retrain = true ∧ (training false).retrain = false ∧ (training true).stopped = []
    ∧ ident0.version = 1 ∧ ident0.port = Nat.xor 0 1 ∧ ident0.port ≠ Nat.xor 1 1 ∧ (linked portUp).via.formed = none ∧ ident0.coordValid = true ∧ ident0.port = Nat.xor 0 1
    ∧ ({ s0.via with formed := some oneRing } : Viaduct).formed ≠ none
    ∧ (List.range 0).all (fun m => (portOf (linked portUp) m).peer.isNone) = true := by decide +kernel
/-- R333: a port whose nine lanes lose one trains on the spare. -/
theorem test_training : (portOf (after (.portTrainingComplete 1 [3] 500) (linked (training false))) 1).spare = true := by decide +kernel

def recv (data : Option (List Byte)) : XferRun := { idx := 0, x := { seq := 1, kind := 1, port := 1, cls := 0, peer := 1, msgSeq := 5, len := 4 }, ready := false, sent := false, data := data }
def send0 : XferRun := { idx := 0, x := { seq := 1, kind := 0, port := 1, cls := 0, peer := 1, msgSeq := 5, len := 4 }, ready := false, sent := false, data := none }
def paired (xs : List XferRun) : State :=
  let s := pair (loaded plRunning (pairPlan [desc opRingPass 1 1 []]) s0)
  { s with ks := { s.ks with xfers := xs } }
def dataMsg (q len : Nat) : DataMsg := { port := 1, src := ⟨1, 0, 0⟩, cls := 0, msgSeq := q, epoch := 1, tag := 7, step := 0, bytes := zeros len }
def ctl1 : Ctl := { port := 1, src := ⟨1, 0, 0⟩, tag := 7, status := 0 }
def rewinding (st : RewindStage) (s : State) : State :=
  { s with grp := { s.grp with rewindW := some { count := 1, cause := 0x40, coord := 0, need := 0, stage := st, replaced := none, reports := [] } } }
/-- DataMessagesAreDelivered: from REWIND to RESTART; no entry; an entry that fits, and one of another length; the same for RECEIVE_READY. -/
theorem wit_DataMessages :
    discarding (rewinding .quiet (paired [])) = true ∧ discarding (paired []) = false ∧ rankAt (paired []) (dataMsg 5 4).src = some 1
    ∧ ((paired []).ks.xfers.find? fun x => x.x.msgSeq == 5) = none
    ∧ ((paired [recv none]).ks.xfers.find? fun x => x.x.kind == 1 && x.x.cls == (dataMsg 5 4).cls
        && rankAt (paired [recv none]) (dataMsg 5 4).src == some x.x.peer && x.x.msgSeq == (dataMsg 5 4).msgSeq && x.data.isNone) = some (recv none)
    ∧ (dataMsg 5 4).bytes.length = (recv none).x.len ∧ (dataMsg 5 4).tag.toNat = (pairPlan []).groupTag
    ∧ (dataMsg 5 4).epoch.toNat = epochNow (paired []) ∧ (dataMsg 5 3).bytes.length ≠ (recv none).x.len
    ∧ ctl1.tag = BitVec.ofNat 32 (pairPlan []).groupTag ∧ (paired []).ks.reshardW = none
    ∧ ((paired [send0]).ks.xfers.find? fun x => x.x.kind == 0 && x.x.peer == 1 && x.x.cls == 0 && x.x.msgSeq == 5 && !x.ready) = some send0 := by
  decide +kernel
theorem test_delivery : (after (.dataMessageReceive (dataMsg 5 4)) (paired [recv none])).ks.xfers = [recv (some (zeros 4))] := by decide +kernel

-- ------------------------------------------------------------------------------------------------ the group

def pairRing : Formation := { oneRing with dims := ⟨4, 1, 1⟩, length := 4, plusPort := 0, minusPort := 1 }
def forming (seen : List Nat) : State :=
  { linked portUp with via := { (linked portUp).via with formW := some { cmd := cmdOf cmdRingForm [], f := pairRing, seen := seen } },
                       host := { (linked portUp).host with long := [cmdOf cmdRingForm []] } }
/-- GroupsFormAndCompare, first half: the first and the second FORM that agree, and one that does not; a bypass port that may be noted and
one that may not; a FORM that comes before its RING_FORM. -/
theorem wit_GroupsForm :
    isTrained (forming []) 0 = true ∧ hopOf pairRing 0 = true ∧ hopOf pairRing 1 = true ∧ (forming []).ks.reshardW = none
    ∧ formAgrees (forming []) pairRing 0 (.form { ctl0 with port := 0 } 4 (formPos pairRing 0) 0 0xB0 false 5) = 0
    ∧ formAgrees (forming []) pairRing 0 (.form { ctl0 with port := 0 } 5 0 0 0xB0 false 5) ≠ 0
    ∧ (List.range 8).all (fun n => !hopOf pairRing n || n == 0 || [1].contains n) = true
    ∧ (forming []).host.long.all (fun x => x.tag == 3) = true ∧ hopOf pairRing 6 = false ∧ bypassMay (forming []) pairRing = false
    ∧ (let s := withPorts [(0, portUp), (1, portUp), (6, portUp), (7, portUp)] (forming [])
       let f := { pairRing with shape := 1 }
       bypassMay s f = true ∧ bypassRing f = true ∧ bypassMay (forming []) f = false ∧ bypassRing pairRing = false ∧ hopOf f 6 = false
        ∧ isTrained s 6 = true ∧ formAgrees s f 6 (.form { ctl0 with port := 6 } 5 0 0 0xB0 false 5) ≠ 0
        ∧ formAgrees s f 6 (.form { ctl0 with port := 6 } 4 (formPos f 6) 0 0xB0 false 5) = 0)
    ∧ (linked portUp).via.formW = none ∧ (linked portUp).via.formed = none ∧ isTrained (linked portUp) 0 = true := by decide +kernel
def starting (st : StartStage) : State := { paired [] with ks := { (paired []).ks with startStage := some st } }
def comparing (l : List (Nat × List Byte)) : State := { starting .compare with via := { (starting .compare).via with digests := l } }
/-- Second half: a RANK not held and one of another coordinate; the last digest that agrees, and one that does not; each timeout. -/
theorem wit_GroupsCompare :
    ctl1.tag = BitVec.ofNat 32 (pairPlan []).groupTag ∧ groupSize (pairPlan []) = 2 ∧ isTrained (starting .flood) 1 = true
    ∧ coordOfRank { starting .flood with via := { (starting .flood).via with ranks := [] } } 1 = none ∧ coordOfRank (starting .flood) 1 = some ⟨1, 0, 0⟩
    ∧ (⟨1, 0, 0⟩ : Coord) ≠ ⟨2, 0, 0⟩ ∧ (starting .flood).ks.startStage ≠ none ∧ (comparing [(0, digest0)]).ks.startStage = some .compare
    ∧ (comparing [(0, digest0)]).via.digests.all (fun e => e.2 == (pairPlan []).digest) = true
    ∧ (List.range 2).all (fun k => k == 1 || (comparing [(0, digest0)]).via.digests.any fun e => e.1 == k) = true
    ∧ (comparing []).grp.admitting = false ∧ (zeros 48 : List Byte) ≠ (pairPlan []).digest ∧ (paired []).ks.startStage = none
    ∧ planState (paired []) ≠ plLoaded ∧ planState (inState plLoaded (paired [])) = plLoaded := by decide +kernel

def commitPair (pos : Nat) : Plan :=
  { planOf 2 [desc opPier 1 0 [], desc opCommit 2 0 (opnd 1 0 ++ opnd 0 0), desc opPier 3 0 []] with ringPos := pos }
def att1 : Attempt := { step := 1, gen := 1, att := 0 }
def voting (pos : Nat) (prepared : Bool) (rec : Option (Attempt × List (Nat × Nat))) : State :=
  let s := pair (loaded plRunning (commitPair pos) s0)
  let w : CommitWork := { seq := 2, a := att1, digest := digest0, prepared := prepared, deciding := none, lead := none, begun := true, join := none }
  { s with ks := { s.ks with commitW := some w, recovery := rec } }
/-- VotesAndRecoveryDecide: before and after the own step 1, at rank 0 and at rank 1; an earlier attempt; a recovery not heard of, heard of,
with replies that carry a decision and with none, and with a member of lower rank. -/
theorem wit_Votes :
    (voting 0 false none).ks.commitW.map (fun w => (w.prepared, w.deciding)) = some (false, none) ∧ (voting 0 true none).ks.commitW.map (·.prepared) = some true
    ∧ ctl1.tag = BitVec.ofNat 32 (commitPair 0).groupTag ∧ commitSeq (commitPair 0) ≠ none ∧ rankOf (commitPair 0) = 0 ∧ rankOf (commitPair 1) ≠ 0
    ∧ 1 < groupSize (commitPair 0) ∧ attBefore att0 att1 = true ∧ laterAttempt att1 { att1 with att := 1 } = true
    ∧ (voting 0 true none).ks.commitW.map (fun w => (w.begun, w.join)) = some (true, none) ∧ (voting 0 true none).ks.recovery = none
    ∧ (voting 0 true (some (att1, [(0, 0), (1, 1)]))).ks.recovery = some (att1, [(0, 0), (1, 1)])
    ∧ ([(0, 0), (1, 1)] : List (Nat × Nat)).find? (fun e => e.2 != 0) = some (1, 1)
    ∧ repliesOf (voting 0 true none) att1 = [] ∧ repliesOf (voting 0 true (some (att1, [(0, 0), (1, 1)]))) att1 = [(0, 0), (1, 1)] ∧ digest0 ≠ []
    ∧ heldDecision (voting 0 true none) (commitPair 0) att1 = 0 ∧ ([(0, 0)] : List (Nat × Nat)).all (fun e => e.2 == 0) = true
    ∧ ([(0, 0)] : List (Nat × Nat)).any (fun e => decide (e.1 < rankOf (commitPair 1))) = true := by decide +kernel
/-- Table 14-9 step 4: the leader decides COMMIT when both agreed, and waits for its decision entry to be mirrored. -/
theorem test_vote : (after (.vote ctl1 att1 2 true digest0) (voting 0 true none)).ks.commitW.map (·.deciding) = some (some true) := by decide +kernel

def shardPlan (n pos : Nat) : Plan := { planOf n [desc opPier 1 0 []] with piers := [⟨1, 0, 2⟩], ringPos := pos }
/-- A re-shard image (Table 17-4) of a ring of one that moves nothing. -/
def shardImage : Tab Byte :=
  [(0x10000000, leBytes 4 0x44524853 ++ leBytes 4 2), (0x10000014, leBytes 2 1), (0x10000018, leBytes 2 1), (0x1000001C, leBytes 2 1),
   (0x10000030, leBytes 8 0x100), (0x10000040, leBytes 8 0x100), (0x10000048, leBytes 8 0x100)].foldl (fun m x => tabPut m x.1 x.2) []
def shardPay : List Byte := leBytes 4 2 ++ leBytes 8 0x10000000
def sharding (v : Nat) (m : Tab Byte) : State :=
  let s := serving cmdReshard shardPay (listed m (loaded v (shardPlan 1 0) s0))
  { s with via := { s.via with formed := some oneRing, coord := some origin, dims := some ⟨1, 1, 1⟩ } }
def deciding (pos phase : Nat) (joined : Bool) : State := resharding (reshardWork phase joined (some (shardPlan 2 pos))) (pair (loaded plRunning (shardPlan 2 pos) s0))
/-- ReshardDecides: an image that passes in RUNNING and in PAUSED, one that fails; a re-shard under way; the leader joined in phase 1 and 4, a
member that is not the leader, and a REFUSE of READY. -/
theorem wit_ReshardDecides :
    clean cmdReshard shardPay [(4, 4), (8, 8)] = true ∧ planState (sharding plRunning shardImage) = plRunning
    ∧ planState (sharding plPaused shardImage) = plPaused ∧ (sharding plRunning shardImage).ks.reshardW = none
    ∧ imgStatus (acceptCmd (sharding plRunning shardImage) (cmdOf cmdReshard shardPay)) (shardPlan 1 0) 0x10000000 2 = 0
    ∧ ((sharding plRunning shardImage).via.formed.bind (imgRing (sharding plRunning shardImage).dram.mem 0x10000000)).isSome = true
    ∧ groupSize (shardPlan 1 0) = 1 ∧ imgStatus (acceptCmd (sharding plRunning []) (cmdOf cmdReshard shardPay)) (shardPlan 1 0) 0x10000000 2 ≠ 0
    ∧ (deciding 0 1 true).ks.reshardW ≠ none ∧ rankOf (shardPlan 2 0) = 0 ∧ rankOf (shardPlan 2 1) ≠ 0
    ∧ tokenPhase (reshardWork 1 false (some (shardPlan 2 0))) = some 1 ∧ tokenPhase (reshardWork 4 false (some (shardPlan 2 0))) = some 2
    ∧ (deciding 1 1 true).ks.pauseReq = none ∧ ctl1.status = 0 ∧ 1 < groupSize (shardPlan 2 0) ∧ ctl1.tag = BitVec.ofNat 32 (shardPlan 2 0).groupTag := by
  decide +kernel
/-- Table 17-5: a REFUSE of READY leaves the running plan as it was. -/
theorem test_refuse : (after (.reshardDecision ctl1 2 1 false) (deciding 1 1 true)).ks.reshardW = none := by decide +kernel

-- ------------------------------------------------------------------------------------------------ journal and replay

def jPort (n count : Nat) : JMsg := { port := n, tag := 7, sender := 1, count := count }
def commitMirroring (prepared : Bool) (deciding : Option Bool) : State :=
  let s := pair (loaded plRunning (commitPair 0) s0)
  { s with ks := { s.ks with commitW := some { seq := 2, a := att1, digest := digest0, prepared := prepared, deciding := deciding, lead := none, begun := true, join := none } } }
/-- MirrorsKeepJournals: mirror slot 0 and its last byte; the own journal by the mirror holder's port; each entry that is acknowledged. -/
theorem wit_Mirrors :
    Memory.wf pierPair = true ∧ jOk pierPair (jPort 0 0) = true ∧ jOk pierPair (jPort 1 0) = true ∧ (mirrorOf 0).isSome = true ∧ (mirrorOf 6).isSome = true
    ∧ 0x7FFFFFFF + 1 ≤ 0x80000000 ∧ mirrorPort pierPair = some 1
    ∧ (heldPier .mirroring pierPair).ks.pierWork = some { seq := 1, index := 0, stage := .mirroring }
    ∧ pierBySeq (pairPlan [desc opPier 1 0 []]) 1 = some ⟨1, 0, 1⟩ ∧ (commitMirroring false none).ks.pierWork = none
    ∧ mirrorPort (commitMirroring false none) = some 1 ∧ (commitMirroring true (some true)).ks.commitW.map (·.deciding) = some (some true)
    ∧ pierPair.grp.admitting = false ∧ (portOf pierPair 0).again = [] ∧ (portOf pierPair 0).resent = []
    ∧ (commitMirroring false none).ks.commitW.map (fun w => (w.deciding, w.prepared)) = some (none, false) := by decide +kernel
/-- R373: the bytes lie at the same offset of mirror slot 0. -/
theorem test_mirror_write : (after (.mirrorWrite (jPort 0 0) 16 [1, 2]) pierPair).dram.mem = [(mirrorBase 0 + 16, 1), (mirrorBase 0 + 17, 2)] := by
  decide +kernel

def rewindOf (st : RewindStage) (reports : List (Nat × (Nat × (Nat × Nat)))) (s : State) : State :=
  { s with grp := { s.grp with count := 1, rewindW := some { count := 1, cause := 0x40, coord := 0, need := 0, stage := st, replaced := none, reports := reports } } }
def member (s : State) : State := { s with grp := { s.grp with coord := 1 } }
def bothReports : List (Nat × (Nat × (Nat × Nat))) := [(0, (0, (0, 0))), (1, (0, (0, 0)))]
/-- RewindsAreCoordinated: a REWIND of lower and of higher COUNT; flits outstanding or none, at the coordinator and elsewhere; every report
held and one missing, below the replay limit and at it; RESTART seen and not seen; a claim on the own coordinator and on another. -/
theorem wit_Rewinds :
    jOk pierPair (jPort 0 1) = true ∧ takesPart pierPair = true ∧ pierPair.grp.count < (jPort 0 1).count
    ∧ (jPort 0 0).count < (rewindOf .stopping [] pierPair).grp.count ∧ (List.range 8).all (fun n => (portOf pierPair n).retry.isEmpty) = true
    ∧ (portOf (withPorts [(0, { portUp with retry := [flit0] })] pierPair) 0).retry ≠ [] ∧ isCoord (rewindOf .quiet [] pierPair) = true
    ∧ isCoord (member pierPair) = false ∧ (List.range 2).all (fun r => bothReports.any fun x => x.1 == r) = true
    ∧ bothReports.all (fun x => x.2.2.2 != 1) = true ∧ ([] : List (Nat × (Nat × (Nat × Nat)))).any (fun x => x.1 == 1) = false
    ∧ actionHold pierPair = false ∧ (0x40 : Byte).toNat ≠ stReplayFailed ∧ pierPair.grp.coord = 0 ∧ overLimit pierPair none = false ∧ needsRestart pierPair (pairPlan []) = false
    ∧ overLimit { pierPair with ks := { pierPair.ks with limitPier := pierWord none, limitCount := 3 } } none = true
    ∧ (pairPlan []).stepLocal = true ∧ ({ pairPlan [] with stepLocal := false } : Plan).stepLocal = false
    ∧ ({ pierPair.grp with admitting := true } : Group).admitting = true ∧ pierPair.grp.admitting = false
    ∧ (rewindOf .quiet [] (member pierPair)).grp.rewindW.map (·.stage) = some .quiet
    ∧ (rewindOf .quiet [] pierPair).grp.flooded.contains (9, 1, 0) = false
    ∧ ({ pierPair.grp with flooded := [(9, (1, 0))] } : Group).flooded.contains (9, 1, 0) = true ∧ groupSize (pairPlan []) = 2 := by decide +kernel
/-- Table 19-6: with both reports in, the coordinator restarts the group. -/
theorem test_restart :
    (after .quietPeriodEnd (rewindOf .quiet bothReports pierPair)).via.sent.any (fun m => match m.2 with | .restart _ p t _ => p == 0 && t == 0 | _ => false)
      = true := by decide +kernel

def fetching (refresh : Bool) : State := { pierPair with grp := { pierPair.grp with fetches := [(1, (32, 4))], refresh := refresh } }
/-- FetchesRestoreBytes: the last bytes of a kind 2 buffer, past its end, and a buffer of another kind; a fetch outstanding with a port to turn
to and without. -/
theorem wit_Fetches :
    jOk pierPair (jPort 0 0) = true ∧ Memory.wf pierPair = true ∧ (pairPlan []).bufs[1]? = some (buf 2) ∧ (buf 2).size = 4092 + 4
    ∧ (buf 2).size < 4092 + 5 ∧ (buf 0).kind ≠ 2 ∧ (buf 2).kind = 2 ∧ pierPair.dram.bad = [] ∧ pierPair.dram.lost = []
    ∧ ((fetching false).grp.fetches.find? fun f => f.1 == 1 && f.2.1 == 32) = some (1, (32, 4)) ∧ (fetching false).grp.refresh = false
    ∧ pierPair.grp.fetches = [] ∧ (fetching false).grp.fetches ≠ [] ∧ fetchPort (fetching false) ≠ 0 ∧ isTrained (fetching false) 0 = true
    ∧ isTrained (withPorts [(1, portUp)] (fetching false)) 0 = false ∧ groupSize (pairPlan []) ≠ 1 ∧ groupSize onePier = 1
    ∧ (fetching false).grp.rewindW = none ∧ (portOf (fetching false) 0).again = [] ∧ (portOf (fetching false) 0).resent = [] := by decide +kernel
theorem test_fetch_data : (after (.fetchData (jPort 0 0) 1 0 32 [1, 2, 3, 4]) (fetching false)).dram.mem
    = [(0x100020, 1), (0x100021, 2), (0x100022, 3), (0x100023, 4)] := by decide +kernel

def holding (s : State) : State := { s with grp := { s.grp with holdAdmit := true, lostRanks := [1] } }
def admits : State := let s := starting .journal; { s with grp := { s.grp with admitting := true } }
/-- MembersWatchAndAdmit: a member of a running pair with a neighbour; the unit under admission; the mirror holder that holds; the last lost
rank, and one of two. -/
theorem wit_Members :
    takesPart pierPair = true ∧ 1 < groupSize (pairPlan []) ∧ jOk pierPair (jPort 0 0) = true ∧ adjacentRank pierPair 0 = some 1 ∧ 1 ≠ ownRank pierPair
    ∧ pierPair.grp.rewindW = none ∧ pierPair.grp.holdAdmit = false ∧ 1 ∉ pierPair.grp.lostRanks ∧ reshardAt pierPair 5 = false
    ∧ admits.grp.admitting = true ∧ admits.ks.startStage = some .journal ∧ jOk admits (jPort 0 0) = true
    ∧ (holding pierPair).grp.admitting = false ∧ (mirrorOf 0).isSome = true ∧ (holding pierPair).grp.holdAdmit = true ∧ isCoord (holding pierPair) = true
    ∧ (List.range 8).all (fun n => (portOf pierPair n).again.isEmpty && (portOf pierPair n).resent.isEmpty) = true
    ∧ mirrorsUnit { holding pierPair with grp := { (holding pierPair).grp with mirrored := [0] } } (pairPlan [desc opPier 1 0 []]) 0 (mirrorBase 0) = true
    ∧ mirrorsUnit { holding pierPair with ks := { pierPair.ks with stepPier := some 0 } } (pairPlan [desc opPier 1 0 []]) 0 (mirrorBase 0) = false
    ∧ (holding pierPair).grp.lostRanks.filter (· != 1) = [] ∧ ([1, 2] : List Nat).filter (· != 1) ≠ [] := by decide +kernel
theorem test_silent : (after (.silentMember 1) pierPair).grp.rewindW.map (·.count) = some 1 := by decide +kernel

-- ------------------------------------------------------------------------------------------------ the Tollhouse

def hot : Sample := { Sample.zero with bayTemp := List.replicate 31 0 ++ [801] }
/-- A power hold of bay 31 at 600 mV, calm for 15 samples, and its condition released. -/
def calmHold : Hold := ⟨5, 0, baysBits [31], 600, 15, false⟩
def calmCond : HoldCond := ⟨5, 0, [31], 0, false, true⟩
def calmed : State := { railsOn s0 with toll := { s0.toll with holds := [calmHold] } }
/-- SensorsHoldVoltages: a hold at its release, on bay 31. -/
theorem wit_Release :
    ofCond calmCond calmHold = true ∧ holdOn 31 calmHold = true ∧ calmHold ∈ calmed.toll.holds ∧ calmed.ks.pace.1 ≠ 2
    ∧ tabGet 0 calmed.ks.armed.regs 31 = 0 ∧ tabWf 700 calmed.sp.volts = true := by decide +kernel
/-- R399: what pace matching had decided is not restored. -/
theorem test_release : paceVolt (sampleCond calmed calmCond) 31 = 600 ∧ paceVolt (sampleCond calmed calmCond) 30 = 700 := by
  decide +kernel
def floored (c : Comparator) : State := { railsOn s0 with toll := { s0.toll with floors := [floorOf c] } }
/-- SensorsHoldVoltages: a sample with the rails on and off, the last bay one step above 100 °C; every comparator at its last number. -/
theorem wit_Sensors :
    fwRuns (railsOn s0) = true ∧ (railsOn s0).pw.rails = true ∧ s0.pw.rails = false ∧ s0.toll.holds = [] ∧ hot.bayTemp[31]? = some 801
    ∧ (railsOn s0).toll.floors.any (sameFloor (floorOf (.bay 31))) = false ∧ (floored (.hotSpot 3)).toll.floors.any (sameFloor (floorOf (.hotSpot 3))) = true
    ∧ (floored (.dram 15)).toll.floors.any (sameFloor (floorOf (.dram 15))) = true ∧ (floored .current).toll.floors.any (sameFloor (floorOf .current)) = true
    ∧ ({ s0.pw with thermtrip := true } : Power).thermtrip = true := by decide +kernel
/-- Table 20-3: the floor of a bay holds it at 550 mV. -/
theorem test_floor : vSet (after (.hardwareFloor (.bay 31)) (railsOn s0)) 31 = 550 := by decide +kernel

def event0 (sev : Nat) : Event := { status := 0x50, source := 1, severity := sev, unit := 2, code := 3, detail0 := 0, detail1 := 0 }
def window0 (kept extra : Nat) : Window := { source := 1, code := 3, unit := 2, opened := 0, kept := kept, extra := extra, last := event0 2 }
def windowed (kept extra : Nat) (beat : W64) : State :=
  { railsOn s0 with toll := { s0.toll with windows := [window0 kept extra] }, beat := { s0.beat with number := beat } }
/-- EventsAreLogged: severity 3; no window; the 16th and the 17th event of a window; a window that is over and one that is not. -/
theorem wit_Events :
    (railsOn s0).pw.stage ≠ .off ∧ (event0 3).severity = 3 ∧ windowOf (railsOn s0) 1 3 2 = none
    ∧ windowOf (windowed 15 0 1023) 1 3 2 = some (window0 15 0) ∧ windowOver (windowed 15 0 1023) (window0 15 0) = false ∧ (window0 15 0).kept < 16
    ∧ 16 ≤ (window0 16 0).kept ∧ windowOver (windowed 16 0 1024) (window0 16 0) = true ∧ (window0 16 5).extra ≠ 0 ∧ fwRuns (railsOn s0) = true
    ∧ (railsOn s0).toll.flashLog.length + (railsOn s0).toll.sramLog.length ≤ 131072 := by decide +kernel
/-- R403: records are numbered from the counter on. -/
theorem test_event : (after (.eventRecord (event0 3)) (railsOn s0)).toll.sramLog.map (·.seqno) = [0] := by decide +kernel

def running' (u : Update) : State := { railsOn s0 with toll := { s0.toll with update := u } }
/-- DiscoveryRequests and MonitoringAndUpdateRequests: the firmware runs, on SMBus and I3C straps; the ends of the power limit and of the sensor and PDR numbers; each state of
the update path. -/
theorem wit_Management :
    fwRuns (railsOn s0) = true ∧ (railsOn s0).pw.straps.toNat.testBit 0 = false ∧ (1 : Byte) ≠ 0 ∧ (1 : Byte) ≠ 0xFF ∧ 3000 % 10 = 0 ∧ 1500 % 10 = 0
    ∧ 2999 % 10 ≠ 0 ∧ (pldmVersion 5).isSome = true ∧ pldmVersion 7 = none ∧ (running' .none).toll.update = .none ∧ (running' .none).toll.actW = none ∧ (running' .oob).toll.update = .oob
    ∧ (running' .oob).toll.update ≠ .none ∧ imageWhole 2 [] = false ∧ imageWhole 2 (zeros 512) = true ∧ planState (inState plLoaded s0) ≠ plNone
    ∧ planState (railsOn s0) = plNone ∧ (running' .none).toll.staged = 0 ∧ ({ s0.toll with staged := 1 } : Toll).staged ≠ 0
    ∧ ({ s0.pw with stage := .romOnly } : Power).stage = .romOnly := by decide +kernel
theorem test_power_limit : (after (.setNumericEffecterValue 1 3000) (railsOn s0)).toll.limitW = 3000
    ∧ (after (.setNumericEffecterValue 1 1500) (railsOn s0)).toll.limitW = 1500 := by decide +kernel

/-- AttestationRequests: MCTP, and DOE with the link up; algorithms negotiated and not. -/
theorem wit_Attestation :
    spdmUp (railsOn s0) .mctp = true ∧ spdmUp (railsOn s0) .doe = true ∧ s0.toll.negotiated = false
    ∧ ({ s0.toll with negotiated := true } : Toll).negotiated = true := by decide +kernel

-- ------------------------------------------------------------------------------------------------ power, resets, JTAG

/-- An image for stepping B0 of one payload byte (Table 20-11), under a key made for these tests: KEY, then the signature's r and s. The
numbers were computed outside Lean by the rules of RFC 5639 and FIPS 186. -/
def signedImage (comp r w : Nat) : List Byte :=
  leBytes 4 0x4D4E4654 ++ leBytes 2 1 ++ leBytes 1 comp ++ [0] ++ leBytes 4 (comp + 1) ++ zeros 8 ++ [0xB0, 0, 0, 0] ++ leBytes 8 1
    ++ beBytes 48 0x8d2ce87d86f55fcfab770a047b090da23270fa206832dfea7e0c946fff451f819add242374be551b0d6318ed6c7d41d8
    ++ beBytes 97 0x4278fb38cb9be2f182585ca30f1c8c3fef2b27ca70e77417369de756fcd68f3c0a1d47a288d1c91389a4e5ce8c78c167127275f78129b4d1a0f808e84373dacd61ab2d5f697415b4ee122aa2678b8f6653577c61dccc3906b0d0e4b30974b04ce
    ++ zeros (0x100 - 0xB1) ++ beBytes 48 r ++ beBytes 48 w ++ zeros (0x200 - 0x160) ++ [1]
/-- A device as its maker leaves it: the key's hash in the fuses, an image in slot A of each component. -/
def made : Toll :=
  { Toll.reset with
    keyHash := 0x4a10517515b0c5f576aa090f96cef01d85bfc60edd6768c2680134488176523fae58b9d06d155a0857c3adea9c6c51cb
    slots := [(0, signedImage 0 0x30915c0b8075a03d915aa426ae7bb403a048e7a41de64c844ad65befbb3520cb9d5a4ea5adafd86888e81216039c903f
                   0xcb0a1e54b64d166b49f962fc09979aa17a26314dc5dd5c8f4572116bee0e8c7f8e0c768e766dcf41e73ef5b28b27ac9),
              (2, signedImage 1 0x66125e4f9c04f6075a083fbf20dc2485a14ad8444e80b73c11a405385fd398ac2eca6161e4f7d2ce40787d89951b984e
                   0x7c65146a1fd34ea361ccbb2abe41702f555abe10c56ad0ba2580a0c008ea2e4d3f67736109163132908b5ab6167b6611),
              (4, signedImage 2 0x796d4e7c8adc263449e03f99d1fcaf446074bd259c7637c7f1a9cd51cdcf8597e1282007dde68414392a04737bf8bc8a
                   0x3ecb3eabccecf0e2fd987c7140dac45bb96ad6d21eae66525166cac89361353305ff512ce43d131da55a25804e2b0e88)] }
theorem wit_boots_tollhouse : bootSlot made 0 = some 0 := by decide +kernel
theorem wit_boots_runal : bootSlot made 1 = some 0 := by decide +kernel
theorem wit_boots_microcode : bootSlot made 2 = some 0 := by decide +kernel

/-- FirmwareCommands and MonitoringAndUpdateRequests: a staged image that verifies, and one that does not. -/
theorem wit_Staged :
    imageOk { made with slots := [(1, imageSlot made 0 0)], staged := 1 } 0
        (imageSlot { made with slots := [(1, imageSlot made 0 0)], staged := 1 } 0 (inactiveWhich made 0)) = true
    ∧ imageOk { made with staged := 1 } 0 (imageSlot made 0 (inactiveWhich made 0)) = false := by decide +kernel

def atStage (st : Stage) (rails : Bool) (s : State) : State := { s with pw := { s.pw with stage := st, rails := rails, p12v := rails } }
/-- SuppliesStartAndStop: each stage that its clauses name; wit_boots_… show slots that verify, these that empty ones do not. -/
theorem wit_Supplies :
    State.reset.pw.stage = .off ∧ bootSlot State.reset.toll 0 = none ∧ bootSlot State.reset.toll 1 = none ∧ (atStage .firmware false s0).pw.stage = .firmware
    ∧ (atStage .firmware false s0).pw.rails = false ∧ s0.pw.tripped = false ∧ (atStage .railFailed false s0).pw.stage = .railFailed
    ∧ ({ env with railsOk := false } : StartEnv).railsOk = false ∧ (atStage .booted true s0).pw.stage = .booted ∧ s0.toll.actW = none
    ∧ s0.pw.warmPending = false ∧ (atStage .ready true s0).pw.p12v = true ∧ (atStage .ready true s0).pw.rails = true
    ∧ (atStage .ready true s0).pw.perst = false ∧ (atStage .off false s0).pw.rails = false ∧ (atStage .ready true s0).pw.stage ≠ .off := by decide +kernel
/-- Table 21-2: with no Tollhouse slot that verifies, the device stays in its boot ROM with FAULT_N asserted. -/
theorem test_no_image : (after (.p3v3AuxRise 0) State.reset).pw.stage = .romOnly := by decide +kernel

def inReset (st : Stage) : State := { atStage st true s0 with pw := { (atStage st true s0).pw with perst := true } }
/-- ResetsClearTheirPart: PERST_N asserted and not, before and after readiness; with a plan and without; a running Tollhouse. -/
theorem wit_Resets :
    (inReset .warmHeld).pw.perst = true ∧ (inReset .warmHeld).pw.stage = .warmHeld ∧ (atStage .ready true s0).pw.perst = false
    ∧ (atStage .ready true s0).pw.stage = .ready ∧ (inReset .booted).pw.stage ≠ .warmHeld ∧ (inReset .booted).pw.warmPending = false
    ∧ s0.host.linkUp = true ∧ s0.ks.plan = none ∧ planState s0 = plNone ∧ planState (loaded plRunning onePier s0) ≠ plNone
    ∧ (atStage .ready true s0).toll.actW = none ∧ (atStage .ready true s0).pw.stage ≠ .off := by decide +kernel

/-- JtagScans: the port powered, with a rail supplied from P12V and without. -/
theorem wit_Jtag : (atStage .romOnly false s0).pw.stage ≠ .off ∧ (atStage .romOnly false s0).pw.rails = false
    ∧ (atStage .ready true s0).pw.rails = true := by decide +kernel
/-- R440: BYPASS is one bit. -/
theorem test_bypass : (after (.bypass [true, true, false]) (atStage .romOnly false s0)).jtag.tdo = [false, true, true] := by decide +kernel
-- ------------------------------------------------------------------------------------------------ the manual's worked examples

/-- Table 15-5: the channel and the channel address of 0x0000_0012_3456_7840. -/
theorem test_channel : channelOf 0x1234567840 = 877 ∧ channelAddr 0x1234567840 = 0x048D1540 := by decide +kernel
/-- Table 6-8: the counter of element 1,000,003. -/
theorem test_counter : rngCounter { seed := 0x5EED00000042, purpose := 0, stream := 2, tensor := 0x310, t := 1200 } 1000003
    = (0x1E848, 0x20000, 0x310, 0x4B0) := by decide +kernel
/-- Chapter 6's worked element: 2.7 over 2² rounds up to 1.0 with the bits 0x3A10, and down to 0.5 to nearest. -/
theorem test_fp4 : narrow .mxfp4 2 0x3A10 false (.fin false 0xACCCCD (-24)) = 2
    ∧ narrow .mxfp4 0 0 false (.fin false 0xACCCCD (-24)) = 1 := by decide +kernel
/-- FIPS 180-4's "abc". -/
theorem test_sha384 : (sha384 [0x61, 0x62, 0x63]).take 8 = [0xcb, 0x00, 0x75, 0x3f, 0x45, 0xa3, 0x5e, 0x8b] := by decide +kernel
/-- Philox-4x32-10's published vector for a zero key and counter. -/
theorem test_philox : philox 0 (0, 0, 0, 0) = (0x6627e8d5, 0xe169c58d, 0xbc57ac4c, 0x9b00dbd8) := by decide +kernel


end Sys2Proof.Tests
end

-- ------------------------------------------------------------------------------------------------ plan commands out of their state

namespace Sys2Proof.Machine

section
variable {s : State} {tag : Nat} {c : Taken}

/-- R79: the command at the front of the queue, under its own tag, gets the meaning of its command. -/
theorem serve_of_served {cmd : Nat} (h : Served s cmd tag c) (f : State → Taken → State) : serve s cmd tag f = f s c := by
  obtain ⟨hhead, htag, hcmd⟩ := h
  simp only [serve, hhead, htag, hcmd, and_self, if_true]

/-- R37, R88: LOAD_PLAN is taken in NONE only. -/
theorem loadPlan_busy (h : Served s cmdLoadPlan tag c) (hpay : payClean c [(8, 8)] = true) (hst : planState s ≠ plNone) :
    loadPlan s tag = finishCmd s c stBusy [] := by
  rw [loadPlan, serve_of_served h]
  simp [hpay, hst]

/-- R88: UNLOAD_PLAN is taken in LOADED, PAUSED and ABORTED. -/
theorem unloadPlan_busy (h : Served s cmdUnloadPlan tag c) (hpay : payClean c [] = true) (hloaded : planState s ≠ plLoaded)
    (hpaused : planState s ≠ plPaused) (haborted : planState s ≠ plAborted) :
    unloadPlan s tag = finishCmd s c stBusy [] := by
  rw [unloadPlan, serve_of_served h]
  simp [hpay, hloaded, hpaused, haborted]

/-- R88: START is taken in LOADED and PAUSED. -/
theorem startCmd_busy (h : Served s cmdStart tag c) (hpay : payClean c [(4, 4)] = true) (hloaded : planState s ≠ plLoaded)
    (hpaused : planState s ≠ plPaused) : startCmd s tag = finishCmd s c stBusy [] := by
  rw [startCmd, serve_of_served h]
  simp [hpay, hloaded, hpaused]

/-- R88, R91: PAUSE_AT_PIER is taken in RUNNING, and its state is looked at before its PIER. -/
theorem pauseAtPier_busy (h : Served s cmdPauseAtPier tag c) (hpay : payClean c [(4, 2)] = true)
    (hst : planState s ≠ plRunning) : pauseAtPier s tag = finishCmd s c stBusy [] := by
  rw [pauseAtPier, serve_of_served h]
  simp [hpay, hst]

/-- R88, R91: RESUME is taken in PAUSED. -/
theorem resumeCmd_busy (h : Served s cmdResume tag c) (hpay : payClean c [] = true) (hst : planState s ≠ plPaused) :
    resumeCmd s tag = finishCmd s c stBusy [] := by
  rw [resumeCmd, serve_of_served h]
  simp [hpay, hst]

end

/-- Settles O19: each command, served in a plan state that Table 4-13 does not list for it, only writes its final record, and
that record touches neither the Keystone, which holds the plan, nor DRAM, which holds its image. -/
theorem commandsOutOfStateAreBusy : Obligations.CommandsOutOfStateAreBusy := by
  intro s tag c
  refine ⟨?load, ?unload, ?start, ?pause, ?resume, finishCmd_ks .., finishCmd_dram ..⟩
  case load => exact fun h hpay hst => congrArg Host.Outcome.next (loadPlan_busy h hpay hst)
  case unload =>
    exact fun h hpay hloaded hpaused haborted =>
      congrArg Host.Outcome.next (unloadPlan_busy h hpay hloaded hpaused haborted)
  case start => exact fun h hpay hloaded hpaused => congrArg Host.Outcome.next (startCmd_busy h hpay hloaded hpaused)
  case pause => exact fun h hpay hst => congrArg Host.Outcome.next (pauseAtPier_busy h hpay hst)
  case resume => exact fun h hpay hst => congrArg Host.Outcome.next (resumeCmd_busy h hpay hst)

end Sys2Proof.Machine

-- ------------------------------------------------------------------------------------------------ host interface

namespace Sys2Proof.Machine

-- -------------------------------------------------------------------------------- interrupts and HC_ERR

/-- What an event may put on the link beside what it writes: no interrupt message, or one (R85). -/
def AtMostOneMessage (irq : List PcieOut) : Prop := irq.length ≤ 1 ∧ ∀ o ∈ irq, ∃ v, o = .msix v

theorem atMostOneMessage_nil : AtMostOneMessage [] := ⟨Nat.zero_le 1, by simp⟩

theorem atMostOneMessage_msix (v : Nat) : AtMostOneMessage [.msix v] := ⟨Nat.le_refl 1, by simp⟩

/-- R85: an event of an interrupt source sends at most one message and may leave one pending; it does nothing else. -/
theorem raiseIrq_eq (s : State) (src : Nat) : ∃ pba irq, AtMostOneMessage irq ∧
    raiseIrq s src = updHost s fun h => { h with pba := pba, out := h.out ++ irq } := by
  unfold raiseIrq
  dsimp only
  split
  · exact ⟨s.host.pba, [], atMostOneMessage_nil, by simp only [List.append_nil]; rfl⟩
  · split
    · exact ⟨_, [], atMostOneMessage_nil, by simp only [List.append_nil]; rfl⟩
    · exact ⟨s.host.pba, _, atMostOneMessage_msix _, rfl⟩

/-- Table 4-8: an error sets its bit of HC_ERR, with the interrupt of source 2. -/
theorem setErr_eq (s : State) (bit : Nat) : ∃ pba irq, AtMostOneMessage irq ∧
    setErr s bit = updHost s fun h =>
      { h with err := h.err ||| BitVec.ofNat 32 (2 ^ bit), pba := pba, out := h.out ++ irq } := by
  obtain ⟨pba, irq, hirq, heq⟩ := raiseIrq_eq (updHost s fun h => { h with err := h.err ||| BitVec.ofNat 32 (2 ^ bit) }) 2
  exact ⟨pba, irq, hirq, heq⟩

/-- R86: a record counts toward its source, and may be the one that sends the source's message. -/
theorem countRecord_eq (s : State) (prio : Nat) : ∃ counts pba irq, AtMostOneMessage irq ∧
    countRecord s prio = updHost s fun h => { h with coalCount := counts, pba := pba, out := h.out ++ irq } := by
  unfold countRecord
  generalize (if prio < 4 then 0 else 1) = src
  dsimp only
  split
  · obtain ⟨pba, irq, hirq, heq⟩ := raiseIrq_eq (updHost s fun h => { h with coalCount := tabSet 0 h.coalCount src 0 }) src
    exact ⟨_, pba, irq, hirq, heq⟩
  · exact ⟨_, s.host.pba, [], atMostOneMessage_nil, by simp only [List.append_nil]; rfl⟩

@[simp] theorem setErr_slots (s : State) (bit : Nat) : (setErr s bit).host.slots = s.host.slots := by
  obtain ⟨pba, irq, -, heq⟩ := setErr_eq s bit
  rw [heq]; rfl

/-- An error concerns the host interface alone. -/
@[simp] theorem setErr_withHost (s : State) (bit : Nat) (h : HostIf) : { setErr s bit with host := h } = { s with host := h } := by
  obtain ⟨pba, irq, -, heq⟩ := setErr_eq s bit
  rw [heq]; rfl

/-- An error adds its own bit to HC_ERR. -/
theorem setErr_testBit (s : State) {bit : Nat} (hbit : bit < 32) (k : Nat) :
    (setErr s bit).host.err.toNat.testBit k = (s.host.err.toNat.testBit k || decide (bit = k)) := by
  obtain ⟨pba, irq, -, heq⟩ := setErr_eq s bit
  have hlt : 2 ^ bit < 2 ^ 32 := Nat.pow_lt_pow_right (by decide) hbit
  rw [heq, updHost_host, BitVec.toNat_or, BitVec.toNat_ofNat, Nat.mod_eq_of_lt hlt, Nat.testBit_or, Nat.testBit_two_pow]

-- -------------------------------------------------------------------------------- host accesses

section
variable {s : State}

/-- A write that is not poisoned takes effect when the device answers. -/
theorem barWrite_of_answers (h : Answers s) (f : State → State) : barWrite s false f = f s := by
  obtain ⟨hlink, hpm⟩ := h
  simp [barWrite, hlink, hpm]

/-- A read takes effect when the device answers. -/
theorem barRead_of_answers (h : Answers s) (f : State → State) : barRead s f = f s := by
  obtain ⟨hlink, hpm⟩ := h
  simp [barRead, hlink, hpm]

/-- R75: a write within the slots is a write of all its bytes. -/
theorem mailboxSlotWrite_of_answers (h : Answers s) {off : Nat} {data : List Byte} (hne : data ≠ []) (hin : off + data.length ≤ 0x8000) :
    mailboxSlotWrite s off data false = slotWrite s off data := by
  have hall : data.take (0x8000 - off) = data := List.take_of_length_le (by omega)
  rw [mailboxSlotWrite, barWrite_of_answers h, hall, if_neg (by simpa using hne)]

/-- R77: a refused write leaves the slots and everything outside the host interface, and sets the bit of each of its faults. -/
theorem slotWrite_refused {off : Nat} {data : List Byte} {owned part : Bool}
    (howned : (slotsReached off data.length).any (slotOwned s.host) = owned) (hpart : partialWrite off data.length = part)
    (hrefused : (owned || part) = true) :
    (slotWrite s off data).host.slots = s.host.slots
      ∧ (owned = true → (slotWrite s off data).host.err.toNat.testBit errOwned = true)
      ∧ (part = true → (slotWrite s off data).host.err.toNat.testBit errPartial = true)
      ∧ { slotWrite s off data with host := s.host } = s := by
  simp only [slotWrite, howned, hpart, hrefused, if_true]
  have howned32 : errOwned < 32 := by decide
  have hpart32 : errPartial < 32 := by decide
  cases owned with
  | false =>
    obtain rfl : part = true := hrefused
    simp [setErr_testBit, hpart32]
  | true => cases part <;> simp [setErr_testBit, howned32, hpart32]

end

/-- Settles O12: both of R77's cases refuse the write, and a refused write does nothing but report. -/
theorem ownedAndPartialWritesDropped : Obligations.OwnedAndPartialWritesDropped := by
  intro s off data hans hne hin
  have hexec : exec (.mailboxSlotWrite off ⟨data, false⟩) s = .next (slotWrite s off data) :=
    congrArg Host.Outcome.next (mailboxSlotWrite_of_answers hans hne hin)
  refine ⟨fun howned => ?_, fun hpart => ?_⟩
  · obtain ⟨hslots, hset, -, hframe⟩ := slotWrite_refused howned rfl rfl
    exact ⟨_, hexec, hslots, hset rfl, hframe⟩
  · obtain ⟨hslots, -, hset, hframe⟩ := slotWrite_refused rfl hpart (Bool.or_true _)
    exact ⟨_, hexec, hslots, hset rfl, hframe⟩

-- -------------------------------------------------------------------------------- MAILBOX_TAKE

section
variable {s : State} {n : Nat}

/-- R80: core 0 takes no command while MBOX_LIVE or CQ_EN is 0. -/
theorem mailboxTake_of_not_live (h : mboxLive s.host = false ∨ cqEn s.host = false) : mailboxTake s = s := by
  rcases h with h | h <;> simp [mailboxTake, h]

/-- R80: while NOT_READY is 1, a command taken without a tag collision completes with BUSY, unless it only asks. -/
theorem mailboxTake_of_notReady (hlive : mboxLive s.host = true) (hcq : cqEn s.host = true) (hready : notReady s.host = true)
    (hnext : nextSlot s.host = some n) (hfree : s.host.collided.contains n = false) (hinfo : (copySlot s.host n).cmd ≠ cmdGetInfo)
    (hstatus : (copySlot s.host n).cmd ≠ cmdGetStatus) :
    mailboxTake s = finishCmd { s with host := acknowledge s.host n } (copySlot s.host n) stBusy [] := by
  have hkept : notReady (acknowledge s.host n) = true := hready
  simp only [mailboxTake, hlive, hcq, hnext, hfree, updHost_host, hkept, bne_iff_ne.2 hinfo, bne_iff_ne.2 hstatus,
    Bool.not_true, Bool.or_self, Bool.and_self, Bool.false_eq_true, if_false, if_true]
  rfl

end

/-- Settles O13: before readiness nothing is taken, and while NOT_READY is 1 what is taken completes at once. -/
theorem commandsWaitForReadiness : Obligations.CommandsWaitForReadiness :=
  ⟨fun _ h => congrArg Host.Outcome.next (mailboxTake_of_not_live h),
    fun _ _ hlive hcq hready hnext hfree hinfo hstatus =>
      congrArg Host.Outcome.next (mailboxTake_of_notReady hlive hcq hready hnext hfree hinfo hstatus)⟩

-- -------------------------------------------------------------------------------- completion records

theorem mem_insertNat {x y : Nat} {l : List Nat} : y ∈ insertNat x l ↔ y = x ∨ y ∈ l := by
  induction l with
  | nil => simp [insertNat]
  | cons a l ih =>
    unfold insertNat
    split
    · exact List.mem_cons
    · split
      next heq => rw [heq, List.mem_cons, or_self_left]
      next => rw [List.mem_cons, List.mem_cons, ih, or_left_comm]

/-- R82: the tags whose next record carries PHASE 0, once a record of one tag is written. -/
def flipTag (flipped : List Nat) (tag : Nat) : List Nat :=
  if flipped.contains tag then flipped.filter (· != tag) else insertNat tag flipped

/-- R82: a record inverts the PHASE of its own tag and of no other. -/
theorem phaseBit_of_flipTag {h h' : HostIf} {tag : Nat} (hflip : h'.flipped = flipTag h.flipped tag) (x : Nat) :
    phaseBit h' x = if x = tag then 1 - phaseBit h x else phaseBit h x := by
  by_cases hx : x = tag <;> by_cases hin : tag ∈ h.flipped <;>
    simp [phaseBit, hflip, flipTag, hx, hin, mem_insertNat]

section
variable {s : State}

/-- R82, R83, R84: a record that the host takes is two writes in this order, then at most one message; its tag's PHASE inverts
and the command is no longer held. -/
theorem finishCmd_eq (hrec : Records s) (c : Taken) (st : Nat) (rs : List Nat) : ∃ counts pba irq, AtMostOneMessage irq ∧
    finishCmd s c st rs = updHost s fun h =>
      { h with
        out := h.out ++ [.write (cqBase h + 32 * c.tag + 8) (resultBytes rs),
          .write (cqBase h + 32 * c.tag) (leBytes 4 (headWord (phaseBit h c.tag) c.tag st) ++ leBytes 4 c.cmd)] ++ irq
        flipped := flipTag h.flipped c.tag
        inUse := h.inUse.filter (· != c.tag)
        taken := h.taken.filter (fun x => x.tag != c.tag)
        long := h.long.filter (fun x => x.tag != c.tag)
        coalCount := counts
        pba := pba } := by
  obtain ⟨hcq, htakes⟩ := hrec
  simp only [finishCmd, putRecord, hcq, htakes, Bool.not_true, Bool.false_eq_true, if_false]
  obtain ⟨counts, pba, irq, hirq, heq⟩ := countRecord_eq _ c.prio
  refine ⟨counts, pba, irq, hirq, heq.trans ?_⟩
  simp [updHost, sendPcie, freeTag, flipTag, phaseBit]

/-- R82: when CQ_EN rises, the next final record of every tag carries PHASE 1. -/
theorem phaseBit_ctrlWrite_of_rise {v : Nat} (hoff : cqEn s.host = false) (hon : v.testBit 0 = true) (tag : Nat) :
    phaseBit (ctrlWrite s v).host tag = 1 := by
  simp [ctrlWrite, phaseBit, hoff, hon]

end

/-- Settles O17: each clause is read off the one state a record leads to, and the rise of CQ_EN empties the set of inverted tags. -/
theorem finalRecord : Obligations.FinalRecord := by
  refine ⟨fun s c st rs hrec => ?_, fun s v hans hoff hon => ?_⟩
  · obtain ⟨counts, pba, irq, ⟨hlen, hmsix⟩, heq⟩ := finishCmd_eq hrec c st rs
    have hphase : ∀ x, phaseBit (finishCmd s c st rs).host x = if x = c.tag then 1 - phaseBit s.host x else phaseBit s.host x :=
      phaseBit_of_flipTag (by rw [heq]; rfl)
    refine ⟨⟨irq, hlen, hmsix, by rw [heq]; rfl⟩, ?_, fun x hx => ?_, ?_, ?_, by rw [heq]; rfl⟩
    · rw [hphase, if_pos rfl]
    · rw [hphase, if_neg hx]
    · simp [heq]
    · intro x hx
      simp only [heq, updHost_host, List.mem_append, List.mem_filter, bne_iff_ne] at hx
      exact hx.elim And.right And.right
  · exact ⟨_, congrArg Host.Outcome.next (barWrite_of_answers hans _), phaseBit_ctrlWrite_of_rise hoff hon⟩

-- -------------------------------------------------------------------------------- HC_BEAT_LO and HC_BEAT_HI

/-- The high half of a beat number, as a read of HC_BEAT_LO latches it. -/
theorem extractHigh_eq (b : W64) : b.extractLsb' 32 32 = BitVec.ofNat 32 (b.toNat / 2 ^ 32) := by
  rw [BitVec.extractLsb', Nat.shiftRight_eq_div_pow]

/-- HC_BEAT_LO reads as the low half of the beat number (Table 4-5). -/
theorem bar0Bytes_beatLo (s : State) : bar0Bytes s 0x1030 4 = leBytes 4 (s.beat.number.toNat % 2 ^ 32) := by
  simp [bar0Bytes, bar0Read]

/-- HC_BEAT_HI reads as the half that was latched (Table 4-5). -/
theorem bar0Read_beatHi (s : State) : bar0Read s 0x1034 = s.host.beatHi.toNat := by
  simp [bar0Read]

/-- R72: below the MSI-X table a read of another size than 4 bytes returns zeros. -/
theorem bar0Bytes_of_size_ne {off n : Nat} (hn : n ≠ 4) (hoff : off < msixBase) : bar0Bytes s off n = zeros n := by
  simp [bar0Bytes, hn, Nat.not_le.2 hoff]

/-- R73: the read of HC_BEAT_LO answers the low half and latches the high half. -/
theorem hcBeatLoRead_of_answers {s : State} (h : Answers s) : hcBeatLoRead s =
    { s with host := { s.host with
        beatHi := s.beat.number.extractLsb' 32 32
        out := s.host.out ++ [.readData (leBytes 4 (s.beat.number.toNat % 2 ^ 32))] } } := by
  rw [hcBeatLoRead, barRead_of_answers h, bar0Bytes_beatLo, extractHigh_eq]
  rfl

/-- The high half of a beat number has 32 bits. -/
theorem extractHigh_toNat (b : W64) : (b.extractLsb' 32 32).toNat = b.toNat / 2 ^ 32 := by
  rw [extractHigh_eq, BitVec.toNat_ofNat, Nat.mod_eq_of_lt (by have := b.isLt; omega)]

/-- Settles O16: the 64-bit beat number splits into the half answered and the half latched. -/
theorem beatReadLatches : Obligations.BeatReadLatches := by
  intro s hans
  refine ⟨⟨_, congrArg Host.Outcome.next (hcBeatLoRead_of_answers hans), rfl, fun u hu => ?_⟩, fun off n => bar0Bytes_of_size_ne⟩
  rw [bar0Read_beatHi, hu, extractHigh_toNat]

end Sys2Proof.Machine

-- ------------------------------------------------------------------------------------------------ the block

namespace Sys2Proof.Machine

/-- A command, run from a state: it answers a next state, and that one keeps what every operation keeps. -/
def GoesOnKept (c : Instr) (s : State) : Prop := ∃ t, exec c s = .next t ∧ Kept s t

theorem GoesOnKept.of {c : Instr} {s t : State} (hkept : Kept s t) (hexec : exec c s = .next t) : GoesOnKept c s :=
  ⟨t, hexec, hkept⟩

theorem requestFirmwareData_kept {b : State} (s : State) (id : Nat) (data : List Byte) (hs : Kept b s) :
    Kept b (requestFirmwareData s id data) := by
  unfold requestFirmwareData
  split
  · exact firmwareData_kept (hs := hs) ..
  · exact hs

/-- No command faults, none is refused, and each keeps the queue, the fuses and the form of the memories: its arm of `exec`
names the operation whose `_kept` lemma says so. -/
theorem exec_goesOnKept (c : Instr) (s : State) : GoesOnKept c s :=
  have h := Kept.refl s
  match c with
  | .p3v3AuxRise _ => .of (p3v3AuxRise_kept (hs := h) ..) rfl
  | .p3v3AuxLoss => .of (p3v3AuxLoss_kept (hs := h) ..) rfl
  | .powerGood _ => .of (powerGood_kept (hs := h) ..) rfl
  | .railRetry _ => .of (railRetry_kept (hs := h) ..) rfl
  | .readiness => .of (readiness_kept (hs := h) ..) rfl
  | .p12vLoss => .of (p12vLoss_kept (hs := h) ..) rfl
  | .perstNAssert => .of (perstNAssert_kept (hs := h) ..) rfl
  | .perstNRelease _ => .of (perstNRelease_kept (hs := h) ..) rfl
  | .hotReset => .of (hotReset_kept (hs := h) ..) rfl
  | .functionLevelReset => .of (functionLevelReset_kept (hs := h) ..) rfl
  | .tollhouseReset _ _ => .of (tollhouseReset_kept (hs := h) ..) rfl
  | .beatBoundary _ => .of (beatBoundary_kept (hs := h) ..) rfl
  | .beatMarkerSend _ => .of (beatMarkerSend_kept (hs := h) ..) rfl
  | .beatMarker _ _ _ => .of (beatMarker_kept (hs := h) ..) rfl
  | .bearingTimeout _ _ => .of (bearingTimeout_kept (hs := h) ..) rfl
  | .mailboxSlotWrite _ _ => .of (mailboxSlotWrite_kept (hs := h) ..) rfl
  | .mailboxTake => .of (mailboxTake_kept (hs := h) ..) rfl
  | .cqEnable _ => .of (cqEnable_kept (hs := h) ..) rfl
  | .registerWrite _ _ => .of (registerWrite_kept (hs := h) ..) rfl
  | .hcBeatLoRead => .of (hcBeatLoRead_kept (hs := h) ..) rfl
  | .bar2Read _ _ _ => .of (bar2Read_kept (hs := h) ..) rfl
  | .bar2Write _ _ _ => .of (bar2Write_kept (hs := h) ..) rfl
  | .coalesceTimerExpiry _ => .of (coalesceTimerExpiry_kept (hs := h) ..) rfl
  | .getInfo _ => .of (getInfo_kept (hs := h) ..) rfl
  | .getStatus _ => .of (getStatus_kept (hs := h) ..) rfl
  | .loadPlan _ => .of (loadPlan_kept (hs := h) ..) rfl
  | .unloadPlan _ => .of (unloadPlan_kept (hs := h) ..) rfl
  | .start _ => .of (startCmd_kept (hs := h) ..) rfl
  | .pauseAtPier _ => .of (pauseAtPier_kept (hs := h) ..) rfl
  | .resume _ => .of (resumeCmd_kept (hs := h) ..) rfl
  | .abort _ => .of (abortCmd_kept (hs := h) ..) rfl
  | .bindHostRegion _ => .of (bindHostRegion_kept (hs := h) ..) rfl
  | .copyToDevice _ => .of (copyCmd_kept (hs := h) ..) rfl
  | .copyToHost _ => .of (copyCmd_kept (hs := h) ..) rfl
  | .reshard _ => .of (reshardCmd_kept (hs := h) ..) rfl
  | .commitPolicy _ => .of (commitPolicy_kept (hs := h) ..) rfl
  | .replayControl _ => .of (replayControl_kept (hs := h) ..) rfl
  | .telemetryRead _ => .of (telemetryRead_kept (hs := h) ..) rfl
  | .normRecordsRead _ => .of (normRecordsRead_kept (hs := h) ..) rfl
  | .linkControl _ => .of (linkControl_kept (hs := h) ..) rfl
  | .ringForm _ => .of (ringForm_kept (hs := h) ..) rfl
  | .marchTest _ => .of (marchTest_kept (hs := h) ..) rfl
  | .memoryScrub _ _ => .of (memoryScrub_kept (hs := h) ..) rfl
  | .pacePolicy _ => .of (pacePolicy_kept (hs := h) ..) rfl
  | .prefixTable _ => .of (prefixTable_kept (hs := h) ..) rfl
  | .fwStage _ => .of (fwStage_kept (hs := h) ..) rfl
  | .fwActivate _ _ => .of (fwActivate_kept (hs := h) ..) rfl
  | .nop _ => .of (nopCmd_kept (hs := h) ..) rfl
  | .setupShadowWrite => .of (setupShadowWrite_kept (hs := h) ..) rfl
  | .blockArm _ => .of (blockArm_kept (hs := h) ..) rfl
  | .descriptorIssue => .of (descriptorIssue_kept (hs := h) ..) rfl
  | .descriptorStart _ => .of (descriptorStart_kept (hs := h) ..) rfl
  | .descriptorComplete _ _ _ => .of (descriptorComplete_kept (hs := h) ..) rfl
  | .matmul _ _ => .of (operate_kept (hs := h) (hf := matmulRun_kept) ..) rfl
  | .matmulDgrad _ _ => .of (operate_kept (hs := h) (hf := matmulRun_kept) ..) rfl
  | .matmulWgrad _ _ => .of (operate_kept (hs := h) (hf := matmulRun_kept) ..) rfl
  | .matvecBatch _ _ => .of (operate_kept (hs := h) (hf := matvecRun_kept) ..) rfl
  | .attnFwd _ _ => .of (operate_kept (hs := h) (hf := attnFwdRun_kept) ..) rfl
  | .attnBwd _ _ => .of (operate_kept (hs := h) (hf := attnBwdRun_kept) ..) rfl
  | .attnDecode _ _ => .of (operate_kept (hs := h) (hf := attnDecodeRun_kept) ..) rfl
  | .vecProgram _ _ => .of (operate_kept (hs := h) (hf := vecProgramRun_kept) ..) rfl
  | .scan _ _ => .of (operate_kept (hs := h) (hf := scanRun_kept _) ..) rfl
  | .segScan _ _ => .of (operate_kept (hs := h) (hf := scanRun_kept _) ..) rfl
  | .affineScan _ _ => .of (operate_kept (hs := h) (hf := affineRun_kept) ..) rfl
  | .convTaps _ _ => .of (operate_kept (hs := h) (hf := convRun_kept) ..) rfl
  | .pool _ _ => .of (operate_kept (hs := h) (hf := poolRun_kept) ..) rfl
  | .reduce _ _ => .of (operate_kept (hs := h) (hf := reduceRun_kept) ..) rfl
  | .globalNorm _ _ => .of (progress_kept (hs := h) (hf := globalNormWork_kept) ..) rfl
  | .normProbe _ _ => .of (operate_kept (hs := h) (hf := normProbeRun_kept) ..) rfl
  | .updateElem _ _ => .of (operate_kept (hs := h) (hf := updateElemRun_kept) ..) rfl
  | .updateMatrix _ _ => .of (operate_kept (hs := h) (hf := updateMatrixRun_kept) ..) rfl
  | .commit _ => .of (commitRun_kept (hs := h) ..) rfl
  | .copyConvert _ _ => .of (operate_kept (hs := h) (hf := copyConvertRun_kept) ..) rfl
  | .ringPass _ => .of (progress_kept (hs := h) (hf := ringPassWork_kept) ..) rfl
  | .collective _ => .of (progress_kept (hs := h) (hf := collectiveWork_kept) ..) rfl
  | .reshardPermute _ => .of (reshardPermute_kept (hs := h) ..) rfl
  | .offload _ _ => .of (progress_kept (hs := h) (hf := trestleWork_kept) ..) rfl
  | .prefetch _ _ => .of (progress_kept (hs := h) (hf := trestleWork_kept) ..) rfl
  | .weightChain _ => .of (progress_kept (hs := h) (hf := weightChainWork_kept) ..) rfl
  | .prefixLookup _ => .of (operate_kept (hs := h) (hf := prefixLookupRun_kept) ..) rfl
  | .prefixInsert _ => .of (operate_kept (hs := h) (hf := prefixInsertRun_kept) ..) rfl
  | .bankHandover _ => .of (bankHandover_kept (hs := h) ..) rfl
  | .pier _ => .of (advance_kept (hs := pierRun_kept (hs := h) ..) ..) rfl
  | .paceMatchDecision => .of (paceMatchDecision_kept (hs := h) ..) rfl
  | .trestleChunk _ => .of (trestleChunk_kept (hs := h) ..) rfl
  | .trestleCompletion _ _ _ => .of (trestleCompletion_kept (hs := h) ..) rfl
  | .addDone _ _ _ => .of (addDone_kept (hs := h) ..) rfl
  | .memorySideAdd _ => .of (memorySideAdd_kept (hs := h) ..) rfl
  | .dramRefresh _ _ => .of (dramRefresh_kept (hs := h) ..) rfl
  | .backgroundScrub _ _ => .of (backgroundScrub_kept (hs := h) ..) rfl
  | .flitReceive _ _ _ _ => .of (flitReceive_kept (hs := h) ..) rfl
  | .flitForward _ _ _ => .of (flitForward_kept (hs := h) ..) rfl
  | .dataMessageReceive _ => .of (dataMessageReceive_kept (hs := h) ..) rfl
  | .classResendTimeout _ _ => .of (classResendTimeout_kept (hs := h) ..) rfl
  | .portRetrain _ => .of (portRetrain_kept (hs := h) ..) rfl
  | .portTrainingComplete _ _ _ => .of (portTrainingComplete_kept (hs := h) ..) rfl
  | .ident _ _ => .of (identMsg_kept (hs := h) ..) rfl
  | .nack _ _ _ => .of (nackMsg_kept (hs := h) ..) rfl
  | .xoff _ _ _ => .of (xoffMsg_kept (hs := h) ..) rfl
  | .xon _ _ _ => .of (xonMsg_kept (hs := h) ..) rfl
  | .retrainRequest _ => .of (retrainRequestMsg_kept (hs := h) ..) rfl
  | .receiveReady _ _ _ _ => .of (receiveReadyMsg_kept (hs := h) ..) rfl
  | .segmentTime _ _ _ _ => .of (segmentTimeMsg_kept (hs := h) ..) rfl
  | .groupDigest _ _ _ => .of (groupDigest_kept (hs := h) ..) rfl
  | .groupDigestTimeout => .of (groupDigestTimeout_kept (hs := h) ..) rfl
  | .rank _ _ _ _ => .of (rankRow_kept (hs := h) ..) rfl
  | .rankFloodTimeout => .of (rankTimeoutRow_kept (hs := h) ..) rfl
  | .vote _ _ _ _ _ => .of (voteMsg_kept (hs := h) ..) rfl
  | .voteTimeout => .of (voteTimeout_kept (hs := h) ..) rfl
  | .decision _ _ _ => .of (decisionMsg_kept (hs := h) ..) rfl
  | .recoveryStart => .of (recoveryStart_kept (hs := h) ..) rfl
  | .recoveryQuery _ _ _ => .of (recoveryQueryMsg_kept (hs := h) ..) rfl
  | .recoveryReply _ _ _ _ => .of (recoveryReplyMsg_kept (hs := h) ..) rfl
  | .recoveryWindowEnd => .of (recoveryWindowEnd_kept (hs := h) ..) rfl
  | .form _ _ _ _ _ _ _ => .of (formAnyRow_kept (hs := h) ..) rfl
  | .formTimeout => .of (formTimeoutRow_kept (hs := h) ..) rfl
  | .reshardToken _ _ _ _ _ _ => .of (reshardTokenMsg_kept (hs := h) ..) rfl
  | .reshardTokenTimeout => .of (reshardTokenTimeout_kept (hs := h) ..) rfl
  | .reshardDecision _ _ _ _ => .of (reshardDecisionMsg_kept (hs := h) ..) rfl
  | .mirrorWrite _ _ _ => .of (mirrorWriteMsg_kept (hs := h) ..) rfl
  | .mirrorAck _ _ _ => .of (advance_kept (hs := mirrorAckMsg_kept (hs := h) ..) ..) rfl
  | .mirrorRead _ _ _ => .of (mirrorReadMsg_kept (hs := h) ..) rfl
  | .mirrorData _ _ _ => .of (mirrorDataMsg_kept (hs := h) ..) rfl
  | .pierDone _ _ _ => .of (advance_kept (hs := pierDoneMsg_kept (hs := h) ..) ..) rfl
  | .watermark _ _ _ => .of (advance_kept (hs := watermarkMsg_kept (hs := h) ..) ..) rfl
  | .rewind _ _ _ _ _ _ => .of (rewindMsg_kept (hs := h) ..) rfl
  | .quiesce => .of (quiesce_kept (hs := h) ..) rfl
  | .quiesced _ _ _ _ => .of (quiescedMsg_kept (hs := h) ..) rfl
  | .quietPeriodEnd => .of (quietPeriodEnd_kept (hs := h) ..) rfl
  | .coordinatorLossTimeout => .of (coordinatorLossTimeout_kept (hs := h) ..) rfl
  | .coordinatorTakeover => .of (coordinatorTakeover_kept (hs := h) ..) rfl
  | .restart _ _ _ _ => .of (restartMsg_kept (hs := h) ..) rfl
  | .fetch _ _ _ _ => .of (fetchMsg_kept (hs := h) ..) rfl
  | .fetchData _ _ _ _ _ => .of (fetchDataMsg_kept (hs := h) ..) rfl
  | .aliveSend => .of (aliveSend_kept (hs := h) ..) rfl
  | .alive _ _ _ _ => .of (aliveMsg_kept (hs := h) ..) rfl
  | .silentMember _ => .of (silentMember_kept (hs := h) ..) rfl
  | .admitUnit _ _ _ => .of (admitMsg_kept (hs := h) ..) rfl
  | .admitted _ _ => .of (admittedMsg_kept (hs := h) ..) rfl
  | .sensorSample _ => .of (sensorSample_kept (hs := h) ..) rfl
  | .hardwareFloor _ => .of (hardwareFloor_kept (hs := h) ..) rfl
  | .hardwareFloorRelease _ => .of (hardwareFloorRelease_kept (hs := h) ..) rfl
  | .prochotNAssert => .of (prochotNAssert_kept (hs := h) ..) rfl
  | .prochotNDeassert => .of (prochotNDeassert_kept (hs := h) ..) rfl
  | .trip _ _ => .of (trip_kept (hs := h) ..) rfl
  | .eventRecord _ => .of (eventRecord_kept (hs := h) ..) rfl
  | .coalesceWindowEnd _ _ _ => .of (coalesceWindowEnd_kept (hs := h) ..) rfl
  | .logPersist => .of (logPersist_kept (hs := h) ..) rfl
  | .setEndpointId _ => .of (setEndpointId_kept (hs := h) ..) rfl
  | .getEndpointId => .of (mctp_kept (hs := h) ..) rfl
  | .getEndpointUuid => .of (mctp_kept (hs := h) ..) rfl
  | .getMctpVersionSupport _ => .of (mctpVersions_kept (hs := h) ..) rfl
  | .getMessageTypeSupport => .of (mctp_kept (hs := h) ..) rfl
  | .dynamicAddressAssignment _ => .of (dynamicAddress_kept (hs := h) ..) rfl
  | .pldmDiscovery _ => .of (pldmDiscovery_kept (hs := h) ..) rfl
  | .getPdrRepositoryInfo => .of (pldm2_kept (hs := h) ..) rfl
  | .getPdr _ => .of (getPdr_kept (hs := h) ..) rfl
  | .getSensorReading _ => .of (getSensorReading_kept (hs := h) ..) rfl
  | .getNumericEffecterValue _ => .of (getNumericEffecterValue_kept (hs := h) ..) rfl
  | .setNumericEffecterValue _ _ => .of (setNumericEffecterValue_kept (hs := h) ..) rfl
  | .setEventReceiver _ => .of (setEventReceiver_kept (hs := h) ..) rfl
  | .requestUpdate => .of (requestUpdate_kept (hs := h) ..) rfl
  | .requestFirmwareData _ _ => .of (requestFirmwareData_kept (hs := h) ..) rfl
  | .activateFirmware _ => .of (activateFirmware_kept (hs := h) ..) rfl
  | .getVersion _ => .of (getVersion_kept (hs := h) ..) rfl
  | .getCapabilities _ => .of (spdm_kept (hs := h) ..) rfl
  | .negotiateAlgorithms _ _ => .of (negotiate_kept (hs := h) ..) rfl
  | .getDigests _ => .of (getDigests_kept (hs := h) ..) rfl
  | .getCertificate _ _ _ _ => .of (getCertificate_kept (hs := h) ..) rfl
  | .challenge _ _ _ => .of (challenge_kept (hs := h) ..) rfl
  | .getMeasurements _ _ _ _ => .of (getMeasurements_kept (hs := h) ..) rfl
  | .bypass _ => .of (jtagScan_kept (hs := h) ..) rfl
  | .idcode _ => .of (jtagScan_kept (hs := h) ..) rfl
  | .samplePreload _ => .of (jtagScan_kept (hs := h) ..) rfl
  | .extest _ => .of (jtagScan_kept (hs := h) ..) rfl
  | .clamp _ => .of (jtagScan_kept (hs := h) ..) rfl
  | .highz _ => .of (jtagScan_kept (hs := h) ..) rfl
  | .vecNop _ => .of (vecAdvance_kept (hs := vecNopRun_kept (hs := h) ..) ..) rfl
  | .setvl _ => .of (vecAdvance_kept (hs := setvlRun_kept (hs := h) ..) ..) rfl
  | .iota _ => .of (vecAdvance_kept (hs := iotaRun_kept (hs := h) ..) ..) rfl
  | .movi _ => .of (vecAdvance_kept (hs := moviRun_kept (hs := h) ..) ..) rfl
  | .ld _ => .of (vecAdvance_kept (hs := ldRun_kept (hs := h) ..) ..) rfl
  | .st _ => .of (vecAdvance_kept (hs := stRun_kept (hs := h) ..) ..) rfl
  | .rand _ => .of (vecAdvance_kept (hs := randRun_kept (hs := h) ..) ..) rfl
  | .add _ => .of (vecAdvance_kept (hs := addRun_kept (hs := h) ..) ..) rfl
  | .sub _ => .of (vecAdvance_kept (hs := subRun_kept (hs := h) ..) ..) rfl
  | .mul _ => .of (vecAdvance_kept (hs := mulRun_kept (hs := h) ..) ..) rfl
  | .fma _ => .of (vecAdvance_kept (hs := fmaRun_kept (hs := h) ..) ..) rfl
  | .min _ => .of (vecAdvance_kept (hs := minRun_kept (hs := h) ..) ..) rfl
  | .max _ => .of (vecAdvance_kept (hs := maxRun_kept (hs := h) ..) ..) rfl
  | .abs _ => .of (vecAdvance_kept (hs := absRun_kept (hs := h) ..) ..) rfl
  | .neg _ => .of (vecAdvance_kept (hs := negRun_kept (hs := h) ..) ..) rfl
  | .addi _ => .of (vecAdvance_kept (hs := addiRun_kept (hs := h) ..) ..) rfl
  | .muli _ => .of (vecAdvance_kept (hs := muliRun_kept (hs := h) ..) ..) rfl
  | .exp2 _ => .of (vecAdvance_kept (hs := exp2Run_kept (hs := h) ..) ..) rfl
  | .log2 _ => .of (vecAdvance_kept (hs := log2Run_kept (hs := h) ..) ..) rfl
  | .rsqrt _ => .of (vecAdvance_kept (hs := rsqrtRun_kept (hs := h) ..) ..) rfl
  | .rcp _ => .of (vecAdvance_kept (hs := rcpRun_kept (hs := h) ..) ..) rfl
  | .and _ => .of (vecAdvance_kept (hs := andRun_kept (hs := h) ..) ..) rfl
  | .or _ => .of (vecAdvance_kept (hs := orRun_kept (hs := h) ..) ..) rfl
  | .xor _ => .of (vecAdvance_kept (hs := xorRun_kept (hs := h) ..) ..) rfl
  | .xori _ => .of (vecAdvance_kept (hs := xoriRun_kept (hs := h) ..) ..) rfl
  | .shl _ => .of (vecAdvance_kept (hs := shlRun_kept (hs := h) ..) ..) rfl
  | .ashr _ => .of (vecAdvance_kept (hs := ashrRun_kept (hs := h) ..) ..) rfl
  | .cmpeq _ => .of (vecAdvance_kept (hs := cmpeqRun_kept (hs := h) ..) ..) rfl
  | .cmplt _ => .of (vecAdvance_kept (hs := cmpltRun_kept (hs := h) ..) ..) rfl
  | .cmple _ => .of (vecAdvance_kept (hs := cmpleRun_kept (hs := h) ..) ..) rfl
  | .sel _ => .of (vecAdvance_kept (hs := selRun_kept (hs := h) ..) ..) rfl
  | .cvt _ => .of (vecAdvance_kept (hs := cvtRun_kept (hs := h) ..) ..) rfl
  | .perm _ => .of (vecAdvance_kept (hs := permRun_kept (hs := h) ..) ..) rfl
  | .bcast _ => .of (vecAdvance_kept (hs := bcastRun_kept (hs := h) ..) ..) rfl
  | .slideup _ => .of (vecAdvance_kept (hs := slideupRun_kept (hs := h) ..) ..) rfl
  | .slidedn _ => .of (vecAdvance_kept (hs := slidednRun_kept (hs := h) ..) ..) rfl
  | .rsum _ => .of (vecAdvance_kept (hs := rsumRun_kept (hs := h) ..) ..) rfl
  | .rmax _ => .of (vecAdvance_kept (hs := rmaxRun_kept (hs := h) ..) ..) rfl
  | .rmin _ => .of (vecAdvance_kept (hs := rminRun_kept (hs := h) ..) ..) rfl
  | .psum _ => .of (vecAdvance_kept (hs := psumRun_kept (hs := h) ..) ..) rfl
  | .pmax _ => .of (vecAdvance_kept (hs := pmaxRun_kept (hs := h) ..) ..) rfl
  | .segpsum _ => .of (vecAdvance_kept (hs := segpsumRun_kept (hs := h) ..) ..) rfl
  | .validationEnd => .of (validationEnd_kept (hs := h) ..) rfl
  | .marchTestEnd _ _ _ => .of (marchTestEnd_kept (hs := h) ..) rfl
  | .fwStageDone _ => .of (fwStageDone_kept (hs := h) ..) rfl
  | .thermtripNRelease => .of (thermtripNRelease_kept (hs := h) ..) rfl
  | .pcieLinkTrained _ _ _ _ => .of (pcieLinkTrained_kept (hs := h) ..) rfl
  | .fetchNoAnswer => .of (fetchNoAnswer_kept (hs := h) ..) rfl

theorem exec_kept {c : Instr} {s t : State} (h : exec c s = .next t) : Kept s t := by
  obtain ⟨u, hexec, hkept⟩ := exec_goesOnKept c s
  obtain rfl : u = t := by simpa [hexec] using h
  exact hkept

/-- Canonical memories stay canonical. -/
theorem Kept.wf {s t : State} (h : Kept s t) (hwf : Memory.wf s = true) : Memory.wf t = true := by
  simp only [Memory.wf, Bool.and_eq_true] at hwf ⊢
  obtain ⟨⟨hmem, hbanks⟩, haccs⟩ := hwf
  exact ⟨⟨h.mem hmem, h.banks hbanks⟩, h.accs haccs⟩

theorem step_cons {c : Instr} {rest : List Instr} {s : State} (h : s.pending = c :: rest) :
    step s = exec c { s with pending := rest } := by
  simp only [step, h]

theorem step_nil {s : State} (h : s.pending = []) : step s = .next s := by
  simp only [step, h]

/-- Settles O1. -/
theorem stepTakesFront : Obligations.StepTakesFront :=
  ⟨fun _ _ _ => step_cons rfl, fun _ => step_nil⟩

/-- Settles O2: the queue is no memory, and every command keeps the form. -/
theorem stepKeepsMemoriesCanonical : Obligations.StepKeepsMemoriesCanonical := by
  intro s t hwf hstep
  cases hq : s.pending with
  | nil =>
    obtain rfl : s = t := by simpa [step_nil hq] using hstep
    exact hwf
  | cons c rest =>
    rw [step_cons hq] at hstep
    exact (exec_kept hstep).wf hwf

/-- Settles O3. -/
theorem resetMemoriesCanonical : Obligations.ResetMemoriesCanonical :=
  ⟨rfl, rfl, rfl, rfl, fun _ => rfl⟩

/-- Settles O4. -/
theorem fusesAndQueueAreKept : Obligations.FusesAndQueueAreKept :=
  ⟨fun _ _ _ h => ⟨(exec_kept h).fuses, (exec_kept h).rise⟩, fun _ _ _ h => (exec_kept h).queue⟩

/-- Settles O5. -/
theorem everyCommandGoesOn : Obligations.EveryCommandGoesOn := fun c s =>
  have ⟨t, hexec, _⟩ := exec_goesOnKept c s
  ⟨t, hexec⟩

end Sys2Proof.Machine

-- ------------------------------------------------------------------------------------------------ frames of the operators

namespace Sys2Proof.Machine

/-- A state without the bytes of DRAM and banks: what a write to an operand changes. -/
def noBytes (s : State) : State := { s with dram := { s.dram with mem := [] }, sp := { s.sp with banks := [] } }

theorem noBytes_foldl {α : Type} {f : State → α → State} (hf : ∀ s a, noBytes (f s a) = noBytes s) (l : List α) (s : State) :
    noBytes (l.foldl f s) = noBytes s :=
  foldl_keeps hf l s

section
variable (s : State) (p : Plan) (span : Nat) (o : Operand)

@[simp] theorem noBytes_writeByte (pos : Nat) (v : Byte) : noBytes (writeByte s p span o pos v) = noBytes s := by
  unfold writeByte
  split
  · rfl
  · split <;> rfl

@[simp] theorem noBytes_writeBytes (pos : Nat) (vs : List Byte) : noBytes (writeBytes s p span o pos vs) = noBytes s := by
  induction vs generalizing s pos with
  | nil => rfl
  | cons v vs ih => rw [writeBytes, ih, noBytes_writeByte]

@[simp] theorem noBytes_writeBitsAt (bit : Int) (w v : Nat) : noBytes (writeBitsAt s p span o bit w v) = noBytes s := by
  unfold writeBitsAt
  refine ite_keeps rfl (ite_keeps (noBytes_writeByte ..) (noBytes_writeBytes ..))

@[simp] theorem noBytes_writeRaw (i v : Nat) : noBytes (writeRaw s p span o i v) = noBytes s := noBytes_writeBitsAt ..

@[simp] theorem noBytes_writeElem (i : Nat) (site : RngSite) (code e : Nat) (nonsat : Bool) (x : Num) :
    noBytes (writeElem s p span o i site code e nonsat x) = noBytes s := by
  unfold writeElem
  split
  · exact noBytes_writeRaw ..
  · rfl

@[simp] theorem noBytes_writeBlock (f : Fmt) (k : Nat) (site : RngSite) (code : Nat) (e : Nat → Nat) (xs : List Num) :
    noBytes (writeBlock s p span o f k site code e xs) = noBytes s := by
  unfold writeBlock
  exact (noBytes_foldl (fun _ _ => noBytes_writeBitsAt ..) _ _).trans (noBytes_writeByte ..)

@[simp] theorem noBytes_writeRun (start : Nat) (site : RngSite) (code : Nat) (e : Nat → Nat) (nonsat : Bool) (xs : List Num) :
    noBytes (writeRun s p span o start site code e nonsat xs) = noBytes s := by
  unfold writeRun
  split
  · rfl
  · exact ite_keeps (noBytes_foldl (fun _ _ => noBytes_writeBlock ..) _ _) (noBytes_foldl (fun _ _ => noBytes_writeElem ..) _ _)

@[simp] theorem noBytes_padScales (n : Nat) : noBytes (padScales s p span o n) = noBytes s := by
  unfold padScales
  split
  · rfl
  · exact ite_keeps (noBytes_writeBytes ..) rfl

@[simp] theorem noBytes_padTail (n i k : Nat) : noBytes (padTail s p span o n i k) = noBytes s :=
  ite_keeps (noBytes_padScales ..) rfl

@[simp] theorem noBytes_padOutput (d : Desc) (n : Nat) : noBytes (padOutput s p d o n) = noBytes s :=
  ite_keeps (noBytes_foldl (fun _ _ => noBytes_padScales ..) _ _) (noBytes_padScales ..)

@[simp] theorem noBytes_prefillBytes (b : Buf) (handle pos n : Nat) : noBytes (prefillBytes s b handle pos n) = noBytes s := by
  induction n generalizing s pos with
  | zero => rfl
  | succ n ih => exact (ih _ _).trans (ite_keeps rfl rfl)

@[simp] theorem noBytes_prefillNibbles (us : List Use) : noBytes (prefillNibbles s p us) = noBytes s := by
  refine noBytes_foldl (fun s u => ite_keeps rfl ?_) us s
  split
  · rfl
  · exact noBytes_foldl (fun _ _ => noBytes_prefillBytes ..) _ _

end

/-- A state without what an operator's pass may leave (`OnlyData`), but for which passes of which descriptor have run. -/
def noOutputs (s : State) : State :=
  { s with
    dram := { s.dram with mem := [], adds := [], bad := [], lost := [], scrubBad := [], flaws := [] }
    sp := { s.sp with banks := [], accs := [], tags := [], resid := [], vec := [], cache := [] }
    ks := { s.ks with
      issued := s.ks.issued.map fun i => { i with status := 0, detail := (0, 0) }
      written := []
      norms := [] } }

theorem noOutputs_of_noBytes {s t : State} (h : noBytes t = noBytes s) : noOutputs t = noOutputs s := by
  have herased : noOutputs (noBytes t) = noOutputs (noBytes s) := congrArg noOutputs h
  exact herased

/-- What a run of an operator leaves alone is left alone too once its pass is recorded. -/
theorem onlyData_passDone {s t : State} (h : noOutputs t = noOutputs s) (seq pass status : Nat) :
    OnlyData s (passDone t seq pass status) :=
  ⟨congrArg (fun x => { x with dram := s.dram, sp := s.sp, ks := s.ks }) h,
    congrArg (fun x => { x.dram with
      mem := s.dram.mem, adds := s.dram.adds, bad := s.dram.bad, lost := s.dram.lost
      scrubBad := s.dram.scrubBad, flaws := s.dram.flaws }) h,
    congrArg (fun x => { x.sp with
      banks := s.sp.banks, accs := s.sp.accs, tags := s.sp.tags, resid := s.sp.resid, vec := s.sp.vec, cache := s.sp.cache }) h,
    congrArg (fun x => { x.ks with issued := s.ks.issued, written := s.ks.written, norms := s.ks.norms }) h⟩

/-- The passes that a descriptor has run. -/
def passesRunOf (s : State) (seq : Nat) : Option (List Nat) := (issuedOf s seq).map (·.passesRun)

theorem passesRunOf_noOutputs (s : State) (seq : Nat) : passesRunOf (noOutputs s) seq = passesRunOf s seq := by
  simp [passesRunOf, issuedOf, noOutputs, List.find?_map, Function.comp_def]

theorem passesRunOf_of_noOutputs {s t : State} (h : noOutputs t = noOutputs s) (seq : Nat) :
    passesRunOf t seq = passesRunOf s seq := by
  rw [← passesRunOf_noOutputs t, h, passesRunOf_noOutputs]

theorem passesRunOf_passDone (s : State) (seq pass status : Nat) :
    passesRunOf (passDone s seq pass status) seq = (passesRunOf s seq).map (· ++ [pass]) := by
  simp only [passesRunOf, issuedOf, passDone, updIssued, List.find?_map, Option.map_map]
  have hseq : ((fun i : Issued => i.seq == seq) ∘ fun i : Issued => if i.seq == seq then
      { i with passesRun := i.passesRun ++ [pass], status := joinStatus i.status status } else i) = fun i => i.seq == seq := by
    funext i; simp only [Function.comp]; split <;> rfl
  rw [hseq]
  cases h : s.ks.issued.find? fun i => i.seq == seq with
  | none => rfl
  | some i =>
    have hi : (i.seq == seq) = true := List.find?_some (p := fun i : Issued => i.seq == seq) h
    simp only [Option.map_some, Function.comp, hi, if_true]

end Sys2Proof.Machine

-- ------------------------------------------------------------------------------------------------ vector engines

namespace Sys2Proof.Machine

section
variable {s : State} {a : VecArgs}

/-- A row that writes lanes of VD and names no lane. -/
theorem vecRow_writes_lanes {i : Instr} {f : Fmt} {lanes : List Nat} {run : State → VecArgs → State} (hw : vecWf s a.span = true)
    (he : exec i s = vecRow run a s) (hr : run s a = setVec s a.span (putReg (vecOf s a.span) a.vd f lanes)) :
    VecWrites i a f lanes false s :=
  vecRow_writes hw he hr

/-- A register holds at least one lane of every format. -/
theorem laneCount_pos (f : Fmt) : 0 < laneCount f := by cases f <;> decide

theorem activeLanes_pos {e : VecEngine} (h : 0 < e.vl) (f : Fmt) : 0 < activeLanes e f := Nat.lt_min.2 ⟨h, laneCount_pos f⟩

/-- What an operation of one source computes for a lane of its format. -/
theorem vecUn_eq (fl : Num → Num) (iv : Int → Int) : vecUn s a fl iv = setVec s a.span (mapLanes (vecOf s a.span) a.vd (laneFmt a.fmt)
    fun k => if laneFmt a.fmt = .fp32 then widen .fp32 (fl (laneNum (vecOf s a.span) a.va (laneFmt a.fmt) k))
      else unsignedOf (fmtBits (laneFmt a.fmt)) (iv (laneInt (vecOf s a.span) a.va (laneFmt a.fmt) k))) := by
  unfold vecUn vecUpd
  generalize laneFmt a.fmt = f
  cases f <;> rfl

end

/-- Settles O6. -/
theorem vectorArithmetic : Obligations.VectorArithmetic := fun _ _ hw =>
  ⟨vecRow_writes_lanes hw rfl rfl, vecRow_writes_lanes hw rfl rfl, vecRow_writes_lanes hw rfl rfl, vecRow_writes_lanes hw rfl rfl,
    vecRow_writes_lanes hw rfl rfl, vecRow_writes_lanes hw rfl rfl, vecRow_writes_lanes hw rfl rfl, vecRow_writes_lanes hw rfl rfl⟩

/-- Settles O7: the operations of one source are one function of the lane's format; CVT writes the lanes that both formats have. -/
theorem vectorUnary : Obligations.VectorUnary := fun _ _ hw =>
  ⟨vecRow_writes_lanes hw rfl (vecUn_eq ..), vecRow_writes_lanes hw rfl (vecUn_eq ..), vecRow_writes_lanes hw rfl (vecUn_eq ..),
    vecRow_writes_lanes hw rfl (vecUn_eq ..), vecRow_writes_lanes hw rfl (vecUn_eq ..), vecRow_writes_lanes hw rfl (vecUn_eq ..),
    vecRow_writes_lanes hw rfl rfl⟩

/-- Settles O8. -/
theorem vectorBitsAndSelect : Obligations.VectorBitsAndSelect :=
  ⟨fun _ _ hw =>
    ⟨vecRow_writes_lanes hw rfl rfl, vecRow_writes_lanes hw rfl rfl, vecRow_writes_lanes hw rfl rfl, vecRow_writes_lanes hw rfl rfl,
      vecRow_writes_lanes hw rfl rfl, vecRow_writes_lanes hw rfl rfl, vecRow_writes_lanes hw rfl rfl, vecRow_writes_lanes hw rfl rfl,
      vecRow_writes_lanes hw rfl rfl⟩,
    fun _ _ hw =>
    ⟨vecRow_writes_lanes hw rfl rfl, vecRow_writes_lanes hw rfl rfl, vecRow_writes_lanes hw rfl rfl,
      vecRow_writes_lanes hw rfl rfl⟩⟩

/-- Settles O9: PERM and BCAST note a lane out of range, the slides do not. -/
theorem vectorMoves : Obligations.VectorMoves := fun s a hw =>
  ⟨vecRow_writes hw rfl rfl,
    vecRow_writes hw rfl (by simp only [bcastRun, vecUpd, mapLanes, decide_not, decide_eq_true_eq]),
    vecRow_writes_lanes hw rfl rfl, vecRow_writes_lanes hw rfl rfl⟩

-- -------------------------------------------------------------------------------- reductions

section
variable {e : VecEngine} {vd : Nat} {f : Fmt}

/-- A reduction that writes lane 0 keeps the others below VL. -/
theorem someLanes_one (h : 0 < e.vl) (x : Nat) : someLanes e vd f [(0, x)] = putReg e vd f
    ((List.range (activeLanes e f)).map fun k => if k = 0 then x else if k < activeLanes e f then rawLane e vd f k else 0) := by
  have hn : max (activeLanes e f) 1 = activeLanes e f := Nat.max_eq_left (activeLanes_pos h f)
  simp only [someLanes, List.foldl_cons, List.foldl_nil, Nat.zero_add, Nat.zero_max, hn]
  congr 1
  refine List.map_congr_left fun k _ => ?_
  by_cases hk : k = 0
  · simp [hk]
  · simp [hk, Ne.symm hk]

/-- A reduction that writes lanes 0 and 1 keeps the others below VL. -/
theorem someLanes_two (x y : Nat) : someLanes e vd f [(0, x), (1, y)] = putReg e vd f
    ((List.range (max (activeLanes e f) 2)).map fun k =>
      if k = 0 then x else if k = 1 then y else if k < activeLanes e f then rawLane e vd f k else 0) := by
  simp only [someLanes, List.foldl_cons, List.foldl_nil, Nat.zero_add, Nat.zero_max, Nat.reduceAdd, show max (1:Nat) 2 = 2 from rfl]
  congr 1
  refine List.map_congr_left fun k _ => ?_
  by_cases h0 : k = 0
  · simp [h0]
  · by_cases h1 : k = 1
    · simp [h1]
    · simp [h0, h1, Ne.symm h0, Ne.symm h1]

end

/-- The lanes that RMAX and RMIN compare: the first, then the others in order. -/
theorem lanePairs_eq_cons {e : VecEngine} (h : 0 < e.vl) (r : Nat) (f : Fmt) :
    (List.range (activeLanes e f)).map (fun k => (laneNum e r f k, k))
      = (laneNum e r f 0, 0) :: (List.range (activeLanes e f - 1)).map fun k => (laneNum e r f (k + 1), k + 1) := by
  obtain ⟨m, hm⟩ := Nat.exists_eq_add_of_lt (activeLanes_pos h f)
  rw [hm, Nat.zero_add, List.range_succ_eq_map, List.map_cons, List.map_map]
  rfl

/-- RMAX and RMIN, with a lane to compare. -/
theorem extremeRun_eq {s : State} {a : VecArgs} (h : 0 < (vecOf s a.span).vl) (isMax : Bool) :
    extremeRun isMax s a =
      let e := vecOf s a.span
      let f := laneFmt a.fmt
      let w := ((List.range (activeLanes e f - 1)).map fun k => (laneNum e a.va f (k + 1), k + 1)).foldl (winner isMax)
        (laneNum e a.va f 0, 0)
      setVec s a.span (someLanes e a.vd f [(0, widen f w.1), (1, w.2)]) := by
  simp only [extremeRun, lanePairs_eq_cons h, vecUpd]

/-- Settles O10: the instructions over prefixes write a whole register, the reductions one lane or two. -/
theorem vectorPrefixesAndReductions : Obligations.VectorPrefixesAndReductions := by
  refine ⟨fun s a hw => ?prefixes, fun s a hw hvl => ?reductions⟩
  case prefixes => exact ⟨vecRow_writes_lanes hw rfl rfl, vecRow_writes_lanes hw rfl rfl, vecRow_writes_lanes hw rfl rfl⟩
  case reductions =>
    refine ⟨vecRow_writes_lanes hw rfl ?_, vecRow_writes_lanes hw rfl ?_, vecRow_writes_lanes hw rfl ?_⟩
    · exact congrArg (setVec s a.span) (someLanes_one hvl _)
    · exact (extremeRun_eq hvl true).trans (congrArg (setVec s a.span) (someLanes_two _ _))
    · exact (extremeRun_eq hvl false).trans (congrArg (setVec s a.span) (someLanes_two _ _))

-- -------------------------------------------------------------------------------- the sequence, LD and ST

/-- ST writes bytes of its operand only. -/
theorem noBytes_stRun (s : State) (a : VecArgs) : noBytes (stRun s a) = noBytes s := by
  unfold stRun
  split
  · rfl
  · exact noBytes_writeRun ..

/-- Settles O11. -/
theorem vectorSequenceAndMemory : Obligations.VectorSequenceAndMemory := by
  refine ⟨⟨fun s a hprog => ?idle, fun s a p d hprog => ?runs⟩, fun s a => rfl, fun s a p d hw hprog => ⟨?ld, ?st⟩⟩
  case idle => exact congrArg Host.Outcome.next (vecAdvance_none hprog)
  case runs =>
    refine congrArg Host.Outcome.next ((vecAdvance_some hprog).trans ?_)
    simp only [vecNext]
    congr 1
    split
    · split <;> rfl
    · rfl
  case ld => exact vecRow_writes_lanes hw rfl (by simp only [ldRun, hprog]; rfl)
  case st =>
    refine ⟨stRun s a, rfl, ?_, by simp only [stRun, hprog] <;> rfl⟩
    exact congrArg (·.sp.vec) (noBytes_stRun s a)

end Sys2Proof.Machine

-- ------------------------------------------------------------------------------------------------ operators

namespace Sys2Proof.Machine

theorem noOutputs_foldl {α : Type} {f : State → α → State} (hf : ∀ s a, noOutputs (f s a) = noOutputs s) (l : List α) (s : State) :
    noOutputs (l.foldl f s) = noOutputs s :=
  foldl_keeps hf l s

/-- A fold that carries a value beside the state. -/
theorem noOutputs_foldl_fst {α β : Type} {f : State × β → α → State × β} (hf : ∀ x a, noOutputs (f x a).1 = noOutputs x.1)
    (l : List α) (x : State × β) : noOutputs (l.foldl f x).1 = noOutputs x.1 := by
  induction l generalizing x with
  | nil => rfl
  | cons a l ih => exact (ih _).trans (hf x a)

-- -------------------------------------------------------------------------------- shared writes

section
variable (s : State) (p : Plan) (span : Nat) (o : Operand)

@[simp] theorem noOutputs_writeByte (pos : Nat) (v : Byte) : noOutputs (writeByte s p span o pos v) = noOutputs s :=
  noOutputs_of_noBytes (noBytes_writeByte ..)

@[simp] theorem noOutputs_writeBytes (pos : Nat) (vs : List Byte) : noOutputs (writeBytes s p span o pos vs) = noOutputs s :=
  noOutputs_of_noBytes (noBytes_writeBytes ..)

@[simp] theorem noOutputs_writeRaw (i v : Nat) : noOutputs (writeRaw s p span o i v) = noOutputs s :=
  noOutputs_of_noBytes (noBytes_writeRaw ..)

@[simp] theorem noOutputs_writeElem (i : Nat) (site : RngSite) (code e : Nat) (nonsat : Bool) (x : Num) :
    noOutputs (writeElem s p span o i site code e nonsat x) = noOutputs s :=
  noOutputs_of_noBytes (noBytes_writeElem ..)

@[simp] theorem noOutputs_writeBlock (f : Fmt) (k : Nat) (site : RngSite) (code : Nat) (e : Nat → Nat) (xs : List Num) :
    noOutputs (writeBlock s p span o f k site code e xs) = noOutputs s :=
  noOutputs_of_noBytes (noBytes_writeBlock ..)

@[simp] theorem noOutputs_writeRun (start : Nat) (site : RngSite) (code : Nat) (e : Nat → Nat) (nonsat : Bool) (xs : List Num) :
    noOutputs (writeRun s p span o start site code e nonsat xs) = noOutputs s :=
  noOutputs_of_noBytes (noBytes_writeRun ..)

@[simp] theorem noOutputs_padScales (n : Nat) : noOutputs (padScales s p span o n) = noOutputs s :=
  noOutputs_of_noBytes (noBytes_padScales ..)

@[simp] theorem noOutputs_padTail (n i k : Nat) : noOutputs (padTail s p span o n i k) = noOutputs s :=
  noOutputs_of_noBytes (noBytes_padTail ..)

@[simp] theorem noOutputs_padOutput (d : Desc) (n : Nat) : noOutputs (padOutput s p d o n) = noOutputs s :=
  noOutputs_of_noBytes (noBytes_padOutput ..)

@[simp] theorem noOutputs_prefillNibbles (us : List Use) : noOutputs (prefillNibbles s p us) = noOutputs s :=
  noOutputs_of_noBytes (noBytes_prefillNibbles ..)

@[simp] theorem noOutputs_emitAdd (d : Desc) (pos fmt : Nat) (wide : Bool) (pass v : Nat) :
    noOutputs (emitAdd s p d o pos fmt wide pass v) = noOutputs s := by
  unfold emitAdd
  split
  · rfl
  next b _ => exact (noOutputs_of_noBytes (noBytes_prefillBytes s b o.handle pos _) :)

@[simp] theorem noOutputs_stampBank (span bank : Nat) : noOutputs (stampBank s span bank) = noOutputs s := rfl

@[simp] theorem noOutputs_noteWrites (seq : Nat) (spans : List Nat) (us : List Use) :
    noOutputs (noteWrites s p seq spans us) = noOutputs s := by
  unfold noteWrites
  refine noOutputs_foldl (fun s u => ?_) us s
  refine ite_keeps rfl (ite_keeps (noOutputs_foldl (fun _ _ => noOutputs_stampBank ..) _ _) ?_)
  split
  · rfl
  · exact ite_keeps rfl rfl

@[simp] theorem noOutputs_freshSectors (rs : List (Nat × Nat)) : noOutputs (freshSectors s rs) = noOutputs s := rfl

@[simp] theorem noOutputs_cacheFill (slice line handle gen : Nat) : noOutputs (cacheFill s slice line handle gen) = noOutputs s :=
  ite_keeps rfl (ite_keeps rfl rfl)

@[simp] theorem noOutputs_cacheReads (seq : Nat) (spans : List Nat) (us : List Use) :
    noOutputs (cacheReads s p seq spans us) = noOutputs s := by
  unfold cacheReads
  refine noOutputs_foldl (fun s u => ?_) us s
  refine ite_keeps rfl ?_
  split
  · rfl
  · refine ite_keeps rfl (noOutputs_foldl (fun s r => noOutputs_foldl (fun s j => ?_) _ _) _ _)
    exact ite_keeps rfl (noOutputs_foldl (fun _ _ => noOutputs_cacheFill ..) _ _)

end

-- -------------------------------------------------------------------------------- the matrix engine

section
variable (s : State) (p : Plan) (d : Desc)

@[simp] theorem noOutputs_accWrite (span half entry : Nat) (a : Acc) : noOutputs (accWrite s span half entry a) = noOutputs s := rfl

@[simp] theorem noOutputs_matmulOutputs (pass : Nat) : noOutputs (matmulOutputs s p d pass) = noOutputs s := by
  unfold matmulOutputs
  dsimp only
  split
  case h_1 => exact noOutputs_foldl (fun _ _ => noOutputs_foldl (fun _ _ => noOutputs_accWrite ..) _ _) _ _
  case h_2 =>
    refine noOutputs_foldl (fun t i => ite_keeps (noOutputs_emitAdd ..) ?_) _ _
    split
    · rfl
    · exact noOutputs_emitAdd ..
  case h_3 => exact (noOutputs_padOutput ..).trans (noOutputs_foldl (fun _ _ => noOutputs_writeRun ..) _ _)

@[simp] theorem noOutputs_noteResident : noOutputs (noteResident s d) = noOutputs s := ite_keeps rfl rfl

theorem noOutputs_matmulRun (pass : Nat) : noOutputs (matmulRun s p d pass) = noOutputs s := by
  rw [matmulRun, noOutputs_noteResident, noOutputs_matmulOutputs]

theorem noOutputs_reduceRun (pass : Nat) : noOutputs (reduceRun s p d pass) = noOutputs s := by
  unfold reduceRun
  have hvalues := fun {α : Type} (f : State → α → State) (hf : ∀ s a, noOutputs (f s a) = noOutputs s) (l : List α) (n : Nat) =>
    (noOutputs_padOutput (l.foldl f s) p (rdDst d) d n).trans (noOutputs_foldl hf l s)
  refine ite_keeps (hvalues _ (fun _ _ => noOutputs_writeRun ..) _ _) ?_
  exact (noOutputs_foldl (fun _ _ => noOutputs_writeRaw ..) _ _).trans (hvalues _ (fun _ _ => noOutputs_writeRun ..) _ _)

theorem noOutputs_copyConvertRun (pass : Nat) : noOutputs (copyConvertRun s p d pass) = noOutputs s := by
  unfold copyConvertRun
  have hcopy : ∀ (b : Bool) (f : State → Nat → State), (∀ s a, noOutputs (f s a) = noOutputs s) →
      noOutputs (if b then (List.range d.spanCount).foldl f s
        else padScales ((List.range d.spanCount).foldl f s) p d.spanFirst (ccDst d) (ccCount d)) = noOutputs s := fun b f hf =>
    ite_keeps (noOutputs_foldl hf _ _) ((noOutputs_padScales ..).trans (noOutputs_foldl hf _ _))
  exact hcopy _ _ fun _ _ => (noOutputs_foldl (fun _ _ => noOutputs_writeRun ..) _ _).trans
    (ite_keeps (noOutputs_padScales ..) rfl)

end

-- -------------------------------------------------------------------------------- attention

@[simp] theorem noOutputs_putEntries (s : State) (span half pos : Nat) (l : List Num) :
    noOutputs (putEntries s span half pos l) = noOutputs s := rfl

section
variable (s t : State) (p : Plan) (d : Desc)

@[simp] theorem noOutputs_fwdRow (b : List Byte) (span r h : Nat) : noOutputs (fwdRow s p d b span t r h) = noOutputs t := by
  simp [fwdRow]

theorem noOutputs_attnFwdRun (pass : Nat) : noOutputs (attnFwdRun s p d pass) = noOutputs s := by
  exact noOutputs_foldl (fun _ _ => noOutputs_foldl (fun _ _ => noOutputs_foldl (fun _ _ => noOutputs_fwdRow ..) _ _) _ _) _ _

@[simp] theorem noOutputs_relayHalves (x : Nat) : noOutputs (relayHalves s p d t x) = noOutputs t := by
  unfold relayHalves
  dsimp only
  split
  · rfl
  · split <;> simp

theorem noOutputs_attnBwdRun (pass : Nat) : noOutputs (attnBwdRun s p d pass) = noOutputs s := by
  have hfold3 : ∀ (f : Nat → Nat → State → Nat → State), (∀ a b t c, noOutputs (f a b t c) = noOutputs t) →
      ∀ (l m n : List Nat) (t : State),
        noOutputs (l.foldl (fun t a => m.foldl (fun t b => n.foldl (f a b) t) t) t) = noOutputs t := fun f hf l m n t =>
    noOutputs_foldl (fun _ _ => noOutputs_foldl (fun _ _ => noOutputs_foldl (hf _ _) _ _) _ _) _ _
  unfold attnBwdRun
  refine (noOutputs_foldl (fun _ _ => noOutputs_relayHalves ..) _ _).trans ((hfold3 _ (fun _ _ _ _ => by simp) _ _ _ _).trans
    ((hfold3 _ (fun _ _ _ _ => by simp) _ _ _ _).trans (ite_keeps rfl (noOutputs_foldl (fun t r => ?_) _ _))))
  split
  · rfl
  · exact noOutputs_foldl (fun _ _ => noOutputs_writeRaw ..) _ _
end

-- -------------------------------------------------------------------------------- the vector engine

section
variable (s : State) (p : Plan) (d : Desc)

@[simp] theorem noOutputs_setVec (x : Nat) (e : VecEngine) : noOutputs (setVec s x e) = noOutputs s := rfl

@[simp] theorem noOutputs_ldRun (a : VecArgs) : noOutputs (ldRun s a) = noOutputs s := by
  unfold ldRun
  split
  · rfl
  · exact noOutputs_setVec ..

@[simp] theorem noOutputs_stRun (a : VecArgs) : noOutputs (stRun s a) = noOutputs s := by
  unfold stRun
  split
  · rfl
  · exact noOutputs_writeRun ..

@[simp] theorem noOutputs_extremeRun (isMax : Bool) (a : VecArgs) : noOutputs (extremeRun isMax s a) = noOutputs s := by
  unfold extremeRun
  dsimp only
  split
  · rfl
  · exact noOutputs_setVec ..

/-- An instruction changes its span's engine; ST writes elements. -/
theorem noOutputs_vecTable {op : Nat} {f : State → VecArgs → State} (h : vecTable op = some f) (s : State) (a : VecArgs) :
    noOutputs (f s a) = noOutputs s := by
  unfold vecTable at h
  split at h <;> cases h
  case h_5 => exact noOutputs_ldRun ..
  case h_6 => exact noOutputs_stRun ..
  case h_38 => exact noOutputs_extremeRun s true a
  case h_39 => exact noOutputs_extremeRun s false a
  all_goals rfl

@[simp] theorem noOutputs_vecAdvance (x : Nat) : noOutputs (vecAdvance s x) = noOutputs s := by
  cases h : vecProg s x with
  | none => rw [vecAdvance_none h]
  | some pd => rw [vecAdvance_some h, noOutputs_setVec]

@[simp] theorem noOutputs_vecSteps (span n : Nat) : noOutputs (vecSteps p d span n s) = noOutputs s := by
  induction n generalizing s with
  | zero => rfl
  | succ n ih =>
    simp only [vecSteps]
    split
    · rfl
    next hrun => rw [ih, noOutputs_vecAdvance, noOutputs_vecTable hrun]

@[simp] theorem noOutputs_vecPad (j k : Nat) : noOutputs (vecPad p d s j k) = noOutputs s :=
  ite_keeps (noOutputs_padScales ..) (ite_keeps (noOutputs_padScales ..) rfl)

/-- A status noted with a descriptor is no pass. -/
theorem noOutputs_updIssued {f : Issued → Issued}
    (hf : ∀ i, { f i with status := 0, detail := (0, 0) } = { i with status := 0, detail := (0, 0) }) (seq : Nat) :
    noOutputs (updIssued s seq f) = noOutputs s := by
  have hissued : (s.ks.issued.map fun i => if i.seq == seq then f i else i).map (fun i => { i with status := 0, detail := (0, 0) })
      = s.ks.issued.map fun i => { i with status := 0, detail := (0, 0) } := by
    rw [List.map_map]
    refine List.map_congr_left fun i _ => ?_
    simp only [Function.comp]
    split
    · exact hf i
    · rfl
  simp only [noOutputs, updIssued, hissued]

theorem noOutputs_vecProgramRun (pass : Nat) : noOutputs (vecProgramRun s p d pass) = noOutputs s := by
  unfold vecProgramRun
  have hspans : ∀ (l : List Nat), noOutputs (l.foldl (fun t j =>
      vecPad p d (vecPad p d (vecSteps p d (d.spanFirst + j * d.spanStride) (vecLength d j)
        (setVec t (d.spanFirst + j * d.spanStride) (vecStart d j (vecOf s (d.spanFirst + j * d.spanStride))))) j 3) j 4) s)
      = noOutputs s := fun l => noOutputs_foldl (fun _ _ => by simp) l s
  dsimp only
  split
  · exact hspans _
  · refine (noOutputs_updIssued _ (fun i => ?_) _).trans (hspans _)
    split <;> rfl

-- -------------------------------------------------------------------------------- scans

@[simp] theorem noOutputs_scanLine (seg : Bool) (t : State) (line : Nat) : noOutputs (scanLine s p d seg t line) = noOutputs t := by
  unfold scanLine
  have helements := fun {β : Type} (f : State × β → Nat → State × β) (hf : ∀ x a, noOutputs (f x a).1 = noOutputs x.1)
    (l : List Nat) (b : β) => noOutputs_foldl_fst hf l (t, b)
  refine ite_keeps (helements _ (fun _ _ => noOutputs_writeElem ..) _ _) ?_
  split
  · exact (noOutputs_writeRaw ..).trans (helements _ (fun _ _ => noOutputs_writeElem ..) _ _)
  · exact helements _ (fun _ _ => noOutputs_writeElem ..) _ _

theorem noOutputs_scanRun (seg : Bool) (pass : Nat) : noOutputs (scanRun seg s p d pass) = noOutputs s :=
  noOutputs_foldl (fun _ _ => noOutputs_scanLine ..) _ _

@[simp] theorem noOutputs_affineLine (t : State) (line : Nat) : noOutputs (affineLine s p d t line) = noOutputs t :=
  noOutputs_foldl_fst (fun _ _ => ite_keeps (noOutputs_writeElem ..) ((noOutputs_writeRaw ..).trans (noOutputs_writeElem ..))) _
    (t, _)

theorem noOutputs_affineRun (pass : Nat) : noOutputs (affineRun s p d pass) = noOutputs s :=
  noOutputs_foldl (fun _ _ => noOutputs_affineLine ..) _ _

-- -------------------------------------------------------------------------------- windows

theorem noOutputs_windowRows (pass : Nat) {f : State → Nat → Nat → Nat → Nat → State}
    (hf : ∀ t a b c e, noOutputs (f t a b c e) = noOutputs t) : noOutputs (windowRows p d pass s f) = noOutputs s :=
  noOutputs_foldl (fun _ _ => noOutputs_foldl (fun _ _ => noOutputs_foldl (fun _ _ => hf ..) _ _) _ _) _ _

@[simp] theorem noOutputs_fillLines (pass : Nat) (t : State) : noOutputs (fillLines s p d pass t) = noOutputs t :=
  noOutputs_foldl (fun _ _ => noOutputs_foldl (fun _ _ => noOutputs_writeBytes ..) _ _) _ _

@[simp] theorem noOutputs_finishWindow (pass : Nat) : noOutputs (finishWindow p d pass s) = noOutputs s :=
  ite_keeps rfl (ite_keeps (noOutputs_foldl (fun _ _ => noOutputs_padScales ..) _ _) (noOutputs_padScales ..))

theorem noOutputs_convRun (pass : Nat) : noOutputs (convRun s p d pass) = noOutputs s := by
  unfold convRun
  dsimp only
  rw [noOutputs_finishWindow, noOutputs_fillLines]
  exact noOutputs_windowRows _ _ _ _ fun _ _ _ _ _ => noOutputs_foldl (fun _ _ => noOutputs_writeRun ..) _ _

theorem noOutputs_poolRun (pass : Nat) : noOutputs (poolRun s p d pass) = noOutputs s := by
  unfold poolRun
  dsimp only
  rw [noOutputs_finishWindow, noOutputs_fillLines]
  refine noOutputs_windowRows _ _ _ _ fun t _ _ _ _ => ?_
  have hvalues := fun (f : State → Nat → State) (hf : ∀ s a, noOutputs (f s a) = noOutputs s) (l : List Nat) =>
    noOutputs_foldl hf l t
  refine ite_keeps (hvalues _ (fun _ _ => noOutputs_writeRun ..) _) ?_
  exact (noOutputs_foldl (fun _ _ => noOutputs_writeRaw ..) _ _).trans (hvalues _ (fun _ _ => noOutputs_writeRun ..) _)

-- -------------------------------------------------------------------------------- decode

theorem noOutputs_matvecRun (pass : Nat) : noOutputs (matvecRun s p d pass) = noOutputs s := by
  unfold matvecRun
  refine noOutputs_foldl (fun t m => noOutputs_foldl (fun t r => ?_) _ _) _ _
  dsimp only
  split
  · split
    · rfl
    · exact ite_keeps (noOutputs_emitAdd ..) (noOutputs_emitAdd ..)
  · rw [noOutputs_padTail, noOutputs_writeRun]

@[simp] theorem noOutputs_copyBits (t : State) (seq span : Nat) (src dst : Operand) (i j n : Nat) :
    noOutputs (copyBits s t p seq span src dst i j n) = noOutputs t := by
  unfold copyBits
  split
  · rfl
  · have hraw := fun (f : State → Nat → State) (hf : ∀ s a, noOutputs (f s a) = noOutputs s) (l : List Nat) =>
      noOutputs_foldl hf l t
    refine ite_keeps ?_ (hraw _ (fun _ _ => noOutputs_writeRaw ..) _)
    exact (noOutputs_foldl (fun _ _ => noOutputs_writeByte ..) _ _).trans (hraw _ (fun _ _ => noOutputs_writeRaw ..) _)

@[simp] theorem noOutputs_appendSlot (b : List Byte) (act : List Nat) (t : State) (x : Nat) :
    noOutputs (appendSlot s p d b act t x) = noOutputs t := by
  unfold appendSlot
  refine ite_keeps rfl ((noOutputs_noteWrites ..).trans (noOutputs_foldl (fun _ _ => ?_) _ _))
  rw [noOutputs_copyBits, noOutputs_copyBits]

@[simp] theorem noOutputs_decodeRow (k : State) (b : List Byte) (act : List Nat) (t : State) (x h : Nat) :
    noOutputs (decodeRow s k p d b act t x h) = noOutputs t :=
  ite_keeps (noOutputs_writeRun ..) ((noOutputs_writeRaw ..).trans (noOutputs_writeRun ..))

theorem noOutputs_attnDecodeRun (pass : Nat) : noOutputs (attnDecodeRun s p d pass) = noOutputs s :=
  (noOutputs_foldl (fun _ _ => noOutputs_foldl (fun _ _ => noOutputs_decodeRow ..) _ _) _ _).trans
    (noOutputs_foldl (fun _ _ => noOutputs_appendSlot ..) _ _)

end

-- -------------------------------------------------------------------------------- the table of prefixes

section
variable (s : State) (p : Plan) (d : Desc) (a : Nat)

@[simp] theorem noOutputs_tblPut (o n v : Nat) : noOutputs (tblPut s a o n v) = noOutputs s := rfl

theorem noOutputs_tblPut_of {s t : State} {a o n v : Nat} (h : noOutputs t = noOutputs s) :
    noOutputs (tblPut t a o n v) = noOutputs s := h

@[simp] theorem noOutputs_initTable (room : Nat) : noOutputs (initTable s room a) = noOutputs s := by
  unfold initTable
  refine ite_keeps rfl ?_
  extract_lets n slots s1 s2 s3 s4 s5 s6
  have h6 : noOutputs s6 = noOutputs s := noOutputs_tblPut_of <| noOutputs_tblPut_of <| noOutputs_tblPut_of <|
    noOutputs_tblPut_of <| noOutputs_tblPut_of <| noOutputs_tblPut_of rfl
  clear_value s6
  exact h6

@[simp] theorem noOutputs_openTable : noOutputs (openTable s p d).1 = noOutputs s := by
  unfold openTable
  split
  · rfl
  · exact noOutputs_initTable ..

@[simp] theorem noOutputs_indexInsert (h k : Nat) : noOutputs (indexInsert s a h k) = noOutputs s := by
  unfold indexInsert
  exact noOutputs_tblPut ..

@[simp] theorem noOutputs_shiftBack (slots n i j : Nat) : noOutputs (shiftBack a slots n i j s) = noOutputs s := by
  induction n generalizing s i j with
  | zero => rfl
  | succ n ih =>
    unfold shiftBack
    extract_lets j2 e home stays s2
    have h2 : noOutputs s2 = noOutputs s := noOutputs_tblPut ..
    clear_value s2
    exact ite_keeps rfl (ite_keeps (ih ..) ((ih ..).trans (noOutputs_tblPut_of h2)))

@[simp] theorem noOutputs_indexRemove (k : Nat) : noOutputs (indexRemove s a k) = noOutputs s := by
  unfold indexRemove
  exact (noOutputs_shiftBack ..).trans (noOutputs_tblPut ..)

@[simp] theorem noOutputs_writeResult (q : Nat) (blocks : List Nat) : noOutputs (writeResult s p d q blocks) = noOutputs s :=
  noOutputs_foldl (fun _ _ => noOutputs_writeRaw ..) _ _

theorem noOutputs_prefixLookupRun (pass : Nat) : noOutputs (prefixLookupRun s p d pass) = noOutputs s := by
  unfold prefixLookupRun
  dsimp only
  rw [noOutputs_tblPut, noOutputs_foldl, noOutputs_openTable]
  intro t q
  exact (noOutputs_writeResult ..).trans (noOutputs_foldl (fun _ _ => noOutputs_tblPut ..) _ _)

@[simp] theorem noOutputs_freeNode (slots k : Nat) : noOutputs (freeNode s a slots k) = noOutputs s := by
  unfold freeNode
  extract_lets s1 o par s2 s3 c
  have h3 : noOutputs s3 = noOutputs s := noOutputs_tblPut_of <| noOutputs_tblPut_of <| noOutputs_indexRemove ..
  clear_value s3
  exact ite_keeps h3 (noOutputs_tblPut_of h3)

@[simp] theorem noOutputs_fillNode (slots k ns h parent block : Nat) (toks : List Nat) :
    noOutputs (fillNode s a slots k ns h parent block toks) = noOutputs s := by
  unfold fillNode
  extract_lets o s1 s2 s3 s4 s5 s6 s7 s8 s9 c
  have h6 : noOutputs s6 = noOutputs s := noOutputs_tblPut_of <| noOutputs_tblPut_of <| noOutputs_tblPut_of <|
    noOutputs_tblPut_of <| noOutputs_tblPut_of <| noOutputs_tblPut_of rfl
  have h9 : noOutputs s9 = noOutputs s := (noOutputs_indexInsert ..).trans <| noOutputs_tblPut_of <|
    (noOutputs_foldl (fun _ _ => noOutputs_tblPut ..) _ _).trans h6
  clear_value s9
  exact ite_keeps h9 (noOutputs_tblPut_of h9)

@[simp] theorem noOutputs_insertBlocks (q stamp n i prev parent : Nat) (t : State) :
    noOutputs (insertBlocks s p d a q stamp n i prev parent t).1 = noOutputs t := by
  induction n generalizing i prev parent t with
  | zero => rfl
  | succ n ih =>
    unfold insertBlocks
    extract_lets slots cap toks ns h go block room
    have hgo : ∀ {u : State} (k : Nat) (ev : List Nat), noOutputs u = noOutputs t → noOutputs (go u k ev).1 = noOutputs t :=
      fun _ _ hu => (ih ..).trans (noOutputs_tblPut_of hu)
    clear_value go
    have hroom : ∀ x, room = some x → noOutputs x.1 = noOutputs t := by
      intro x hx
      unfold room at hx
      split at hx
      · obtain ⟨v, -, rfl⟩ := Option.map_eq_some_iff.1 hx
        dsimp only
        exact noOutputs_freeNode ..
      · rw [← Option.some.inj hx]
    clear_value room
    split
    · exact hgo _ _ rfl
    · split
      · rfl
      · have hu := hroom _ rfl
        split
        · exact hu
        · exact hgo _ _ ((noOutputs_fillNode ..).trans hu)

theorem noOutputs_insertAll : noOutputs (insertAll s p d).1 = noOutputs s := by
  refine Eq.trans ?_ (noOutputs_openTable s p d)
  refine noOutputs_foldl_fst (fun x q => ?_) _ ((openTable s p d).1, ([] : List Nat))
  exact (noOutputs_writeResult ..).trans (noOutputs_insertBlocks ..)

theorem noOutputs_prefixInsertRun (pass : Nat) : noOutputs (prefixInsertRun s p d pass) = noOutputs s :=
  (noOutputs_foldl (fun _ _ => noOutputs_writeRaw ..) _ _).trans (noOutputs_insertAll ..)

end

-- -------------------------------------------------------------------------------- the update phase

section
variable (s t : State) (p : Plan) (d : Desc)

@[simp] theorem noOutputs_addNorm (r : NormRec) : noOutputs (addNorm s r) = noOutputs s := rfl

@[simp] theorem noOutputs_upWrite (o : Operand) (i j : Nat) (held : Bool) (x : Num) :
    noOutputs (upWrite s t p d o i j held x) = noOutputs t :=
  ite_keeps rfl (ite_keeps (noOutputs_writeRaw ..) (noOutputs_writeElem ..))

@[simp] theorem noOutputs_upWriteBlock (f : Fmt) (k : Nat) (es : List UpElem) :
    noOutputs (upWriteBlock s t p d f k es) = noOutputs t := by
  refine ite_keeps (noOutputs_writeBlock ..) ((noOutputs_foldl (fun u e => ?_) _ _).trans (noOutputs_writeByte ..))
  exact ite_keeps (noOutputs_writeRaw ..) (noOutputs_writeRaw ..)

@[simp] theorem noOutputs_upWriteAll (es : List UpElem) : noOutputs (upWriteAll s p d es) = noOutputs s := by
  have hmoments : ∀ (u : State) (e : UpElem × Nat),
      noOutputs (upWrite s (if e.1.held then upWrite s u p d (upW d) e.2 0 true numZero
        else writeRaw u p (upSpan d e.2) (upW d) e.2 (widen .fp32 e.1.w)) p d (upM1 d) e.2 2 e.1.held e.1.m1) = noOutputs u :=
    fun u e => (noOutputs_upWrite ..).trans (ite_keeps (noOutputs_upWrite ..) (noOutputs_writeRaw ..))
  have hfirst := fun (f : State → UpElem × Nat → State) (hf : ∀ u e, noOutputs (f u e) = noOutputs u) =>
    noOutputs_foldl hf es.zipIdx s
  have hstep := fun u e => ite_keeps (c := d.opcode = opUpdateMatrix) (hmoments u e)
    ((noOutputs_upWrite s _ p d (upM2 d) e.2 3 e.1.held e.1.m2).trans (hmoments u e))
  unfold upWriteAll
  refine ite_keeps (hfirst _ hstep) ?_
  split
  · exact hfirst _ hstep
  · refine ite_keeps ?_ ?_
    · exact (noOutputs_padOutput ..).trans ((noOutputs_foldl (fun _ _ => noOutputs_upWriteBlock ..) _ _).trans (hfirst _ hstep))
    · exact (noOutputs_foldl (fun _ _ => noOutputs_upWrite ..) _ _).trans (hfirst _ hstep)

theorem noOutputs_updateElemRun (pass : Nat) : noOutputs (updateElemRun s p d pass) = noOutputs s :=
  ite_keeps (noOutputs_addNorm ..) ((noOutputs_addNorm ..).trans (noOutputs_upWriteAll ..))

theorem noOutputs_updateMatrixRun (pass : Nat) : noOutputs (updateMatrixRun s p d pass) = noOutputs s :=
  ite_keeps rfl (ite_keeps (noOutputs_addNorm ..) ((noOutputs_addNorm ..).trans (noOutputs_upWriteAll ..)))

theorem noOutputs_normProbeRun (pass : Nat) : noOutputs (normProbeRun s p d pass) = noOutputs s := noOutputs_addNorm ..

end

-- -------------------------------------------------------------------------------- rows

theorem issuedOf_of_running {s : State} {seq : Nat} {p : Plan} {d : Desc} {i : Issued} (h : running s seq = some (p, d, i)) :
    issuedOf s seq = some i := by
  unfold running at h
  split at h
  · cases h
  · split at h
    next hissued =>
      split at h
      · cases h
        exact hissued
      · cases h
    next => cases h

/-- The state after a pass that has met no failing status. -/
def passWritten (run : State → Plan → Desc → Nat → State) (u : State) (p : Plan) (e : Desc) (us : List Use) (seq pass : Nat) :
    State :=
  passDone (freshSectors (noteWrites (run (prefillNibbles (cacheReads u p seq (unitSpans e) us) p us) p e pass) p seq (unitSpans e)
    us) (writeRanges u p us)) seq pass 0

/-- What a pass whose turn it is does: it stalls, fails, or writes its outputs. -/
theorem operate_of_passDue {op seq pass : Nat} {s : State} {p : Plan} {d : Desc} {i : Issued} (h : PassDue op seq pass s p d i)
    (uses : State → Plan → Desc → Nat → List Use) (run : State → Plan → Desc → Nat → State) :
    operate [op] seq pass uses run s =
      let e := partDesc p d pass
      let us := present (uses s p e pass)
      let u := touchSectors s (usesSector s p e us)
      if banksOwned s e us = false then s
      else if operandStatus u p e us ≠ 0 then passDone u seq pass (operandStatus u p e us)
      else passWritten run u p e us seq pass := by
  obtain ⟨hrun, hop, hpasses, hlt, hturn⟩ := h
  have hdue : (!([op].contains d.opcode) || pass != i.passesRun.length || decide (passesOf p seq ≤ pass)
      || !partTurn s p d pass) = false := by
    simp [hop, hpasses, Nat.not_le.2 hlt, hturn]
  simp only [operate, hrun, hdue, Bool.false_eq_true, if_false, Bool.not_eq_true', operandStatus, passWritten]
  rfl

theorem onlyData_passWritten {run : State → Plan → Desc → Nat → State} (hrun : ∀ s p d pass, noOutputs (run s p d pass) = noOutputs s)
    (u : State) (p : Plan) (e : Desc) (us : List Use) (seq pass : Nat) : OnlyData u (passWritten run u p e us seq pass) :=
  onlyData_passDone (by simp [hrun]) _ _ _

theorem passesRunOf_passWritten {run : State → Plan → Desc → Nat → State}
    (hrun : ∀ s p d pass, noOutputs (run s p d pass) = noOutputs s) (u : State) (p : Plan) (e : Desc) (us : List Use) (seq pass : Nat) :
    passesRunOf (passWritten run u p e us seq pass) seq = (passesRunOf u seq).map (· ++ [pass]) := by
  rw [passWritten, passesRunOf_passDone, passesRunOf_of_noOutputs (t := freshSectors _ _) (s := u) (by simp [hrun])]

section
variable (s : State) (p : Plan) (seq : Nat) (spans : List Nat) (us : List Use)

/-- The record of what was written is no memory. -/
theorem noteWrites_keeps {β : Type} {g : State → β} (htag : ∀ s x b, g (stampBank s x b) = g s)
    (hks : ∀ (s : State) (k : Keystone), g { s with ks := k } = g s) : g (noteWrites s p seq spans us) = g s := by
  unfold noteWrites
  refine foldl_keeps (fun s u => ite_keeps rfl (ite_keeps (foldl_keeps (fun _ _ => htag ..) _ _) ?_)) us s
  split
  · rfl
  · exact ite_keeps (hks _ _) rfl

@[simp] theorem noteWrites_dram : (noteWrites s p seq spans us).dram = s.dram :=
  noteWrites_keeps _ _ _ _ _ (fun _ _ _ => rfl) fun _ _ => rfl

@[simp] theorem noteWrites_banks : (noteWrites s p seq spans us).sp.banks = s.sp.banks :=
  noteWrites_keeps (g := (·.sp.banks)) _ _ _ _ _ (fun _ _ _ => rfl) fun _ _ => rfl

@[simp] theorem noteWrites_accs : (noteWrites s p seq spans us).sp.accs = s.sp.accs :=
  noteWrites_keeps (g := (·.sp.accs)) _ _ _ _ _ (fun _ _ _ => rfl) fun _ _ => rfl

end

/-- An operator's row, from what its run leaves alone. -/
theorem operatorRow_of {many : Bool} {c : Nat → Nat → Instr} {op : Nat} {uses : State → Plan → Desc → Nat → List Use}
    {run : State → Plan → Desc → Nat → State}
    (hexec : ∀ seq pass s, many = true ∨ pass = 0 → exec (c seq pass) s = .next (operate [op] seq pass uses run s))
    (hrun : ∀ s p d pass, noOutputs (run s p d pass) = noOutputs s) : OperatorRow many c op uses run := by
  intro s seq pass p d i hdue hmany
  have hoper := operate_of_passDue hdue uses run
  have hissued : passesRunOf (touchSectors s (usesSector s p (partDesc p d pass)
      (present (uses s p (partDesc p d pass) pass)))) seq = some i.passesRun := by
    rw [passesRunOf, issuedOf, touchSectors_ks]
    exact congrArg (Option.map _) (issuedOf_of_running hdue.1)
  rw [hexec seq pass s hmany, hoper]
  refine ⟨fun howned => ?stall, fun howned hst => ?fail, fun howned hst => ?run⟩
  case stall => simp [howned]
  case fail => simp [howned, hst]
  case run =>
    refine ⟨_, by simp [howned, hst]; rfl, onlyData_passWritten hrun .., ?_, ?_, ?_, ?_⟩
    · simp [passWritten, passDone, updIssued, freshSectors]
    · simp [passWritten, passDone, updIssued]
    · simp [passWritten, passDone, updIssued]
    · exact (passesRunOf_passWritten hrun ..).trans (by rw [hissued]; rfl)

/-- Settles O36. -/
theorem denseAndUpdateOperators : Obligations.DenseAndUpdateOperators :=
  ⟨⟨operatorRow_of (fun _ _ _ _ => rfl) noOutputs_matmulRun, operatorRow_of (fun _ _ _ _ => rfl) noOutputs_matmulRun,
      operatorRow_of (fun _ _ _ _ => rfl) noOutputs_matmulRun, operatorRow_of (fun _ _ _ _ => rfl) noOutputs_reduceRun,
      operatorRow_of (fun _ _ _ _ => rfl) noOutputs_copyConvertRun⟩,
    operatorRow_of (fun _ _ _ _ => rfl) noOutputs_updateElemRun, operatorRow_of (fun _ _ _ _ => rfl) noOutputs_updateMatrixRun,
    operatorRow_of (fun _ _ _ _ => rfl) noOutputs_normProbeRun⟩

/-- A row that names no pass is of pass 0. -/
theorem pass_eq_zero {pass : Nat} (h : false = true ∨ pass = 0) : pass = 0 := h.resolve_left Bool.false_ne_true

/-- Settles O37. -/
theorem attentionDecodeAndPrefixOperators : Obligations.AttentionDecodeAndPrefixOperators :=
  ⟨⟨operatorRow_of (fun _ _ _ _ => rfl) noOutputs_attnFwdRun, operatorRow_of (fun _ _ _ _ => rfl) noOutputs_attnBwdRun,
      operatorRow_of (fun _ _ _ _ => rfl) noOutputs_matvecRun, operatorRow_of (fun _ _ _ _ => rfl) noOutputs_attnDecodeRun⟩,
    operatorRow_of (fun _ _ _ h => by rw [pass_eq_zero h]; rfl) noOutputs_prefixLookupRun,
    operatorRow_of (fun _ _ _ h => by rw [pass_eq_zero h]; rfl) noOutputs_prefixInsertRun⟩

/-- Settles O38. -/
theorem vectorAndWindowOperators : Obligations.VectorAndWindowOperators :=
  ⟨operatorRow_of (fun _ _ _ _ => rfl) noOutputs_vecProgramRun,
    operatorRow_of (fun _ _ _ _ => rfl) fun s p d pass => noOutputs_scanRun s p d false pass,
    operatorRow_of (fun _ _ _ _ => rfl) fun s p d pass => noOutputs_scanRun s p d true pass,
    operatorRow_of (fun _ _ _ _ => rfl) noOutputs_affineRun, operatorRow_of (fun _ _ _ _ => rfl) noOutputs_convRun,
    operatorRow_of (fun _ _ _ _ => rfl) noOutputs_poolRun⟩

end Sys2Proof.Machine

-- ------------------------------------------------------------------------------------------------ mailbox and host registers

namespace Sys2Proof.Machine

section
variable {s : State}

/-- R75: a write that no case of R77 refuses stores its bytes. -/
theorem slotWrite_stores {off : Nat} {data : List Byte} (howned : (slotsReached off data.length).any (slotOwned s.host) = false)
    (hpart : partialWrite off data.length = false) : slotWrite s off data = { s with host := storeSlot s.host off data } := by
  simp only [slotWrite, howned, hpart, Bool.or_self, Bool.false_eq_true, if_false]
  rfl

/-- R75, R78: only a dword 0 written with OWN 1 is a command. -/
theorem storeSlot_eq (h : HostIf) (off : Nat) (data : List Byte) :
    storeSlot h off data =
      let h1 := { h with slots := tabPut h.slots off data }
      if !(decide (off % 128 = 0 ∧ data.length = 4) && slotOwned h1 (off / 128)) then h1
      else noteTag h1 (off / 128) (headTag (slotHead h1 (off / 128))) := by
  simp only [storeSlot, ← and_assoc, Bool.not_eq_true', Bool.and_eq_false_iff, decide_eq_false_iff_not]
  split
  · split
    · simp_all
    · rfl
  · split
    · rfl
    · simp_all

/-- MAILBOX_TAKE once it runs, for the slot that is next. -/
theorem mailboxTake_of_ready {n : Nat} (hlive : mboxLive s.host = true) (hcq : cqEn s.host = true) (hready : notReady s.host = false)
    (hnext : nextSlot s.host = some n) : mailboxTake s =
      let c := copySlot s.host n
      let s1 := { s with host := acknowledge s.host n }
      if s.host.collided.contains n then setErr s1 errTag
      else if !commands.contains c.cmd then finishCmd s1 c stBadCommand []
      else if bitsOf (slotHead s.host n) 30 28 ≠ 0 then finishCmd s1 c stBadParam []
      else { s1 with host := { s1.host with taken := s.host.taken ++ [c] } } := by
  have hkept : notReady (acknowledge s.host n) = false := hready
  simp only [mailboxTake, hlive, hcq, hnext, updHost_host, hkept, Bool.not_true, Bool.or_self, Bool.false_and, Bool.false_eq_true,
    if_false]
  rfl

end

/-- Settles O14. -/
theorem mailboxSlotsAreWrittenAndTaken : Obligations.MailboxSlotsAreWrittenAndTaken := by
  refine ⟨fun s off data hans hne hin howned hpart => ?write, fun s n hlive hcq hready hnext => ?take⟩
  case write =>
    have hexec : exec (.mailboxSlotWrite off ⟨data, false⟩) s = .next { s with host := storeSlot s.host off data } :=
      congrArg Host.Outcome.next ((mailboxSlotWrite_of_answers hans hne hin).trans (slotWrite_stores howned hpart))
    rw [hexec, storeSlot_eq]
    rfl
  case take =>
    have hexec : exec .mailboxTake s = .next (mailboxTake s) := rfl
    rw [mailboxTake_of_ready hlive hcq hready hnext] at hexec
    refine ⟨fun hhit => ?_, fun hfree hcmd => ?_, fun hfree hcmd hzero => ?_⟩ <;> rw [hexec]
    · simp only [hhit, if_true]
    · simp only [hfree, hcmd, Bool.false_eq_true, if_false, Bool.not_false, if_true]
    · simp only [hfree, hcmd, hzero, Bool.false_eq_true, if_false, Bool.not_true, ne_eq, not_true_eq_false]

-- -------------------------------------------------------------------------------- registers

/-- A register write keeps the bits below `k` alone. -/
theorem ofNat_mod_two_pow {w k v : Nat} : BitVec.ofNat w (v % 2 ^ k) = BitVec.ofNat w v &&& BitVec.ofNat w (2 ^ k - 1) := by
  refine BitVec.eq_of_getLsbD_eq fun i hi => ?_
  simp only [BitVec.getLsbD_ofNat, BitVec.getLsbD_and, Nat.testBit_mod_two_pow, Nat.testBit_two_pow_sub_one, hi, decide_true,
    Bool.true_and]
  exact Bool.and_comm ..

/-- A register write clears the bits below `k`. -/
theorem ofNat_div_mul_two_pow {w k v : Nat} (m : BitVec w) (hm : ∀ i, i < w → m.getLsbD i = decide (k ≤ i)) :
    BitVec.ofNat w (v / 2 ^ k * 2 ^ k) = BitVec.ofNat w v &&& m := by
  refine BitVec.eq_of_getLsbD_eq fun i hi => ?_
  simp only [BitVec.getLsbD_ofNat, BitVec.getLsbD_and, hi, decide_true, Bool.true_and, hm i hi, Nat.mul_comm _ (2 ^ k),
    Nat.testBit_two_pow_mul, Nat.testBit_div_two_pow]
  by_cases hki : k ≤ i
  · simp [hki]
  · simp [hki]

section
variable {s : State}

theorem registerWrite_of_answers (h : Answers s) {off : Nat} {data : List Byte} (hlow : off + data.length ≤ msixBase)
    (hlen : data.length = 4) (halign : off % 4 = 0) : registerWrite s off data false = regStore s off (leNat data) := by
  rw [registerWrite, barWrite_of_answers h, if_neg (by omega), if_neg (by simp [hlen, halign])]

/-- R72: below the MSI-X table a write of another size is ignored. -/
theorem registerWrite_of_size_ne (h : Answers s) {off : Nat} {data : List Byte} (hlow : off + data.length ≤ msixBase)
    (hlen : data.length ≠ 4) : registerWrite s off data false = s := by
  rw [registerWrite, barWrite_of_answers h]
  split
  next hmsix =>
    have hempty : data.length = 0 := by omega
    simp [msixWrite, hempty]
  next => rw [if_pos (Or.inl hlen)]

/-- R70: a poisoned write is dropped, logged and noted. -/
theorem barWrite_of_poisoned (h : Answers s) (f : State → State) :
    barWrite s true f = setErr { s with host := { s.host with aer := s.host.aer ++ [.poisonedTlp] } } errPoison := by
  obtain ⟨hlink, hpm⟩ := h
  simp [barWrite, hlink, hpm, logAer, updHost]

theorem ctrlWrite_eq (v : Nat) : ctrlWrite s v = { s with host := { s.host with
    ctrl := BitVec.ofNat 32 v &&& 7, flipped := if !cqEn s.host && v.testBit 0 then [] else s.host.flipped } } := by
  rw [ctrlWrite, show (7 : BitVec 32) = BitVec.ofNat 32 (2 ^ 3 - 1) from rfl, ← ofNat_mod_two_pow]
  rfl

/-- Only the low 32 bits of a value count. -/
theorem ctrlWrite_ofNat (v : Nat) : ctrlWrite s (BitVec.ofNat 32 v).toNat = { s with host := { s.host with
    ctrl := BitVec.ofNat 32 v &&& 7, flipped := if !cqEn s.host && v.testBit 0 then [] else s.host.flipped } } := by
  rw [ctrlWrite_eq, BitVec.ofNat_toNat, BitVec.setWidth_eq, BitVec.toNat_ofNat, Nat.testBit_mod_two_pow]
  rfl

end

/-- The low bits of a register's mask, from its least bit on. -/
theorem maskBits_12 : ∀ i, i < 32 → (0xFFFFF000 : BitVec 32).getLsbD i = decide (12 ≤ i) := by decide

theorem maskBits_30 : ∀ i, i < 32 → (0xC0000000 : BitVec 32).getLsbD i = decide (30 ≤ i) := by decide

/-- Settles O15. -/
theorem hostRegisterWritesAndTimer : Obligations.HostRegisterWritesAndTimer := by
  refine ⟨fun s v data hans hlen => ?registers, fun s src hsrc => ⟨fun hidle => ?idle, fun hcount hlive => ?expires⟩⟩
  case registers =>
    have hwrite : ∀ off, off + 4 ≤ msixBase → off % 4 = 0 →
        exec (.registerWrite off ⟨data, false⟩) s = .next (regStore s off (leNat data)) := fun off hlow halign =>
      congrArg Host.Outcome.next (registerWrite_of_answers hans (hlen.symm ▸ hlow) hlen halign)
    have hctrl : ∀ w : W32, exec (.cqEnable ⟨w, false⟩) s = .next (ctrlWrite s w.toNat) := fun w =>
      congrArg Host.Outcome.next (barWrite_of_answers hans _)
    refine ⟨?_, ?_, hwrite 0x1008 (by decide) (by decide), fun hcq => ⟨?_, ?_⟩, fun hcq => ⟨?_, ?_⟩, ?_,
      hwrite 0x1020 (by decide) (by decide), ?_, ?_, fun off bytes hlow hsize =>
        congrArg Host.Outcome.next (registerWrite_of_size_ne hans hlow hsize), fun off bytes => ⟨?_, ?_, ?_⟩⟩
    · rw [hctrl, ctrlWrite_eq, BitVec.ofNat_toNat, BitVec.setWidth_eq]
    · refine (hwrite 0x1000 (by decide) (by decide)).trans ((congrArg Host.Outcome.next ?_).trans (hctrl _).symm)
      exact (ctrlWrite_eq _).trans (ctrlWrite_ofNat _).symm
    · exact (hwrite 0x1010 (by decide) (by decide)).trans (congrArg Host.Outcome.next (by simp [regStore, updHost, hcq]))
    · exact (hwrite 0x1014 (by decide) (by decide)).trans (congrArg Host.Outcome.next (by simp [regStore, updHost, hcq]))
    · refine (hwrite 0x1010 (by decide) (by decide)).trans (congrArg Host.Outcome.next ?_)
      rw [← ofNat_div_mul_two_pow _ maskBits_12]
      simp [regStore, updHost, hcq]
    · exact (hwrite 0x1014 (by decide) (by decide)).trans (congrArg Host.Outcome.next (by simp [regStore, updHost, hcq]))
    · refine (hwrite 0x101C (by decide) (by decide)).trans (congrArg Host.Outcome.next ?_)
      rw [show (0xFFFFFF : BitVec 32) = BitVec.ofNat 32 (2 ^ 24 - 1) from rfl, ← ofNat_mod_two_pow]
      rfl
    · refine (hwrite 0x1024 (by decide) (by decide)).trans (congrArg Host.Outcome.next ?_)
      rw [← ofNat_div_mul_two_pow _ maskBits_30]
      rfl
    · refine (hwrite 0x1028 (by decide) (by decide)).trans (congrArg Host.Outcome.next ?_)
      rw [show (0x1FF : BitVec 32) = BitVec.ofNat 32 (2 ^ 9 - 1) from rfl, ← ofNat_mod_two_pow]
      rfl
    · exact congrArg Host.Outcome.next (by rw [registerWrite, barWrite_of_poisoned hans] : registerWrite s off bytes true = _)
    · exact congrArg Host.Outcome.next (by rw [mailboxSlotWrite, barWrite_of_poisoned hans] : mailboxSlotWrite s off bytes true = _)
    · exact congrArg Host.Outcome.next (by rw [cqEnable, barWrite_of_poisoned hans] : cqEnable s v true = _)
  case idle =>
    refine congrArg Host.Outcome.next (if_pos ?_)
    exact Or.inr hidle
  case expires =>
    refine congrArg Host.Outcome.next (if_neg ?_)
    simp [hcount, hlive, Nat.not_le.2 hsrc]

end Sys2Proof.Machine

-- ------------------------------------------------------------------------------------------------ sectors of DRAM

namespace Sys2Proof.Machine

/-- DRAM without what the decoding of a sector may change (R307, R310). -/
def noMarks (d : Dram) : Dram :=
  { d with
    bad := [], flaws := [], failing := [], rowCorr := [], laneCorr := [], laneHits := [], corrected := [], uncorr := []
    scrubRes := (0, 0, 0) }

theorem noMarks_foldl {α : Type} {f : State → α → State} (hf : ∀ s a, noMarks (f s a).dram = noMarks s.dram) (l : List α) (s : State) :
    noMarks (l.foldl f s).dram = noMarks s.dram :=
  foldl_keeps (g := fun s => noMarks s.dram) hf l s

section
variable (s : State)

@[simp] theorem noMarks_markRow (k : Nat) : noMarks (markRow s k).dram = noMarks s.dram := rfl

@[simp] theorem noMarks_markBad (a : Nat) : noMarks (markBad s a).dram = noMarks s.dram := rfl

@[simp] theorem noMarks_markCorrected (e : SectorErr) : noMarks (markCorrected s e).dram = noMarks s.dram :=
  ite_keeps (g := fun s => noMarks s.dram) rfl rfl

@[simp] theorem noMarks_markSector (e : SectorErr) : noMarks (markSector s e).dram = noMarks s.dram :=
  ite_keeps (g := fun s => noMarks s.dram) rfl (noMarks_markCorrected s e)

@[simp] theorem noMarks_touchSectors (hit : Nat → Bool) : noMarks (touchSectors s hit).dram = noMarks s.dram :=
  ite_keeps (g := fun s => noMarks s.dram) rfl
    ((noMarks_foldl (fun _ _ => noMarks_markRow ..) _ _).trans (noMarks_foldl (fun _ _ => noMarks_markSector ..) _ _))

@[simp] theorem touchSectors_mem (hit : Nat → Bool) : (touchSectors s hit).dram.mem = s.dram.mem :=
  have h := congrArg Dram.mem (noMarks_touchSectors s hit)
  h

@[simp] theorem touchSectors_adds (hit : Nat → Bool) : (touchSectors s hit).dram.adds = s.dram.adds :=
  have h := congrArg Dram.adds (noMarks_touchSectors s hit)
  h

@[simp] theorem touchSectors_window (hit : Nat → Bool) : (touchSectors s hit).dram.window = s.dram.window :=
  have h := congrArg Dram.window (noMarks_touchSectors s hit)
  h

/-- Two states that differ in DRAM alone are equal once they hold the same DRAM. -/
def setDram (d : Dram) (s : State) : State := { s with dram := d }

theorem setDram_markSector (d : Dram) (s : State) (e : SectorErr) : setDram d (markSector s e) = setDram d s :=
  ite_keeps (g := setDram d) rfl (ite_keeps (g := setDram d) rfl rfl)

/-- A read changes nothing outside DRAM. -/
theorem setDram_touchSectors (d : Dram) (s : State) (hit : Nat → Bool) : setDram d (touchSectors s hit) = setDram d s :=
  ite_keeps (g := setDram d) rfl
    ((foldl_keeps (g := setDram d) (f := fun s sec => markRow s (rowOf (32 * sec))) (fun _ _ => rfl) _ _).trans
      (foldl_keeps (g := setDram d) (setDram_markSector d) _ _))

end

-- -------------------------------------------------------------------------------- uncorrectable sectors

section
variable {s : State} {x : Nat}

theorem mem_bad_markSector {e : SectorErr} :
    x ∈ (markSector s e).dram.bad ↔ (e.fatal = true ∧ x = e.addr / 32) ∨ x ∈ s.dram.bad := by
  cases hfatal : e.fatal with
  | true => simp [markSector, hfatal, markRow, markBad, updDram, countBad, mem_insertNat]
  | false =>
    have hbad : (markCorrected s e).dram.bad = s.dram.bad := ite_keeps (g := (·.dram.bad)) rfl rfl
    simp [markSector, hfatal, hbad]

/-- The sectors known to be uncorrectable after some errors have been met. -/
theorem mem_bad_markSectors {l : List SectorErr} :
    x ∈ (l.foldl markSector s).dram.bad ↔ (∃ e ∈ l, e.fatal = true ∧ x = e.addr / 32) ∨ x ∈ s.dram.bad := by
  induction l generalizing s with
  | nil => simp
  | cons e l ih =>
    rw [List.foldl_cons, ih, mem_bad_markSector, ← or_assoc]
    simp only [List.mem_cons, exists_eq_or_imp, or_comm]

theorem markRows_bad (l : List Nat) (f : Nat → Nat) (s : State) :
    (l.foldl (fun s sec => markRow s (f sec)) s).dram.bad = s.dram.bad :=
  foldl_keeps (g := (·.dram.bad)) (f := fun s sec => markRow s (f sec)) (fun _ _ => rfl) l s

/-- A read finds the sectors that it reaches and that do not decode. -/
theorem mem_bad_touchSectors {hit : Nat → Bool} :
    x ∈ (touchSectors s hit).dram.bad
      ↔ (∃ e ∈ s.dram.flaws, hit (e.addr / 32) = true ∧ e.fatal = true ∧ x = e.addr / 32) ∨ x ∈ s.dram.bad := by
  unfold touchSectors
  split
  next hclean =>
    have hflaws : s.dram.flaws = [] := by simp only [Bool.and_eq_true, List.isEmpty_iff] at hclean; exact hclean.1
    simp [hflaws]
  next hclean =>
    simp only [markRows_bad, mem_bad_markSectors, List.mem_filter, and_assoc]

/-- Nothing is met where nothing ails DRAM. -/
theorem touchSectors_of_clean (h : DramClean s) (hit : Nat → Bool) : touchSectors s hit = s := by
  obtain ⟨hflaws, hscrub, -⟩ := h
  simp [touchSectors, hflaws, hscrub]

theorem logLost_self (s : State) : logLost s s = s := by
  have hnone : (s.dram.lost.filter fun sec => decide (32 * sec < reservedStart) && !s.dram.lost.contains sec) = [] :=
    List.filter_eq_nil_iff.2 fun sec hsec => by simp [hsec]
  simp only [logLost, hnone, List.foldl_nil, ite_self]

theorem settleRows_of_clean (h : DramClean s) : settleRows s = s := by
  obtain ⟨-, hscrub, hfailing⟩ := h
  simp only [settleRows, hscrub, hfailing, List.foldl_nil]

/-- With no failing row there is nothing to move. -/
theorem settleIdle_of_clean (h : DramClean s) : settleIdle s = s := by
  simp [settleIdle, settleRows_of_clean h, logLost_self]

/-- While a plan runs no row moves (R312). -/
theorem settleIdle_of_running (h : planState s = plRunning) : settleIdle s = s := by simp [settleIdle, h]

end

-- -------------------------------------------------------------------------------- the last fault

theorem raiseIrq_status (s : State) (src : Nat) : (raiseIrq s src).host.status = s.host.status := by
  obtain ⟨pba, irq, -, heq⟩ := raiseIrq_eq s src
  rw [heq]; rfl

theorem lastFault_statusField (h : HostIf) (v : Nat) : lastFault (statusField h 15 8 v) = v % 256 := by
  have hlt := h.status.isLt
  simp only [lastFault, statusField, bitsOf, BitVec.toNat_ofNat]
  omega

theorem planStateOf_statusField (h : HostIf) (v : Nat) : planStateOf (statusField h 15 8 v) = planStateOf h := by
  have hlt := h.status.isLt
  simp only [planStateOf, statusField, bitsOf, BitVec.toNat_ofNat]
  omega

/-- R379: a fault notified to the host is the last fault of HC_STATUS. -/
@[simp] theorem lastFault_notifyFault (s : State) (e : Event) : lastFault (notifyFault s e).host = e.status.toNat := by
  have hlast : lastFault (notifyFault s e).host = lastFault (statusField (logEvent s e).host 15 8 e.status.toNat) :=
    congrArg (fun b : W32 => bitsOf b.toNat 15 8) (raiseIrq_status _ _)
  rw [hlast, lastFault_statusField, Nat.mod_eq_of_lt e.status.isLt]

@[simp] theorem planState_notifyFault (s : State) (e : Event) : planState (notifyFault s e) = planState s := by
  have hstate : planState (notifyFault s e) = planStateOf (statusField (logEvent s e).host 15 8 e.status.toNat) :=
    congrArg (fun b : W32 => bitsOf b.toNat 4 2) (raiseIrq_status _ _)
  rw [hstate, planStateOf_statusField, logEvent_host]
  rfl

end Sys2Proof.Machine

-- ------------------------------------------------------------------------------------------------ bytes written to DRAM

namespace Sys2Proof.Machine

section
variable {s : State} {a x : Nat} {data : List Byte}

theorem lostMemory_congr {s t : State} (h : noMarks t.dram = noMarks s.dram) (a : Nat) : lostMemory t a = lostMemory s a := by
  have hfailed : t.dram.failedCh = s.dram.failedCh := by have h' := congrArg Dram.failedCh h; exact h'
  have hgone : t.dram.gone = s.dram.gone := by have h' := congrArg Dram.gone h; exact h'
  simp only [lostMemory, hfailed, hgone]

/-- One byte of a write, unless its sector stays as it was. -/
def putUnless (bads : List Nat) (a : Nat) (m : Tab Byte) (b : Byte × Nat) : Tab Byte :=
  if bads.contains ((a + b.2) / 32) then m else tabSet 0 m (a + b.2) b.1

theorem putUnless_wf {bads : List Nat} {m : Tab Byte} (hm : tabWf 0 m = true) (b : Byte × Nat) :
    tabWf 0 (putUnless bads a m b) = true := by
  unfold putUnless
  split
  · exact hm
  · exact tabSet_wf hm

theorem tabGet_putUnless {bads : List Nat} {m : Tab Byte} (hm : tabWf 0 m = true) (b : Byte × Nat) :
    tabGet 0 (putUnless bads a m b) x
      = if x = a + b.2 ∧ bads.contains (x / 32) = false then b.1 else tabGet 0 m x := by
  unfold putUnless
  by_cases hx : x = a + b.2
  · subst hx
    by_cases hbad : bads.contains ((a + b.2) / 32) = true
    · rw [if_pos hbad, if_neg (by simp only [hbad]; decide)]
    · rw [if_neg hbad, if_pos ⟨rfl, by simpa using hbad⟩, tabGet_tabSet_same hm]
  · rw [if_neg (c := x = a + b.2 ∧ _) fun h => hx h.1]
    split
    · rfl
    · exact tabGet_tabSet_other hm hx

/-- Bytes written from an address on, but for those of the sectors that stay as they were. -/
theorem tabGet_foldl_putUnless (bads : List Nat) {m : Tab Byte} (hm : tabWf 0 m = true) (k : Nat) :
    tabGet 0 ((data.zipIdx k).foldl (putUnless bads a) m) x
      = if a + k ≤ x ∧ bads.contains (x / 32) = false then data[x - (a + k)]?.getD (tabGet 0 m x) else tabGet 0 m x := by
  induction data generalizing m k with
  | nil => simp
  | cons b data ih =>
    rw [List.zipIdx_cons, List.foldl_cons, ih (putUnless_wf hm _), tabGet_putUnless hm]
    by_cases hbad : bads.contains (x / 32) = false
    · rcases Nat.lt_trichotomy x (a + k) with hlt | heq | hgt
      · rw [if_neg (by omega), if_neg (by omega), if_neg (by omega)]
      · rw [if_neg (by omega), if_pos ⟨heq, hbad⟩, if_pos ⟨Nat.le_of_eq heq.symm, hbad⟩, heq]
        simp
      · have hne : ¬(x = a + (b, k).2 ∧ bads.contains (x / 32) = false) := fun h => Nat.ne_of_gt hgt h.1
        rw [if_neg hne]
        obtain ⟨d, rfl⟩ := Nat.exists_eq_add_of_lt hgt
        have hd : a + k + d + 1 - (a + (k + 1)) = d := by omega
        have hd' : a + k + d + 1 - (a + k) = d + 1 := by omega
        rw [if_pos ⟨by omega, hbad⟩, if_pos ⟨by omega, hbad⟩, hd, hd', List.getElem?_cons_succ]
    · rw [if_neg fun h => hbad h.2, if_neg fun h => hbad h.2, if_neg fun h => hbad h.2]

theorem mem_putSectors_left :
    x ∈ (putSectors s a data).2 ↔ x ∈ (touchSectors s (partHits a data.length)).dram.bad ∧ partHits a data.length x = true := by
  simp [putSectors]

theorem setDram_putSectors (d : Dram) (s : State) : setDram d (putSectors s a data).1 = setDram d s :=
  (foldl_keeps (g := setDram d) (f := fun s sec => markRow s (rowOf (32 * sec))) (fun _ _ => rfl) _ _).trans
    (setDram_touchSectors d s _)

/-- R445: the bytes of a write stand at their addresses, but for those of the sectors left. -/
theorem tabGet_putSectors (h : tabWf 0 s.dram.mem = true) :
    tabGet 0 (putSectors s a data).1.dram.mem x
      = if a ≤ x ∧ (putSectors s a data).2.contains (x / 32) = false then data[x - a]?.getD (tabGet 0 s.dram.mem x)
        else tabGet 0 s.dram.mem x := by
  have hmem : (putSectors s a data).1.dram.mem
      = data.zipIdx.foldl (putUnless (putSectors s a data).2 a) s.dram.mem := by
    refine (foldl_keeps (g := (·.dram.mem)) (f := fun s sec => markRow s (rowOf (32 * sec))) (fun _ _ => rfl) _ _).trans ?_
    exact congrArg (List.foldl _ · _) (touchSectors_mem s _)
  rw [hmem, tabGet_foldl_putUnless _ h]
  rfl

/-- A sector that the write covers in part is known to be uncorrectable afterwards if it was before. -/
theorem mem_bad_putSectors (hpart : partHits a data.length x = true) :
    x ∈ (putSectors s a data).1.dram.bad ↔ x ∈ (touchSectors s (partHits a data.length)).dram.bad := by
  have hbad : (putSectors s a data).1.dram.bad
      = (touchSectors s (partHits a data.length)).dram.bad.filter fun x =>
          !([(a, data.length)].any fun r => rangeHits r.1 r.2 x && !partHits r.1 r.2 x) :=
    markRows_bad _ _ _
  simp [hbad, hpart]

/-- Every sector written decodes: none is left. -/
theorem putSectors_left_nil (hknown : ∀ sec, partHits a data.length sec = true → s.dram.bad.contains sec = false)
    (hmet : ∀ e ∈ s.dram.flaws, partHits a data.length (e.addr / 32) = true → e.fatal = false) :
    (putSectors s a data).2 = [] := by
  refine List.eq_nil_iff_forall_not_mem.2 fun x hx => ?_
  obtain ⟨hbad, hpart⟩ := mem_putSectors_left.1 hx
  rcases mem_bad_touchSectors.1 hbad with ⟨e, he, hhit, hfatal, -⟩ | hbad
  · simp [hmet e he hhit] at hfatal
  · have hnot := hknown x hpart
    simp [hbad] at hnot

/-- A write to DRAM of a clean device leaves it clean. -/
theorem putSectors_clean (hs : DramClean s) (hleft : (putSectors s a data).2 = []) : DramClean (putSectors s a data).1 := by
  have ht := touchSectors_of_clean hs (partHits a data.length)
  obtain ⟨hflaws, hscrub, hfailing⟩ := hs
  have heq : (putSectors s a data).1
      = (putSectors s a data).2.foldl (fun s sec => markRow s (rowOf (32 * sec)))
          (freshSectors (updDram (touchSectors s (partHits a data.length)) fun d =>
            { d with mem := (putSectors s a data).1.dram.mem }) [(a, data.length)]) := by
    have hmem := foldl_keeps (g := (·.dram.mem)) (f := fun s sec => markRow s (rowOf (32 * sec))) (fun _ _ => rfl)
    simp only [putSectors, hmem]
    rfl
  rw [heq, hleft, ht]
  simp [DramClean, freshSectors, hflaws, hscrub, hfailing]

end

end Sys2Proof.Machine

-- ------------------------------------------------------------------------------------------------ DRAM from the host

namespace Sys2Proof.Machine

/-- Sectors that a host read has met, with what ails them. -/
def metBy (s : State) (a len : Nat) (ecc : List SectorErr) : State :=
  (ecc.filter fun e => rangeHits a len (e.addr / 32)).foldl markSector (touchSectors s (rangeHits a len))

/-- A host read finds no data at an address. -/
def sickAt (s : State) (x : Nat) : Bool := s.dram.bad.contains (x / 32) || lostMemory s (x / 32 * 32)

/-- The first sector of a host read that holds no data, from the read's first sector on. -/
def firstSick (s : State) (a len : Nat) : Option Nat :=
  if len = 0 then none
  else (List.range ((a + len - 1) / 32 - a / 32 + 1)).find? fun i =>
    s.dram.bad.contains ((a / 32 + i) * 32 / 32) || lostMemory s ((a / 32 + i) * 32)

section
variable {s : State} {a len : Nat} {ecc : List SectorErr} {x : Nat}

theorem setDram_metBy (d : Dram) : setDram d (metBy s a len ecc) = setDram d s :=
  (foldl_keeps (g := setDram d) (setDram_markSector d) _ _).trans (setDram_touchSectors d s _)

theorem noMarks_metBy : noMarks (metBy s a len ecc).dram = noMarks s.dram :=
  (noMarks_foldl noMarks_markSector _ _).trans (noMarks_touchSectors s _)

theorem mem_bad_metBy :
    x ∈ (metBy s a len ecc).dram.bad
      ↔ (∃ e, ((e ∈ ecc ∨ e ∈ s.dram.flaws) ∧ rangeHits a len (e.addr / 32) = true) ∧ e.fatal = true ∧ x = e.addr / 32)
        ∨ x ∈ s.dram.bad := by
  rw [metBy, mem_bad_markSectors, mem_bad_touchSectors, ← or_assoc]
  simp only [List.mem_filter, or_and_right, exists_or, and_assoc]

/-- The sectors met hold what they held before when none of them fails. -/
theorem sickAt_metBy (hmet : ∀ e, (e ∈ ecc ∨ e ∈ s.dram.flaws) ∧ rangeHits a len (e.addr / 32) = true → e.fatal = false) (x : Nat) :
    sickAt (metBy s a len ecc) x = sickAt s x := by
  have hbad : (metBy s a len ecc).dram.bad.contains (x / 32) = s.dram.bad.contains (x / 32) := by
    refine Bool.eq_iff_iff.2 ?_
    simp only [List.contains_iff_mem, mem_bad_metBy]
    refine or_iff_right fun ⟨e, he, hfatal, _⟩ => ?_
    simp [hmet e he] at hfatal
  rw [sickAt, sickAt, hbad, lostMemory_congr noMarks_metBy]

theorem sickAt_metBy_of_sickAt (h : sickAt s x = true) : sickAt (metBy s a len ecc) x = true := by
  simp only [sickAt, Bool.or_eq_true, List.contains_iff_mem, lostMemory_congr noMarks_metBy] at h ⊢
  exact h.imp_left fun hbad => mem_bad_metBy.2 (.inr hbad)

theorem firstSick_eq_none (h : ∀ x, a ≤ x → x < a + len → sickAt s x = false) : firstSick s a len = none := by
  unfold firstSick
  split
  next hlen =>
    rfl
  next hlen =>
    refine List.find?_eq_none.2 fun i hi => ?_
    have hi' := List.mem_range.1 hi
    have hsick := h (max a ((a / 32 + i) * 32)) (by omega) (by omega)
    have hsec : max a ((a / 32 + i) * 32) / 32 = a / 32 + i := by omega
    rw [sickAt, hsec] at hsick
    rw [Nat.mul_div_cancel _ (by decide), hsick]
    decide

theorem firstSick_isSome (hax : a ≤ x) (hxl : x < a + len) (h : sickAt s x = true) : ∃ i, firstSick s a len = some i := by
  refine Option.isSome_iff_exists.1 ?_
  rw [firstSick, if_neg (by omega), List.find?_isSome]
  refine ⟨x / 32 - a / 32, List.mem_range.2 (by omega), ?_⟩
  have hsec : a / 32 + (x / 32 - a / 32) = x / 32 := by omega
  rw [hsec, Nat.mul_div_cancel _ (by decide)]
  exact h

/-- R74, R421: a read that may not reach DRAM. -/
theorem bar2Read_outside (h : Answers s) {off : Nat} (hok : bar2Ok s (bar2Base s.host + off) len = false) :
    bar2Read s off len ecc = sendPcie (setErr s errBar2) (.readData (zeros len)) := by
  rw [bar2Read, barRead_of_answers h]
  simp [hok]

/-- R70, R74: a read of DRAM. -/
theorem bar2Read_inside (h : Answers s) {off : Nat} (hok : bar2Ok s (bar2Base s.host + off) len = true) :
    bar2Read s off len ecc
      = match firstSick (metBy s (bar2Base s.host + off) len ecc) (bar2Base s.host + off) len with
        | none => settleIdle (sendPcie (metBy s (bar2Base s.host + off) len ecc)
            (.readData (tabBytes s.dram.mem (bar2Base s.host + off) len)))
        | some i =>
          let x := ((bar2Base s.host + off) / 32 + i) * 32
          let t := markRow (logAer (metBy s (bar2Base s.host + off) len ecc) .completerAbort) (rowOf x)
          settleIdle (sendPcie (logEvent t (mkEvent stMemory srcDram 2 (channelOf x) evFault 0 x)) .completerAbort) := by
  have hmem : (metBy s (bar2Base s.host + off) len ecc).dram.mem = s.dram.mem := by
    have h' := congrArg Dram.mem (noMarks_metBy (s := s) (a := bar2Base s.host + off) (len := len) (ecc := ecc)); exact h'
  rw [bar2Read, barRead_of_answers h, ← hmem]
  simp only [hok]
  rfl


@[simp] theorem metBy_host : (metBy s a len ecc).host = s.host := by
  have h := congrArg State.host (setDram_metBy (s := s) (a := a) (len := len) (ecc := ecc) s.dram)
  exact h

@[simp] theorem metBy_ks : (metBy s a len ecc).ks = s.ks := by
  have h := congrArg State.ks (setDram_metBy (s := s) (a := a) (len := len) (ecc := ecc) s.dram)
  exact h

@[simp] theorem metBy_sp : (metBy s a len ecc).sp = s.sp := by
  have h := congrArg State.sp (setDram_metBy (s := s) (a := a) (len := len) (ecc := ecc) s.dram)
  exact h

theorem metBy_of_clean (h : DramClean s) : metBy s a len [] = s := touchSectors_of_clean h _

/-- A read that finds data at each of its addresses. -/
theorem bar2Read_sound (h : Answers s) {off : Nat} (hok : bar2Ok s (bar2Base s.host + off) len = true)
    (hdata : ∀ x, bar2Base s.host + off ≤ x → x < bar2Base s.host + off + len → sickAt s x = false)
    (hmet : ∀ e, (e ∈ ecc ∨ e ∈ s.dram.flaws) ∧ rangeHits (bar2Base s.host + off) len (e.addr / 32) = true → e.fatal = false) :
    bar2Read s off len ecc = settleIdle (sendPcie (metBy s (bar2Base s.host + off) len ecc)
      (.readData (tabBytes s.dram.mem (bar2Base s.host + off) len))) := by
  have hnone := firstSick_eq_none (s := metBy s (bar2Base s.host + off) len ecc) (len := len)
    fun x hax hxl => (sickAt_metBy hmet x).trans (hdata x hax hxl)
  rw [bar2Read_inside h hok, hnone]

/-- A read that finds no data somewhere. -/
theorem bar2Read_sick (h : Answers s) {off : Nat} (hok : bar2Ok s (bar2Base s.host + off) len = true)
    (hsick : ∃ x, bar2Base s.host + off ≤ x ∧ x < bar2Base s.host + off + len
      ∧ sickAt (metBy s (bar2Base s.host + off) len ecc) x = true) :
    (bar2Read s off len ecc).host
      = { s.host with aer := s.host.aer ++ [.completerAbort], out := s.host.out ++ [.completerAbort] } := by
  obtain ⟨x, hax, hxl, hx⟩ := hsick
  obtain ⟨i, hi⟩ := firstSick_isSome hax hxl hx
  rw [bar2Read_inside h hok, hi]
  simp [sendPcie, logAer, updHost]

/-- A sector that a read meets and that does not decode holds no data. -/
theorem sickAt_of_met (hlen : 0 < len) {e : SectorErr} (he : (e ∈ ecc ∨ e ∈ s.dram.flaws) ∧ rangeHits a len (e.addr / 32) = true)
    (hfatal : e.fatal = true) : ∃ x, a ≤ x ∧ x < a + len ∧ sickAt (metBy s a len ecc) x = true := by
  obtain ⟨hfrom, hto⟩ := he
  have hrange := hto
  simp only [rangeHits, Bool.and_eq_true, decide_eq_true_eq] at hrange
  have hsec : max a (32 * (e.addr / 32)) / 32 = e.addr / 32 := by omega
  refine ⟨max a (32 * (e.addr / 32)), by omega, by omega, ?_⟩
  have hbad : (e.addr / 32) ∈ (metBy s a len ecc).dram.bad := mem_bad_metBy.2 (.inl ⟨e, ⟨hfrom, hto⟩, hfatal, rfl⟩)
  simp [sickAt, hsec, hbad]

end

-- -------------------------------------------------------------------------------- writes

section
variable {s : State} {data : List Byte} {off : Nat}

theorem bar2Write_inside (h : Answers s) (hok : bar2Ok s (bar2Base s.host + off) data.length = true) :
    bar2Write s off data false = bar2Bytes s (bar2Base s.host + off) data := by
  rw [bar2Write, barWrite_of_answers h]
  simp [hok]

theorem bar2Write_outside (h : Answers s) (hok : bar2Ok s (bar2Base s.host + off) data.length = false) :
    bar2Write s off data false = setErr s errBar2 := by
  rw [bar2Write, barWrite_of_answers h]
  simp [hok]

@[simp] theorem putSectors_host (a : Nat) : (putSectors s a data).1.host = s.host := by
  have h := congrArg State.host (setDram_putSectors (s := s) (a := a) (data := data) s.dram)
  exact h

/-- A write whose sectors all decode puts its bytes there and does nothing else. -/
theorem bar2Bytes_eq {a : Nat} (hleft : (putSectors s a data).2 = []) (hidle : planState s = plRunning ∨ DramClean s) :
    bar2Bytes s a data = (putSectors s a data).1 := by
  rw [bar2Bytes, hleft, List.foldl_nil]
  rcases hidle with hrun | hclean
  · exact settleIdle_of_running (by rw [planState, putSectors_host]; exact hrun)
  · exact settleIdle_of_clean (putSectors_clean hclean hleft)

@[simp] theorem mkEvent_memory (source severity unit code detail0 detail1 : Nat) :
    (mkEvent stMemory source severity unit code detail0 detail1).status.toNat = stMemory :=
  show (BitVec.ofNat 8 stMemory).toNat = stMemory by decide

theorem lastFault_foldl_notifyFault {l : List Nat} (hl : l ≠ []) {f : Nat → Event} {v : Nat} (hf : ∀ x, (f x).status.toNat = v)
    (s : State) : lastFault (l.foldl (fun s x => notifyFault s (f x)) s).host = v := by
  rw [← List.dropLast_concat_getLast hl, List.foldl_append, List.foldl_cons, List.foldl_nil, lastFault_notifyFault, hf]

/-- R445: while a plan runs, a sector that a write covers in part and that does not decode is notified and stays. -/
theorem bar2Bytes_left {a : Nat} (hrun : planState s = plRunning) (hleft : (putSectors s a data).2 ≠ []) :
    lastFault (bar2Bytes s a data).host = stMemory ∧ (bar2Bytes s a data).dram = (putSectors s a data).1.dram := by
  have heq : bar2Bytes s a data = (putSectors s a data).2.foldl
      (fun s sec => notifyFault s (mkEvent stMemory srcDram 2 (channelOf (32 * sec)) evFault 0 (32 * sec)))
      (putSectors s a data).1 := by
    refine settleIdle_of_running ?_
    refine (foldl_keeps (g := planState) (fun s _ => planState_notifyFault s _) _ _).trans ?_
    rw [planState, putSectors_host]
    exact hrun
  rw [heq]
  exact ⟨lastFault_foldl_notifyFault hleft (fun _ => mkEvent_memory ..) _, foldl_keeps (g := State.dram) (fun _ _ => by simp) _ _⟩

end

/-- Settles O22: a read goes by the first sector that holds no data once its sectors have been met, a write by the sectors that
it covers in part and that do not decode. -/
theorem hostReadsAndWritesDram : Obligations.HostReadsAndWritesDram := by
  unfold Obligations.HostReadsAndWritesDram
  refine ⟨fun s off len ecc hans => ⟨?_, ?_, ?_, ?_⟩, fun s off data hans hwf => ⟨?_, ?_, ?_, ?_⟩⟩
  · rintro hok ⟨hdata, hmet⟩
    exact ⟨_, rfl, by rw [bar2Read_sound hans hok hdata hmet]; simp [sendPcie, updHost],
      by rw [bar2Read_sound hans hok hdata hmet]; simp, by rw [bar2Read_sound hans hok hdata hmet]; simp⟩
  · rintro hok ⟨hdata, hmet⟩ rfl hclean
    show Host.Outcome.next (bar2Read s off len []) = _
    rw [bar2Read_sound hans hok hdata hmet, metBy_of_clean hclean]
    exact congrArg _ (settleIdle_of_clean (s := sendPcie s _) hclean)
  · intro hok
    refine ⟨_, rfl, ?_⟩
    rw [bar2Read_outside hans hok]
    refine ⟨by simp, ?_, by simp [sendPcie, updHost]⟩
    show (setErr s errBar2).host.err.toNat.testBit errBar2 = true
    rw [setErr_testBit s (by decide)]
    simp
  · intro hok hlen hsick
    have hfound : ∃ x, bar2Base s.host + off ≤ x ∧ x < bar2Base s.host + off + len
        ∧ sickAt (metBy s (bar2Base s.host + off) len ecc) x = true := by
      rcases hsick with ⟨x, hax, hxl, hx⟩ | ⟨e, he, hfatal⟩
      · exact ⟨x, hax, hxl, sickAt_metBy_of_sickAt hx⟩
      · exact sickAt_of_met hlen he hfatal
    exact ⟨_, rfl, by rw [bar2Read_sick hans hok hfound], by rw [bar2Read_sick hans hok hfound]⟩
  · intro hok hidle hknown hmet
    have hmem : tabWf 0 s.dram.mem = true := by simp only [Memory.wf, Bool.and_eq_true] at hwf; exact hwf.1.1
    have hleft := putSectors_left_nil hknown hmet
    refine ⟨_, rfl, ?_⟩
    rw [bar2Write_inside hans hok, bar2Bytes_eq hleft hidle]
    refine ⟨fun k hk => ?_, fun x hx => ?_, setDram_putSectors s.dram s⟩
    · rw [tabGet_putSectors hmem, hleft, if_pos ⟨by omega, rfl⟩]
      simp [hk]
    · rw [tabGet_putSectors hmem, hleft]
      split
      next hin =>
        rw [List.getElem?_eq_none (by omega)]; rfl
      next hin =>
        rfl
  · rintro hok hrun ⟨sec, hsec, hpart⟩
    have hmem : tabWf 0 s.dram.mem = true := by simp only [Memory.wf, Bool.and_eq_true] at hwf; exact hwf.1.1
    have hleft : ∀ {sec}, sec ∈ s.dram.bad → partHits (bar2Base s.host + off) data.length sec = true →
        sec ∈ (putSectors s (bar2Base s.host + off) data).2 := fun hbad hpart =>
      mem_putSectors_left.2 ⟨mem_bad_touchSectors.2 (.inr hbad), hpart⟩
    obtain ⟨hlast, hdram⟩ := bar2Bytes_left hrun (List.ne_nil_of_mem (hleft hsec hpart))
    refine ⟨_, rfl, ?_⟩
    rw [bar2Write_inside hans hok, hdram]
    refine ⟨hlast, fun x hbad hx => ?_⟩
    have hbad' : x / 32 ∈ s.dram.bad := by simpa using hbad
    have hstays := hleft hbad' hx
    refine ⟨?_, List.contains_iff_mem.2 ((mem_bad_putSectors hx).2 (mem_bad_touchSectors.2 (.inr hbad')))⟩
    rw [tabGet_putSectors hmem, if_neg]
    simp [hstays]
  · intro hok
    refine ⟨_, rfl, ?_⟩
    rw [bar2Write_outside hans hok, setErr_testBit s (by decide)]
    simp
  · refine ⟨_, rfl, ?_⟩
    rw [bar2Write, barWrite_of_poisoned hans, setErr_testBit _ (by decide)]
    obtain ⟨pba, irq, -, heq⟩ := setErr_eq { s with host := { s.host with aer := s.host.aer ++ [.poisonedTlp] } } errPoison
    rw [heq]
    simp

end Sys2Proof.Machine

-- ------------------------------------------------------------------------------------------------ memory-side adds

namespace Sys2Proof.Machine

section
variable {s : State} {seq : Nat} {f : Issued → Issued}

/-- Changing one issue record leaves the others. -/
theorem issuedOf_updIssued_other (hf : ∀ i, (f i).seq = i.seq) {q : Nat} (hq : q ≠ seq) :
    issuedOf (updIssued s seq f) q = issuedOf s q := by
  simp only [issuedOf, updIssued]
  induction s.ks.issued with
  | nil => rfl
  | cons i l ih =>
    rw [List.map_cons, List.find?_cons, List.find?_cons, ih]
    cases hi : i.seq == seq with
    | true =>
      have hne : (i.seq == q) = false := by
        rw [beq_iff_eq.1 hi]
        exact beq_false_of_ne hq.symm
      simp [hf, hne]
    | false => rfl

theorem issuedOf_updIssued_same (hf : ∀ i, (f i).seq = i.seq) :
    issuedOf (updIssued s seq f) seq = (issuedOf s seq).map f := by
  simp only [issuedOf, updIssued]
  induction s.ks.issued with
  | nil => rfl
  | cons i l ih =>
    rw [List.map_cons, List.find?_cons, List.find?_cons, ih]
    cases hi : i.seq == seq with
    | true => simp [hf, hi]
    | false => simp [hi]

end

section
variable {s : State} {x : Add}

theorem nextAdds_single (h : s.dram.adds = [x]) : nextAdds s x.channel = [x] := by
  simp [nextAdds, h, List.eraseDups_cons]

/-- R315: the one add held is applied once it may be. -/
theorem memorySideAdd_ready (hadds : s.dram.adds = [x]) (hwindow : s.dram.window = []) (hready : addReady s x = true) :
    memorySideAdd s x.channel = applyAdd s x := by
  simp [memorySideAdd, nextAdds_single hadds, hwindow, hready, lowestAdd]

/-- R315: an add that must wait takes an entry of the window. -/
theorem memorySideAdd_waits (hadds : s.dram.adds = [x]) (hwindow : s.dram.window = []) (hready : addReady s x = false) :
    memorySideAdd s x.channel = { s with dram := { s.dram with adds := [], window := [x] } } := by
  simp [memorySideAdd, nextAdds_single hadds, hwindow, hready, lowestAdd, windowTakes, updDram, hadds]

/-- The state in which an add meets its sector: neither queue holds it. -/
def addMet (s : State) (x : Add) : State :=
  touchSectors (updDram s fun d => { d with adds := d.adds.erase x, window := d.window.erase x }) (· == x.addr / 32)

theorem mem_bad_addMet : x.addr / 32 ∈ (addMet s x).dram.bad
    ↔ (∃ e ∈ s.dram.flaws, e.addr / 32 = x.addr / 32 ∧ e.fatal = true) ∨ x.addr / 32 ∈ s.dram.bad := by
  rw [addMet, mem_bad_touchSectors]
  refine or_congr_left (exists_congr fun e => and_congr_right fun _ => ?_)
  simp only [beq_iff_eq]
  exact ⟨fun ⟨haddr, hfatal, _⟩ => ⟨haddr, hfatal⟩, fun ⟨haddr, hfatal⟩ => ⟨haddr, hfatal, haddr.symm⟩⟩

/-- A status that a unit's failing sector leaves (R445). -/
def failMemory (i : Issued) : Issued :=
  { i with status := if i.status = 0 ∨ isInformational i.status then stMemory else i.status }

/-- R445: the sum of an add whose sector decodes. -/
theorem applyAdd_sound (h : x.addr / 32 ∉ (addMet s x).dram.bad) :
    applyAdd s x = freshSectors (updDram (addMet s x) fun d =>
      { d with mem := tabPut d.mem x.addr (leBytes (addBytes x) (addSum x (memNat d.mem x.addr (addBytes x)))) }) [(x.addr, addBytes x)] := by
  have hnot : (addMet s x).dram.bad.contains (x.addr / 32) = false := by simpa using h
  exact if_neg (by rw [addMet] at hnot; rw [hnot]; decide)

/-- R445: an add whose sector does not decode fails its descriptor. -/
theorem applyAdd_bad (h : x.addr / 32 ∈ (addMet s x).dram.bad) :
    applyAdd s x = updIssued (failRow (addMet s x) (rowOf x.addr)) (x.key / 65536) failMemory :=
  if_pos (List.contains_iff_mem.2 h)

end

/-- Settles O23: one add held is applied, fails or waits by its sector and by `addReady`. -/
theorem memorySideAdds : Obligations.MemorySideAdds := by
  unfold Obligations.MemorySideAdds
  refine ⟨fun s x hwf hadds hwindow hready => ⟨fun hbad hflaws => ?_, fun hbad hrun => ?_⟩,
    fun s x hadds hwindow hready => ?_, fun s ch span seq p d i hr hadd htarget hpass hmarker hnone => ?_⟩
  · have hmem : tabWf 0 s.dram.mem = true := by simp only [Memory.wf, Bool.and_eq_true] at hwf; exact hwf.1.1
    have hnot : x.addr / 32 ∉ (addMet s x).dram.bad := by
      rw [mem_bad_addMet]
      rintro (⟨e, he, haddr, hfatal⟩ | hin)
      · simp [hflaws e he haddr] at hfatal
      · simp [hin] at hbad
    refine ⟨_, rfl, ?_⟩
    rw [memorySideAdd_ready hadds hwindow hready, applyAdd_sound hnot]
    have hput : (addMet s x).dram.mem = s.dram.mem := touchSectors_mem _ _
    simp only [freshSectors, updDram, hput]
    refine ⟨by simp [addMet, updDram, hadds], by simp [addMet, updDram, hwindow], ?_, fun y hy => ?_, ?_⟩
    · have hbytes := tabBytes_tabPut (a := x.addr) (b := leBytes (addBytes x) (addSum x (memNat s.dram.mem x.addr (addBytes x)))) hmem
      rw [leBytes_length] at hbytes
      rw [memNat, hbytes, leNat_leBytes, Nat.pow_mul]
    · exact tabGet_tabPut_other hmem (by rw [leBytes_length]; exact hy)
    · exact setDram_touchSectors s.dram _ _
  · have hin : x.addr / 32 ∈ (addMet s x).dram.bad := mem_bad_addMet.2 (.inr (by simpa using hbad))
    have hstate : planState (markRow (addMet s x) (rowOf x.addr)) = plRunning := by
      rw [← hrun]
      exact congrArg planStateOf (touchSectors_host ..)
    refine ⟨_, rfl, ?_⟩
    rw [memorySideAdd_ready hadds hwindow hready, applyAdd_bad hin, failRow, settleIdle_of_running hstate]
    have hissued : ∀ q, issuedOf (markRow (addMet s x) (rowOf x.addr)) q = issuedOf s q := fun q => by
      simp [issuedOf, markRow, addMet, updDram]
    refine ⟨by simp [addMet, updDram, markRow, updIssued, hadds], by simp [addMet, updDram, markRow, updIssued, hwindow],
      touchSectors_mem _ _, fun i hi hst => ?_, fun q hq => ?_, ?_, ?_⟩
    · rw [issuedOf_updIssued_same (f := failMemory) fun _ => rfl, hissued, hi]
      simp [failMemory, hst]
    · rw [issuedOf_updIssued_other (f := failMemory) (fun _ => rfl) hq, hissued]
    · simp [updIssued, markRow, addMet, updDram]
    · simp [updIssued, markRow, addMet, updDram]
  · exact congrArg _ (memorySideAdd_waits hadds hwindow hready)
  · have hadds : s.dram.adds.any (fun x => x.channel == ch && x.key / 65536 == seq) = false := by
      simpa using hnone
    show Host.Outcome.next (addDone s ch span seq) = _
    simp only [addDone, hr, hadd, htarget, hpass, hmarker, hadds]
    simp [updDram]

end Sys2Proof.Machine

-- ------------------------------------------------------------------------------------------------ records and the plan state

namespace Sys2Proof.Machine

/-- The host interface without what errors and completion records write: the link, AER, HC_ERR, the pending messages and the
counts of records. -/
def noTraffic (h : HostIf) : HostIf := { h with pba := 0, err := 0, flipped := [], coalCount := [], out := [], aer := [] }

section
variable (s : State)

@[simp] theorem noTraffic_sendPcie (o : PcieOut) : noTraffic (sendPcie s o).host = noTraffic s.host := rfl

@[simp] theorem noTraffic_logAer (e : AerError) : noTraffic (logAer s e).host = noTraffic s.host := rfl

@[simp] theorem noTraffic_raiseIrq (src : Nat) : noTraffic (raiseIrq s src).host = noTraffic s.host := by
  obtain ⟨pba, irq, -, heq⟩ := raiseIrq_eq s src
  rw [heq]; rfl

@[simp] theorem noTraffic_setErr (bit : Nat) : noTraffic (setErr s bit).host = noTraffic s.host := by
  rw [setErr, noTraffic_raiseIrq]; rfl

@[simp] theorem noTraffic_putRecord (tag cmd status : Nat) (rs : List Nat) :
    noTraffic (putRecord s tag cmd status rs).host = noTraffic s.host :=
  ite_keeps (g := fun s => noTraffic s.host) (by simp) rfl

@[simp] theorem noTraffic_countRecord (prio : Nat) : noTraffic (countRecord s prio).host = noTraffic s.host := by
  obtain ⟨counts, pba, irq, -, heq⟩ := countRecord_eq s prio
  rw [heq]; rfl

@[simp] theorem noTraffic_acceptRecord (c : Taken) : noTraffic (acceptRecord s c).host = noTraffic s.host :=
  ite_keeps (g := fun s => noTraffic s.host) (by simp) (ite_keeps (g := fun s => noTraffic s.host) (by simp) (by simp))

/-- R84: an accepted command waits for its final record. -/
@[simp] theorem noTraffic_acceptCmd (c : Taken) : noTraffic (acceptCmd s c).host
    = { noTraffic s.host with taken := s.host.taken.filter (fun x => x.tag != c.tag), long := s.host.long ++ [c] } := by
  have h := noTraffic_acceptRecord s c
  have htaken := congrArg HostIf.taken h
  have hlong := congrArg HostIf.long h
  rw [← h]
  simp only [noTraffic] at htaken hlong ⊢
  simp [acceptCmd, htaken, hlong]

/-- The final record frees its tag, and the command is no longer held (R84). -/
@[simp] theorem noTraffic_finishCmd (c : Taken) (st : Nat) (rs : List Nat) : noTraffic (finishCmd s c st rs).host
    = { noTraffic s.host with
        inUse := s.host.inUse.filter (· != c.tag), taken := s.host.taken.filter (fun x => x.tag != c.tag)
        long := s.host.long.filter (fun x => x.tag != c.tag) } := by
  have hfree : ∀ {t : State}, noTraffic t.host = noTraffic s.host → noTraffic (freeTag t c).host
      = { noTraffic s.host with
          inUse := s.host.inUse.filter (· != c.tag), taken := s.host.taken.filter (fun x => x.tag != c.tag)
          long := s.host.long.filter (fun x => x.tag != c.tag) } := fun {t} h => by
    have hinUse : t.host.inUse = s.host.inUse := (congrArg HostIf.inUse h :)
    have htaken : t.host.taken = s.host.taken := (congrArg HostIf.taken h :)
    have hlong : t.host.long = s.host.long := (congrArg HostIf.long h :)
    rw [← h]
    simp [freeTag, noTraffic, hinUse, htaken, hlong]
  unfold finishCmd
  refine ite_keeps (g := fun s => noTraffic s.host) (hfree (noTraffic_setErr s _)) ?_
  exact (noTraffic_countRecord _ _).trans (hfree (noTraffic_putRecord s ..))

theorem planState_congr {s t : State} (h : noTraffic t.host = noTraffic s.host) : planState t = planState s :=
  (congrArg planStateOf h :)

theorem statusField_bits (h : HostIf) (v : Nat) : planStateOf (statusField h 4 2 v) = v % 8 := by
  have hlt := h.status.isLt
  simp only [planStateOf, statusField, bitsOf, BitVec.toNat_ofNat]
  omega

@[simp] theorem planState_acceptCmd (c : Taken) : planState (acceptCmd s c) = planState s :=
  (congrArg planStateOf (noTraffic_acceptCmd s c) :)

@[simp] theorem planState_finishCmd (c : Taken) (st : Nat) (rs : List Nat) : planState (finishCmd s c st rs) = planState s :=
  (congrArg planStateOf (noTraffic_finishCmd s c st rs) :)

@[simp] theorem acceptCmd_long (c : Taken) : (acceptCmd s c).host.long = s.host.long ++ [c] :=
  (congrArg HostIf.long (noTraffic_acceptCmd s c) :)

theorem finishCmd_inUse (c : Taken) (st : Nat) (rs : List Nat) :
    (finishCmd s c st rs).host.inUse = s.host.inUse.filter (· != c.tag) :=
  (congrArg HostIf.inUse (noTraffic_finishCmd s c st rs) :)

/-- R87: PLAN_STATE takes the value it is given. -/
theorem planState_setPlanState {v : Nat} (hv : v < 8) : planState (setPlanState s v) = v := by
  unfold setPlanState
  split
  next h =>
    exact h
  next h =>
    exact (planState_congr (noTraffic_raiseIrq _ 3)).trans ((statusField_bits ..).trans (Nat.mod_eq_of_lt hv))

/-- A change of PLAN_STATE changes nothing else that commands and records do not. -/
theorem setPlanState_long (v : Nat) : (setPlanState s v).host.long = s.host.long := by
  unfold setPlanState
  split
  · rfl
  · exact (congrArg HostIf.long (noTraffic_raiseIrq (updHost s fun h => statusField h 4 2 v) 3) :)

@[simp] theorem presents_acceptCmd (c : Taken) : presents (acceptCmd s c) = presents s := by simp [presents]

end

end Sys2Proof.Machine

-- ------------------------------------------------------------------------------------------------ plan commands and settings

namespace Sys2Proof.Machine

section
variable {s : State} {tag : Nat} {c : Taken}

/-- R90: LOAD_PLAN in NONE. -/
theorem loadPlan_accepted (hpresents : presents s = true) (h : Served s cmdLoadPlan tag c) (hpay : payClean c [(8, 8)] = true)
    (hst : planState s = plNone) :
    loadPlan s tag = setPlanState (updKs (acceptCmd s c) fun k => { k with loading := some (payAt c 8 8) }) plLoading := by
  rw [loadPlan, serve_of_served h]
  simp [hpay, hst, hpresents]

/-- R90: UNLOAD_PLAN in LOADED, PAUSED and ABORTED. -/
theorem unloadPlan_accepted (h : Served s cmdUnloadPlan tag c) (hpay : payClean c [] = true)
    (hst : planState s = plLoaded ∨ planState s = plPaused ∨ planState s = plAborted) :
    unloadPlan s tag
      = finishCmd (setPlanState (forgetPlan (finishReshard (finishStart (applyDue s) stBusy) stBusy [])) plNone) c stOk [] := by
  rw [unloadPlan, serve_of_served h]
  rcases hst with hst | hst | hst <;> simp [hpay, hst]

/-- START as it has been accepted, before the rank flood or the paused plan (R90, R119). -/
def started (s : State) (c : Taken) : State :=
  dropCache (resetCounters (updKs (acceptCmd s c) fun k =>
    { k with startTag := some c, stepsWanted := payAt c 4 4, stepsClosed := 0, unmirrored := false }))

/-- R90: START in LOADED and PAUSED. -/
theorem startCmd_accepted {p : Plan} (hpresents : presents s = true) (h : Served s cmdStart tag c)
    (hpay : payClean c [(4, 4)] = true) (hnone : s.ks.startTag = none) (hmarch : s.ks.marchTag = none)
    (hplan : s.ks.plan = some p) (hst : planState s = plLoaded ∨ planState s = plPaused) :
    startCmd s tag = if planState s = plPaused then lostAtResume (setPlanState (formPending (started s c) p false) plRunning)
      else startFlood (updKs (started s c) fun k => { k with accLost := false }) p := by
  rw [startCmd, serve_of_served h]
  have hin : (planState s == plLoaded || planState s == plPaused) = true := by simpa using hst
  simp only [hpay, hin, hnone, hmarch, acceptCmd_ks, hplan, presents_acceptCmd, hpresents]
  rfl

/-- R91: PAUSE_AT_PIER in RUNNING, with a pier ahead. -/
theorem pauseAtPier_accepted {p : Plan} (h : Served s cmdPauseAtPier tag c) (hpay : payClean c [(4, 2)] = true)
    (hst : planState s = plRunning) (hnone : s.ks.pauseReq = none) (hreshard : reshardAt s 3 = false)
    (hplan : s.ks.plan = some p) (hahead : pierAhead s p (payAt c 4 2) = true) :
    pauseAtPier s tag = updKs (acceptCmd s c) fun k => { k with pauseReq := some (c, payAt c 4 2) } := by
  rw [pauseAtPier, serve_of_served h]
  simp [hpay, hst, hnone, hreshard, hplan, hahead]

/-- R91: RESUME in PAUSED. -/
theorem resumeCmd_accepted (hpresents : presents s = true) (h : Served s cmdResume tag c) (hpay : payClean c [] = true)
    (hst : planState s = plPaused) (hstart : s.ks.startTag ≠ none) (hmarch : s.ks.marchTag = none) :
    resumeCmd s tag = finishCmd (lostAtResume (releaseHold (dropCache s))) c stOk [] := by
  rw [resumeCmd, serve_of_served h]
  simp [hpay, hst, hstart, hmarch, hpresents]

/-- R92. -/
theorem abortCmd_accepted (h : Served s cmdAbort tag c) (hpay : payClean c [] = true) :
    abortCmd s tag = finishCmd (applyAbort (acceptCmd s c)) c stOk
      [lastPierWord (applyAbort (acceptCmd s c)), committedStep (applyAbort (acceptCmd s c))] := by
  rw [abortCmd, serve_of_served h]
  simp [hpay]

end

/-- Settles O20: each command, served in a state that admits it, takes the branch that the table names. -/
theorem planCommands : Obligations.PlanCommands := by
  intro s tag c hpresents
  refine ⟨fun h hpay hst => ⟨_, rfl, ?_⟩, fun h hpay hst => congrArg _ (unloadPlan_accepted h hpay hst),
    fun p h hpay hnone hmarch hplan => ⟨fun hst => ?_, fun hst => ?_⟩,
    fun p h hpay hst hnone hreshard hplan hahead => congrArg _ (pauseAtPier_accepted h hpay hst hnone hreshard hplan hahead),
    fun h hpay hst hstart hmarch => congrArg _ (resumeCmd_accepted hpresents h hpay hst hstart hmarch),
    fun h hpay => congrArg _ (abortCmd_accepted h hpay)⟩
  · rw [loadPlan_accepted hpresents h hpay hst]
    exact ⟨by simp, planState_setPlanState _ (by decide), by rw [setPlanState_long]; simp⟩
  · show Host.Outcome.next (startCmd s tag) = _
    rw [startCmd_accepted hpresents h hpay hnone hmarch hplan (.inl hst), if_neg (by rw [hst]; decide)]
    rfl
  · show Host.Outcome.next (startCmd s tag) = _
    rw [startCmd_accepted hpresents h hpay hnone hmarch hplan (.inr hst), if_pos hst]
    rfl

-- -------------------------------------------------------------------------------- settings

section
variable {s : State} {tag : Nat} {c : Taken}

/-- R95, Table 4-14: PACE_POLICY within its ranges. -/
theorem pacePolicy_accepted (h : Served s cmdPacePolicy tag c) (hpay : payClean c [(4, 1), (6, 2)] = true)
    (hreshard : reshardAt s 3 = false)
    (hrange : (payAt c 4 1 < 2 ∧ payAt c 6 2 = 0) ∨ (payAt c 4 1 = 2 ∧ 550 ≤ payAt c 6 2 ∧ payAt c 6 2 ≤ 850 ∧ payAt c 6 2 % 5 = 0)) :
    pacePolicy s tag = finishCmd (setSetting s (.pace (payAt c 4 1) (payAt c 6 2))) c stOk [payAt c 4 1, payAt c 6 2] := by
  have hok : (if payAt c 4 1 = 2 then decide (550 ≤ payAt c 6 2 ∧ payAt c 6 2 ≤ 850 ∧ payAt c 6 2 % 5 = 0)
      else decide (payAt c 4 1 < 2 ∧ payAt c 6 2 = 0)) = true := by
    rcases hrange with ⟨hm, hv⟩ | ⟨hm, hv⟩
    · rw [if_neg (by omega)]
      simp [hm, hv]
    · rw [if_pos hm]
      exact decide_eq_true hv
  rw [pacePolicy, serve_of_served h]
  simp only [hpay, hreshard, hok, Bool.not_true, Bool.false_eq_true, if_false]

/-- R95, Table 4-14: COMMIT_POLICY within its ranges. -/
theorem commitPolicy_accepted (h : Served s cmdCommitPolicy tag c) (hpay : payClean c [(4, 1), (5, 1)] = true)
    (hreshard : reshardAt s 3 = false) (hr : payAt c 4 1 ≤ 15) (hf : payAt c 5 1 ≤ 3) :
    commitPolicy s tag = finishCmd (setSetting s (.commit (payAt c 4 1) (payAt c 5 1))) c stOk [payAt c 4 1, payAt c 5 1] := by
  rw [commitPolicy, serve_of_served h]
  simp [hpay, hreshard, Nat.not_lt.2 hr, Nat.not_lt.2 hf]

/-- R386: REPLAY_CONTROL past its checks. -/
theorem replayControl_checked (h : Served s cmdReplayControl tag c) (hpay : payClean c [(4, 1), (5, 1)] = true)
    (ha : payAt c 4 1 ≤ 3) (hl : payAt c 4 1 < 2 → 1 ≤ payAt c 5 1 ∧ payAt c 5 1 ≤ 15) :
    replayControl s tag =
      if payAt c 4 1 = 3 then finishCmd s c stOk (replayResults s)
      else if payAt c 4 1 = 2 then
        if !segmentHeld s then finishCmd s c stBusy [] else finishCmd (releaseHold s) c stOk (replayResults (releaseHold s))
      else finishCmd (setSetting s (.replay (payAt c 4 1) (payAt c 5 1))) c stOk
        (replayResults (setSetting s (.replay (payAt c 4 1) (payAt c 5 1)))) := by
  have ha' : decide (3 < payAt c 4 1) = false := by simpa using ha
  have hl' : decide (payAt c 4 1 < 2 ∧ (payAt c 5 1 = 0 ∨ 15 < payAt c 5 1)) = false := by
    refine decide_eq_false fun ⟨hlt, hout⟩ => ?_
    have := hl hlt
    omega
  rw [replayControl, serve_of_served h]
  simp only [hpay, ha', hl', Bool.not_true, Bool.or_self, Bool.false_eq_true, if_false]

/-- The host regions after BIND_HOST_REGION: those of other ids, then the bound one unless its length is 0 (R93). -/
def reboundRegions (s : State) (c : Taken) : List Region :=
  s.host.regions.filter (fun r => r.id != payAt c 4 1)
    ++ (if payAt c 0x10 8 = 0 then [] else [⟨payAt c 4 1, payAt c 8 8, payAt c 0x10 8⟩])

/-- R93: BIND_HOST_REGION with a range clear of the other regions. -/
theorem bindHostRegion_accepted (h : Served s cmdBind tag c) (hpay : payClean c [(4, 1), (8, 8), (0x10, 8)] = true)
    (huses : planUsesRegion s (payAt c 4 1) = false) (hid : payAt c 4 1 ≤ 63) (ha : payAt c 8 8 % 4096 = 0)
    (hn : payAt c 0x10 8 % 4096 = 0)
    (hclear : ∀ r ∈ s.host.regions.filter (fun r => r.id != payAt c 4 1),
      payAt c 0x10 8 = 0 ∨ payAt c 8 8 + payAt c 0x10 8 ≤ r.addr ∨ r.addr + r.len ≤ payAt c 8 8) :
    bindHostRegion s tag
      = finishCmd { s with host := { s.host with regions := reboundRegions s c } } c stOk [payAt c 4 1] := by
  have hclash : (payAt c 0x10 8 != 0 && (s.host.regions.filter fun r => r.id != payAt c 4 1).any fun r =>
      decide (r.addr < payAt c 8 8 + payAt c 0x10 8) && decide (payAt c 8 8 < r.addr + r.len)) = false := by
    refine Bool.eq_false_iff.2 fun htrue => ?_
    simp only [Bool.and_eq_true, bne_iff_ne, List.any_eq_true, decide_eq_true_eq] at htrue
    obtain ⟨hne, r, hr, hlo, hhi⟩ := htrue
    have := hclear r hr
    omega
  rw [bindHostRegion, serve_of_served h]
  simp only [hpay, huses, hclash]
  by_cases hlen : payAt c 0x10 8 = 0
  · simp [reboundRegions, updHost, hlen, Nat.not_lt.2 hid, ha]
  · simp [reboundRegions, updHost, hlen, Nat.not_lt.2 hid, ha, hn]

theorem newPrefixKey_prefixCap (s : State) : (newPrefixKey s).ks.prefixCap = s.ks.prefixCap := by
  simp [newPrefixKey, drawRandom]

/-- What each ACTION of PREFIX_TABLE does to the table (Table 4-14). -/
def prefixAction (s : State) (n : Nat) : Nat → State
  | 1 => updKs s fun k => { k with prefixEpoch := k.prefixEpoch + 1 }
  | 2 => updKs s fun k => { k with prefixCap := n, prefixEpoch := k.prefixEpoch + 1 }
  | 3 => newPrefixKey s
  | _ => s

/-- Table 4-14: PREFIX_TABLE past its checks, while no plan runs. -/
theorem prefixTable_checked (h : Served s cmdPrefixTable tag c) (hpay : payClean c [(4, 1), (8, 4)] = true)
    (hst : planState s = plNone ∨ planState s = plLoaded ∨ planState s = plPaused) (ha : payAt c 4 1 ≤ 3)
    (hn : payAt c 4 1 = 2 → 1 ≤ payAt c 8 4 ∧ payAt c 8 4 ≤ 1048576) :
    prefixTable s tag = finishCmd (prefixAction s (payAt c 8 4) (payAt c 4 1)) c stOk
      [prefixInUse (prefixAction s (payAt c 8 4) (payAt c 4 1)), (prefixAction s (payAt c 8 4) (payAt c 4 1)).ks.prefixCap] := by
  have hst' : (planState s == plNone || planState s == plLoaded || planState s == plPaused) = true := by
    simpa [or_assoc] using hst
  have hrange : ¬(3 < payAt c 4 1 ∨ (payAt c 4 1 = 2 ∧ (payAt c 8 4 = 0 ∨ 1048576 < payAt c 8 4))) := by
    rintro (hlt | ⟨h2, hout⟩)
    · omega
    · have := hn h2
      omega
  rw [prefixTable, serve_of_served h]
  simp only [hpay, hst', Bool.not_true, Bool.and_false, Bool.false_eq_true, if_false, if_neg hrange]
  rfl

end

/-- Settles O21: each setting, within its ranges, passes its checks. -/
theorem settingCommands : Obligations.SettingCommands := by
  intro s tag c
  refine ⟨fun h hpay hreshard hrange => congrArg _ (pacePolicy_accepted h hpay hreshard hrange),
    fun h hpay hreshard hr hf => congrArg _ (commitPolicy_accepted h hpay hreshard hr hf), fun h hpay ha hlo hhi => ?_,
    fun h hpay => ⟨fun ha => ?_, fun ha hheld => ?_, fun ha hheld => ?_⟩,
    fun h hpay huses hid ha hn hclear => congrArg _ (bindHostRegion_accepted h hpay huses hid ha hn hclear),
    fun h hpay hst => ⟨fun ha => ?_, fun ha => ?_, fun ha hlo hhi => ?_, fun ha => ?_⟩⟩
  · show Host.Outcome.next (replayControl s tag) = _
    rw [replayControl_checked h hpay (by omega) fun _ => ⟨hlo, hhi⟩, if_neg (by omega), if_neg (by omega)]
    rfl
  · show Host.Outcome.next (replayControl s tag) = _
    rw [replayControl_checked h hpay (by omega) (by omega), if_pos ha]
  · show Host.Outcome.next (replayControl s tag) = _
    rw [replayControl_checked h hpay (by omega) (by omega), if_neg (by omega), if_pos ha]
    simp [hheld]
  · show Host.Outcome.next (replayControl s tag) = _
    rw [replayControl_checked h hpay (by omega) (by omega), if_neg (by omega), if_pos ha]
    simp [hheld]
  · show Host.Outcome.next (prefixTable s tag) = _
    rw [prefixTable_checked h hpay hst (by omega) (by omega), ha]
    rfl
  · show Host.Outcome.next (prefixTable s tag) = _
    rw [prefixTable_checked h hpay hst (by omega) (by omega), ha]
    rfl
  · show Host.Outcome.next (prefixTable s tag) = _
    rw [prefixTable_checked h hpay hst (by omega) fun _ => ⟨hlo, hhi⟩, ha]
    rfl
  · show Host.Outcome.next (prefixTable s tag) = _
    rw [prefixTable_checked h hpay hst (by omega) (by omega), ha]
    simp only [prefixAction, newPrefixKey_prefixCap]

end Sys2Proof.Machine

-- ------------------------------------------------------------------------------------------------ the event log's part of the state

namespace Sys2Proof.Machine

/-- The Tollhouse without what the event log writes (R403, R404). -/
def noLog (t : Toll) : Toll := { t with sramLog := [], unsaved := [], seqno := 0, persistLost := false, windows := [] }

section
variable (s : State)

theorem noLog_record (t : Toll) (log : List EventRec) (unsaved : List W32) (seqno : W32) :
    noLog { t with seqno := seqno, sramLog := log, unsaved := unsaved, persistLost := false } = noLog t := rfl

@[simp] theorem noLog_keepRecord (e : Event) (ended : Option W64) : noLog (keepRecord s e ended).toll = noLog s.toll := by
  have h : ∀ (c : Bool) (t : Toll) (p : Power), noLog t = noLog s.toll →
      noLog (if c then updPw { s with toll := t } fun _ => p else { s with toll := t }).toll = noLog s.toll := by
    intro c t p ht
    cases c <;> exact ht
  exact h _ _ _ (noLog_record ..)

theorem noLog_windows (f : List Window → List Window) :
    noLog (updToll s fun t => { t with windows := f t.windows }).toll = noLog s.toll := rfl

@[simp] theorem noLog_dropWindow (source code unit : Nat) : noLog (dropWindow s source code unit).toll = noLog s.toll := rfl

@[simp] theorem noLog_closeWindow (w : Window) : noLog (closeWindow s w).toll = noLog s.toll := by
  unfold closeWindow
  dsimp only
  split
  · rfl
  · rw [noLog_keepRecord, noLog_dropWindow]

@[simp] theorem noLog_logEvent (e : Event) : noLog (logEvent s e).toll = noLog s.toll := by
  have hclosed : noLog (match windowOf s e.source e.code e.unit with
      | some w => if windowOver s w then closeWindow s w else s
      | none => s).toll = noLog s.toll := by
    split
    · split
      · exact noLog_closeWindow ..
      · rfl
    · rfl
  unfold logEvent
  split
  · rfl
  · split
    · exact noLog_keepRecord ..
    · dsimp only
      split
      · rw [noLog_keepRecord, noLog_windows (f := fun l => l ++ _)]
        exact hclosed
      · split
        · rw [noLog_keepRecord, noLog_windows (f := fun l => l ++ _), noLog_dropWindow]
          exact hclosed
        · rw [noLog_windows (f := fun l => l ++ _), noLog_dropWindow]
          exact hclosed

@[simp] theorem noLog_notifyFault (e : Event) : noLog (notifyFault s e).toll = noLog s.toll := by simp [notifyFault]

@[simp] theorem noLog_putRecord (tag cmd status : Nat) (rs : List Nat) :
    noLog (putRecord s tag cmd status rs).toll = noLog s.toll :=
  ite_keeps (g := fun s => noLog s.toll) (by simp) rfl

@[simp] theorem noLog_acceptCmd (c : Taken) : noLog (acceptCmd s c).toll = noLog s.toll :=
  ite_keeps (g := fun s => noLog s.toll) (by simp) (ite_keeps (g := fun s => noLog s.toll) (by simp) (by simp))

@[simp] theorem noLog_finishCmd (c : Taken) (st : Nat) (rs : List Nat) : noLog (finishCmd s c st rs).toll = noLog s.toll :=
  ite_keeps (g := fun s => noLog s.toll) (by simp [freeTag]) (by simp [freeTag])

end

-- -------------------------------------------------------------------------------- who waits

section
variable {s : State} {c : Taken}

/-- R79: the one long command held is the next to be served. -/
theorem nextLong_single (h : s.host.long = [c]) {sel : Nat → Bool} (hsel : sel c.cmd = true) : nextLong s sel = some c := by
  simp [nextLong, h, hsel]

theorem nextLong_empty (h : s.host.long = []) (sel : Nat → Bool) : nextLong s sel = none := by simp [nextLong, h]

/-- No command held waits for the resource. -/
theorem nextLong_none {sel : Nat → Bool} (h : ∀ x ∈ s.host.long, sel x.cmd = false) : nextLong s sel = none := by
  have hnil : s.host.long.filter (fun c => sel c.cmd) = [] := List.filter_eq_nil_iff.2 fun x hx => by simp [h x hx]
  simp only [nextLong, hnil, List.find?_nil]

/-- Only the last command held waits for the resource. -/
theorem nextLong_append {sel : Nat → Bool} (h : ∀ x ∈ s.host.long, sel x.cmd = false) {t : State} (ht : t.host.long = s.host.long ++ [c])
    (hsel : sel c.cmd = true) : nextLong t sel = some c := by
  have hnil : s.host.long.filter (fun c => sel c.cmd) = [] := List.filter_eq_nil_iff.2 fun x hx => by simp [h x hx]
  simp only [nextLong, ht, List.filter_append, hnil]
  simp [hsel]

theorem finishCmd_long (s : State) (c : Taken) (st : Nat) (rs : List Nat) :
    (finishCmd s c st rs).host.long = s.host.long.filter (fun x => x.tag != c.tag) :=
  (congrArg HostIf.long (noTraffic_finishCmd s c st rs) :)

end

end Sys2Proof.Machine

-- ------------------------------------------------------------------------------------------------ what logging and sending leave alone

namespace Sys2Proof.Machine

/-- The Viaduct without its ports and without what has been sent. -/
def noWire (v : Viaduct) : Viaduct := { v with ports := [], sent := [], routed := [] }

/-- The state without what interrupts, records, the event log and sent messages write. -/
def silent (s : State) : State :=
  { s with pw := { s.pw with uart := [] }, host := noTraffic s.host, via := noWire s.via, toll := noLog s.toll }

theorem silent_foldl {α : Type} {f : State → α → State} (hf : ∀ s a, silent (f s a) = silent s) (l : List α) (s : State) :
    silent (l.foldl f s) = silent s := foldl_keeps hf l s

section
variable (s : State)

@[simp] theorem silent_sendPcie (o : PcieOut) : silent (sendPcie s o) = silent s := rfl

@[simp] theorem silent_logAer (e : AerError) : silent (logAer s e) = silent s := rfl

@[simp] theorem silent_raiseIrq (src : Nat) : silent (raiseIrq s src) = silent s := by
  obtain ⟨pba, irq, -, heq⟩ := raiseIrq_eq s src
  rw [heq]; rfl

@[simp] theorem silent_setErr (bit : Nat) : silent (setErr s bit) = silent s := by
  rw [setErr, silent_raiseIrq]; rfl

theorem silent_toll {t : Toll} (h : noLog t = noLog s.toll) : silent { s with toll := t } = silent s := by
  simp only [silent, h]

@[simp] theorem silent_keepRecord (e : Event) (ended : Option W64) : silent (keepRecord s e ended) = silent s := by
  have h : ∀ (c : Bool) (t : Toll) (l : List W32), noLog t = noLog s.toll →
      silent (if c then updPw { s with toll := t } fun p => { p with uart := l } else { s with toll := t }) = silent s := by
    intro c t l ht
    cases c
    · exact silent_toll s ht
    · exact (silent_toll s ht :)
  exact h _ _ _ (noLog_record ..)

@[simp] theorem silent_dropWindow (source code unit : Nat) : silent (dropWindow s source code unit) = silent s := rfl

theorem silent_windows (f : List Window → List Window) :
    silent (updToll s fun t => { t with windows := f t.windows }) = silent s := rfl

@[simp] theorem silent_closeWindow (w : Window) : silent (closeWindow s w) = silent s := by
  unfold closeWindow
  dsimp only
  split
  · rfl
  · rw [silent_keepRecord, silent_dropWindow]

@[simp] theorem silent_logEvent (e : Event) : silent (logEvent s e) = silent s := by
  have hclosed : silent (match windowOf s e.source e.code e.unit with
      | some w => if windowOver s w then closeWindow s w else s
      | none => s) = silent s := by
    split
    · split
      · exact silent_closeWindow ..
      · rfl
    · rfl
  unfold logEvent
  split
  · rfl
  · split
    · exact silent_keepRecord ..
    · dsimp only
      split
      · rw [silent_keepRecord, silent_windows (f := fun l => l ++ _)]
        exact hclosed
      · split
        · rw [silent_keepRecord, silent_windows (f := fun l => l ++ _), silent_dropWindow]
          exact hclosed
        · rw [silent_windows (f := fun l => l ++ _), silent_dropWindow]
          exact hclosed

@[simp] theorem silent_putRecord (tag cmd status : Nat) (rs : List Nat) : silent (putRecord s tag cmd status rs) = silent s :=
  ite_keeps (by simp) rfl

@[simp] theorem silent_countRecord (prio : Nat) : silent (countRecord s prio) = silent s := by
  obtain ⟨counts, pba, irq, -, heq⟩ := countRecord_eq s prio
  rw [heq]; rfl

@[simp] theorem silent_acceptRecord (c : Taken) : silent (acceptRecord s c) = silent s :=
  ite_keeps (by simp) (ite_keeps (by simp) (by simp))

-- -------------------------------------------------------------------------------- messages

@[simp] theorem silent_setPort (n : Nat) (p : Port) : silent (setPort s n p) = silent s := rfl

@[simp] theorem silent_updPort (n : Nat) (f : Port → Port) : silent (updPort s n f) = silent s := rfl

@[simp] theorem silent_sendLink (n : Nat) (i : Instr) : silent (sendLink s n i) = silent s := rfl

@[simp] theorem silent_beginRetrain (n : Nat) : silent (beginRetrain s n) = silent s := by simp [beginRetrain]

@[simp] theorem silent_portRetrain (n : Nat) : silent (portRetrain s n) = silent s :=
  ite_keeps rfl (by simp)

@[simp] theorem silent_resendLimit (n : Nat) : silent (resendLimit s n) = silent s := ite_keeps (by simp) rfl

@[simp] theorem silent_pump (n : Nat) : silent (pump s n) = silent s := ite_keeps rfl (by simp)

@[simp] theorem silent_queueFlits (n : Nat) (fs : List Flit) : silent (queueFlits s n fs) = silent s := by simp [queueFlits]

@[simp] theorem silent_sendVia (n : Nat) (i : Instr) : silent (sendVia s n i) = silent s :=
  ite_keeps rfl (by rw [silent_queueFlits]; rfl)

@[simp] theorem silent_routeFlits (dest : Coord) (fs : List Flit) : silent (routeFlits s dest fs) = silent s := by
  unfold routeFlits
  split <;> simp

@[simp] theorem silent_sendTo (dest : Coord) (i : Instr) : silent (sendTo s dest i) = silent s := by
  rw [sendTo, silent_routeFlits]; rfl

@[simp] theorem silent_sendRank (r : Nat) (i : Instr) : silent (sendRank s r i) = silent s := by
  unfold sendRank
  split <;> simp

@[simp] theorem silent_flood (except : Option Nat) (i : Nat → Instr) : silent (flood s except i) = silent s :=
  silent_foldl (fun _ _ => ite_keeps rfl (silent_sendVia ..)) _ _

@[simp] theorem silent_sendNext (n : Nat) (i : Ctl → Instr) : silent (sendNext s n i) = silent s := ite_keeps (by simp) (by simp)

@[simp] theorem silent_sendCtl (r status : Nat) (i : Ctl → Instr) : silent (sendCtl s r status i) = silent s := by
  unfold sendCtl
  split <;> simp

@[simp] theorem silent_sendJ (r : Nat) (i : JMsg → Instr) : silent (sendJ s r i) = silent s := by
  unfold sendJ
  split <;> simp

@[simp] theorem silent_resendIdent (old : State) : silent (resendIdent s old) = silent s :=
  ite_keeps rfl (silent_foldl (fun _ _ => silent_sendLink ..) _ _)

end

-- -------------------------------------------------------------------------------- what states that are silent alike share

section
variable {s t : State} (h : silent t = silent s)
include h

theorem silent_ks : t.ks = s.ks := (congrArg State.ks h :)
theorem silent_sp : t.sp = s.sp := (congrArg State.sp h :)
theorem silent_dram : t.dram = s.dram := (congrArg State.dram h :)
theorem silent_grp : t.grp = s.grp := (congrArg State.grp h :)
theorem silent_tre : t.tre = s.tre := (congrArg State.tre h :)
theorem silent_beat : t.beat = s.beat := (congrArg State.beat h :)
theorem silent_host : noTraffic t.host = noTraffic s.host := (congrArg State.host h :)
theorem silent_via : noWire t.via = noWire s.via := (congrArg State.via h :)
theorem silent_noLog : noLog t.toll = noLog s.toll := (congrArg State.toll h :)
theorem silent_planState : planState t = planState s := planState_congr (silent_host h)

end

end Sys2Proof.Machine

-- ------------------------------------------------------------------------------------------------ links, firmware, validation

namespace Sys2Proof.Machine

section
variable {s : State} {tag : Nat} {c : Taken}

/-- R88: LINK_CONTROL with ACTION 0 reports in any plan state. -/
theorem linkControl_reports (h : Served s cmdLinkControl tag c) (hpay : payClean c [(4, 1), (5, 1)] = true)
    (hports : payAt c 4 1 ≠ 0) (haction : lcAction c = 0) :
    linkControl s tag = finishCmd (acceptCmd s c) c stOk (linkResults (acceptCmd s c)) := by
  rw [linkControl, serve_of_served h]
  simp [hpay, hports, haction]

/-- R341: a RING_FORM that waits alone, with the trainer free, begins at once. -/
theorem linkQueue_form (hlong : s.host.long = [c]) (hbusy : linkBusy s = false) (hcmd : c.cmd = cmdRingForm)
    (hst : planState s = plNone) : linkQueue s = beginForm s c := by
  rw [linkQueue, hlong, List.length_singleton, nextLink, hbusy, nextLong_single hlong (by rw [hcmd]; decide)]
  simp [hcmd, hst, nextLink]

/-- R341: what a group holds once it has formed. -/
theorem formDone_via (f : Formation) : (formDone s c f).via.formed = some f ∧ (formDone s c f).via.given = some f
    ∧ (formDone s c f).via.coord = some f.coord ∧ (formDone s c f).via.dims = some f.dims := by
  have hvia := fun t : State => silent_via (silent_resendIdent t s)
  simp only [formDone, finishCmd_via]
  exact ⟨(congrArg Viaduct.formed (hvia _) :), (congrArg Viaduct.given (hvia _) :), (congrArg Viaduct.coord (hvia _) :),
    (congrArg Viaduct.dims (hvia _) :)⟩

/-- RING_FORM in NONE, its body within the ranges. -/
theorem ringForm_queued (h : Served s cmdRingForm tag c) (hpay : payClean c formFields = true) (hst : planState s = plNone)
    {f : Formation} (hf : checkFormation (formationOf c) = some f) : ringForm s tag = linkQueue (acceptCmd s c) := by
  rw [ringForm, serve_of_served h]
  simp [hpay, hst, hf]

theorem ringForm_refused (h : Served s cmdRingForm tag c) (hpay : payClean c formFields = true) (hst : planState s = plNone)
    (hf : checkFormation (formationOf c) = none) : ringForm s tag = finishCmd (ungroup s) c stBadParam [] := by
  rw [ringForm, serve_of_served h]
  simp [hpay, hst, hf]

theorem beginForm_single {f : Formation} (hf : checkFormation (formationOf c) = some f) (hshape : f.shape = 0) :
    beginForm s c = formDone (ungroup s) c f := by
  simp [beginForm, hf, hshape]

end

/-- Settles O26: with ACTION 0 nothing is queued; a group of one device needs no FORM of a neighbour. -/
theorem linkCommands : Obligations.LinkCommands := by
  refine ⟨fun s tag c h hpay hports haction => congrArg _ (linkControl_reports h hpay hports haction),
    fun s tag c h hpay hst => ⟨fun hf => congrArg _ (ringForm_refused h hpay hst hf), fun f hf hshape hbusy hlong => ?_⟩⟩
  refine ⟨_, rfl, ?_⟩
  rw [ringForm_queued h hpay hst hf, linkQueue_form (c := c) (by simp [hlong]) (by simpa [linkBusy] using hbusy) h.2.2
    (by simpa using hst), beginForm_single hf hshape]
  exact formDone_via f

-- -------------------------------------------------------------------------------- firmware

section
variable {s : State} {tag : Nat} {c : Taken}

/-- The update path stays as the event log finds it. -/
theorem update_congr {s t : State} (h : noLog t.toll = noLog s.toll) : t.toll.update = s.toll.update := (congrArg Toll.update h :)

/-- An image's verification does not look at the event log. -/
theorem imageOk_congr {t u : Toll} (h : noLog u = noLog t) (k : Nat) :
    imageOk u k (imageSlot u k (inactiveWhich u k)) = imageOk t k (imageSlot t k (inactiveWhich t k)) :=
  (congrArg (fun t => imageOk t k (imageSlot t k (inactiveWhich t k))) h :)

theorem staged_congr {t u : Toll} (h : noLog u = noLog t) : u.staged = t.staged := (congrArg Toll.staged h :)

theorem nextUpdate_busy {d : Taken} (h : s.toll.update = .inBand d) : nextUpdate s = s := by
  simp [nextUpdate, h]

/-- With no command held nothing waits for the update path. -/
theorem nextUpdate_empty (h : s.host.long = []) : nextUpdate s = s := by
  rw [nextUpdate, nextLong_empty h]
  split
  · next heq => cases heq
  · rfl

/-- R79: an FW_STAGE whose turn it is begins. -/
theorem nextUpdate_stage (hupdate : s.toll.update = .none) (hnext : nextLong s isUpdateCmd = some c) (hcmd : c.cmd = cmdFwStage) :
    nextUpdate s = beginStage s c := by
  simp [nextUpdate, hupdate, hnext, hcmd]

/-- R411: FW_STAGE with its image in a bound region. -/
theorem fwStage_checked (h : Served s cmdFwStage tag c) (hpay : payClean c [(4, 1), (8, 8), (0x10, 8)] = true) {a : Nat}
    (haddr : regionAddr s (payAt c 4 1) (payAt c 8 8) (payAt c 0x10 8) = some a) :
    fwStage s tag = if s.toll.update = .oob then finishCmd s c stBusy [] else nextUpdate (acceptCmd s c) := by
  rw [fwStage, serve_of_served h]
  simp [hpay, haddr]

theorem regionAddr_acceptCmd (id off len : Nat) : regionAddr (acceptCmd s c) id off len = regionAddr s id off len := by
  have hregions : (acceptCmd s c).host.regions = s.host.regions := (congrArg HostIf.regions (noTraffic_acceptCmd s c) :)
  simp only [regionAddr, regionOf, hregions]

/-- The one long command held is held no longer once its record is written. -/
theorem finishCmd_long_single {t : State} (h : t.host.long = [c]) (st : Nat) (rs : List Nat) :
    (finishCmd t c st rs).host.long = [] := by
  rw [finishCmd_long, h]
  simp

theorem setStaged_long (s : State) (comp : Nat) (on : Bool) : (setStaged s comp on).host.long = s.host.long := rfl

/-- Staging an image holds no command and ends none. -/
theorem stageImage_long (s : State) (comp : Nat) (b : List Byte) : (stageImage s comp b).1.host.long = s.host.long := by
  unfold stageImage
  dsimp only
  split
  · exact (congrArg HostIf.long (noTraffic_raiseIrq ..) :)
  · rw [logEvent_host, setStaged_long]
    rfl

end

theorem fwStage_clauses {s : State} {tag a : Nat} {c : Taken} (h : Served s cmdFwStage tag c)
    (hpay : payClean c [(4, 1), (8, 8), (0x10, 8)] = true)
    (haddr : regionAddr s (payAt c 4 1) (payAt c 8 8) (payAt c 0x10 8) = some a) :
    (s.toll.update = .oob → fwStage s tag = finishCmd s c stBusy [])
    ∧ (∀ d, s.toll.update = .inBand d → fwStage s tag = acceptCmd s c)
    ∧ (s.toll.update = .none → (∀ x ∈ s.host.long, isUpdateCmd x.cmd = false) → fwStage s tag
        = hostReads (updToll (acceptCmd s c) fun t => { t with update := .inBand c }) a (payAt c 0x10 8)) := by
  have hupdate : (acceptCmd s c).toll.update = s.toll.update := update_congr (noLog_acceptCmd s c)
  refine ⟨fun hoob => ?_, fun d hd => ?_, fun hnone hwait => ?_⟩
  · rw [fwStage_checked h hpay haddr, if_pos hoob]
  · rw [fwStage_checked h hpay haddr, if_neg (by rw [hd]; simp), nextUpdate_busy (hupdate.trans hd)]
  · have hcmd : c.cmd = cmdFwStage := h.2.2
    have hnext := nextLong_append (c := c) hwait (acceptCmd_long s c) (by rw [hcmd]; decide)
    rw [fwStage_checked h hpay haddr, if_neg (by rw [hnone]; simp), nextUpdate_stage (hupdate.trans hnone) hnext hcmd,
      beginStage, regionAddr_acceptCmd, haddr]

/-- The bytes that FW_STAGE has read, as many as its length names. -/
def stageBytes (c : Taken) (image : List Byte) : List Byte := image.take (payAt c 0x10 8) ++ zeros (payAt c 0x10 8 - image.length)

/-- FW_STAGE ends, the image staged or refused. -/
def stageEnd (c : Taken) (b : List Byte) (r : State × Bool) : State :=
  finishCmd (updToll r.1 fun t => { t with update := .none }) c (if r.2 then stOk else stBadParam)
    (if r.2 then [imgComponent b, imgVersion b] else [])

/-- R411: the image that FW_STAGE has read. -/
theorem fwStageDone_eq {s : State} {c : Taken} {image : List Byte} (hupdate : s.toll.update = .inBand c)
    (hcmd : c.cmd = cmdFwStage) (hlong : s.host.long = [c]) (hcomp : imgComponent (stageBytes c image) < 3) :
    fwStageDone s image = stageEnd c (stageBytes c image)
      (stageImage s (imgComponent (stageBytes c image)) (stageBytes c image)) := by
  have hend : ∀ (r : State × Bool) (st : Nat) (rs : List Nat), r.1.host.long = [c] →
      nextUpdate (finishCmd (updToll r.1 fun t => { t with update := .none }) c st rs)
        = finishCmd (updToll r.1 fun t => { t with update := .none }) c st rs :=
    fun r st rs h => nextUpdate_empty (finishCmd_long_single (t := updToll r.1 _) h st rs)
  obtain ⟨b, hb⟩ : ∃ b, image.take (payAt c 0x10 8) ++ zeros (payAt c 0x10 8 - image.length) = b := ⟨_, rfl⟩
  simp only [stageBytes, hb] at hcomp ⊢
  have hstaged := (stageImage_long s (imgComponent b) b).trans hlong
  simp only [fwStageDone, hupdate, hcmd, ne_eq, not_true_eq_false, if_false, hb, if_pos hcomp]
  generalize stageImage s (imgComponent b) b = r at hstaged
  obtain ⟨t, ok⟩ := r
  cases ok with
  | true => exact hend (t, true) _ _ hstaged
  | false => exact hend (t, false) _ _ hstaged

section
variable {s : State} {tag : Nat} {c : Taken} {env : StartEnv}

/-- R411: staged images that still verify stay staged. -/
theorem verifyStaged_good {comps : Nat} (h : ∀ k, k < 3 → comps.testBit k = true →
    imageOk s.toll k (imageSlot s.toll k (inactiveWhich s.toll k)) = true) : verifyStaged s comps = s := by
  refine List.foldlRecOn (motive := fun t => t = s) _ _ rfl fun t ht k hk => ?_
  subst ht
  obtain ⟨hmem, hnamed⟩ := List.mem_filter.1 hk
  have hlt : k < 3 := by simp only [List.mem_cons, List.not_mem_nil, or_false] at hmem; omega
  simp only [Bool.and_eq_true] at hnamed
  exact if_pos (h k hlt hnamed.1)


/-- R413: FW_ACTIVATE of staged images, as the one long command held. -/
theorem fwActivate_begins (h : Served s cmdFwActivate tag c) (hpay : payClean c [(4, 1)] = true) (hcomps : payAt c 4 1 ≤ 7)
    (hlong : s.host.long = []) (hst : planState s = plNone) (hupdate : s.toll.update = .none)
    (hstaged : allStaged s (payAt c 4 1) = true) : fwActivate s tag env = activateStaged (acceptCmd s c) c env := by
  have hcmd : c.cmd = cmdFwActivate := h.2.2
  have hupdate' : (acceptCmd s c).toll.update = .none := (update_congr (noLog_acceptCmd s c)).trans hupdate
  have hnext : nextLong (acceptCmd s c) isUpdateCmd = some c :=
    nextLong_single (by simp [hlong]) (by rw [hcmd]; decide)
  rw [fwActivate, nextLong_empty hlong, Option.filter_none, serve_of_served h]
  simp only [hpay, hst, hupdate, hstaged, hupdate', hnext]
  simp [Nat.not_lt.2 hcomps]

/-- R413: FW_ACTIVATE waits for no plan. -/
theorem fwActivate_busy (h : Served s cmdFwActivate tag c) (hpay : payClean c [(4, 1)] = true) (hcomps : payAt c 4 1 ≤ 7)
    (hlong : s.host.long = []) (hst : planState s ≠ plNone) : fwActivate s tag env = finishCmd s c stBusy [] := by
  rw [fwActivate, nextLong_empty hlong, Option.filter_none, serve_of_served h]
  simp [hpay, Nat.not_lt.2 hcomps, hst]

theorem allStaged_of_named {comps : Nat}
    (h : ∀ k, (decide (k < 3) && comps.testBit k) = true → s.toll.staged.toNat.testBit k = true) : allStaged s comps = true := by
  refine List.all_eq_true.2 fun k hk => ?_
  have hlt : k < 3 := by simp only [List.mem_cons, List.not_mem_nil, or_false] at hk; omega
  cases hnamed : comps.testBit k with
  | true => simp [h k (by simp [hlt, hnamed])]
  | false => rfl

end

-- -------------------------------------------------------------------------------- images that no longer verify

/-- One named component's verification (R411). -/
def verifyOne (s : State) (k : Nat) : State :=
  if imageOk s.toll k (imageSlot s.toll k (inactiveWhich s.toll k)) then s
  else logEvent (setStaged s k false) (mkEvent stBadParam srcToll 2 k evImage
    (failingCheck s.toll k (imageSlot s.toll k (inactiveWhich s.toll k))) (inactiveWhich s.toll k))

/-- The Tollhouse without the event log and without the marks of staged components. -/
def noMark (t : Toll) : Toll := { noLog t with staged := 0 }

section
variable {s : State}

theorem noMark_verifyOne (k : Nat) : noMark (verifyOne s k).toll = noMark s.toll := by
  unfold verifyOne
  split
  · rfl
  · exact congrArg (fun t : Toll => { t with staged := (0 : BitVec 3) }) (noLog_logEvent (setStaged s k false) _)

/-- A verification looks at neither. -/
theorem imageOk_noMark {t u : Toll} (h : noMark u = noMark t) (k : Nat) :
    imageOk u k (imageSlot u k (inactiveWhich u k)) = imageOk t k (imageSlot t k (inactiveWhich t k)) :=
  (congrArg (fun t => imageOk t k (imageSlot t k (inactiveWhich t k))) h :)

theorem verifyOne_long (k : Nat) : (verifyOne s k).host.long = s.host.long :=
  ite_keeps (g := fun s => s.host.long) rfl (by rw [logEvent_host]; rfl)

theorem testBit_cleared : ∀ (v : BitVec 3) (k j : Fin 3),
    (BitVec.ofNat 3 (setBit v.toNat k false)).toNat.testBit j = (v.toNat.testBit j && decide (j ≠ k)) := by decide

/-- A component that no longer verifies is not staged, and no other mark is set (R411). -/
theorem staged_verifyOne {k j : Nat} (hk : k < 3) (hj : j < 3) : (verifyOne s k).toll.staged.toNat.testBit j
    = (s.toll.staged.toNat.testBit j
      && (decide (j ≠ k) || imageOk s.toll k (imageSlot s.toll k (inactiveWhich s.toll k)))) := by
  unfold verifyOne
  cases hok : imageOk s.toll k (imageSlot s.toll k (inactiveWhich s.toll k)) with
  | true => simp
  | false =>
    rw [if_neg (by simp), staged_congr (noLog_logEvent ..), Bool.or_false]
    have hmark : (setStaged s k false).toll.staged = BitVec.ofNat 3 (setBit s.toll.staged.toNat k false) := rfl
    rw [hmark]
    refine (testBit_cleared s.toll.staged ⟨k, hk⟩ ⟨j, hj⟩).trans ?_
    simp only [ne_eq, Fin.mk.injEq]

theorem noMark_verifyAll (l : List Nat) (s : State) : noMark (l.foldl verifyOne s).toll = noMark s.toll :=
  foldl_keeps (g := fun s => noMark s.toll) (fun _ k => noMark_verifyOne k) l s

theorem verifyAll_long (l : List Nat) (s : State) : (l.foldl verifyOne s).host.long = s.host.long :=
  foldl_keeps (g := fun s => s.host.long) (fun _ k => verifyOne_long k) l s

/-- Verification sets no mark. -/
theorem staged_verifyAll_le {l : List Nat} (hl : ∀ k ∈ l, k < 3) {j : Nat} (hj : j < 3)
    (h : s.toll.staged.toNat.testBit j = false) : (l.foldl verifyOne s).toll.staged.toNat.testBit j = false := by
  induction l generalizing s with
  | nil => exact h
  | cons k l ih =>
    refine ih (fun x hx => hl x (.tail k hx)) ?_
    rw [staged_verifyOne (hl k List.mem_cons_self) hj, h, Bool.false_and]

/-- A component verified that fails is not staged afterwards. -/
theorem staged_verifyAll_bad {l : List Nat} (hl : ∀ k ∈ l, k < 3) {j : Nat} (hmem : j ∈ l)
    (hbad : imageOk s.toll j (imageSlot s.toll j (inactiveWhich s.toll j)) = false) :
    (l.foldl verifyOne s).toll.staged.toNat.testBit j = false := by
  induction l generalizing s with
  | nil => cases hmem
  | cons k l ih =>
    have hl' : ∀ x ∈ l, x < 3 := fun x hx => hl x (.tail k hx)
    rcases List.mem_cons.1 hmem with rfl | hin
    · refine staged_verifyAll_le hl' (hl j hmem) ?_
      rw [staged_verifyOne (hl j hmem) (hl j hmem), hbad]
      simp
    · exact ih hl' hin ((imageOk_noMark (noMark_verifyOne k) j).trans hbad)

theorem verifyStaged_eq (comps : Nat) : verifyStaged s comps
    = ([0, 1, 2].filter fun k => comps.testBit k && s.toll.staged.toNat.testBit k).foldl verifyOne s := rfl

end

/-- Settles O27: what waits for the update path is known from the long commands held, and verification looks at no record of the
event log. -/
theorem firmwareCommands : Obligations.FirmwareCommands := by
  unfold Obligations.FirmwareCommands
  refine ⟨fun s tag a c h hpay haddr => ?_, fun s c image hupdate hcmd hlong hcomp => ?_,
    fun s tag c env h hpay hcomps hlong => ⟨fun hst => congrArg _ (fwActivate_busy h hpay hcomps hlong hst),
      fun hst hupdate hstaged => ?_⟩⟩
  · obtain ⟨hoob, hband, hnone⟩ := fwStage_clauses h hpay haddr
    exact ⟨fun hu => congrArg _ (hoob hu), fun d hd => congrArg _ (hband d hd), fun hu hw => congrArg _ (hnone hu hw)⟩
  · exact congrArg Host.Outcome.next (fwStageDone_eq hupdate hcmd hlong hcomp)
  · have hall := allStaged_of_named hstaged
    have hlong' : (acceptCmd s c).host.long = [c] := by simp [hlong]
    have hlog := noLog_acceptCmd s c
    have hok := fun k => imageOk_congr (t := s.toll) (u := (acceptCmd s c).toll) hlog k
    have hall' : allStaged (acceptCmd s c) (payAt c 4 1) = true := by
      simp only [allStaged, staged_congr hlog]
      exact hall
    have hend : ∀ {t : State}, t.host.long = [c] → ∀ st rs, nextUpdate (finishCmd t c st rs) = finishCmd t c st rs :=
      fun {t} ht st rs => nextUpdate_empty (finishCmd_long_single (t := t) ht st rs)
    refine ⟨fun hzero => ?_, fun hne hgood => ?_, fun ⟨k, hnamed, hbad⟩ => ?_⟩
    · have hsame : verifyStaged (acceptCmd s c) (payAt c 4 1) = acceptCmd s c := verifyStaged_good fun k _ hk => by
        rw [hzero, Nat.zero_testBit] at hk
        cases hk
      have hroll : rollbackOf (acceptCmd s c).toll = rollbackOf s.toll := (congrArg rollbackOf hlog :)
      show Host.Outcome.next (fwActivate s tag env) = _
      rw [fwActivate_begins h hpay hcomps hlong hst hupdate hall, activateStaged, hsame, hall', hroll]
      simpa [hzero] using hend hlong' stOk _
    · have hsame : verifyStaged (acceptCmd s c) (payAt c 4 1) = acceptCmd s c := verifyStaged_good fun k hk hbit =>
        (hok k).trans (hgood k (by simp [hk, hbit]))
      show Host.Outcome.next (fwActivate s tag env) = _
      rw [fwActivate_begins h hpay hcomps hlong hst hupdate hall, activateStaged, hsame, hall', h.2.1]
      simp [hne]
    · obtain ⟨hk, hbit⟩ : k < 3 ∧ (payAt c 4 1).testBit k = true := by simpa using hnamed
      have hmem : k ∈ [0, 1, 2].filter fun k => (payAt c 4 1).testBit k && (acceptCmd s c).toll.staged.toNat.testBit k := by
        refine List.mem_filter.2 ⟨by simp only [List.mem_cons, List.not_mem_nil, or_false]; omega, ?_⟩
        rw [staged_congr hlog, hbit, hstaged k hnamed]
        rfl
      have hlist : ∀ k ∈ [0, 1, 2].filter fun k => (payAt c 4 1).testBit k && (acceptCmd s c).toll.staged.toNat.testBit k, k < 3 :=
        fun k hk => by
          have := (List.mem_filter.1 hk).1
          simp only [List.mem_cons, List.not_mem_nil, or_false] at this
          omega
      have hcleared := staged_verifyAll_bad (s := acceptCmd s c) hlist hmem ((hok k).trans hbad)
      rw [← verifyStaged_eq] at hcleared
      have hnot : allStaged (verifyStaged (acceptCmd s c) (payAt c 4 1)) (payAt c 4 1) = false := by
        refine Bool.eq_false_iff.2 fun htrue => ?_
        have hall := List.all_eq_true.1 htrue k (by simp only [List.mem_cons, List.not_mem_nil, or_false]; omega)
        rw [hbit, hcleared] at hall
        cases hall
      show Host.Outcome.next (fwActivate s tag env) = _
      rw [fwActivate_begins h hpay hcomps hlong hst hupdate hall, activateStaged, hnot,
        hend (t := verifyStaged (acceptCmd s c) (payAt c 4 1)) ((verifyAll_long _ _).trans hlong')]
      rfl

-- -------------------------------------------------------------------------------- validation

section
variable {s : State} {base : Nat} {c : Option Taken} {st : Nat} {rs : List Nat}

theorem planState_finishOpt : planState (finishOpt s c st rs) = planState s := by
  cases c with
  | none => rfl
  | some c => exact planState_finishCmd ..

theorem planState_settleIdle : planState (settleIdle s) = planState s := by simp [planState]

theorem writeReport_ks (f : VFail) (splits : List Split) : (writeReport s base f splits).ks = s.ks := by
  unfold writeReport
  dsimp only
  split <;> rfl

theorem noteUnread_ks (f : VFail) : (noteUnread s base f).ks = s.ks :=
  ite_keeps (g := fun s => s.ks) rfl (by simp [failRow])

end

/-- Settles O28: validation reads the image once its sectors have been met, and its two results end it. -/
theorem validationEnds : Obligations.ValidationEnds := by
  intro s base hload hst u
  have hend : exec .validationEnd s = .next (endLoad s base) := by
    show Host.Outcome.next (validationEnd s) = _
    rw [validationEnd, hload]
  refine ⟨fun p hp => ⟨_, hend, ?_⟩, fun f hf => ⟨_, hend, ?_⟩⟩
  · have hp' : validateImage u base u.via.given u.via.bypass = .ok p := by simpa [u] using hp
    rw [endLoad, hp']
    simp only [finishOpt_ks, settleIdle_ks, setPlanState_ks]
    refine ⟨by simp [loadedPlan], by simp [loadedPlan], by simp [loadedPlan], by simp [loadedPlan], ?_⟩
    rw [planState_finishOpt, planState_settleIdle, planState_setPlanState _ (by decide)]
  · have hf' : validateImage u base u.via.given u.via.bypass = .error f := by simpa [u] using hf
    rw [endLoad, hf']
    refine ⟨?_, ?_⟩
    · simp [noteUnread_ks, writeReport_ks]
    · rw [planState_finishOpt, planState_setPlanState _ (by decide)]

end Sys2Proof.Machine

-- ------------------------------------------------------------------------------------------------ Trestle copies

namespace Sys2Proof.Machine

section
variable {s : State} {tag a : Nat} {c : Taken}

/-- A copy of which nothing has been copied. -/
def freshCopy (c : Taken) (a : Nat) (toHost : Bool) : Copy :=
  { cmd := c, toHost := toHost, host := a, dev := cpDev c, len := cpLen c, done := 0 }

/-- R94: a copy in bounds and clear of the plan's transfers waits its turn. -/
theorem copyCmd_queued {cmd : Nat} (h : Served s cmd tag c) (hpay : payClean c [(4, 1), (8, 8), (0x10, 8), (0x18, 8)] = true)
    (hclash : copyClash s c = false) (hlen : cpLen c ≠ 0) (hoff : cpOffset c % 64 = 0) (hdev : cpDev c % 64 = 0)
    (hlen64 : cpLen c % 64 = 0) (hin : cpDev c + cpLen c ≤ reservedStart)
    (haddr : regionAddr s (cpRegion c) (cpOffset c) (cpLen c) = some a) (toHost : Bool) :
    copyCmd s cmd tag toHost
      = updTre (acceptCmd s c) fun t => { t with copies := queueCopy t.copies (freshCopy c a toHost) } := by
  rw [copyCmd, serve_of_served h]
  simp [freshCopy, hpay, hclash, hlen, hoff, hdev, hlen64, Nat.not_lt.2 hin, haddr]

end

-- -------------------------------------------------------------------------------- chunks

section
variable {s : State} {toHost : Bool}

/-- R368: the chunk that a direction takes, by the work that waits there. -/
def chunkOf (s : State) (toHost : Bool) : Option TEntry → Option Copy → State
  | none, none => s
  | some e, none => entryChunk (setTurn s toHost 0) e
  | none, some c => copyChunk (setTurn s toHost 0) c
  | some e, some c =>
    if 3 ≤ turnOf s.tre toHost then copyChunk (setTurn (updTre s fun t => { t with sharedNow := true }) toHost 0) c
    else entryChunk (setTurn (updTre s fun t => { t with sharedNow := true }) toHost (turnOf s.tre toHost + 1)) e

/-- R368: a chunk of a device that answers. -/
theorem trestleChunk_of_answers (h : Answers s) : trestleChunk s toHost
    = chunkOf (settleCopy s toHost) toHost (nextEntry (settleCopy s toHost) toHost) (nextCopy (settleCopy s toHost) toHost) := by
  obtain ⟨hlink, hpm⟩ := h
  have hanswers : (!s.host.linkUp || s.host.pm == .d3hot) = false := by rw [hlink, hpm]; rfl
  have hturn : ∀ u : State, turnOf (updTre u fun t => { t with sharedNow := true }).tre toHost = turnOf u.tre toHost :=
    fun u => by cases toHost <;> rfl
  unfold trestleChunk
  rw [hanswers, if_neg (by decide)]
  dsimp only
  cases nextEntry (settleCopy s toHost) toHost <;> cases nextCopy (settleCopy s toHost) toHost
  · rfl
  · rfl
  · rfl
  · simp only [hturn]
    rfl

theorem settleCopy_of_head {c : Copy} (h : s.tre.copies.head? = some c) : settleCopy s toHost
    = if toHost = true ∧ c.toHost = true ∧ c.done = c.len then endCopy s c stOk c.len else s := by
  simp [settleCopy, h, and_assoc]

/-- What the copy in service is like. -/
theorem nextCopy_eq_some {c : Copy} (h : nextCopy s toHost = some c) :
    s.tre.copies.head? = some c ∧ c.toHost = toHost ∧ c.done < c.len := by
  unfold nextCopy at h
  split at h
  · cases h
  · next d hhead =>
    split at h
    next hcond =>
      cases h
      exact ⟨hhead, hcond⟩
    · cases h

/-- R94: a chunk to the host whose bytes can all be read. -/
theorem copyChunk_toHost {c : Copy} (hto : c.toHost = true) (hstart : ¬(c.done = 0 ∧ copyClash s c.cmd = true))
    (hclean : DramClean s) (hgood : goodBytes s (c.dev + c.done) (min 4096 (c.len - c.done)) = min 4096 (c.len - c.done)) :
    copyChunk s c = updTre
      (noteWrite
        (countTo (hostWrite s (c.host + c.done) (tabBytes s.dram.mem (c.dev + c.done) (min 4096 (c.len - c.done))))
          (min 4096 (c.len - c.done))) true c.cmd.tag (c.host + c.done))
      fun t => { t with copies := t.copies.map fun x =>
        if x.cmd.tag == c.cmd.tag then { x with done := x.done + min 4096 (c.len - c.done) } else x } := by
  rw [copyChunk, if_neg hstart, if_pos hto]
  simp only [chunkSize, touchSectors_of_clean hclean, hgood, Nat.lt_irrefl, if_false]

/-- What is written to the host depends on the host interface alone. -/
theorem hostWrite_host_congr {s t : State} (h : t.host = s.host) (addr : Nat) (data : List Byte) :
    (hostWrite t addr data).host = (hostWrite s addr data).host := by
  have hfold : ∀ (l : List (Nat × Nat)) (s t : State), t.host = s.host →
      (l.foldl (fun s r => sendPcie s (.write r.1 ((data.drop (r.1 - addr)).take r.2))) t).host
        = (l.foldl (fun s r => sendPcie s (.write r.1 ((data.drop (r.1 - addr)).take r.2))) s).host := by
    intro l
    induction l with
    | nil => exact fun _ _ h => h
    | cons r l ih => exact fun s t h => ih _ _ (by simp only [sendPcie, updHost_host, h])
  rw [hostWrite, hostWrite, h]
  exact hfold _ _ _ h

end

/-- R94: one chunk of a copy to the host, as the direction's only work. -/
theorem trestleChunk_toHost {s : State} {c : Copy} (hans : Answers s) (hentry : nextEntry s true = none)
    (hcopy : nextCopy s true = some c) (hstart : c.done = 0 ∧ copyClash s c.cmd = false ∨ 0 < c.done) (hclean : DramClean s)
    (hgood : goodBytes s (c.dev + c.done) (min 4096 (c.len - c.done)) = min 4096 (c.len - c.done)) :
    let t := trestleChunk s true
    t.dram = s.dram ∧ t.tre.toHostBytes = s.tre.toHostBytes + BitVec.ofNat 64 (min 4096 (c.len - c.done))
      ∧ t.host = (hostWrite s (c.host + c.done) (tabBytes s.dram.mem (c.dev + c.done) (min 4096 (c.len - c.done)))).host
      ∧ t.tre.copies = (s.tre.copies.map fun x =>
          if x.cmd.tag == c.cmd.tag then { x with done := x.done + min 4096 (c.len - c.done) } else x)
      ∧ t.tre.lastWrite = some ⟨true, c.cmd.tag, c.host + c.done⟩ := by
  obtain ⟨hhead, hto, hdone⟩ := nextCopy_eq_some hcopy
  have hsettle : settleCopy s true = s := by
    rw [settleCopy_of_head hhead, if_neg]
    rintro ⟨-, -, heq⟩
    omega
  have hnot : ¬(c.done = 0 ∧ copyClash (setTurn s true 0) c.cmd = true) := by
    rintro ⟨hzero, hclash⟩
    rcases hstart with ⟨-, hclear⟩ | hpos
    · have : copyClash s c.cmd = true := hclash
      simp [hclear] at this
    · omega
  intro t
  have ht : t = copyChunk (setTurn s true 0) c := by
    show trestleChunk s true = _
    rw [trestleChunk_of_answers hans, hsettle, hentry, hcopy]
    rfl
  rw [ht, copyChunk_toHost hto hnot hclean hgood]
  simp only [updTre_dram, updTre_host, updTre_tre, noteWrite, countTo, hostWrite_dram, hostWrite_tre, setTurn, if_true]
  exact ⟨trivial, trivial, hostWrite_host_congr (s := s) (t := updTre s _) rfl _ _, trivial, trivial⟩

-- -------------------------------------------------------------------------------- completions

section
variable {s : State} {r : TRead} {rest : List TRead} {data : List Byte} {code : Nat}

/-- R364: data answer the oldest read. -/
theorem trestleCompletion_data (hreads : s.tre.reads = r :: rest) (hlen : data.length = r.len) (hlast : r.last = false) :
    trestleCompletion s .data code data = readLands s r data := by
  simp [trestleCompletion, hreads, hlast, hlen, List.take_of_length_le (Nat.le_of_eq hlen)]

/-- The oldest read is answered (R364). -/
def readTaken (s : State) (r : TRead) : State := countFrom (updTre s fun t => { t with reads := t.reads.drop 1 }) r.len

/-- What follows the landing of a copy's bytes: a sector left ends the copy, and so does the answer to its last read. -/
def copyLanded (w : State × List Nat) (r : TRead) : State :=
  match (settleIdle w.1).tre.copies.head? with
  | none => settleIdle w.1
  | some c =>
    if !w.2.isEmpty then endCopy (settleIdle w.1) c stMemory (r.dev - c.dev)
    else if c.done = c.len ∧ ((settleIdle w.1).tre.reads.any (·.copy)) = false then endCopy (settleIdle w.1) c stOk c.len
    else settleIdle w.1

theorem readLands_of_copy (hcopy : r.copy = true) : readLands s r data = copyLanded (putSectors (readTaken s r) r.dev data) r :=
  if_pos hcopy

theorem readTaken_clean (h : DramClean s) : DramClean (readTaken s r) := h

/-- A copy's read whose bytes all land: it leaves the state in which they have landed, and may end the copy if no other read of
it is out. -/
theorem readLands_copy (hreads : s.tre.reads = r :: rest) (hcopy : r.copy = true)
    (hidle : planState s = plRunning ∨ DramClean s) (hleft : (putSectors (readTaken s r) r.dev data).2 = []) :
    readLands s r data = (putSectors (readTaken s r) r.dev data).1
      ∨ ∃ c, (∀ x ∈ rest, x.copy = false) ∧ readLands s r data = endCopy (putSectors (readTaken s r) r.dev data).1 c stOk c.len := by
  have hsettle : settleIdle (putSectors (readTaken s r) r.dev data).1 = (putSectors (readTaken s r) r.dev data).1 := by
    rcases hidle with hrun | hclean
    · exact settleIdle_of_running (by rw [planState, putSectors_host]; exact hrun)
    · exact settleIdle_of_clean (putSectors_clean (readTaken_clean hclean) hleft)
  rw [readLands_of_copy hcopy, copyLanded, hsettle, hleft]
  split
  · exact .inl rfl
  · next c _ =>
    rw [if_neg (by decide)]
    split
    next hend =>
      have hu : (putSectors (readTaken s r) r.dev data).1.tre.reads = rest := by
        have h := congrArg (fun s : State => s.tre.reads) (setDram_putSectors (s := readTaken s r) (a := r.dev) (data := data) s.dram)
        exact h.trans (by simp [setDram, readTaken, countFrom, hreads])
      refine .inr ⟨c, fun x hx => ?_, rfl⟩
      have hnone := hend.2
      rw [hu, List.any_eq_false] at hnone
      simpa using hnone x hx
    next hend =>
      exact .inl rfl

/-- What AER logs of a request's failure (R371). -/
def failureLogged (s : State) : Completion → State
  | .poisoned => logAer s .poisonedTlp
  | .timeout => logAer s .completionTimeout
  | _ => s

/-- R371: a request that fails ends the copy in service. -/
theorem trestleCompletion_fails {how : Completion} {c : Copy} (hdata : how ≠ .data) (hwrite : how ≠ .writeFailed)
    (hreads : s.tre.reads = r :: rest) (hcopy : r.copy = true) (hhead : s.tre.copies.head? = some c) :
    trestleCompletion s how code data = endCopy (logEvent (failureLogged s how) (mkEvent stMemory srcTre 2 0 evFault code r.host)) c stMemory (r.host - c.host) := by
  cases how <;> simp [trestleCompletion, failureLogged, hreads, hcopy, hhead, requestFails, logAer] at hdata hwrite ⊢

/-- The link reports that the write last sent has failed. -/
theorem trestleCompletion_writeFailed {w : TWrite} (hw : s.tre.lastWrite = some w) :
    trestleCompletion s .writeFailed code data = writeFails (updTre s fun t => { t with lastWrite := none }) w code := by
  simp [trestleCompletion, hw]

/-- R371: a write that fails ends the copy whose chunk it belongs to. -/
theorem writeFails_copy {w : TWrite} {c : Copy} (hcopy : w.copy = true) (hhead : s.tre.copies.head? = some c)
    (hto : c.toHost = true) (htag : c.cmd.tag = w.id) : writeFails s w code
      = endCopy (logEvent s (mkEvent stMemory srcTre 2 0 evFault code w.host)) c stMemory (w.host - c.host) := by
  simp [writeFails, hcopy, hhead, hto, htag, requestFails]

end

/-- A read's bytes have landed, and the copy may have ended: what the end of a copy leaves as it is. -/
theorem copyRead_lands {s : State} {r : TRead} {rest : List TRead} {data : List Byte} {code : Nat}
    (hreads : s.tre.reads = r :: rest) (hcopy : r.copy = true) (hlast : r.last = false) (hwf : Memory.wf s = true)
    (hidle : planState s = plRunning ∨ DramClean s) (hlen : data.length = r.len)
    (hknown : ∀ sec, partHits r.dev r.len sec = true → s.dram.bad.contains sec = false)
    (hmet : ∀ e ∈ s.dram.flaws, partHits r.dev r.len (e.addr / 32) = true → e.fatal = false) :
    let t := trestleCompletion s .data code data
    (∀ k, k < r.len → some (tabGet 0 t.dram.mem (r.dev + k)) = data[k]?)
      ∧ (∀ x, x < r.dev ∨ r.dev + r.len ≤ x → tabGet 0 t.dram.mem x = tabGet 0 s.dram.mem x)
      ∧ t.tre.fromHostBytes = s.tre.fromHostBytes + BitVec.ofNat 64 r.len
      ∧ t.ks = s.ks ∧ t.sp = s.sp ∧ ((∃ x ∈ rest, x.copy = true) → t.tre.reads = rest) := by
  have hmem : tabWf 0 s.dram.mem = true := by simp only [Memory.wf, Bool.and_eq_true] at hwf; exact hwf.1.1
  have hleft : (putSectors (readTaken s r) r.dev data).2 = [] :=
    putSectors_left_nil (s := readTaken s r)
      (by rw [hlen]; exact hknown) (by rw [hlen]; exact hmet)
  have hget := fun x => tabGet_putSectors (a := r.dev) (data := data) (x := x)
    (s := readTaken s r) hmem
  simp only [hleft, List.contains_nil, and_true] at hget
  have hframe := setDram_putSectors (s := readTaken s r) (a := r.dev)
    (data := data) s.dram
  have hlands := readLands_copy hreads hcopy hidle hleft
  revert hget hframe hlands
  generalize (putSectors (readTaken s r) r.dev data).1 = u
  intro hget hframe hlands t
  have ht : t = readLands s r data := trestleCompletion_data hreads hlen hlast
  have hin : ∀ k, k < r.len → some (tabGet 0 u.dram.mem (r.dev + k)) = data[k]? := fun k hk => by
    rw [hget, if_pos (by omega), Nat.add_sub_cancel_left, List.getElem?_eq_getElem (by omega)]
    rfl
  have hout : ∀ x, x < r.dev ∨ r.dev + r.len ≤ x → tabGet 0 u.dram.mem x = tabGet 0 s.dram.mem x := fun x hx => by
    rw [hget]
    split
    · rw [List.getElem?_eq_none (by omega)]
      rfl
    · rfl
  have htre : u.tre = { s.tre with reads := rest, fromHostBytes := s.tre.fromHostBytes + BitVec.ofNat 64 r.len } := by
    have h := congrArg State.tre hframe
    exact h.trans (by simp [setDram, readTaken, countFrom, hreads])
  have hks : u.ks = s.ks := (congrArg State.ks hframe :)
  have hsp : u.sp = s.sp := (congrArg State.sp hframe :)
  rw [ht]
  rcases hlands with h | ⟨c, hnone, h⟩
  · rw [h, htre]
    exact ⟨hin, hout, rfl, hks, hsp, fun _ => rfl⟩
  · rw [h]
    simp only [endCopy, finishCmd_dram, finishCmd_ks, finishCmd_sp, finishCmd_tre, updTre_dram, updTre_ks, updTre_sp,
      updTre_tre, htre]
    refine ⟨hin, hout, trivial, hks, hsp, fun ⟨x, hx, hxcopy⟩ => ?_⟩
    simp [hnone x hx] at hxcopy

/-- Settles O24: a copy waits in its queue, a direction's chunk goes by the work that waits there, and a completion answers the
oldest read. -/
theorem copiesRunInChunks : Obligations.CopiesRunInChunks := by
  unfold Obligations.CopiesRunInChunks
  refine ⟨fun s tag a c hpay hclash hlen hoff hdev hlen64 hin haddr => ⟨fun h => ?_, fun h => ?_⟩,
    fun s toHost hans => ⟨fun he hc => ?_, fun e he hc => ?_, fun c he hc => ?_, fun e c he hc => ⟨fun hturn => ?_, fun hturn => ?_⟩,
      fun c hhead => settleCopy_of_head hhead, fun c hto he hc hstart hclean => ?_⟩,
    fun s r rest data code hreads hcopy hlast => ⟨fun hwf hidle hlen hknown hmet => ⟨_, rfl, ?_⟩,
      fun how c hdata hwrite hhead => ?_⟩, fun s r rest data code hreads hcopy hlast hlen => ?_, fun s data code hreads => ?_,
    fun s data code => ⟨fun hnone => ?_, fun w c hw hcopy hhead hto htag => ?_⟩⟩
  · exact congrArg Host.Outcome.next (copyCmd_queued h hpay hclash hlen hoff hdev hlen64 hin haddr false)
  · exact congrArg Host.Outcome.next (copyCmd_queued h hpay hclash hlen hoff hdev hlen64 hin haddr true)
  · exact congrArg Host.Outcome.next ((trestleChunk_of_answers hans).trans (by rw [he, hc]; rfl))
  · exact congrArg Host.Outcome.next ((trestleChunk_of_answers hans).trans (by rw [he, hc]; rfl))
  · exact congrArg Host.Outcome.next ((trestleChunk_of_answers hans).trans (by rw [he, hc]; rfl))
  · exact congrArg Host.Outcome.next ((trestleChunk_of_answers hans).trans (by rw [he, hc]; exact if_pos hturn))
  · exact congrArg Host.Outcome.next ((trestleChunk_of_answers hans).trans (by rw [he, hc]; exact if_neg (Nat.not_le.2 hturn)))
  · subst hto
    exact fun hgood => ⟨_, rfl, trestleChunk_toHost hans he hc hstart hclean hgood⟩
  · exact copyRead_lands hreads hcopy hlast hwf hidle hlen hknown hmet
  · refine (congrArg Host.Outcome.next (trestleCompletion_fails hdata hwrite hreads hcopy hhead)).trans ?_
    cases how <;> rfl
  · show Host.Outcome.next (trestleCompletion s .data code data) = _
    simp [trestleCompletion, hreads, hlast, hlen, updTre]
  · show Host.Outcome.next (trestleCompletion s .data code data) = _
    simp [trestleCompletion, hreads]
  · show Host.Outcome.next (trestleCompletion s .writeFailed code data) = _
    simp [trestleCompletion, hnone]
  · exact congrArg Host.Outcome.next ((trestleCompletion_writeFailed hw).trans
      (writeFails_copy (s := updTre s fun t => { t with lastWrite := none }) hcopy hhead hto htag))

end Sys2Proof.Machine

-- ------------------------------------------------------------------------------------------------ march tests, scrubbing, refresh

namespace Sys2Proof.Machine

/-- An entry kept reads as before, one dropped as the default. -/
theorem tabGet_tabKeep_from {α : Type} [DecidableEq α] {d : α} {p : Nat → Bool} {t : Tab α} {lo a : Nat}
    (h : tabWfFrom d lo t = true) : tabGet d (tabKeep p t) a = if p a then tabGet d t a else d := by
  induction t generalizing lo with
  | nil => simp [tabKeep, tabGet]
  | cons e t ih =>
    obtain ⟨k, v⟩ := e
    simp only [tabWfFrom, Bool.and_eq_true, decide_eq_true_eq] at h
    have hlow : a < k → tabGet d (tabKeep p t) a = d := fun hlt => by
      have hkeep := tabKeep_wfFrom (p := p) h.2
      rcases ht : tabKeep p t with _ | ⟨⟨k', v'⟩, t'⟩
      · rfl
      · rw [ht] at hkeep
        simp only [tabWfFrom, Bool.and_eq_true, decide_eq_true_eq] at hkeep
        simp [tabGet, show a < k' by omega, show a ≠ k' by omega]
    cases hp : p k with
    | true =>
      have hcons : tabKeep p ((k, v) :: t) = (k, v) :: tabKeep p t := List.filter_cons_of_pos hp
      rw [hcons, tabGet, tabGet, ih h.2]
      by_cases heq : a = k
      · subst heq
        simp [hp]
      · by_cases hlt : a < k
        · simp [heq, hlt]
        · simp [heq, hlt]
    | false =>
      have hcons : tabKeep p ((k, v) :: t) = tabKeep p t := List.filter_cons_of_neg (by simp [hp])
      rw [hcons, tabGet]
      by_cases heq : a = k
      · rw [ih h.2, heq]
        simp [hp]
      · by_cases hlt : a < k
        · rw [hlow hlt]
          simp [heq, hlt]
        · rw [ih h.2]
          simp [heq, hlt]

theorem tabGet_tabKeep {α : Type} [DecidableEq α] {d : α} {p : Nat → Bool} {t : Tab α} {a : Nat} (h : tabWf d t = true) :
    tabGet d (tabKeep p t) a = if p a then tabGet d t a else d := tabGet_tabKeep_from h

-- -------------------------------------------------------------------------------- records do not look at the spans

/-- R404: the window of an event's triple is closed once it is over. -/
def windowClosed (s : State) (e : Event) : State :=
  match windowOf s e.source e.code e.unit with
  | some w => if windowOver s w then closeWindow s w else s
  | none => s

/-- The window that an event opens, and the one that it enters (R404). -/
def openedWindow (s : State) (e : Event) : Window :=
  { source := e.source, code := e.code, unit := e.unit, opened := s.beat.number, kept := 1, extra := 0, last := e }
def enteredWindow (w : Window) (e : Event) : Window :=
  if w.kept < 16 then { w with kept := w.kept + 1 } else { w with extra := w.extra + 1, last := e }

def addWindow (w : Window) (s : State) : State := updToll s fun t => { t with windows := t.windows ++ [w] }

/-- R404: an event enters the window of its triple, or opens one. -/
def windowEntered (s : State) (e : Event) : State :=
  match windowOf s e.source e.code e.unit with
  | none => keepRecord (addWindow (openedWindow s e) s) e none
  | some w =>
    if w.kept < 16 then keepRecord (addWindow (enteredWindow w e) (dropWindow s w.source w.code w.unit)) e none
    else addWindow (enteredWindow w e) (dropWindow s w.source w.code w.unit)

theorem logEvent_eq (s : State) (e : Event) : logEvent s e
    = if !tollRuns s then s else if e.severity = 3 then keepRecord s e none else windowEntered (windowClosed s e) e := rfl

section
variable (s : State) (f : Spans → Spans)

theorem raiseIrq_updSp (n : Nat) : raiseIrq (updSp s f) n = updSp (raiseIrq s n) f := by
  unfold raiseIrq
  dsimp only [updSp_host]
  split
  · rfl
  · split <;> rfl

theorem keepRecord_updSp (e : Event) (ended : Option W64) : keepRecord (updSp s f) e ended = updSp (keepRecord s e ended) f := by
  have h : ∀ (c : Bool) (t : Toll) (l : List W32),
      (if c then updPw { updSp s f with toll := t } fun p => { p with uart := l } else { updSp s f with toll := t })
        = updSp (if c then updPw { s with toll := t } fun p => { p with uart := l } else { s with toll := t }) f := by
    intro c t l
    cases c <;> rfl
  unfold keepRecord
  dsimp only [updSp_toll, updSp_beat]
  exact h _ _ _

theorem closeWindow_updSp (w : Window) : closeWindow (updSp s f) w = updSp (closeWindow s w) f := by
  unfold closeWindow
  split
  · rfl
  · exact keepRecord_updSp (dropWindow s w.source w.code w.unit) f ..

theorem windowClosed_updSp (e : Event) : windowClosed (updSp s f) e = updSp (windowClosed s e) f := by
  have hwindow : windowOf (updSp s f) e.source e.code e.unit = windowOf s e.source e.code e.unit := rfl
  have hover : ∀ w, windowOver (updSp s f) w = windowOver s w := fun _ => rfl
  unfold windowClosed
  rw [hwindow]
  cases windowOf s e.source e.code e.unit with
  | none => rfl
  | some w =>
    simp only [hover, closeWindow_updSp]
    split <;> rfl

theorem addWindow_updSp (w : Window) : addWindow w (updSp s f) = updSp (addWindow w s) f := rfl

theorem dropWindow_updSp (source code unit : Nat) : dropWindow (updSp s f) source code unit = updSp (dropWindow s source code unit) f :=
  rfl

theorem windowEntered_updSp (e : Event) : windowEntered (updSp s f) e = updSp (windowEntered s e) f := by
  have hwindow : windowOf (updSp s f) e.source e.code e.unit = windowOf s e.source e.code e.unit := rfl
  have hopened : openedWindow (updSp s f) e = openedWindow s e := rfl
  unfold windowEntered
  rw [hwindow, hopened]
  split
  · rw [addWindow_updSp, keepRecord_updSp]
  · rw [dropWindow_updSp, addWindow_updSp, keepRecord_updSp]
    exact (apply_ite (fun s => updSp s f) _ _ _).symm

theorem logEvent_updSp (e : Event) : logEvent (updSp s f) e = updSp (logEvent s e) f := by
  have hruns : tollRuns (updSp s f) = tollRuns s := rfl
  rw [logEvent_eq, logEvent_eq, hruns, keepRecord_updSp, windowClosed_updSp, windowEntered_updSp]
  split
  · rfl
  · split <;> rfl

theorem updHost_updSp (g : HostIf → HostIf) : updHost (updSp s f) g = updSp (updHost s g) f := rfl

theorem setErr_updSp (bit : Nat) : setErr (updSp s f) bit = updSp (setErr s bit) f := by
  unfold setErr
  rw [updHost_updSp, raiseIrq_updSp]

theorem sendPcie_updSp (o : PcieOut) : sendPcie (updSp s f) o = updSp (sendPcie s o) f := rfl

theorem freeTag_updSp (c : Taken) : freeTag (updSp s f) c = updSp (freeTag s c) f := rfl

theorem putRecord_updSp (tag cmd st : Nat) (rs : List Nat) :
    putRecord (updSp s f) tag cmd st rs = updSp (putRecord s tag cmd st rs) f := by
  unfold putRecord
  dsimp only [updSp_host]
  rw [logEvent_updSp, setErr_updSp]
  refine Eq.symm ((apply_ite (fun s => updSp s f) _ _ _).trans ?_)
  rfl

theorem countRecord_updSp (prio : Nat) : countRecord (updSp s f) prio = updSp (countRecord s prio) f := by
  unfold countRecord
  dsimp only [updSp_host]
  rw [updHost_updSp, updHost_updSp, raiseIrq_updSp]
  exact (apply_ite (fun s => updSp s f) _ _ _).symm

/-- A final record neither reads nor writes what the spans hold. -/
theorem finishCmd_updSp (c : Taken) (st : Nat) (rs : List Nat) : finishCmd (updSp s f) c st rs = updSp (finishCmd s c st rs) f := by
  unfold finishCmd
  dsimp only [updSp_host]
  rw [setErr_updSp, freeTag_updSp, putRecord_updSp, updHost_updSp, freeTag_updSp, countRecord_updSp]
  exact (apply_ite (fun s => updSp s f) _ _ _).symm

end

-- -------------------------------------------------------------------------------- MARCH_TEST

section
variable {s : State} {tag : Nat} {c : Taken} {cells : List Cell}

/-- R125, R129: a test that the plan state lets start. -/
theorem marchTest_starts (h : Served s cmdMarchTest tag c) (hpay : payClean c [(4, 1), (5, 1), (6, 2), (8, 1)] = true)
    (hflags : payAt c 8 1 ≤ 1) (hready : notReady s.host = false)
    (hst : planState s = plNone ∨ mtMode c = 1 ∧ (planState s = plLoaded ∨ planState s = plPaused)) (htarget : mtTarget c ≤ 3)
    (hmode : mtMode c ≤ 1) (hindex : mtIndex c < mtLimit c) (hnone : s.ks.marchTag = none) :
    marchTest s tag = updKs (acceptCmd s c) fun k => { k with marchTag := some c } := by
  have hok : (if mtMode c = 0 then planState s == plNone
      else planState s == plNone || planState s == plLoaded || planState s == plPaused) = true := by
    rcases hst with hst | ⟨hone, hst | hst⟩ <;> simp [*]
  rw [marchTest, serve_of_served h]
  simp only [hpay, hready, hok]
  simp [Nat.not_lt.2 hflags, Nat.not_lt.2 htarget, Nat.not_lt.2 hmode, Nat.not_le.2 hindex, hnone]

/-- The failing cells known once a test has found some. -/
def cellsKnown (s : State) (l : List Cell) : List Cell := s.sp.defects ++ l.filter fun x => !s.sp.defects.contains x

theorem noteCells_eq (s : State) (l : List Cell) : noteCells s l = updSp s fun p => { p with defects := cellsKnown s l } := by
  cases l with
  | nil => simp [noteCells, cellsKnown, updSp]
  | cons x l => rfl

/-- What a march test writes to the spans: cleared memory, or VALID of the banks where it met an uncorrectable word. -/
def marched (s : State) (c : Taken) : State := if mtMode c = 0 then marchDestroys s c else marchPreserves s c

/-- A march test writes to the spans alone. -/
theorem marchPreserves_eq (s : State) (c : Taken) :
    ∃ tags, marchPreserves s c = updSp s fun p => { p with tags := tags } := by
  refine List.foldlRecOn (motive := fun t => ∃ tags, t = updSp s fun p => { p with tags := tags }) _ _ ⟨s.sp.tags, rfl⟩ ?_
  rintro _ ⟨tags, rfl⟩ x -
  split
  · split
    · split
      · exact ⟨_, rfl⟩
      · exact ⟨_, rfl⟩
    · exact ⟨_, rfl⟩
  · exact ⟨_, rfl⟩

theorem marched_eq (s : State) (c : Taken) : ∃ f : Spans → Spans, marched s c = updSp s f := by
  unfold marched
  split
  · exact ⟨fun _ => (marchDestroys s c).sp, rfl⟩
  · obtain ⟨tags, h⟩ := marchPreserves_eq s c
    exact ⟨_, h⟩

theorem marched_retired (s : State) (c : Taken) : (marched s c).sp.retired = s.sp.retired := by
  unfold marched
  split
  · rfl
  · obtain ⟨tags, h⟩ := marchPreserves_eq s c
    rw [h]
    rfl

/-- The state with no test under way and the cells found noted. -/
def marchNoted (s : State) (c : Taken) (cells : List Cell) : State :=
  noteCells (updKs s fun k => { k with marchTag := none }) (cells.filter fun x => mtSram s c x.sram)

/-- R125: a test without REPAIR ends. -/
theorem marchTestEnd_eq (htag : s.ks.marchTag = some c) (hrepair : mtRepair c = false) :
    marchTestEnd s cells = updKs (finishCmd (marched (marchNoted s c cells) c) c stOk
        [(failingCells (marchNoted s c cells) (mtSram s c)).length, 0, 0])
      fun k => { k with marchTag := nextLong (finishCmd (marched (marchNoted s c cells) c) c stOk
        [(failingCells (marchNoted s c cells) (mtSram s c)).length, 0, 0]) (· == cmdMarchTest) } := by
  have hend : marchTestEnd s cells = updKs (finishCmd (marched (marchNoted s c cells) c) c stOk
        [(failingCells (marchNoted s c cells) (mtSram s c)).length,
          repairsMade (marched (marchNoted s c cells) c).toll - repairsMade (marchNoted s c cells).toll,
          (marched (marchNoted s c cells) c).sp.retired.length - (marchNoted s c cells).sp.retired.length])
      fun k => { k with marchTag := nextLong (finishCmd (marched (marchNoted s c cells) c) c stOk
        [(failingCells (marchNoted s c cells) (mtSram s c)).length,
          repairsMade (marched (marchNoted s c cells) c).toll - repairsMade (marchNoted s c cells).toll,
          (marched (marchNoted s c cells) c).sp.retired.length - (marchNoted s c cells).sp.retired.length]) (· == cmdMarchTest) } := by
    simp only [marchTestEnd, htag, hrepair]
    rfl
  obtain ⟨f, hf⟩ := marched_eq (marchNoted s c cells) c
  have htoll : (marched (marchNoted s c cells) c).toll = (marchNoted s c cells).toll := by rw [hf]; rfl
  rw [hend, htoll, marched_retired, Nat.sub_self, Nat.sub_self]

end

/-- What a march test leaves in the spans, by its mode (R125, Table 5-8). -/
theorem marched_sp (s : State) (c : Taken) (cells : List Cell) (hwf : Memory.wf s = true) :
    (mtMode c = 0 →
      (∀ k, tabGet 0 (marched (marchNoted s c cells) c).sp.banks k
        = if mtSpan c (k / bankSize / 4) then 0 else tabGet 0 s.sp.banks k)
      ∧ (∀ k, tabGet 0 (marched (marchNoted s c cells) c).sp.accs k
        = if mtSpan c (k / 0x80000) then 0 else tabGet 0 s.sp.accs k)
      ∧ (∀ e ∈ s.sp.tags, e ∈ (marched (marchNoted s c cells) c).sp.tags ↔ mtSpan c (e.1 / 4) = false)
      ∧ (∀ e ∈ (marched (marchNoted s c cells) c).sp.tags, e ∈ s.sp.tags)
      ∧ (marched (marchNoted s c cells) c).sp.cache = s.sp.cache.filter fun l => !mtSlice c l.slice)
    ∧ (mtMode c ≠ 0 → (marched (marchNoted s c cells) c).sp.banks = s.sp.banks
      ∧ (marched (marchNoted s c cells) c).sp.accs = s.sp.accs ∧ (marched (marchNoted s c cells) c).sp.cache = s.sp.cache
      ∧ (marched (marchNoted s c cells) c).sp.defects = cellsKnown s (cells.filter fun x => mtSram s c x.sram)) := by
  have hnoted : (marchNoted s c cells).sp = { s.sp with defects := cellsKnown s (cells.filter fun x => mtSram s c x.sram) } := by
    rw [marchNoted, noteCells_eq]
    rfl
  simp only [Memory.wf, Bool.and_eq_true] at hwf
  obtain ⟨⟨-, hbanks⟩, haccs⟩ := hwf
  refine ⟨fun hmode => ?_, fun hmode => ?_⟩
  · have hsp : (marched (marchNoted s c cells) c).sp = (marchDestroys (marchNoted s c cells) c).sp := by rw [marched, if_pos hmode]
    rw [hsp]
    simp only [marchDestroys, marchSpans, clearTags, updSp_sp, hnoted]
    refine ⟨fun k => ?_, fun k => ?_, fun e he => ?_, fun e he => (List.mem_filter.1 he).1, trivial⟩
    · rw [tabGet_tabKeep hbanks]
      cases mtSpan c (k / bankSize / 4) <;> rfl
    · rw [tabGet_tabKeep haccs]
      cases mtSpan c (k / 0x80000) <;> rfl
    · simp [tabKeep, he]
  · obtain ⟨tags, htags⟩ := marchPreserves_eq (marchNoted s c cells) c
    have hsp : (marched (marchNoted s c cells) c).sp = { (marchNoted s c cells).sp with tags := tags } := by
      rw [marched, if_neg hmode, htags]
      rfl
    rw [hsp, hnoted]
    exact ⟨rfl, rfl, rfl, rfl⟩

/-- R125: what the end of a march test without REPAIR leaves outside the spans. -/
theorem marchTestEnd_frame {s : State} {c : Taken} (cells : List Cell) (htag : s.ks.marchTag = some c) (hrepair : mtRepair c = false) :
    let u := finishCmd (updKs s fun k => { k with marchTag := none }) c stOk
      [((cellsKnown s (cells.filter fun x => mtSram s c x.sram)).filter fun x => mtSram s c x.sram && cellFails s.toll x).length, 0, 0]
    let t := marchTestEnd s cells
    t.host = u.host ∧ t.ks = { s.ks with marchTag := nextLong u (· == cmdMarchTest) } ∧ t.dram = s.dram ∧ t.toll = u.toll
      ∧ t.sp = (marched (marchNoted s c cells) c).sp := by
  obtain ⟨f, hf⟩ := marched_eq (marchNoted s c cells) c
  have hcells : failingCells (marchNoted s c cells) (mtSram s c)
      = (cellsKnown s (cells.filter fun x => mtSram s c x.sram)).filter fun x => mtSram s c x.sram && cellFails s.toll x := by
    rw [failingCells, marchNoted, noteCells_eq]
    rfl
  intro u t
  have hnoted : marched (marchNoted s c cells) c
      = updSp (updKs s fun k => { k with marchTag := none }) fun _ => (marched (marchNoted s c cells) c).sp := by
    rw [hf, marchNoted, noteCells_eq]
    rfl
  have ht : t = updKs (updSp u fun _ => (marched (marchNoted s c cells) c).sp) fun k =>
      { k with marchTag := nextLong u (· == cmdMarchTest) } := by
    show marchTestEnd s cells = _
    rw [marchTestEnd_eq htag hrepair, hcells, hnoted, finishCmd_updSp]
    rfl
  rw [ht]
  exact ⟨rfl, by simp [u], by simp [u], rfl, rfl⟩

-- -------------------------------------------------------------------------------- scrubbing

section
variable {s : State} {here : Nat → Bool} {ecc : List SectorErr} {again : Bool}

/-- Scrubbing of a clean device finds nothing. -/
theorem scrubSectors_of_clean (hclean : DramClean s) (hbad : s.dram.bad = []) : scrubSectors s here [] again = s := by
  have hflaws : s.dram.flaws = [] := hclean.1
  have h : scrubSectors s here [] again = settleIdle s := by simp [scrubSectors, hflaws, hbad]
  rw [h, settleIdle_of_clean hclean]

/-- One error that scrubbing finds (R317). -/
def scrubFound (s : State) (e : SectorErr) : State :=
  if e.fatal then
    logEvent (updDram (markBad s e.addr) fun d => { d with scrubBad := insertNat (e.addr / 32) d.scrubBad })
      (mkEvent stMemory srcDram 2 (channelOf e.addr) evFault 0 e.addr)
  else updDram (markCorrected s e) fun d => { d with flaws := d.flaws.filter (· != e) }

/-- One sector known that scrubbing meets again. -/
def scrubKnown (again : Bool) (s : State) (sec : Nat) : State :=
  logEvent (updDram (if again then updDram s fun d => { d with scrubRes := (d.scrubRes.1, d.scrubRes.2.1 + 1, d.scrubRes.2.2) } else s)
    fun d => { d with scrubBad := insertNat sec d.scrubBad }) (mkEvent stMemory srcDram 2 (channelOf (32 * sec)) evFault 0 (32 * sec))

/-- What scrubbing finds, in two lists: new errors and sectors known. -/
theorem scrubSectors_eq : scrubSectors s here ecc again
    = settleIdle ((s.dram.bad.filter fun sec => here (32 * sec)).foldl (scrubKnown again)
        ((s.dram.flaws.filter (fun e => here e.addr)
          ++ ecc.filter fun e => here e.addr && !s.dram.bad.contains (e.addr / 32)).foldl scrubFound s)) := rfl

theorem markCorrected_mem (s : State) (e : SectorErr) : (markCorrected s e).dram.mem = s.dram.mem ∧ (markCorrected s e).dram.bad = s.dram.bad
    ∧ (markCorrected s e).dram.scrubPos = s.dram.scrubPos :=
  ⟨ite_keeps (g := (·.dram.mem)) rfl rfl, ite_keeps (g := (·.dram.bad)) rfl rfl, ite_keeps (g := (·.dram.scrubPos)) rfl rfl⟩

/-- Scrubbing while a plan runs keeps every byte. -/
def ScrubKeeps (s t : State) : Prop :=
  t.dram.mem = s.dram.mem ∧ t.dram.scrubPos = s.dram.scrubPos ∧ t.ks = s.ks ∧ t.sp = s.sp ∧ t.host = s.host
    ∧ ∀ x ∈ s.dram.bad, x ∈ t.dram.bad

theorem ScrubKeeps.refl (s : State) : ScrubKeeps s s := ⟨rfl, rfl, rfl, rfl, rfl, fun _ h => h⟩

theorem ScrubKeeps.trans {s t u : State} (h : ScrubKeeps s t) (h' : ScrubKeeps t u) : ScrubKeeps s u := by
  obtain ⟨hmem, hpos, hks, hsp, hhost, hbad⟩ := h
  obtain ⟨hmem', hpos', hks', hsp', hhost', hbad'⟩ := h'
  exact ⟨hmem'.trans hmem, hpos'.trans hpos, hks'.trans hks, hsp'.trans hsp, hhost'.trans hhost, fun x hx => hbad' x (hbad x hx)⟩

theorem scrubFound_keeps (s : State) (e : SectorErr) : ScrubKeeps s (scrubFound s e) := by
  unfold scrubFound
  split
  · simp only [ScrubKeeps, logEvent_dram, logEvent_ks, logEvent_sp, logEvent_host]
    exact ⟨rfl, rfl, rfl, rfl, rfl, fun x hx => mem_insertNat.2 (.inr hx)⟩
  · obtain ⟨hmem, hbad, hpos⟩ := markCorrected_mem s e
    exact ⟨hmem, hpos, by simp, by simp, by simp, fun x hx => by simpa [hbad] using hx⟩

theorem scrubFound_bad (s : State) {e : SectorErr} (hfatal : e.fatal = true) : e.addr / 32 ∈ (scrubFound s e).dram.bad := by
  rw [scrubFound, if_pos hfatal, logEvent_dram]
  exact mem_insertNat.2 (.inl rfl)

theorem scrubKnown_keeps (again : Bool) (s : State) (sec : Nat) : ScrubKeeps s (scrubKnown again s sec) := by
  unfold scrubKnown
  simp only [ScrubKeeps, logEvent_dram, logEvent_ks, logEvent_sp, logEvent_host]
  cases again <;> exact ⟨rfl, rfl, rfl, rfl, rfl, fun x hx => hx⟩

theorem scrubKeeps_foldl {α : Type} {f : State → α → State} (hf : ∀ s a, ScrubKeeps s (f s a)) (l : List α) (s : State) :
    ScrubKeeps s (l.foldl f s) := by
  induction l generalizing s with
  | nil => exact .refl s
  | cons a l ih => exact (hf s a).trans (ih _)

theorem scrubFound_bad_foldl {l : List SectorErr} {e : SectorErr} (he : e ∈ l) (hfatal : e.fatal = true) (s : State) :
    e.addr / 32 ∈ (l.foldl scrubFound s).dram.bad := by
  induction l generalizing s with
  | nil => cases he
  | cons a l ih =>
    rcases List.mem_cons.1 he with rfl | hin
    · obtain ⟨-, -, -, -, -, hbad⟩ := scrubKeeps_foldl scrubFound_keeps l (scrubFound s e)
      exact hbad _ (scrubFound_bad s hfatal)
    · exact ih hin _

/-- R317, R312: scrubbing while a plan runs leaves what it finds in place. -/
theorem scrubSectors_of_running (hrun : planState s = plRunning) :
    ScrubKeeps s (scrubSectors s here ecc again)
      ∧ ∀ e ∈ ecc, e.fatal = true → here e.addr = true → e.addr / 32 ∈ (scrubSectors s here ecc again).dram.bad := by
  have hfound := scrubKeeps_foldl scrubFound_keeps (s.dram.flaws.filter (fun e => here e.addr)
    ++ ecc.filter fun e => here e.addr && !s.dram.bad.contains (e.addr / 32)) s
  have hknown := scrubKeeps_foldl (scrubKnown_keeps again) (s.dram.bad.filter fun sec => here (32 * sec))
    ((s.dram.flaws.filter (fun e => here e.addr)
      ++ ecc.filter fun e => here e.addr && !s.dram.bad.contains (e.addr / 32)).foldl scrubFound s)
  have hall := hfound.trans hknown
  have hstate := congrArg planStateOf hall.2.2.2.2.1
  rw [scrubSectors_eq, settleIdle_of_running (hstate.trans hrun)]
  refine ⟨hall, fun e he hfatal hhere => ?_⟩
  obtain ⟨-, -, -, -, -, hkeep⟩ := hall
  obtain ⟨-, -, -, -, -, hkeep'⟩ := hknown
  by_cases hold : e.addr / 32 ∈ s.dram.bad
  · exact hkeep _ hold
  · refine hkeep' _ (scrubFound_bad_foldl (List.mem_append_right _ (List.mem_filter.2 ⟨he, ?_⟩)) hfatal s)
    simp [hhere, hold]

end

section
variable {s : State} {tag : Nat} {c : Taken} {ecc : List SectorErr}

/-- R317, R319: MEMORY_SCRUB with a range within DRAM, or with none. -/
theorem memoryScrub_checked (h : Served s cmdMemoryScrub tag c) (hpay : payClean c [(4, 1), (8, 8), (0x10, 8)] = true)
    (hmode : payAt c 4 1 ≤ 2)
    (hrange : payAt c 4 1 = 0 → payAt c 8 8 % mib = 0 ∧ payAt c 0x10 8 % mib = 0 ∧ payAt c 8 8 + payAt c 0x10 8 ≤ reservedStart) :
    memoryScrub s tag ecc =
      let t := if payAt c 4 1 = 0 then scrubRange (clearScrub (acceptCmd s c)) (payAt c 8 8) (payAt c 0x10 8) ecc
        else updDram (acceptCmd s c) fun d => { d with scrubOn := payAt c 4 1 == 1 }
      finishCmd (clearScrub t) c stOk [t.dram.scrubRes.1, t.dram.scrubRes.2.1, t.dram.scrubRes.2.2] := by
  have hbad : (payAt c 4 1 == 0 && (payAt c 8 8 % mib != 0 || payAt c 0x10 8 % mib != 0
      || decide (reservedStart < payAt c 8 8 + payAt c 0x10 8))) = false := by
    by_cases hzero : payAt c 4 1 = 0
    · obtain ⟨ha, hn, hin⟩ := hrange hzero
      simp [ha, hn, Nat.not_lt.2 hin]
    · simp [hzero]
  rw [memoryScrub, serve_of_served h]
  simp only [hpay, hbad]
  obtain hm | hm | hm : payAt c 4 1 = 0 ∨ payAt c 4 1 = 1 ∨ payAt c 4 1 = 2 := by omega
  all_goals simp [hm]

theorem not_mem_inUse_finishCmd (s : State) (c : Taken) (st : Nat) (rs : List Nat) : c.tag ∉ (finishCmd s c st rs).host.inUse := by
  rw [finishCmd_inUse]
  simp

end

/-- R318: a scrub read of a device whose DRAM is up. -/
theorem backgroundScrub_eq {s : State} {ch : Nat} {ecc : List SectorErr} (hrails : s.pw.rails = true) (hself : s.dram.selfRef = false)
    (hon : s.dram.scrubOn = true) (hch : ch < 1024) : backgroundScrub s ch ecc
      = updDram (scrubSectors s (fun a => channelOf a == ch && channelAddr a / 1024 == tabGet 0 s.dram.scrubPos ch) ecc false) fun d =>
          { d with scrubPos := tabSet 0 d.scrubPos ch ((tabGet 0 s.dram.scrubPos ch + 1) % scrubPieces) } := by
  simp [backgroundScrub, dramUp, hrails, hself, hon, Nat.not_le.2 hch]

/-- Settles O25: a march test writes to the spans alone, and scrubbing while a plan runs keeps what it finds in place. -/
theorem marchTestsAndDramUpkeep : Obligations.MarchTestsAndDramUpkeep := by
  unfold Obligations.MarchTestsAndDramUpkeep
  refine ⟨⟨fun s tag c h hpay hflags hready hst htarget hmode hindex hnone =>
      congrArg Host.Outcome.next (marchTest_starts h hpay hflags hready hst htarget hmode hindex hnone),
    fun s c banks accs others htag hrepair hwf => ⟨_, rfl, ?_⟩⟩, fun s tag m c ecc h hpay hm hmode => ⟨_, rfl, ?_⟩,
    fun s tag c ecc h hpay hzero ha hn hin => ⟨fun hbad hclean hecc => ?_, fun hrun => ⟨_, rfl, ?_⟩⟩,
    fun s ch ecc hrails hself hon hch => ⟨fun hbad hclean hecc => ?_, fun hrun => ⟨_, rfl, ?_⟩⟩,
    fun s ch bank hrails hself hch hbank => ?_⟩
  · obtain ⟨hhost, hks, hdram, htoll, hsp⟩ := marchTestEnd_frame (banks ++ accs ++ others) htag hrepair
    refine ⟨hhost, hks, hdram, htoll, ?_⟩
    rw [hsp]
    exact marched_sp s c (banks ++ accs ++ others) hwf
  · have hne : payAt c 4 1 ≠ 0 := by omega
    rw [memoryScrub_checked h hpay (by omega) fun hzero => absurd hzero hne, if_neg hne]
    refine ⟨by simp [clearScrub, hm], by simp [clearScrub], not_mem_inUse_finishCmd _ _ _ _⟩
  · subst hecc
    show Host.Outcome.next (memoryScrub s tag []) = _
    have hclean' : DramClean (clearScrub (acceptCmd s c)) := by simpa [DramClean, clearScrub] using hclean
    rw [memoryScrub_checked h hpay (by omega) fun _ => ⟨ha, hn, hin⟩, if_pos hzero, scrubRange,
      scrubSectors_of_clean hclean' (by simpa [clearScrub] using hbad)]
    rfl
  · have hrun' : planState (clearScrub (acceptCmd s c)) = plRunning := (planState_acceptCmd s c).trans hrun
    obtain ⟨⟨hmem, -, hks, hsp, -, -⟩, hfound⟩ := scrubSectors_of_running (s := clearScrub (acceptCmd s c)) (ecc := ecc) (again := true)
      (here := fun x => decide (payAt c 8 8 ≤ x) && decide (x < payAt c 8 8 + payAt c 0x10 8)) hrun'
    rw [memoryScrub_checked h hpay (by omega) fun _ => ⟨ha, hn, hin⟩, if_pos hzero, scrubRange]
    simp only [finishCmd_dram, finishCmd_ks, finishCmd_sp]
    refine ⟨hmem.trans (by simp [clearScrub]), hks.trans (by simp [clearScrub]), hsp.trans (by simp [clearScrub]),
      not_mem_inUse_finishCmd _ _ _ _, fun e he hfatal hlo hhi => ?_⟩
    exact List.contains_iff_mem.2 (hfound e he hfatal (by simp [hlo, hhi]))
  · subst hecc
    show Host.Outcome.next (backgroundScrub s ch []) = _
    rw [backgroundScrub_eq hrails hself hon hch, scrubSectors_of_clean hclean hbad]
    rfl
  · obtain ⟨⟨hmem, hpos, hks, hsp, -, -⟩, hfound⟩ := scrubSectors_of_running (s := s) (ecc := ecc) (again := false)
      (here := fun a => channelOf a == ch && channelAddr a / 1024 == tabGet 0 s.dram.scrubPos ch) hrun
    rw [backgroundScrub_eq hrails hself hon hch]
    refine ⟨hmem, hks, hsp, ?_, fun e he hfatal hchan hpos => ?_⟩
    · simp only [updDram_dram, hpos]
    · exact List.contains_iff_mem.2 (hfound e he hfatal (by simp [hchan, hpos]))
  · show Host.Outcome.next (dramRefresh s ch bank) = _
    simp [dramRefresh, dramUp, hrails, hself, Nat.not_le.2 hch, Nat.not_le.2 hbank, updDram, tabUpd]

end Sys2Proof.Machine

-- ------------------------------------------------------------------------------------------------ issue and start

namespace Sys2Proof.Machine

section
variable {s : State} {p : Plan} {d : Desc} {i : Issued} {x seq : Nat}

/-- What is counted of a beat touches neither the Keystone nor memory. -/
@[simp] theorem noteActivity_ks (s : State) : (noteActivity s).ks = s.ks := rfl
@[simp] theorem noteActivity_dram (s : State) : (noteActivity s).dram = s.dram := rfl
@[simp] theorem noteActivity_via (s : State) : (noteActivity s).via = s.via := rfl
@[simp] theorem noteActivity_host (s : State) : (noteActivity s).host = s.host := rfl

theorem noteActivity_sp (s : State) : { (noteActivity s).sp with seen := s.sp.seen } = s.sp := rfl

/-- A full queue holds a descriptor back (R50). -/
theorem descriptorIssue_full (hplan : s.ks.plan = some p) (hdesc : descAt p s.ks.nextSeq = some d)
    (hfull : ∃ x ∈ targets d, 8 ≤ (tabGet [] s.ks.queues x).length) : descriptorIssue s = s := by
  have hany : (targets d).any (fun x => decide (8 ≤ (tabGet [] s.ks.queues x).length)) = true := by
    obtain ⟨x, hx, hlen⟩ := hfull
    exact List.any_eq_true.2 ⟨x, hx, decide_eq_true hlen⟩
  simp [descriptorIssue, hplan, hdesc, hany]

/-- The issue record of a descriptor that has just been issued. -/
def freshIssue (s : State) (d : Desc) : Issued :=
  { seq := s.ks.nextSeq, order := s.ks.issueOrder, waiting := if (targets d).isEmpty then [ksUnit] else targets d, running := []
    passesRun := [], handed := [], status := 0, detail := (0, 0) }

/-- A descriptor has entered the queues of its targets (R50). -/
def issuedNext (s : State) (p : Plan) (d : Desc) : State :=
  updKs s fun k => { k with
    nextSeq := s.ks.nextSeq + 1
    issueOrder := if s.ks.nextSeq < lastSeq p then
        (if phaseIndex p (s.ks.nextSeq + 1) = phaseIndex p s.ks.nextSeq then s.ks.issueOrder else s.ks.issueOrder + 1)
      else k.issueOrder
    issued := k.issued ++ [freshIssue s d]
    queues := (targets d).foldl (fun t x => tabUpd [] t x (· ++ [s.ks.nextSeq])) k.queues }

/-- R50: the window is open and every queue has room. -/
theorem descriptorIssue_room (hplan : s.ks.plan = some p) (hdesc : descAt p s.ks.nextSeq = some d)
    (hrun : planState s = plRunning) (hheld : held s = false) (hshadow : s.ks.shadowed = true)
    (horder : s.ks.issueOrder ≤ s.ks.order) (hopen : windowOpen s p d = true)
    (hroom : ∀ x ∈ targets d, (tabGet [] s.ks.queues x).length < 8) (hmap : s.ks.updMap = []) (hlost : s.ks.accLost = false) :
    descriptorIssue s = noteActivity (issuedNext s p d) := by
  have hrun' : isRunning s = true := by simp [isRunning, hrun]
  have hany : (targets d).any (fun x => decide (8 ≤ (tabGet [] s.ks.queues x).length)) = false := by
    refine List.any_eq_false.2 fun x hx => ?_
    have := hroom x hx
    simp only [decide_eq_true_eq]
    omega
  have horder' : decide (s.ks.order < s.ks.issueOrder) = false := decide_eq_false (Nat.not_lt.2 horder)
  unfold descriptorIssue
  simp only [hplan, hdesc, hrun', hheld, hshadow, horder', hopen, hany, hlost, hmap]
  simp [issuedNext, freshIssue, updKs]

-- -------------------------------------------------------------------------------- start

/-- R50, R53: the head of a span's queue, by its dependencies. -/
theorem descriptorStart_span (hplan : s.ks.plan = some p) (hhead : (tabGet [] s.ks.queues x).head? = some seq)
    (hdesc : descAt p seq = some d) (hissued : issuedOf s seq = some i) :
    descriptorStart s (some x) = if mayStart s p d i && runBoundary s p d x then
      startOn (updKs s fun k => { k with queues := tabUpd [] k.queues x (·.drop 1) }) p d x else s := by
  simp only [descriptorStart, hplan, hhead, hdesc, hissued]

@[simp] theorem clearLane_ks (s : State) (u : Nat) : (clearLane s u).ks = s.ks := ite_keeps (g := State.ks) rfl rfl
@[simp] theorem clearLane_dram (s : State) (u : Nat) : (clearLane s u).dram = s.dram := ite_keeps (g := State.dram) rfl rfl
@[simp] theorem clearLane_via (s : State) (u : Nat) : (clearLane s u).via = s.via := ite_keeps (g := State.via) rfl rfl

/-- A unit's entry in an issue record once it has started the descriptor. -/
def startedOn (u : Nat) (i : Issued) : Issued := { i with waiting := i.waiting.filter (· != u), running := i.running ++ [u] }

/-- R53: with other units still to start a descriptor, its transfers wait. -/
theorem startOn_waits (hseq : d.seq = seq) (hissued : issuedOf s seq = some i) (hwait : ∃ y ∈ i.waiting, y ≠ x) :
    startOn s p d x = noteActivity (updIssued (updKs (clearLane s x) fun k =>
      { k with reach := furthest k.reach (k.stepIndex, seq) }) seq (startedOn x)) := by
  subst hseq
  have hlook : issuedOf (updIssued (updKs (clearLane s x) fun k => { k with reach := furthest k.reach (k.stepIndex, d.seq) })
      d.seq (startedOn x)) d.seq = some (startedOn x i) := by
    rw [issuedOf_updIssued_same (f := startedOn x) fun _ => rfl]
    have hsame : issuedOf (updKs (clearLane s x) fun k => { k with reach := furthest k.reach (k.stepIndex, d.seq) }) d.seq
        = issuedOf s d.seq := by simp [issuedOf]
    rw [hsame, hissued]
    rfl
  have hne : (startedOn x i).waiting.isEmpty = false := by
    obtain ⟨y, hy, hyx⟩ := hwait
    exact List.isEmpty_eq_false_iff_exists_mem.2 ⟨y, List.mem_filter.2 ⟨hy, by simpa using hyx⟩⟩
  have hstart : startOn s p d x = match issuedOf (updIssued (updKs (clearLane s x) fun k =>
        { k with reach := furthest k.reach (k.stepIndex, d.seq) }) d.seq (startedOn x)) d.seq with
      | none => updIssued (updKs (clearLane s x) fun k =>
          { k with reach := furthest k.reach (k.stepIndex, d.seq) }) d.seq (startedOn x)
      | some i => noteActivity (if i.waiting.isEmpty then startTrestle (startXfers (updIssued (updKs (clearLane s x) fun k =>
          { k with reach := furthest k.reach (k.stepIndex, d.seq) }) d.seq (startedOn x)) p d.seq) p d
          else updIssued (updKs (clearLane s x) fun k =>
            { k with reach := furthest k.reach (k.stepIndex, d.seq) }) d.seq (startedOn x)) := rfl
  rw [hstart, hlook]
  simp [hne]

end

/-- Settles O30: issue goes by the room in the queues, a start by the dependencies of the queue's head. -/
theorem descriptorsIssueAndStart : Obligations.DescriptorsIssueAndStart := by
  unfold Obligations.DescriptorsIssueAndStart
  refine ⟨fun s p d hplan hdesc => ⟨fun hfull => congrArg Host.Outcome.next (descriptorIssue_full hplan hdesc hfull),
      fun hrun hheld hshadow horder hopen hroom hmap hlost =>
        ⟨_, freshIssue s d, congrArg Host.Outcome.next
          (descriptorIssue_room hplan hdesc hrun hheld hshadow horder hopen hroom hmap hlost), ?_⟩⟩,
    fun s p d i hplan => ⟨fun x seq hhead hdesc hissued => ⟨fun hmay => ?_, fun hmay hrun hseq hwait => ⟨_, rfl, ?_⟩,
      fun hmay hrun => ?_⟩, fun hissued hwait hdesc hmay => ?_⟩⟩
  · refine ⟨rfl, rfl, rfl, rfl, rfl, rfl, rfl, rfl, ?_, rfl, rfl, rfl⟩
    simp [freshIssue]
  · exact congrArg Host.Outcome.next ((descriptorStart_span hplan hhead hdesc hissued).trans (by rw [hmay]; rfl))
  · rw [descriptorStart_span hplan hhead hdesc hissued, hmay, hrun, if_pos (by rfl),
      startOn_waits (s := updKs s fun k => { k with queues := tabUpd [] k.queues x (·.drop 1) }) hseq hissued hwait]
    refine ⟨by simp [updIssued], ?_, by simp [updIssued], by simp [updIssued], by simp [updIssued]⟩
    have hsame : ∀ u : State, issuedOf (noteActivity u) seq = issuedOf u seq := fun _ => rfl
    rw [hsame, issuedOf_updIssued_same (f := startedOn x) fun _ => rfl]
    have hkept : issuedOf (updKs (clearLane (updKs s fun k => { k with queues := tabUpd [] k.queues x (·.drop 1) }) x) fun k =>
        { k with reach := furthest k.reach (k.stepIndex, seq) }) seq = issuedOf s seq := by simp [issuedOf]
    rw [hkept, hissued]
    rfl
  · exact congrArg Host.Outcome.next ((descriptorStart_span hplan hhead hdesc hissued).trans (by rw [hmay, hrun]; rfl))
  · show Host.Outcome.next (descriptorStart s none) = _
    simp [descriptorStart, hplan, hissued, hwait, hdesc, hmay]

end Sys2Proof.Machine

-- ------------------------------------------------------------------------------------------------ completion

namespace Sys2Proof.Machine

section
variable {s : State} {p : Plan} {d : Desc} {i : Issued} {seq : Nat} {u : Option Nat}

/-- A completed descriptor's issue record goes, and no other. -/
theorem find?_filter_seq (l : List Issued) {q : Nat} (hq : q ≠ seq) :
    (l.filter fun i => i.seq != seq).find? (fun i => i.seq == q) = l.find? fun i => i.seq == q := by
  rw [List.find?_filter]
  congr 1
  funext i
  cases hi : i.seq == q with
  | true =>
    have hne : (i.seq != seq) = true := by rw [beq_iff_eq.1 hi]; simpa using hq
    simp [hne]
  | false => simp

theorem issuedOf_completeDesc_other (hphase : inUpdatePhase p d.seq = false) {q : Nat} (hq : q ≠ d.seq) :
    issuedOf (completeDesc s p d) q = issuedOf s q := by
  simp only [completeDesc, hphase]
  exact find?_filter_seq s.ks.issued hq

theorem issuedOf_completeDesc_same (hphase : inUpdatePhase p d.seq = false) : issuedOf (completeDesc s p d) d.seq = none := by
  simp only [completeDesc, hphase]
  refine List.find?_eq_none.2 fun i hi => ?_
  have hne := (List.mem_filter.1 hi).2
  simpa using hne

/-- R51: an OK report of a unit whose part of the work is done. -/
def partEnded (u : Option Nat) (i : Issued) : Issued :=
  { i with running := i.running.filter (· != u.getD ksUnit), status := 0 }

/-- The state in which a unit's OK report has ended its part; a descriptor that asks for it is reported. -/
def partReported (s : State) (d : Desc) (i : Issued) (seq : Nat) (u : Option Nat) : State :=
  if isReport d then logEvent (updIssued s seq (partEnded u)) (reportEvent d i 0 0 (u.getD ksUnit)) else updIssued s seq (partEnded u)

theorem descriptorComplete_ok (hplan : s.ks.plan = some p) (hdesc : descAt p seq = some d) (hissued : issuedOf s seq = some i)
    (hin : i.running.contains (u.getD ksUnit) = true) (hst : i.status = 0) (hpier : d.opcode ≠ opPier) (hcommit : d.opcode ≠ opCommit)
    (hwait : i.waiting = []) (hdone : workDone s p d i = true) :
    descriptorComplete s u seq 0 = if !(partEnded u i).running.isEmpty then updIssued s seq (partEnded u)
      else completeDesc (partReported s d i seq u) p d := by
  have hlook : issuedOf (updIssued s seq (partEnded u)) seq = some (partEnded u i) := by
    rw [issuedOf_updIssued_same (f := partEnded u) fun _ => rfl, hissued]
    rfl
  have hjoin : joinStatus i.status (0 : Byte).toNat = 0 := by rw [hst]; rfl
  have hreport : (if (0 : Nat) ≠ 0 ∨ isReport d = true then
        logEvent (updIssued s seq (partEnded u)) (reportEvent d i 0 0 (u.getD ksUnit)) else updIssued s seq (partEnded u))
      = partReported s d i seq u := by simp [partReported]
  unfold descriptorComplete
  simp only [hplan, hdesc, hissued, hin, hjoin]
  simp only [hpier, hcommit, hwait, hdone]
  rw [← hreport]
  exact (congrArg (fun o : Option Issued => match o with
    | none => updIssued s seq (partEnded u)
    | some j => if !j.running.isEmpty then updIssued s seq (partEnded u) else completeDesc (if (0 : Nat) ≠ 0 ∨ isReport d = true then
        logEvent (updIssued s seq (partEnded u)) (reportEvent d i 0 0 (u.getD ksUnit)) else updIssued s seq (partEnded u)) p d) hlook)

/-- R51, R379: a failing report is counted against its unit, notified, and handled as a fault of class replay. -/
theorem descriptorComplete_fails {st : Byte} (hplan : s.ks.plan = some p) (hdesc : descAt p seq = some d)
    (hissued : issuedOf s seq = some i) (hin : i.running.contains (u.getD ksUnit) = true) (hst : i.status = 0) (hne : st ≠ 0)
    (hinfo : isInformational st.toNat = false) :
    descriptorComplete s u seq st
      = replayFault (notifyFault (if u.getD ksUnit = ksUnit then s
          else updSp s fun q => { q with faults := tabUpd 0 q.faults (u.getD ksUnit) (· + 1) })
        (reportEvent d i (finalStatus st.toNat) 2 (u.getD ksUnit))) (finalStatus st.toNat) := by
  have hpos : st.toNat ≠ 0 := fun h => hne (BitVec.eq_of_toNat_eq h)
  have hjoin : joinStatus i.status st.toNat = st.toNat := by simp [joinStatus, hst, hpos]
  unfold descriptorComplete
  simp only [hplan, hdesc, hissued, hin, hjoin, hpos, hinfo]
  simp

end

/-- Settles O31: the last OK report takes the issue record away, an earlier one shortens its units, and a failing one is a fault. -/
theorem descriptorsComplete : Obligations.DescriptorsComplete := by
  intro s p d i u seq hplan hdesc hissued hin hst
  refine ⟨fun hpier hcommit hwait hdone hseq hreport hphase hlast => ⟨_, rfl, ?_⟩,
    fun hpier hcommit hwait hdone hmore => ?_, fun st hne hinfo => ?_⟩
  · have hempty : (partEnded u i).running.isEmpty = true := by simp [partEnded, hlast]
    rw [descriptorComplete_ok hplan hdesc hissued hin hst hpier hcommit hwait hdone, hempty, if_neg (by decide), partReported, hreport, if_neg (by decide)]
    subst hseq
    refine ⟨issuedOf_completeDesc_same hphase, fun q hq => ?_, ?_, ?_, ?_⟩
    · rw [issuedOf_completeDesc_other hphase hq]
      exact issuedOf_updIssued_other (f := partEnded u) (fun _ => rfl) hq
    · simp [completeDesc, hphase, updIssued]
    · simp only [completeDesc, hphase]
      rfl
    · simp [completeDesc, hphase, updIssued]
  · have hne : (partEnded u i).running.isEmpty = false := by
      obtain ⟨y, hy, hyu⟩ := hmore
      exact List.isEmpty_eq_false_iff_exists_mem.2 ⟨y, List.mem_filter.2 ⟨hy, by simpa using hyu⟩⟩
    exact congrArg Host.Outcome.next ((descriptorComplete_ok hplan hdesc hissued hin hst hpier hcommit hwait hdone).trans
      (if_pos (by rw [hne]; rfl)))
  · exact congrArg Host.Outcome.next (descriptorComplete_fails hplan hdesc hissued hin hst hne hinfo)

-- -------------------------------------------------------------------------------- BANK_HANDOVER

/-- An issue record with more entries of its handover noted. -/
def withHanded (l : List (Nat × Nat)) (i : Issued) : Issued := { i with handed := i.handed ++ l }

/-- The state in which some entries of a handover have taken effect: the owners, and the entries noted in its issue record. -/
def handedState (s : State) (seq : Nat) (w : Tab Nat × List (Nat × Nat)) : State :=
  updIssued (updSp s fun q => { q with owners := w.1 }) seq (withHanded w.2)

/-- An entry of a handover: span, then bank, FROM and TO. -/
abbrev HandPair := Nat × (Nat × (Nat × Nat))

def handKey (x : HandPair) : Nat := x.1 * 4 + x.2.1

/-- One entry's effect on the owners and on the entries noted (R105). -/
def handStep (s : State) (p : Plan) (d : Desc) (pass : Nat) (w : Tab Nat × List (Nat × Nat)) (x : HandPair) :
    Tab Nat × List (Nat × Nat) :=
  if w.2.contains (x.1, x.2.1) || tabGet 0 w.1 (handKey x) != x.2.2.1 || !masterDone s p d pass x.1 x.2.1 x.2.2.1 then w
  else (tabSet 0 w.1 (handKey x) x.2.2.2, w.2 ++ [(x.1, x.2.1)])

section
variable {s : State} {p : Plan} {d : Desc} {i : Issued} {pass : Nat}

theorem issuedOf_handedState (h : issuedOf s d.seq = some i) (w : Tab Nat × List (Nat × Nat)) :
    issuedOf (handedState s d.seq w) d.seq = some (withHanded w.2 i) := by
  rw [handedState, issuedOf_updIssued_same (f := withHanded w.2) fun _ => rfl]
  exact congrArg (Option.map (withHanded w.2)) h

/-- What a FROM master has still to do does not depend on the handover's own progress. -/
theorem masterDone_handedState (w : Tab Nat × List (Nat × Nat)) (x bank master : Nat) :
    masterDone (handedState s d.seq w) p d pass x bank master = masterDone s p d pass x bank master := by
  simp only [masterDone, handedState, updIssued, updSp_ks, List.all_map]
  congr 1
  funext i
  simp only [Function.comp]
  split <;> rfl

/-- Noting one entry more in a handover's issue record. -/
theorem handedState_more (w : Tab Nat × List (Nat × Nat)) (owners : Tab Nat) (e : Nat × Nat) :
    updIssued (updSp (handedState s d.seq w) fun q => { q with owners := owners }) d.seq
      (fun i => { i with handed := i.handed ++ [e] }) = handedState s d.seq (owners, w.2 ++ [e]) := by
  simp only [handedState, updIssued, updSp, List.map_map]
  congr 3
  funext i
  simp only [Function.comp]
  by_cases hi : (i.seq == d.seq) = true
  · have hi' : ((withHanded w.2 i).seq == d.seq) = true := hi
    rw [if_pos hi, if_pos hi, if_pos hi']
    simp only [withHanded, List.append_assoc]
  · rw [if_neg hi, if_neg hi, if_neg hi]

theorem handEntry_handedState (h : issuedOf s d.seq = some i) (hnone : i.handed = []) (w : Tab Nat × List (Nat × Nat)) (x : HandPair) :
    handEntry p d pass (handedState s d.seq w) x.1 x.2 = handedState s d.seq (handStep s p d pass w x) := by
  have hstep : handEntry p d pass (handedState s d.seq w) x.1 x.2
      = if w.2.contains (x.1, x.2.1) || tabGet 0 w.1 (handKey x) != x.2.2.1 || !masterDone s p d pass x.1 x.2.1 x.2.2.1 then
          handedState s d.seq w
        else updIssued (updSp (handedState s d.seq w) fun q => { q with owners := tabSet 0 q.owners (handKey x) x.2.2.2 }) d.seq
          fun i => { i with handed := i.handed ++ [(x.1, x.2.1)] } := by
    unfold handEntry
    simp only [issuedOf_handedState h, withHanded, hnone, List.nil_append, masterDone_handedState]
    rfl
  rw [hstep]
  unfold handStep
  split
  · rfl
  · exact handedState_more w _ _

/-- The entries of a list of pairs take effect one after the other. -/
theorem foldl_handEntry (h : issuedOf s d.seq = some i) (hnone : i.handed = []) (l : List HandPair) (w : Tab Nat × List (Nat × Nat)) :
    l.foldl (fun s x => handEntry p d pass s x.1 x.2) (handedState s d.seq w)
      = handedState s d.seq (l.foldl (handStep s p d pass) w) := by
  induction l generalizing w with
  | nil => rfl
  | cons x l ih => rw [List.foldl_cons, handEntry_handedState h hnone, ih, List.foldl_cons]

/-- An entry can take effect where its bank stands at first (R105). -/
def handGiven (s : State) (p : Plan) (d : Desc) (pass : Nat) (x : HandPair) : Bool :=
  tabGet 0 s.sp.owners (handKey x) == x.2.2.1 && masterDone s p d pass x.1 x.2.1 x.2.2.1

/-- What some entries have done: those given have changed their owner and are noted, and no other owner has changed. -/
structure HandedBy (s : State) (p : Plan) (d : Desc) (pass : Nat) (l : List HandPair) (w : Tab Nat × List (Nat × Nat)) : Prop where
  wf : tabWf 0 w.1 = true
  owner : ∀ x ∈ l, tabGet 0 w.1 (handKey x) = if handGiven s p d pass x then x.2.2.2 else tabGet 0 s.sp.owners (handKey x)
  other : ∀ k, (∀ x ∈ l, handKey x ≠ k) → tabGet 0 w.1 k = tabGet 0 s.sp.owners k
  noted : ∀ a b, (a, b) ∈ w.2 ↔ ∃ x ∈ l, x.1 = a ∧ x.2.1 = b ∧ handGiven s p d pass x = true

/-- An entry that changes nothing: it has taken effect before, or cannot. -/
theorem HandedBy.skip {l : List HandPair} {w : Tab Nat × List (Nat × Nat)} {x : HandPair} (h : HandedBy s p d pass l w)
    (hown : tabGet 0 w.1 (handKey x) = if handGiven s p d pass x then x.2.2.2 else tabGet 0 s.sp.owners (handKey x))
    (hx : handGiven s p d pass x = true → x ∈ l) : HandedBy s p d pass (l ++ [x]) w where
  wf := h.wf
  owner := fun y hy => by
    rcases List.mem_append.1 hy with hy | hy
    · exact h.owner y hy
    · rw [List.mem_singleton.1 hy]
      exact hown
  other := fun k hk => h.other k fun y hy => hk y (List.mem_append_left _ hy)
  noted := fun a b => (h.noted a b).trans
    ⟨fun ⟨y, hy, hrest⟩ => ⟨y, List.mem_append_left _ hy, hrest⟩, fun ⟨y, hy, h1, h2, hg⟩ => by
      rcases List.mem_append.1 hy with hy | hy
      · exact ⟨y, hy, h1, h2, hg⟩
      · obtain rfl := List.mem_singleton.1 hy
        exact ⟨y, hx hg, h1, h2, hg⟩⟩

/-- An entry that takes effect. -/
theorem HandedBy.give {l : List HandPair} {w : Tab Nat × List (Nat × Nat)} {x : HandPair} (h : HandedBy s p d pass l w)
    (hg : handGiven s p d pass x = true) (hfresh : ∀ y ∈ l, handKey y ≠ handKey x) :
    HandedBy s p d pass (l ++ [x]) (tabSet 0 w.1 (handKey x) x.2.2.2, w.2 ++ [(x.1, x.2.1)]) where
  wf := tabSet_wf h.wf
  owner := fun y hy => by
    rcases List.mem_append.1 hy with hy | hy
    · rw [tabGet_tabSet_other h.wf (hfresh y hy)]
      exact h.owner y hy
    · obtain rfl := List.mem_singleton.1 hy
      rw [tabGet_tabSet_same h.wf, if_pos hg]
  other := fun k hk => by
    rw [tabGet_tabSet_other h.wf fun heq => hk x (by simp) heq.symm]
    exact h.other k fun y hy => hk y (List.mem_append_left _ hy)
  noted := fun a b => by
    rw [List.mem_append, h.noted]
    constructor
    · rintro (⟨y, hy, hrest⟩ | hlast)
      · exact ⟨y, List.mem_append_left _ hy, hrest⟩
      · obtain ⟨rfl, rfl⟩ := Prod.mk.injEq .. ▸ List.mem_singleton.1 hlast
        exact ⟨x, by simp, rfl, rfl, hg⟩
    · rintro ⟨y, hy, rfl, rfl, hgy⟩
      rcases List.mem_append.1 hy with hy | hy
      · exact .inl ⟨y, hy, rfl, rfl, hgy⟩
      · obtain rfl := List.mem_singleton.1 hy
        exact .inr (by simp)

/-- One entry more, where a bank of a span has one entry only. -/
theorem HandedBy.step {l : List HandPair} {w : Tab Nat × List (Nat × Nat)} {x : HandPair} (h : HandedBy s p d pass l w)
    (hinj : ∀ y ∈ l, handKey y = handKey x → y = x) (hbank : ∀ y ∈ l, y.1 = x.1 → y.2.1 = x.2.1 → y = x) :
    HandedBy s p d pass (l ++ [x]) (handStep s p d pass w x) := by
  have hold : x ∉ l → tabGet 0 w.1 (handKey x) = tabGet 0 s.sp.owners (handKey x) := fun hx =>
    h.other _ fun y hy heq => hx (hinj y hy heq ▸ hy)
  have hnoted : (x.1, x.2.1) ∈ w.2 ↔ x ∈ l ∧ handGiven s p d pass x = true := by
    rw [h.noted]
    exact ⟨fun ⟨y, hy, h1, h2, hg⟩ => by have := hbank y hy h1 h2; subst this; exact ⟨hy, hg⟩,
      fun ⟨hx, hg⟩ => ⟨x, hx, rfl, rfl, hg⟩⟩
  by_cases hg : handGiven s p d pass x = true
  · by_cases hx : x ∈ l
    · have hskip : handStep s p d pass w x = w := if_pos (by simp [hnoted.2 ⟨hx, hg⟩])
      rw [hskip]
      exact h.skip (h.owner x hx) fun _ => hx
    · have hgive : handStep s p d pass w x = (tabSet 0 w.1 (handKey x) x.2.2.2, w.2 ++ [(x.1, x.2.1)]) := by
        refine if_neg ?_
        have hfrom := hg
        simp only [handGiven, Bool.and_eq_true, beq_iff_eq] at hfrom
        have hnot : (x.1, x.2.1) ∉ w.2 := fun hmem => hx (hnoted.1 hmem).1
        simp [hnot, hold hx, hfrom.1, hfrom.2]
      rw [hgive]
      exact h.give hg fun y hy heq => hx (hinj y hy heq ▸ hy)
  · have hown : tabGet 0 w.1 (handKey x) = tabGet 0 s.sp.owners (handKey x) := by
      by_cases hx : x ∈ l
      · rw [h.owner x hx, if_neg hg]
      · exact hold hx
    have hskip : handStep s p d pass w x = w := by
      refine if_pos ?_
      have hfrom : (tabGet 0 s.sp.owners (handKey x) == x.2.2.1 && masterDone s p d pass x.1 x.2.1 x.2.2.1) = false := by
        simpa [handGiven] using hg
      rw [hown, Bool.or_assoc, bne, ← Bool.not_and, hfrom]
      simp
    rw [hskip]
    exact h.skip (by rw [hown, if_neg hg]) fun hgiven => absurd hgiven hg

/-- All entries of a list, where a bank of a span has one entry only. -/
theorem handedBy_foldl {l : List HandPair} (howners : tabWf 0 s.sp.owners = true)
    (hinj : ∀ y ∈ l, ∀ x ∈ l, handKey y = handKey x → y = x)
    (hbank : ∀ y ∈ l, ∀ x ∈ l, y.1 = x.1 → y.2.1 = x.2.1 → y = x) :
    HandedBy s p d pass l (l.foldl (handStep s p d pass) (s.sp.owners, [])) := by
  have h : ∀ (n m : List HandPair) (w : Tab Nat × List (Nat × Nat)), (∀ y ∈ n ++ m, y ∈ l) → HandedBy s p d pass n w →
      HandedBy s p d pass (n ++ m) (m.foldl (handStep s p d pass) w) := by
    intro n m
    induction m generalizing n with
    | nil => exact fun w _ hw => by rw [List.append_nil]; exact hw
    | cons x m ih =>
      intro w hsub hw
      have hx : x ∈ l := hsub x (by simp)
      have hstep := hw.step (x := x) (fun y hy => hinj y (hsub y (List.mem_append_left _ hy)) x hx)
        (fun y hy => hbank y (hsub y (List.mem_append_left _ hy)) x hx)
      have hall := ih (n ++ [x]) (handStep s p d pass w x) (by simpa using hsub) hstep
      rw [List.append_assoc] at hall
      exact hall
  exact h [] l _ (fun _ hy => hy) ⟨howners, fun _ hx => (List.not_mem_nil hx).elim, fun _ _ => rfl, fun _ _ => by simp⟩

/-- The entries that can take effect: those of the spans that have started the handover. -/
def handPairs (d : Desc) (i : Issued) : List HandPair :=
  ((targets d).filter (i.running.contains ·)).flatMap fun x => (hoEntries d).map fun e => (x, e)

theorem mem_handPairs {x : HandPair} :
    x ∈ handPairs d i ↔ x.1 ∈ targets d ∧ i.running.contains x.1 = true ∧ x.2 ∈ hoEntries d := by
  obtain ⟨a, e⟩ := x
  simp only [handPairs, List.mem_flatMap, List.mem_filter, List.mem_map, Prod.mk.injEq]
  constructor
  · rintro ⟨b, ⟨hb, hrun⟩, c, hc, rfl, rfl⟩
    exact ⟨hb, hrun, hc⟩
  · rintro ⟨ha, hrun, he⟩
    exact ⟨a, ⟨ha, hrun⟩, e, he, rfl, rfl⟩

theorem bank_lt_of_mem_hoEntries {e : Nat × (Nat × Nat)} (h : e ∈ hoEntries d) : e.1 < 4 := by
  obtain ⟨n, -, rfl⟩ := List.mem_map.1 h
  exact Nat.mod_lt _ (by decide)

theorem eq_of_nodup_map {α β : Type} {f : α → β} {l : List α} (hnodup : (l.map f).Nodup) {x y : α} (hx : x ∈ l) (hy : y ∈ l)
    (h : f x = f y) : x = y := by
  induction l with
  | nil => cases hx
  | cons z l ih =>
    rw [List.map_cons, List.nodup_cons] at hnodup
    obtain ⟨hz, htail⟩ := hnodup
    rcases List.mem_cons.1 hx with hxz | hxl <;> rcases List.mem_cons.1 hy with hyz | hyl
    · rw [hxz, hyz]
    · exact absurd (List.mem_map.2 ⟨y, hyl, by rw [← h, hxz]⟩) hz
    · exact absurd (List.mem_map.2 ⟨x, hxl, by rw [h, hyz]⟩) hz
    · exact ih htail hxl hyl

/-- With one entry a bank, an entry is known by its span and its bank, and by its key. -/
theorem hoEntries_inj (hnodup : ((hoEntries d).map (·.1)).Nodup) {x y : HandPair} (hx : x.2 ∈ hoEntries d) (hy : y.2 ∈ hoEntries d)
    (h1 : y.1 = x.1) (h2 : y.2.1 = x.2.1) : y = x :=
  Prod.ext h1 (eq_of_nodup_map hnodup hy hx h2)

theorem handKey_inj {x y : HandPair} (hx : x.2 ∈ hoEntries d) (hy : y.2 ∈ hoEntries d) (h : handKey y = handKey x) :
    y.1 = x.1 ∧ y.2.1 = x.2.1 := by
  have hxlt := bank_lt_of_mem_hoEntries hx
  have hylt := bank_lt_of_mem_hoEntries hy
  simp only [handKey] at h
  omega

/-- At first no entry has taken effect. -/
theorem handedState_start (s : State) (seq : Nat) : handedState s seq (s.sp.owners, []) = s := by
  have hid : (fun i : Issued => if (i.seq == seq) = true then withHanded [] i else i) = id := by
    funext i
    have hsame : withHanded [] i = i := by simp [withHanded]
    rw [hsame, ite_self, id]
  simp only [handedState, updIssued, updSp_ks]
  rw [hid, List.map_id]
  rfl

/-- The issue record of a handover whose entries have all taken effect notes none. -/
def handEnded (i : Issued) : Issued := { i with handed := [] }

/-- R105: the handover's state once its entries have taken effect, with its pass done when all have. -/
theorem bankHandover_eq {seq : Nat} (h : issuedPlan s seq = some (p, d, i)) (hseq : d.seq = seq) (hop : d.opcode = opBankHandover)
    (hhanded : i.handed = []) (hpass : i.passesRun.length < passesOf p seq) (hturn : partTurn s p d i.passesRun.length = true)
    (hissued : issuedOf s seq = some i) :
    let w := (handPairs d i).foldl (handStep s p d i.passesRun.length) (s.sp.owners, [])
    bankHandover s seq = if ((targets d).all fun x => (hoEntries d).all fun e => w.2.contains (x, e.1)) = true then
      passDone (updIssued (handedState s seq w) seq handEnded) seq i.passesRun.length 0 else handedState s seq w := by
  subst hseq
  intro w
  have hfold : ((targets d).filter (i.running.contains ·)).foldl
      (fun s x => (hoEntries d).foldl (fun s e => handEntry p d i.passesRun.length s x e) s) s = handedState s d.seq w := by
    have hpairs := foldl_handEntry (p := p) (pass := i.passesRun.length) hissued hhanded (handPairs d i) (s.sp.owners, [])
    rw [handedState_start, handPairs, List.foldl_flatMap] at hpairs
    simp only [List.foldl_map] at hpairs
    exact hpairs
  have hgo : (d.opcode != opBankHandover || decide (passesOf p d.seq ≤ i.passesRun.length)
      || !partTurn s p d i.passesRun.length) = false := by
    simp [hop, hturn, Nat.not_le.2 hpass]
  unfold bankHandover
  simp only [h, hgo]
  rw [hfold]
  simp only [issuedOf_handedState hissued, withHanded, hhanded, List.nil_append]
  rfl

end

theorem issuedOf_of_issuedPlan {s : State} {seq : Nat} {p : Plan} {d : Desc} {i : Issued} (h : issuedPlan s seq = some (p, d, i)) :
    issuedOf s seq = some i := by
  unfold issuedPlan at h
  split at h
  · cases h
  · split at h
    · next heq =>
      cases h
      exact heq
    · cases h

/-- Settles O32: the entries of a handover take effect one after the other, and no two of them are of one bank of one span. -/
theorem banksAreHandedOver : Obligations.BanksAreHandedOver := by
  intro s seq p d i h hseq hop hhanded hpass hturn howners es hnodup given
  have hissued := issuedOf_of_issuedPlan h
  have hby : HandedBy s p d i.passesRun.length (handPairs d i)
      ((handPairs d i).foldl (handStep s p d i.passesRun.length) (s.sp.owners, [])) := by
    refine handedBy_foldl howners (fun y hy x hx heq => ?_) fun y hy x hx => ?_
    · obtain ⟨h1, h2⟩ := handKey_inj (mem_handPairs.1 hx).2.2 (mem_handPairs.1 hy).2.2 heq
      exact hoEntries_inj hnodup (mem_handPairs.1 hx).2.2 (mem_handPairs.1 hy).2.2 h1 h2
    · exact hoEntries_inj hnodup (mem_handPairs.1 hx).2.2 (mem_handPairs.1 hy).2.2
  have heq := bankHandover_eq h hseq hop hhanded hpass hturn hissued
  revert hby heq
  dsimp only
  generalize (handPairs d i).foldl (handStep s p d i.passesRun.length) (s.sp.owners, []) = w
  intro hby heq
  have hgiven : ∀ x ∈ targets d, ∀ e ∈ es, given x e = true ↔ (x, e.1) ∈ w.2 := fun x hx e he => by
    rw [hby.noted]
    constructor
    · intro hg
      simp only [given, Bool.and_eq_true] at hg
      obtain ⟨⟨hrun, hfrom⟩, hdone⟩ := hg
      exact ⟨(x, e), mem_handPairs.2 ⟨hx, hrun, he⟩, rfl, rfl, by simp only [handGiven, handKey, hfrom, hdone, Bool.and_self]⟩
    · rintro ⟨y, hy, h1, h2, hg⟩
      obtain ⟨-, hrun, hye⟩ := mem_handPairs.1 hy
      have hsame : y = (x, e) := hoEntries_inj (x := (x, e)) hnodup he hye h1 h2
      subst hsame
      simp only [handGiven, Bool.and_eq_true] at hg
      simp only [given, Bool.and_eq_true]
      exact ⟨⟨hrun, hg.1⟩, hg.2⟩
  have hall : ((targets d).all fun x => (hoEntries d).all fun e => w.2.contains (x, e.1)) = true
      ↔ ∀ x ∈ targets d, ∀ e ∈ es, given x e = true := by
    simp only [List.all_eq_true, List.contains_iff_mem]
    exact forall₂_congr fun x hx => forall₂_congr fun e he => (hgiven x hx e he).symm
  have howner : ∀ x ∈ targets d, ∀ e ∈ es, tabGet 0 w.1 (x * 4 + e.1)
      = if given x e then e.2.2 else tabGet 0 s.sp.owners (x * 4 + e.1) := fun x hx e he => by
    by_cases hrun : i.running.contains x = true
    · have ho := hby.owner (x, e) (mem_handPairs.2 ⟨hx, hrun, he⟩)
      have hsame : handGiven s p d i.passesRun.length (x, e) = given x e := by
        simp only [given, hrun, Bool.true_and]
        rfl
      rw [hsame] at ho
      exact ho
    · have hnot : given x e = false := by simp only [given, Bool.eq_false_iff.2 hrun, Bool.false_and]
      rw [hnot]
      refine hby.other _ fun y hy hkey => hrun ?_
      obtain ⟨-, hyrun, hye⟩ := mem_handPairs.1 hy
      have hspan : y.1 = x := (handKey_inj (x := (x, e)) he hye hkey).1
      rw [← hspan]
      exact hyrun
  have hother : ∀ k, (∀ x ∈ targets d, ∀ e ∈ es, k ≠ x * 4 + e.1) → tabGet 0 w.1 k = tabGet 0 s.sp.owners k := fun k hk =>
    hby.other k fun y hy hkey => hk y.1 (mem_handPairs.1 hy).1 y.2 (mem_handPairs.1 hy).2.2 hkey.symm
  subst hseq
  have hlook := issuedOf_handedState (d := d) hissued w
  refine ⟨_, rfl, ?_⟩
  rw [heq]
  split
  next hdone =>
    refine ⟨howner, hother, rfl, rfl, fun _ => ?_, fun ⟨x, hx, e, he, hno⟩ => ?_⟩
    · rw [passDone, issuedOf_updIssued_same (f := fun i' : Issued =>
        { i' with passesRun := i'.passesRun ++ [i.passesRun.length], status := joinStatus i'.status 0 }) fun _ => rfl,
        issuedOf_updIssued_same (f := handEnded) fun _ => rfl, hlook]
      rfl
    · rw [hall.1 hdone x hx e he] at hno
      cases hno
  next hdone =>
    refine ⟨howner, hother, rfl, rfl, fun hgive => absurd (hall.2 hgive) hdone, fun _ => ?_⟩
    rw [hlook]
    rfl

end Sys2Proof.Machine

-- ------------------------------------------------------------------------------------------------ setup records

namespace Sys2Proof.Machine

section
variable {s : State} {p : Plan}

/-- Four entries copied from `u`, as the arming of a bank table copies its owners. -/
theorem tabGet_bankOwners {t u : Tab Nat} (x k : Nat) (h : tabWf 0 t = true) :
    tabGet 0 ([0, 1, 2, 3].foldl (fun t j => tabSet 0 t (x * 4 + j) (tabGet 0 u (x * 4 + j))) t) k
      = if k / 4 = x then tabGet 0 u k else tabGet 0 t k := by
  simp only [List.foldl_cons, List.foldl_nil]
  rw [tabGet_tabSet (tabSet_wf (tabSet_wf (tabSet_wf h))), tabGet_tabSet (tabSet_wf (tabSet_wf h)),
    tabGet_tabSet (tabSet_wf h), tabGet_tabSet h]
  by_cases hk : k / 4 = x
  · have hcases : k = x * 4 + 3 ∨ k = x * 4 + 2 ∨ k = x * 4 + 1 ∨ k = x * 4 + 0 := by omega
    rcases hcases with rfl | rfl | rfl | rfl <;> simp [hk]
  · rw [if_neg (by omega), if_neg (by omega), if_neg (by omega), if_neg (by omega), if_neg hk]

theorem isRunning_of_plRunning (h : planState s = plRunning) : isRunning s = true := by
  rw [isRunning, h]
  rfl

/-- While descriptors may run, the records of the present phase go first, the next phase's once every block has armed. -/
theorem setupShadowWrite_of_running (hplan : s.ks.plan = some p) (hstate : planState s = plRunning)
    (hgo : s.ks.haltIssue = false) :
    setupShadowWrite s = if !s.ks.shadowed then writeShadows s p s.ks.phase
      else if !s.ks.toArm.isEmpty then s
      else match nextPhase s p with | none => s | some i => writeShadows s p i := by
  simp only [setupShadowWrite, hplan, isRunning_of_plRunning hstate, hgo]
  rfl

/-- A block to arm that no descriptor uses: its record moves over, with what that does beside. -/
theorem blockArm_of_free {b : Block} (hplan : s.ks.plan = some p) (harm : s.ks.toArm.contains (blockKey b) = true)
    (hissued : s.ks.issued = []) (hbefore : unissuedBefore s p = [])
    (hport : ∀ n, b = .port n → (portOf s n).retry = [] ∧ ∀ w, s.ks.reshardW = some w → w.phase < 3) :
    blockArm s b = armEffect (updKs s fun k =>
      { k with toArm := k.toArm.filter (· != blockKey b), armed := armBlock k b }) b s.ks.armed := by
  simp only [blockArm, hplan, hissued, hbefore, harm]
  cases b with
  | port n =>
    obtain ⟨hretry, hphase⟩ := hport n rfl
    have hmoving : s.ks.reshardW.any (fun w => decide (3 ≤ w.phase)) = false := by
      cases hw : s.ks.reshardW with
      | none => rfl
      | some w => simpa using hphase w hw
    simp [hretry, hmoving]
  | _ => simp

@[simp] theorem regEffect_ks (t : State) (old : Tab Nat) (i : Nat) : (regEffect t old i).ks = t.ks := by
  simp only [regEffect]
  split
  · rfl
  · split <;> rfl

@[simp] theorem regEffect_dram (t : State) (old : Tab Nat) (i : Nat) : (regEffect t old i).dram = t.dram := by
  simp only [regEffect]
  split
  · rfl
  · split <;> rfl

@[simp] theorem regEffect_via (t : State) (old : Tab Nat) (i : Nat) : (regEffect t old i).via = t.via := by
  simp only [regEffect]
  split
  · rfl
  · split <;> rfl

/-- R32: a fixed voltage is taken, one that ends returns to PACE_POLICY's, and no other bay moves. -/
theorem regEffect_volts {t : State} {old : Tab Nat} {i k : Nat} (h : tabWf 700 t.sp.volts = true) :
    tabGet 700 (regEffect t old i).sp.volts k
      = if k ≠ i then tabGet 700 t.sp.volts k
        else if tabGet 0 t.ks.armed.regs i ≠ 0 then tabGet 0 t.ks.armed.regs i
        else if tabGet 0 old i ≠ 0 ∧ t.ks.pace.1 = 2 then t.ks.pace.2 else tabGet 700 t.sp.volts i := by
  simp only [regEffect]
  by_cases hk : k = i
  · subst hk
    rw [if_neg (not_not_intro rfl)]
    split
    · exact tabGet_tabSet_same h
    · split
      · exact tabGet_tabSet_same h
      · rfl
  · rw [if_pos hk]
    split
    · exact tabGet_tabSet_other h hk
    · split
      · exact tabGet_tabSet_other h hk
      · rfl

@[simp] theorem armEffect_ks (t : State) (b : Block) (old : BlockCfg) : (armEffect t b old).ks = t.ks := by
  cases b with
  | regulator i => exact regEffect_ks t old.regs i
  | _ => rfl

@[simp] theorem armEffect_dram (t : State) (b : Block) (old : BlockCfg) : (armEffect t b old).dram = t.dram := by
  cases b with
  | regulator i => exact regEffect_dram t old.regs i
  | _ => rfl

@[simp] theorem armEffect_via (t : State) (b : Block) (old : BlockCfg) : (armEffect t b old).via = t.via := by
  cases b with
  | regulator i => exact regEffect_via t old.regs i
  | _ => rfl

theorem armBlock_chans {k : Keystone} (b : Block) (ch : Nat) (h : tabWf 0 k.armed.chans = true) :
    tabGet 0 (armBlock k b).chans ch = tabGet 0 (if b = .channel ch then k.shadow.chans else k.armed.chans) ch := by
  cases b with
  | channel i =>
    simp only [armBlock, tabGet_tabSet h, Block.channel.injEq, eq_comm (a := ch)]
    split
    next hi =>
      rw [hi]
    next hi =>
      rfl
  | _ => rfl

theorem armBlock_ports {k : Keystone} (b : Block) (n : Nat) (h : tabWf 0 k.armed.ports = true) :
    tabGet 0 (armBlock k b).ports n = tabGet 0 (if b = .port n then k.shadow.ports else k.armed.ports) n := by
  cases b with
  | port i =>
    simp only [armBlock, tabGet_tabSet h, Block.port.injEq, eq_comm (a := n)]
    split
    next hi =>
      rw [hi]
    next hi =>
      rfl
  | _ => rfl

end

/-- Settles O29: records go to the shadows phase by phase, and an armed block takes its shadow and its effect. -/
theorem setupRecordsShadowAndArm : Obligations.SetupRecordsShadowAndArm := by
  unfold Obligations.SetupRecordsShadowAndArm
  refine ⟨fun s p hplan hstate hgo => ?_, fun s b p hplan harm hissued hbefore hport howners hown hregs hvolts hchans hports => ?_,
    fun code x hcode => ?_⟩
  · have heq := setupShadowWrite_of_running hplan hstate hgo
    refine ⟨fun h => ?_, fun h harm => ?_, fun i h harm hnext => ?_⟩
    · exact congrArg Host.Outcome.next (heq.trans (by rw [h]; rfl))
    · exact congrArg Host.Outcome.next (heq.trans (by rw [h]; simpa using fun h' => absurd h' harm))
    · have hwrite : setupShadowWrite s = writeShadows s p i := by
        rw [heq, h, hnext]
        simp [harm]
      exact congrArg Host.Outcome.next hwrite
  · refine ⟨_, congrArg Host.Outcome.next (blockArm_of_free hplan harm hissued hbefore hport), ?_, ?_, ?_, ?_, ?_, ?_, ?_, ?_⟩
    · rw [armEffect_ks]
      rfl
    · rw [armEffect_dram]
      rfl
    · rw [armEffect_via]
      rfl
    · rintro x rfl k
      refine (tabGet_bankOwners x k howners).trans ?_
      split
      next hk =>
        exact (tabGet_bankOwners x k hown).trans (if_pos hk)
      next hk =>
        rfl
    · rintro x rfl k
      refine (regEffect_volts (t := updKs s _) hvolts).trans ?_
      have hreg : tabGet 0 (armBlock s.ks (.regulator x)).regs x = tabGet 0 s.ks.shadow.regs x := tabGet_tabSet_same hregs
      simp only [updKs_ks, updKs_sp, hreg]
      rfl
    · intro hbank hreg
      cases b with
      | bankTable x => exact absurd rfl (hbank x)
      | regulator x => exact absurd rfl (hreg x)
      | _ => rfl
    · intro ch i
      simp only [dramSlot, armEffect_ks, updKs_ks, armBlock_chans b ch hchans]
    · intro n i
      simp only [portSlot, armEffect_ks, updKs_ks, armBlock_ports b n hports]
  · obtain rfl | rfl | rfl | rfl : code = 0 ∨ code = 1 ∨ code = 2 ∨ code = 3 := by omega
    all_goals cases x <;> rfl

end Sys2Proof.Machine

-- ------------------------------------------------------------------------------------------------ answers out of band

namespace Sys2Proof.Machine

section
variable {s : State}

-- What a request draws from an interface that is up: one reply at the end of the line.

theorem mctp_of_up (h : oobUp s = true) (cmd code : Nat) (d : List Byte) :
    mctp s cmd code d = replied s s.toll (mctpReply cmd code d) := by
  rw [mctp, if_pos h]
  rfl

theorem pldm_of_up (h : oobUp s = true) (ty cmd code : Nat) (d : List Byte) :
    pldm s ty cmd code d = replied s s.toll (pldmReply ty cmd code d) := by
  rw [pldm, if_pos h]
  rfl

theorem spdm_of_up {ch : OobChannel} (h : spdmUp s ch = true) (code p1 p2 : Nat) (d : List Byte) :
    spdm s ch code p1 p2 d = replied s s.toll (spdmReply code p1 p2 d) := by
  rw [spdm, if_pos h]
  rfl

theorem spdmError_of_up {ch : OobChannel} (h : spdmUp s ch = true) (e : Nat) :
    spdmError s ch e = replied s s.toll (spdmReply 0x7F e 0 []) := spdm_of_up h ..

theorem oobUp_of_stage (h : s.pw.stage ≠ .off) : oobUp s = true := bne_iff_ne.2 h

theorem oobUp_of_fwRuns (h : fwRuns s = true) : oobUp s = true := by
  rw [fwRuns, Bool.and_eq_true] at h
  exact h.1

theorem pldm2_of_fwRuns (h : fwRuns s = true) (cmd code : Nat) (d : List Byte) :
    pldm2 s cmd code d = replied s s.toll (pldmReply 2 cmd code d) := by
  rw [pldm2, if_pos h, pldm_of_up (oobUp_of_fwRuns h)]

/-- R409: ERROR_NOT_READY while the boot ROM alone runs. -/
theorem pldm2_of_romOnly (h : s.pw.stage = .romOnly) (cmd code : Nat) (d : List Byte) :
    pldm2 s cmd code d = replied s s.toll (pldmReply 2 cmd 4 []) := by
  have hfw : fwRuns s = false := by simp [fwRuns, h]
  rw [pldm2, if_neg (by simp [hfw]), pldm_of_up (oobUp_of_stage (by simp [h]))]

-- ------------------------------------------------------------------------------------------------ discovery

/-- R408: a discovery command of PLDM type 0 that Table 20-9 does not give is refused. -/
theorem pldmDiscovery_of_undefined (hup : oobUp s = true) {c ty : Byte} (hc : c.toNat < 2 ∨ 5 < c.toNat) :
    pldmDiscovery s ⟨c, ty⟩ = replied s s.toll (pldmReply 0 c.toNat 5 []) := by
  simp only [pldmDiscovery]
  rw [if_neg (by omega), if_neg (by omega), if_neg (by omega), if_neg (by omega), pldm_of_up hup]

theorem pldmDiscovery_of_version (hup : oobUp s = true) {ty : Byte} {v : List Byte} (hv : pldmVersion ty = some v) :
    pldmDiscovery s ⟨3, ty⟩ = replied s s.toll (pldmReply 0 3 0 ([0, 0, 0, 0, 5] ++ v))
    ∧ pldmDiscovery s ⟨5, ty⟩ = replied s s.toll (pldmReply 0 5 0 (leBytes 32 (((pldmCommands ty).map (2 ^ ·)).sum))) := by
  rw [← pldm_of_up hup, ← pldm_of_up hup]
  constructor
  · simp [pldmDiscovery, hv]
  · simp [pldmDiscovery, hv]

theorem pldmDiscovery_of_no_version (hup : oobUp s = true) {ty : Byte} (hv : pldmVersion ty = none) :
    pldmDiscovery s ⟨3, ty⟩ = replied s s.toll (pldmReply 0 3 0x83 [])
    ∧ pldmDiscovery s ⟨5, ty⟩ = replied s s.toll (pldmReply 0 5 0x83 []) := by
  rw [← pldm_of_up hup, ← pldm_of_up hup]
  constructor
  · simp [pldmDiscovery, hv]
  · simp [pldmDiscovery, hv]

end

/-- Settles O55: each discovery request draws the answer of its row while the Tollhouse runs. -/
theorem discoveryRequests : Obligations.DiscoveryRequests := by
  unfold Obligations.DiscoveryRequests
  intro s hstage
  have hup := oobUp_of_stage hstage
  have hmctp := mctp_of_up hup
  refine ⟨fun e h0 hf => ?_, fun e he => ?_, ?_, ?_, fun m hm => ?_, fun m hm => ?_, fun m h0 hf h1 h5 => ?_, ?_,
    fun a hi3c => ?_, fun a hi3c => ?_, fun ty => ⟨?_, fun v hv => ?_, ?_, fun hv => ?_, fun c hc => ?_⟩⟩
  · have hset : setEndpointId s e = mctp (updToll s fun t => { t with eid := e }) 1 0 [0, e, 0] := by
      rw [setEndpointId, if_neg (not_or.2 ⟨h0, hf⟩), if_pos hup]
    exact congrArg Host.Outcome.next (hset.trans (mctp_of_up (s := updToll s fun t => { t with eid := e }) hup ..))
  · exact congrArg Host.Outcome.next ((if_pos he).trans (hmctp ..))
  · exact congrArg Host.Outcome.next (hmctp ..)
  · exact congrArg Host.Outcome.next (hmctp ..)
  · exact congrArg Host.Outcome.next ((if_pos hm.symm).trans (hmctp ..))
  · have hne : ¬ (m = 0xFF ∨ m = 0) := by rcases hm with rfl | rfl <;> decide
    exact congrArg Host.Outcome.next ((if_neg hne).trans ((if_pos hm).trans (hmctp ..)))
  · exact congrArg Host.Outcome.next ((if_neg (not_or.2 ⟨hf, h0⟩)).trans ((if_neg (not_or.2 ⟨h1, h5⟩)).trans (hmctp ..)))
  · exact congrArg Host.Outcome.next (hmctp ..)
  · exact congrArg Host.Outcome.next (if_neg (by simp [hup, hi3c]))
  · exact congrArg Host.Outcome.next (if_pos (by simp [hi3c]))
  · exact congrArg Host.Outcome.next (pldm_of_up hup ..)
  · obtain ⟨h3, h5⟩ := pldmDiscovery_of_version hup hv
    exact ⟨congrArg Host.Outcome.next h3, congrArg Host.Outcome.next h5⟩
  · exact congrArg Host.Outcome.next (pldm_of_up hup ..)
  · obtain ⟨h3, h5⟩ := pldmDiscovery_of_no_version hup hv
    exact ⟨congrArg Host.Outcome.next h3, congrArg Host.Outcome.next h5⟩
  · exact congrArg Host.Outcome.next (pldmDiscovery_of_undefined hup hc)

-- ------------------------------------------------------------------------------------------------ sensors and effecters

section
variable {s : State}

/-- R409: while the boot ROM alone runs, no request of PLDM type 2 is served. -/
theorem monitoring_of_romOnly (h : s.pw.stage = .romOnly) :
    exec .getPdrRepositoryInfo s = .next (replied s s.toll (pldmReply 2 0x50 4 []))
    ∧ (∀ n : Nat, exec (.getPdr n) s = .next (replied s s.toll (pldmReply 2 0x51 4 [])))
    ∧ (∀ n : Nat, exec (.getSensorReading n) s = .next (replied s s.toll (pldmReply 2 0x11 4 [])))
    ∧ (∀ n : Nat, exec (.getNumericEffecterValue n) s = .next (replied s s.toll (pldmReply 2 0x32 4 [])))
    ∧ (∀ n v : Nat, exec (.setNumericEffecterValue n v) s = .next (replied s s.toll (pldmReply 2 0x31 4 [])))
    ∧ ∀ e : Byte, exec (.setEventReceiver e) s = .next (replied s s.toll (pldmReply 2 4 4 [])) := by
  have hrom := pldm2_of_romOnly h
  have hfw : fwRuns s = false := by simp [fwRuns, h]
  refine ⟨congrArg Host.Outcome.next (hrom ..), fun n => congrArg Host.Outcome.next ?_, fun n => congrArg Host.Outcome.next ?_,
    fun n => congrArg Host.Outcome.next ?_, fun n v => congrArg Host.Outcome.next ?_, fun e => congrArg Host.Outcome.next ?_⟩
  · simp only [getPdr, hrom, ite_self]
  · simp only [getSensorReading, hrom, ite_self]
  · simp only [getNumericEffecterValue, hrom, ite_self]
  · simp only [setNumericEffecterValue, hrom, hfw, Bool.false_eq_true, if_false, ite_self]
  · simp only [setEventReceiver, hrom, hfw, Bool.false_eq_true, if_false]

theorem getPdr_of_handle (hfw : fwRuns s = true) {n : Nat} (h1 : 1 ≤ n) (hn : n ≤ 145) :
    getPdr s n = replied s s.toll (pldmReply 2 0x51 0
      (leBytes 4 (if n = 145 then 0 else n + 1) ++ leBytes 4 0 ++ [5] ++ leBytes 2 (pdrOf n).length ++ pdrOf n)) := by
  rw [getPdr, if_neg (show ¬ n = 0 by omega), if_neg (by omega), pldm2_of_fwRuns hfw]

theorem getPdr_of_no_record (hfw : fwRuns s = true) {n : Nat} (hn : 145 < n) :
    getPdr s n = replied s s.toll (pldmReply 2 0x51 0x82 []) := by
  rw [getPdr, if_neg (show ¬ n = 0 by omega), if_pos hn, pldm2_of_fwRuns hfw]

/-- R402: a limit of the range is taken. -/
theorem setNumericEffecterValue_of_valid (hfw : fwRuns s = true) {v : Nat} (hlow : 1500 ≤ v) (hhigh : v ≤ 3000) (hstep : v % 10 = 0) :
    setNumericEffecterValue s 1 v = replied s { s.toll with limitW := v } (pldmReply 2 0x31 0 []) := by
  rw [setNumericEffecterValue, if_neg (by simp), if_neg (by omega), if_pos hfw,
    pldm2_of_fwRuns (s := updToll s fun t => { t with limitW := v }) hfw]
  rfl

theorem setNumericEffecterValue_of_invalid (hfw : fwRuns s = true) {v : Nat} (hv : v < 1500 ∨ 3000 < v ∨ v % 10 ≠ 0) :
    setNumericEffecterValue s 1 v = replied s s.toll (pldmReply 2 0x31 2 []) := by
  rw [setNumericEffecterValue, if_neg (by simp), if_pos hv, pldm2_of_fwRuns hfw]

theorem setEventReceiver_of_fwRuns (hfw : fwRuns s = true) (e : Byte) :
    setEventReceiver s e = replied s { s.toll with receiver := some e } (pldmReply 2 4 0 []) := by
  rw [setEventReceiver, if_pos hfw, pldm2_of_fwRuns (s := updToll s fun t => { t with receiver := some e }) hfw]
  rfl

-- ------------------------------------------------------------------------------------------------ update out of band

theorem requestUpdate_of_free (hstage : s.pw.stage ≠ .off) (hupd : s.toll.update = .none) (hact : s.toll.actW = none) :
    requestUpdate s = replied s { s.toll with update := .oob, staging := [] } (pldmReply 5 0x10 0 [0, 0, 0]) := by
  have hup := oobUp_of_stage hstage
  rw [requestUpdate, if_neg (by simp [hup]), if_neg (by simp [hupd, hact]),
    pldm_of_up (s := updToll s fun t => { t with update := .oob, staging := [] }) hup]
  rfl

theorem requestUpdate_of_taken (hstage : s.pw.stage ≠ .off) (h : s.toll.update ≠ .none ∨ s.toll.actW ≠ none) :
    requestUpdate s = replied s s.toll (pldmReply 5 0x10 0x80 []) := by
  have hup := oobUp_of_stage hstage
  rw [requestUpdate, if_neg (by simp [hup]), if_pos (by simpa [Option.isSome_iff_ne_none] using h), pldm_of_up hup]

theorem componentOf_succ {k : Nat} (hk : k ≤ 2) : componentOf 0x000A (k + 1) = some k := by
  rw [componentOf, if_pos (by omega)]
  rfl

/-- R412: data with no update out of band, or for no component, is dropped. -/
theorem requestFirmwareData_of_none {id : Nat} (d : List Byte) (h : s.toll.update ≠ .oob ∨ id = 0 ∨ 3 < id) :
    requestFirmwareData s id d = s := by
  by_cases hid : 1 ≤ id ∧ id ≤ 3
  · have hupd : s.toll.update ≠ .oob := by
      rcases h with h | h
      · exact h
      · omega
    have hcomp : componentOf 0x000A id = some (id - 1) := by rw [componentOf, if_pos (by omega)]
    simp only [requestFirmwareData, hcomp]
    rw [firmwareData, if_pos (Or.inl hupd)]
  · have hcomp : componentOf 0x000A id = none := by rw [componentOf, if_neg (by omega)]
    simp only [requestFirmwareData, hcomp]

/-- What the staging area of a component holds once more data have come. -/
def pulled (t : Toll) (k : Nat) (d : List Byte) : List Byte := (if t.stageComp = k then t.staging else []) ++ d

theorem requestFirmwareData_eq (hfw : fwRuns s = true) {k : Nat} (hk : k ≤ 2) (d : List Byte) (hupd : s.toll.update = .oob) :
    requestFirmwareData s (k + 1) d = if imageWhole k (pulled s.toll k d)
      then (stageImage { s with toll := { s.toll with staging := [], stageComp := k } } k (pulled s.toll k d)).1
      else pldm (setStaged { s with toll := { s.toll with staging := pulled s.toll k d, stageComp := k } } k false) 5 0x15 0
        (leBytes 4 (pulled s.toll k d).length) := by
  have hgo : ¬ (s.toll.update ≠ .oob ∨ 2 < k ∨ (!fwRuns s ∧ k ≠ 0)) := by
    simp [hupd, hfw, Nat.not_lt.2 hk]
  simp only [requestFirmwareData, componentOf_succ hk, firmwareData]
  rw [if_neg hgo]
  cases hw : imageWhole k (pulled s.toll k d) with
  | false =>
    rw [if_pos (by rw [← pulled, hw]; rfl)]
    rfl
  | true =>
    rw [if_neg (by rw [← pulled, hw]; decide), hfw, Bool.not_true, Bool.and_false]
    rfl

/-- R411: what is staged and still verifies stays staged. -/
theorem verifyStaged_of_ok {comps : Nat}
    (h : ∀ k, k < 3 → comps.testBit k = true → imageOk s.toll k (imageSlot s.toll k (inactiveWhich s.toll k)) = true) :
    verifyStaged s comps = s := by
  refine List.foldlRecOn (motive := fun t => t = s) _ _ rfl fun t ht k hk => ?_
  obtain ⟨hk3, hbit⟩ := List.mem_filter.1 hk
  rw [Bool.and_eq_true] at hbit
  have hlt : k < 3 := by
    simp only [List.mem_cons, List.not_mem_nil, or_false] at hk3
    omega
  subst ht
  exact if_pos (h k hlt hbit.1)

theorem activateFirmware_of_loaded (hfw : fwRuns s = true) (env : StartEnv) (h : planState s ≠ plNone) :
    activateFirmware s env = replied s s.toll (pldmReply 5 0x1A 4 []) := by
  have hloaded : (planState s != plNone) = true := bne_iff_ne.2 h
  simp only [activateFirmware, hloaded, Bool.or_true, Bool.true_or, if_true]
  exact pldm_of_up (oobUp_of_fwRuns hfw) ..

/-- R412: with no plan and the update path free, what is staged is activated, and the update out of band ends. -/
theorem activateFirmware_of_free (hfw : fwRuns s = true) (env : StartEnv) (hplan : planState s = plNone)
    (hupd : ∀ c, s.toll.update ≠ .inBand c) (hact : s.toll.actW = none)
    (hok : ∀ k, k < 3 → s.toll.staged.toNat.testBit k = true →
      imageOk s.toll k (imageSlot s.toll k (inactiveWhich s.toll k)) = true) :
    activateFirmware s env = if s.toll.staged = 0 then replied s { s.toll with update := .none } (pldmReply 5 0x1A 0 [0, 0])
      else activateImages (dropCommands (busyOthers (replied s { s.toll with update := .none } (pldmReply 5 0x1A 0 [0, 0])) none))
        none s.toll.staged env := by
  have hanswer := pldm_of_up (s := updToll s fun t => { t with update := .none }) (oobUp_of_fwRuns hfw) 5 0x1A 0 [0, 0]
  have hplan' : (planState s != plNone) = false := by simp [hplan]
  have hnow : (s.toll.actW).isSome = false := by simp [hact]
  cases hu : s.toll.update with
  | inBand c => exact absurd hu (hupd c)
  | _ =>
    simp only [activateFirmware, hu, hfw, hplan', hnow, Bool.not_true, Bool.or_false, Bool.false_eq_true, if_false,
      verifyStaged_of_ok hok, hanswer]
    rfl

end

/-- Settles O56: requests of PLDM type 2 are answered while the firmware runs, those of type 5 follow the update path. -/
theorem monitoringAndUpdateRequests : Obligations.MonitoringAndUpdateRequests := by
  unfold Obligations.MonitoringAndUpdateRequests
  refine ⟨fun s hrom => monitoring_of_romOnly hrom, fun s hfw => ?_,
    fun s hstage => ⟨fun hupd hact => congrArg Host.Outcome.next (requestUpdate_of_free hstage hupd hact),
      fun h => congrArg Host.Outcome.next (requestUpdate_of_taken hstage h)⟩,
    fun s hfw => ⟨fun id d h => congrArg Host.Outcome.next (requestFirmwareData_of_none d h), fun k d hupd hk => ?_,
      fun env => ⟨fun h => congrArg Host.Outcome.next (activateFirmware_of_loaded hfw env h), fun hplan hupd hact hok => ?_⟩⟩⟩
  · have hreply := pldm2_of_fwRuns hfw
    refine ⟨congrArg Host.Outcome.next (hreply ..), fun n h1 hn => congrArg Host.Outcome.next (getPdr_of_handle hfw h1 hn), rfl,
      fun n hn => congrArg Host.Outcome.next (getPdr_of_no_record hfw hn), fun n h1 hn => ?_, fun n hn => ?_,
      congrArg Host.Outcome.next (hreply ..),
      fun v hlow hhigh hstep => congrArg Host.Outcome.next (setNumericEffecterValue_of_valid hfw hlow hhigh hstep),
      fun v hv => congrArg Host.Outcome.next (setNumericEffecterValue_of_invalid hfw hv), fun n hn => ?_, fun n v hn => ?_,
      fun e => congrArg Host.Outcome.next (setEventReceiver_of_fwRuns hfw e)⟩
    · exact congrArg Host.Outcome.next ((if_neg (by omega)).trans (hreply ..))
    · exact congrArg Host.Outcome.next ((if_pos hn).trans (hreply ..))
    · exact congrArg Host.Outcome.next ((if_pos hn).trans (hreply ..))
    · exact congrArg Host.Outcome.next ((if_pos hn).trans (hreply ..))
  · have heq := requestFirmwareData_eq hfw hk d hupd
    refine ⟨fun hw => congrArg Host.Outcome.next ?_, fun hw => congrArg Host.Outcome.next ?_⟩
    · rw [heq, if_neg (by rw [pulled, hw]; decide), pldm_of_up]
      · rfl
      · exact oobUp_of_fwRuns hfw
    · exact heq.trans (if_pos hw)
  · have heq := activateFirmware_of_free hfw env hplan hupd hact hok
    exact ⟨fun h => congrArg Host.Outcome.next (heq.trans (if_pos h)), fun h => congrArg Host.Outcome.next (heq.trans (if_neg h))⟩

-- ------------------------------------------------------------------------------------------------ attestation

section
variable {s : State} {ch : OobChannel}

/-- R414: before the algorithms are agreed on, nothing but the negotiation is served. -/
theorem spdm_of_unnegotiated (hup : spdmUp s ch = true) (hneg : s.toll.negotiated = false) (slot off len i : Nat) (sig : Bool)
    (nonce : List Byte) :
    getDigests s ch = spdmError s ch 4 ∧ getCertificate s ch slot off len = spdmError s ch 4
    ∧ challenge s ch slot nonce = spdmError s ch 4 ∧ getMeasurements s ch i sig nonce = spdmError s ch 4 := by
  refine ⟨?_, ?_, ?_, ?_⟩
  · rw [getDigests, hneg]
    rfl
  · rw [getCertificate, hneg]
    rfl
  · rw [challenge, hup, hneg]
    rfl
  · rw [getMeasurements, hup, hneg]
    rfl

theorem challenge_of_slot0 (hup : spdmUp s ch = true) (hneg : s.toll.negotiated = true) (nonce : List Byte) :
    challenge s ch 0 nonce
      = spdm (drawRandom s 32).1 ch 0x03 0 1
          (sha384 (certChain s.toll) ++ (drawRandom s 32).2 ++ leBytes 2 0
            ++ aliasSign (drawRandom s 32).1 (nonce ++ (sha384 (certChain s.toll) ++ (drawRandom s 32).2 ++ leBytes 2 0))) := by
  rw [challenge, hup, hneg]
  rfl

/-- The measurements that an index of GET_MEASUREMENTS asks for: none for the count, all for 0xFF. -/
def measured (i : Nat) : List Nat := if i = 0 then [] else if i = 0xFF then [1, 2, 3, 4, 5] else [i]

/-- The answer to GET_MEASUREMENTS, before its signature. -/
def measureBody (s : State) (i : Nat) : List Byte :=
  leBytes 1 (measured i).length ++ leBytes 3 ((measured i).flatMap (measureBlock s.toll)).length
    ++ (measured i).flatMap (measureBlock s.toll) ++ (drawRandom s 32).2 ++ leBytes 2 0

theorem getMeasurements_of_index (hup : spdmUp s ch = true) (hneg : s.toll.negotiated = true) {i : Nat} (hi : i ≤ 5 ∨ i = 0xFF)
    (sig : Bool) (nonce : List Byte) :
    getMeasurements s ch i sig nonce = spdm (drawRandom s 32).1 ch 0x60 (if i = 0 then 5 else 0) 0
      (measureBody s i ++ if sig then aliasSign (drawRandom s 32).1 (nonce ++ measureBody s i) else []) := by
  rw [getMeasurements, hup, hneg, if_neg (by decide), if_neg (by decide), if_neg (by omega)]
  rfl

theorem length_aliasSign (m : List Byte) : (aliasSign s m).length = 96 := by simp [aliasSign]

end

/-- Settles O57: the negotiation opens the exchange, and each served request draws the answer of its row. -/
theorem attestationRequests : Obligations.AttestationRequests := by
  unfold Obligations.AttestationRequests
  intro s ch hup
  have hreply := spdm_of_up hup
  have hrefused := spdmError_of_up hup
  have hneg (b : Bool) : setNegotiated s ch b = updToll s fun t => { t with negotiated := b } := if_pos hup
  have hreplyNeg (b : Bool) (code : Nat) (d : List Byte) :
      spdm (setNegotiated s ch b) ch code 0 0 d = replied s { s.toll with negotiated := b } (spdmReply code 0 0 d) := by
    rw [hneg, spdm_of_up]
    · rfl
    · exact hup
  refine ⟨congrArg Host.Outcome.next (hreplyNeg ..), congrArg Host.Outcome.next (hreply ..), congrArg Host.Outcome.next (hreplyNeg ..),
    congrArg Host.Outcome.next (hrefused 1), fun slot off len i sig nonce hno => ?_, fun hyes => ?_, fun m => length_aliasSign m⟩
  · obtain ⟨h1, h2, h3, h4⟩ := spdm_of_unnegotiated hup hno slot off len i sig nonce
    have h := hrefused 4
    exact ⟨congrArg Host.Outcome.next (h1.trans h), congrArg Host.Outcome.next (h2.trans h), congrArg Host.Outcome.next (h3.trans h),
      congrArg Host.Outcome.next (h4.trans h)⟩
  · have hgo : ¬ (!s.toll.negotiated) = true := by simp [hyes]
    have hrun : ¬ (!spdmUp s ch) = true := by simp [hup]
    have hdrawn := spdm_of_up (s := (drawRandom s 32).1) (ch := ch) hup
    refine ⟨?_, fun off len hoff => ?_, fun slot off len hbad => ?_, fun nonce => ?_, fun slot nonce hslot => ?_,
      fun i signed nonce hi => ?_, fun i signed nonce h5 hff => ?_⟩
    · exact congrArg Host.Outcome.next ((if_neg hgo).trans (hreply ..))
    · exact congrArg Host.Outcome.next ((if_neg hgo).trans ((if_neg (by omega)).trans (hreply ..)))
    · exact congrArg Host.Outcome.next ((if_neg hgo).trans ((if_pos hbad).trans (hrefused 1)))
    · exact congrArg Host.Outcome.next ((challenge_of_slot0 hup hyes nonce).trans (hdrawn ..))
    · exact congrArg Host.Outcome.next ((if_neg hrun).trans ((if_neg hgo).trans ((if_pos hslot).trans (hrefused 1))))
    · exact congrArg Host.Outcome.next ((getMeasurements_of_index hup hyes hi signed nonce).trans (hdrawn ..))
    · exact congrArg Host.Outcome.next ((if_neg hrun).trans ((if_neg hgo).trans ((if_pos ⟨h5, hff⟩).trans (hrefused 1))))

end Sys2Proof.Machine

-- ------------------------------------------------------------------------------------------------ JTAG

namespace Sys2Proof.Machine

section
variable {s : State}

/-- The port after a scan under an instruction that shifted `bits` out. -/
def shifted (ir : Nat) (bits : List Bool) (j : Jtag) : Jtag := { j with ir := ir, tdo := j.tdo ++ bits }

/-- A scan under BYPASS, of one bit. -/
theorem jtagScan_bypass (h : s.pw.stage ≠ .off) (tdi : List Bool) : jtagScan s irBypass tdi
    = { s with jtag := shifted irBypass (shiftReg [false] tdi).1 { s.jtag with driving := false, floating := false } } := by
  have hfree : bypassed s irBypass = false := by simp [bypassed]
  rw [jtagScan, if_neg h, hfree]
  rfl

theorem jtagScan_idcode (h : s.pw.stage ≠ .off) (tdi : List Bool) : jtagScan s irIdcode tdi
    = { s with jtag := shifted irIdcode (shiftReg idcodeBits tdi).1 { s.jtag with driving := false, floating := false } } := by
  have hfree : bypassed s irIdcode = false := by simp [bypassed]
  rw [jtagScan, if_neg h, hfree]
  rfl

/-- R440: with a P12V rail on, an instruction that touches the lands is BYPASS. -/
theorem jtagScan_of_bypassed {ir : Nat} (h : bypassed s ir = true) (tdi : List Bool) :
    jtagScan s ir tdi = jtagScan s irBypass tdi := by
  have hfree : bypassed s irBypass = false := by simp [bypassed]
  simp only [jtagScan, h, hfree]
  rfl

/-- A scan of the boundary register, under SAMPLE/PRELOAD or EXTEST. -/
def landsShifted (s : State) (tdi : List Bool) : List Bool × List Bool := shiftReg ((List.range bsrCells).map (landNow s)) tdi

/-- An instruction acts as itself while the P12V rails are off. -/
theorem bypassed_of_off (h : s.pw.rails = false) (ir : Nat) : bypassed s ir = false := by simp [bypassed, h]

theorem jtagScan_sample (h : s.pw.stage ≠ .off) (hoff : s.pw.rails = false) (tdi : List Bool) : jtagScan s irSample tdi
    = { s with
        free := s.free + 1
        jtag := shifted irSample (landsShifted s tdi).1
          { s.jtag with bsr := (landsShifted s tdi).2, driving := false, floating := false } } := by
  rw [jtagScan, if_neg h, bypassed_of_off hoff]
  rfl

theorem jtagScan_extest (h : s.pw.stage ≠ .off) (hoff : s.pw.rails = false) (tdi : List Bool) : jtagScan s irExtest tdi
    = { s with
        free := s.free + 1
        jtag := shifted irExtest (landsShifted s tdi).1
          { s.jtag with
            bsr := (landsShifted s tdi).2, pinsOut := (landsShifted s tdi).2, driving := true, floating := false } } := by
  rw [jtagScan, if_neg h, bypassed_of_off hoff]
  rfl

theorem jtagScan_clamp (h : s.pw.stage ≠ .off) (hoff : s.pw.rails = false) (tdi : List Bool) : jtagScan s irClamp tdi
    = { s with
        jtag := shifted irClamp (shiftReg [false] tdi).1
          { s.jtag with driving := true, floating := false, pinsOut := s.jtag.bsr } } := by
  rw [jtagScan, if_neg h, bypassed_of_off hoff]
  rfl

theorem jtagScan_highz (h : s.pw.stage ≠ .off) (hoff : s.pw.rails = false) (tdi : List Bool) : jtagScan s irHighz tdi
    = { s with jtag := shifted irHighz (shiftReg [false] tdi).1 { s.jtag with driving := false, floating := true } } := by
  rw [jtagScan, if_neg h, bypassed_of_off hoff]
  rfl

theorem idcodeBits_head : idcodeBits.head? = some true := by
  have hodd : idcodeWord % 2 = 1 := by
    simp only [idcodeWord]
    omega
  have hhead : idcodeBits.head? = some (idcodeWord.testBit 0) := rfl
  rw [hhead, Nat.testBit_zero, hodd]
  rfl

end

/-- Settles O60: each instruction's register is shifted, and the lands are reached with the P12V rails off only. -/
theorem jtagScans : Obligations.JtagScans := by
  unfold Obligations.JtagScans
  intro s tdi hstage
  refine ⟨⟨_, congrArg Host.Outcome.next (jtagScan_bypass hstage tdi), rfl, rfl, rfl, rfl⟩,
    ⟨_, congrArg Host.Outcome.next (jtagScan_idcode hstage tdi), rfl, rfl, rfl⟩, by simp [idcodeBits], idcodeBits_head,
    fun hon => ?_, fun hoff => ⟨⟨_, congrArg Host.Outcome.next (jtagScan_sample hstage hoff tdi), rfl, rfl, rfl, rfl, rfl⟩,
      ⟨_, congrArg Host.Outcome.next (jtagScan_extest hstage hoff tdi), rfl, rfl, rfl, rfl, rfl⟩,
      ⟨_, congrArg Host.Outcome.next (jtagScan_clamp hstage hoff tdi), rfl, rfl, rfl, rfl⟩,
      ⟨_, congrArg Host.Outcome.next (jtagScan_highz hstage hoff tdi), rfl, rfl, rfl, rfl⟩⟩⟩
  have hbypassed (ir : Nat) (hir : 2 ≤ ir) : bypassed s ir = true := by
    have h0 : ir ≠ irBypass := fun h => by rw [h] at hir; exact absurd hir (by decide)
    have h1 : ir ≠ irIdcode := fun h => by rw [h] at hir; exact absurd hir (by decide)
    simp [bypassed, hon, h0, h1]
  have hsame (ir : Nat) (hir : 2 ≤ ir) := congrArg (Host.Outcome.next (φ := Fault) (ρ := Refusal))
    (jtagScan_of_bypassed (hbypassed ir hir) tdi)
  simp only [List.forall_mem_cons, List.not_mem_nil, false_imp_iff, implies_true, and_true]
  exact ⟨hsame irSample (by decide), hsame irExtest (by decide), hsame irClamp (by decide), hsame irHighz (by decide)⟩

end Sys2Proof.Machine

-- ------------------------------------------------------------------------------------------------ the event log

namespace Sys2Proof.Machine

section
variable {s : State} {e : Event} {ended : Option W64}

/-- The record that keeping an event makes (R403): the next number, the beat, and whether it closes a window. -/
def eventRecOf (s : State) (e : Event) (ended : Option W64) : EventRec :=
  { beat := ended.getD s.beat.number, seqno := s.toll.seqno, ev := e,
    flags := BitVec.ofNat 8 ((if ended.isSome then 1 else 0) + (if s.toll.persistLost then 2 else 0)) }

/-- A record is kept by the Tollhouse's log alone. -/
theorem keepRecord_toll_eq (c : Nat) (t : Toll) (r : EventRec) (p : Power → Power) (console : Bool) (s : State) :
    (if console then updPw (updToll s fun _ =>
        { t with seqno := t.seqno + 1, sramLog := (t.sramLog ++ [r]).drop ((t.sramLog ++ [r]).length - c),
                 unsaved := t.unsaved ++ [r.seqno], persistLost := false }) p
      else updToll s fun _ =>
        { t with seqno := t.seqno + 1, sramLog := (t.sramLog ++ [r]).drop ((t.sramLog ++ [r]).length - c),
                 unsaved := t.unsaved ++ [r.seqno], persistLost := false }).toll
      = { t with seqno := t.seqno + 1, sramLog := (t.sramLog ++ [r]).drop ((t.sramLog ++ [r]).length - c),
                 unsaved := t.unsaved ++ [r.seqno], persistLost := false } := by
  cases console <;> rfl

theorem keepRecord_toll (s : State) (e : Event) (ended : Option W64) : (keepRecord s e ended).toll
    = { s.toll with seqno := s.toll.seqno + 1
                    sramLog := (s.toll.sramLog ++ [eventRecOf s e ended]).drop ((s.toll.sramLog ++ [eventRecOf s e ended]).length - 8192)
                    unsaved := s.toll.unsaved ++ [s.toll.seqno], persistLost := false } :=
  keepRecord_toll_eq ..

/-- The last record of a log that drops its oldest is the one just kept. -/
theorem getLast?_drop_append (l : List EventRec) (r : EventRec) {c : Nat} (hc : 0 < c) :
    ((l ++ [r]).drop ((l ++ [r]).length - c)).getLast? = some r := by
  rw [List.drop_append_of_le_length (by rw [List.length_append, List.length_singleton]; omega)]
  exact List.getLast?_concat

theorem keepRecord_last (s : State) (e : Event) (ended : Option W64) :
    (keepRecord s e ended).toll.sramLog.getLast? = some (eventRecOf s e ended) := by
  simp only [keepRecord_toll]
  rw [getLast?_drop_append (c := 8192) _ _ (by decide)]

/-- The number of the window-closing record has its bit set (R404). -/
theorem recordOf_flags (s : State) (e : Event) (b : W64) : (eventRecOf s e (some b)).flags.toNat.testBit 0 = true := by
  simp only [eventRecOf, Option.isSome_some, if_true]
  cases s.toll.persistLost <;> decide

-- ------------------------------------------------------------------------------------------------ windows

/-- The event with the status that a record keeps (R96). -/
def recordedEvent (e : Event) : Event :=
  { e with status := BitVec.ofNat 8 (if e.status.toNat = stAccepted ∨ isInformational e.status.toNat then e.status.toNat
      else finalStatus e.status.toNat) }

theorem eventRecord_eq (hrun : s.pw.stage ≠ .off) (e : Event) : eventRecord s e
    = if e.severity = 3 then keepRecord s (recordedEvent e) none
      else windowEntered (windowClosed s (recordedEvent e)) (recordedEvent e) := by
  have hup : (!tollRuns s) = false := by rw [tollRuns, bne_iff_ne.2 hrun]; rfl
  refine (logEvent_eq s (recordedEvent e)).trans ?_
  rw [hup]
  rfl

theorem windowClosed_of_open {x : Window} (hw : windowOf s e.source e.code e.unit = some x) (hopen : windowOver s x = false) :
    windowClosed s e = s := by
  simp only [windowClosed, hw, hopen]
  rfl

theorem windowClosed_of_none (hw : windowOf s e.source e.code e.unit = none) : windowClosed s e = s := by
  simp only [windowClosed, hw]

theorem windowClosed_of_over {x : Window} (hw : windowOf s e.source e.code e.unit = some x) (hover : windowOver s x = true) :
    windowClosed s e = closeWindow s x := by
  simp only [windowClosed, hw, hover]
  rfl

theorem windowEntered_of_none (hw : windowOf s e.source e.code e.unit = none) :
    windowEntered s e = keepRecord (addWindow (openedWindow s e) s) e none := by
  simp only [windowEntered, hw]

theorem windowEntered_of_room {x : Window} (hw : windowOf s e.source e.code e.unit = some x) (hkept : x.kept < 16) :
    windowEntered s e = keepRecord (addWindow (enteredWindow x e) (dropWindow s x.source x.code x.unit)) e none := by
  simp only [windowEntered, hw, hkept, if_true]

theorem windowEntered_of_full {x : Window} (hw : windowOf s e.source e.code e.unit = some x) (hkept : 16 ≤ x.kept) :
    windowEntered s e = addWindow { x with extra := x.extra + 1, last := e } (dropWindow s x.source x.code x.unit) := by
  simp only [windowEntered, hw, enteredWindow, if_neg (Nat.not_lt.2 hkept)]

/-- The triple of the window that a search finds. -/
theorem windowOf_triple {x : Window} {source code unit : Nat} (h : windowOf s source code unit = some x) :
    x.source = source ∧ x.code = code ∧ x.unit = unit := by
  have hhit := List.find?_some h
  simp only [Bool.and_eq_true, beq_iff_eq] at hhit
  obtain ⟨⟨h1, h2⟩, h3⟩ := hhit
  exact ⟨h1, h2, h3⟩

/-- A window dropped is no longer found. -/
theorem windowOf_dropWindow (source code unit : Nat) : windowOf (dropWindow s source code unit) source code unit = none := by
  refine List.find?_eq_none.2 fun w hw hhit => ?_
  have hkept := (List.mem_filter.1 hw).2
  rw [Bool.not_eq_true'] at hkept
  exact absurd hhit (by rw [hkept]; decide)

theorem windowOf_keepRecord (source code unit : Nat) : windowOf (keepRecord s e ended) source code unit = windowOf s source code unit := by
  simp only [windowOf, keepRecord_toll]

theorem windowOf_closeWindow (x : Window) : windowOf (closeWindow s x) x.source x.code x.unit = none := by
  simp only [closeWindow]
  split
  · exact windowOf_dropWindow ..
  · rw [windowOf_keepRecord]
    exact windowOf_dropWindow ..

theorem closeWindow_of_none {x : Window} (h : x.extra = 0) : closeWindow s x = dropWindow s x.source x.code x.unit := if_pos h

theorem closeWindow_of_extra {x : Window} (h : x.extra ≠ 0) : closeWindow s x
    = keepRecord (dropWindow s x.source x.code x.unit) { x.last with detail0 := BitVec.ofNat 32 x.extra } (some (x.opened + 1024)) :=
  if_neg h

theorem closeWindow_seqno (x : Window) : (closeWindow s x).toll.seqno = s.toll.seqno + (if x.extra = 0 then 0 else 1) := by
  by_cases h : x.extra = 0
  · rw [closeWindow_of_none h, if_pos h]
    simp [dropWindow, updToll]
  · rw [closeWindow_of_extra h, if_neg h, keepRecord_toll]
    rfl

end

/-- Settles O54: the record kept is the next of the log, a full window counts, and a window over gives its count. -/
theorem eventsAreLogged : Obligations.EventsAreLogged := by
  unfold Obligations.EventsAreLogged
  refine ⟨fun s e hrun => ?_, fun s source code unit w hw => ⟨fun hopen => ?_, fun hover => ?_⟩, fun s hfw => ?_⟩
  · have heq := eventRecord_eq hrun e
    refine ⟨fun hkeep => ?_, fun hsev x hw => ⟨fun hopen hfull => ?_, fun hover => ?_⟩⟩
    · have hkept : ∃ b : State, eventRecord s e = keepRecord b (recordedEvent e) none ∧ b.toll.seqno = s.toll.seqno
          ∧ b.toll.unsaved = s.toll.unsaved ∧ b.beat = s.beat ∧ b.ks = s.ks ∧ b.host = s.host ∧ b.dram = s.dram := by
        by_cases hsev : e.severity = 3
        · exact ⟨s, heq.trans (if_pos hsev), rfl, rfl, rfl, rfl, rfl, rfl⟩
        · rw [if_neg hsev] at heq
          obtain hsev' | hnone | ⟨x, hx, hopen, hroom⟩ := hkeep
          · exact absurd hsev' hsev
          · have hclosed := windowClosed_of_none (e := recordedEvent e) hnone
            rw [hclosed, windowEntered_of_none (e := recordedEvent e) hnone] at heq
            exact ⟨_, heq, rfl, rfl, rfl, rfl, rfl, rfl⟩
          · have hclosed := windowClosed_of_open (e := recordedEvent e) hx hopen
            rw [hclosed, windowEntered_of_room (e := recordedEvent e) hx hroom] at heq
            exact ⟨_, heq, rfl, rfl, rfl, rfl, rfl, rfl⟩
      obtain ⟨b, hb, hseq, hunsaved, hbeat, hks, hhost, hdram⟩ := hkept
      refine ⟨_, eventRecOf b (recordedEvent e) none, congrArg Host.Outcome.next hb, keepRecord_last .., rfl, hseq,
        congrArg Beat.number hbeat, ?_, ?_, ?_, ?_, ?_⟩
      · rw [keepRecord_toll, hseq]
      · rw [keepRecord_toll, hunsaved]
        rfl
      · rw [keepRecord_ks, hks]
      · rw [keepRecord_host, hhost]
      · rw [keepRecord_dram, hdram]
    · have hclosed := windowClosed_of_open (e := recordedEvent e) hw hopen
      rw [if_neg hsev, hclosed, windowEntered_of_full (e := recordedEvent e) hw hfull] at heq
      exact ⟨_, congrArg Host.Outcome.next heq, rfl, rfl, List.mem_append_right _ (List.mem_singleton.2 rfl), rfl⟩
    · have hclosed := windowClosed_of_over (e := recordedEvent e) hw hover
      have hnone : windowOf (closeWindow s x) (recordedEvent e).source (recordedEvent e).code (recordedEvent e).unit = none := by
        obtain ⟨h1, h2, h3⟩ := windowOf_triple hw
        have h := windowOf_closeWindow (s := s) x
        rwa [h1, h2, h3] at h
      rw [if_neg hsev, hclosed, windowEntered_of_none (e := recordedEvent e) hnone] at heq
      refine ⟨_, _, congrArg Host.Outcome.next heq, keepRecord_last .., rfl, closeWindow_seqno x, ?_, ?_, ?_⟩
      · rw [keepRecord_ks]
        exact closeWindow_ks ..
      · rw [keepRecord_host]
        exact closeWindow_host ..
      · rw [keepRecord_dram]
        exact closeWindow_dram ..
  · refine congrArg Host.Outcome.next ?_
    simp only [coalesceWindowEnd, hw, hopen]
    rfl
  · have heq : coalesceWindowEnd s source code unit = closeWindow s w := by
      simp only [coalesceWindowEnd, hw, hover]
      rfl
    have hgone : windowOf (closeWindow s w) source code unit = none := by
      obtain ⟨h1, h2, h3⟩ := windowOf_triple hw
      have h := windowOf_closeWindow (s := s) w
      rwa [h1, h2, h3] at h
    refine ⟨_, congrArg Host.Outcome.next heq, hgone, closeWindow_ks .., closeWindow_host .., closeWindow_dram ..,
      fun h => ?_, fun h => ?_⟩
    · rw [closeWindow_of_none h]
      rfl
    · rw [closeWindow_of_extra h]
      exact ⟨_, keepRecord_last .., rfl, recordOf_flags .., rfl, rfl⟩
  · have heq : logPersist s = updToll s persist := by
      rw [logPersist, hfw]
      rfl
    refine ⟨_, congrArg Host.Outcome.next heq, rfl, rfl, rfl, fun hfits => ?_⟩
    refine if_neg (Nat.not_lt.2 ?_)
    rw [List.length_append]
    exact Nat.le_trans (Nat.add_le_add_left (List.length_filter_le ..) _) hfits

end Sys2Proof.Machine

-- ------------------------------------------------------------------------------------------------ pace matching

namespace Sys2Proof.Machine

section
variable {s t : State} {b c tmax tmed : Nat}

/-- A state without what the steps of pace matching write: voltages and the bays that power held back. -/
def steady (s : State) : State := { s with sp := { s.sp with volts := [], powerHeld := [] } }

/-- The voltage that R30 gives a bay. -/
def bayStep (s : State) (tmax tmed b : Nat) : Nat :=
  if tabGet 0 s.ks.armed.regs b ≠ 0 ∨ bayHeld s b = true then paceVolt s b
  else if 100 * tabGet 0 s.sp.lastBusy b < 98 * tmax ∧ 550 < paceVolt s b then paceVolt s b - 5
  else if 102 * tmed < 100 * tabGet 0 s.sp.lastBusy b ∧ paceVolt s b < 850 ∧ powerAllows s b (paceVolt s b) = true then
    paceVolt s b + 5
  else paceVolt s b

theorem steady_ks (h : steady t = steady s) : t.ks = s.ks := (congrArg State.ks h :)
theorem steady_dram (h : steady t = steady s) : t.dram = s.dram := (congrArg State.dram h :)
theorem steady_times (h : steady t = steady s) (pier : Nat) : timesOf t pier = timesOf s pier :=
  (congrArg (fun u : State => timesOf u pier) h :)

/-- R31 looks at the readings and the power limit, not at the voltages. -/
theorem powerAllows_congr (h : steady t = steady s) (v : Nat) : powerAllows t b v = powerAllows s b v :=
  (congrArg (fun u => powerAllows u b v) h :)

theorem bayStep_congr (h : steady t = steady s) (hv : paceVolt t b = paceVolt s b) :
    bayStep t tmax tmed b = bayStep s tmax tmed b := by
  have hregs : t.ks.armed.regs = s.ks.armed.regs := (congrArg (fun u : State => u.ks.armed.regs) h :)
  have hheld : bayHeld t b = bayHeld s b := (congrArg (fun u => bayHeld u b) h :)
  have hbusy : t.sp.lastBusy = s.sp.lastBusy := (congrArg (fun u : State => u.sp.lastBusy) h :)
  simp only [bayStep, hv, hregs, hheld, hbusy, powerAllows_congr h]

/-- One bay's step: its voltage, and no other's. -/
theorem stepBay_steps (hwf : tabWf 700 s.sp.volts = true) :
    steady (stepBay tmax tmed s b) = steady s ∧ tabWf 700 (stepBay tmax tmed s b).sp.volts = true
    ∧ ∀ c, paceVolt (stepBay tmax tmed s b) c = if c = b then bayStep s tmax tmed b else paceVolt s c := by
  have hset (v : Nat) : ∀ c, tabGet 700 (tabSet 700 s.sp.volts b v) c = if c = b then v else paceVolt s c :=
    fun c => tabGet_tabSet hwf
  have hsame : ∀ c, paceVolt s c = if c = b then paceVolt s b else paceVolt s c := fun c => by
    split
    next hc =>
      rw [hc]
    next hc =>
      rfl
  simp only [stepBay, bayStep]
  by_cases hfixed : tabGet 0 s.ks.armed.regs b ≠ 0 ∨ bayHeld s b = true
  · rw [if_pos hfixed, if_pos hfixed]
    exact ⟨rfl, hwf, hsame⟩
  rw [if_neg hfixed, if_neg hfixed]
  by_cases hdown : 100 * tabGet 0 s.sp.lastBusy b < 98 * tmax ∧ 550 < paceVolt s b
  · rw [if_pos hdown, if_pos hdown]
    exact ⟨rfl, tabSet_wf hwf, hset _⟩
  rw [if_neg hdown, if_neg hdown]
  by_cases hup : 102 * tmed < 100 * tabGet 0 s.sp.lastBusy b ∧ paceVolt s b < 850
  · rw [if_pos hup]
    by_cases hpower : powerAllows s b (paceVolt s b) = true
    · rw [if_pos hpower, if_pos ⟨hup.1, hup.2, hpower⟩]
      exact ⟨rfl, tabSet_wf hwf, hset _⟩
    · rw [if_neg hpower, if_neg fun h => hpower h.2.2]
      exact ⟨rfl, hwf, hsame⟩
  · rw [if_neg hup, if_neg fun h => hup ⟨h.1, h.2.1⟩]
    exact ⟨rfl, hwf, hsame⟩

/-- The steps of several bays, each from the voltages before the decision. -/
theorem foldl_stepBay {l : List Nat} (hl : l.Nodup) (hwf : tabWf 700 s.sp.volts = true) :
    steady (l.foldl (stepBay tmax tmed) s) = steady s
    ∧ ∀ c, paceVolt (l.foldl (stepBay tmax tmed) s) c = if c ∈ l then bayStep s tmax tmed c else paceVolt s c := by
  induction l generalizing s with
  | nil => exact ⟨rfl, fun c => rfl⟩
  | cons b l ih =>
    obtain ⟨hb, hl⟩ := List.nodup_cons.1 hl
    obtain ⟨hsteady, hwf', hvolt⟩ := stepBay_steps (tmax := tmax) (tmed := tmed) (b := b) hwf
    obtain ⟨ihsteady, ihvolt⟩ := ih hl hwf'
    refine ⟨ihsteady.trans hsteady, fun c => (ihvolt c).trans ?_⟩
    by_cases hc : c = b
    · subst hc
      rw [if_neg hb, hvolt, if_pos rfl, if_pos List.mem_cons_self]
    · have hcv : paceVolt (stepBay tmax tmed s b) c = paceVolt s c := (hvolt c).trans (if_neg hc)
      rw [bayStep_congr hsteady hcv, hcv]
      simp only [List.mem_cons, hc, false_or]

-- ------------------------------------------------------------------------------------------------ laggards

/-- What the search for a laggard leaves of the spans: all but its counts and moves. -/
def noLag (p : Spans) : Spans := { p with lag := 0, slow := [], moves := [] }

/-- What is looked at here of a state: the spans but for the laggard's counts, the Keystone and DRAM. -/
def lagLeft (s : State) : Spans × Keystone × Dram := (noLag s.sp, s.ks, s.dram)

theorem lagLeft_note (s : State) (e : Event) (n : Nat) : lagLeft (raiseIrq (logEvent s e) n) = lagLeft s := by
  simp only [lagLeft, raiseIrq_sp, raiseIrq_ks, raiseIrq_dram, logEvent_sp, logEvent_ks, logEvent_dram]

theorem lagLeft_lag (s : State) (n : Nat) : lagLeft (updSp s fun q => { q with lag := n }) = lagLeft s := rfl

theorem lagLeft_slow (s : State) (f : Tab Nat → Tab Nat) : lagLeft (updSp s fun q => { q with slow := f q.slow }) = lagLeft s := rfl

theorem lagLeft_countSlow (s : State) : lagLeft (countSlow s) = lagLeft s :=
  lagLeft_slow s fun slow => (List.range 512).foldl (fun t x => tabSet 0 t x (if slowSpan s x then tabGet 0 slow x + 1 else 0)) slow

theorem lagLeft_moves (s : State) (l : List Nat) : lagLeft (updSp s fun q => { q with moves := l }) = lagLeft s := rfl

theorem laggard_left (s : State) (own tmed : Nat) : lagLeft (laggard s own tmed) = lagLeft s := by
  unfold laggard
  generalize (if lagsNow s own tmed = true then s.sp.lag + 1 else 0) = n
  dsimp only
  split
  · rw [lagLeft_lag, lagLeft_countSlow]
  · split
    · split
      · rw [lagLeft_note, lagLeft_lag, lagLeft_countSlow]
      · rw [lagLeft_moves, lagLeft_note, lagLeft_lag, lagLeft_countSlow]
    · rw [lagLeft_note, lagLeft_lag, lagLeft_countSlow]

theorem laggard_volts (own tmed : Nat) (b : Nat) : paceVolt (laggard s own tmed) b = paceVolt s b :=
  (congrArg (fun x : Spans × Keystone × Dram => tabGet 700 x.1.volts b) (laggard_left s own tmed) :)

theorem laggard_times (own tmed : Nat) (pier : Nat) : timesOf (laggard s own tmed) pier = timesOf s pier :=
  (congrArg (fun x : Spans × Keystone × Dram => (x.1.segTimes.filter fun y => y.1 == pier).map (·.2)) (laggard_left s own tmed) :)

theorem laggard_ks (own tmed : Nat) : (laggard s own tmed).ks = s.ks := (congrArg (fun x => x.2.1) (laggard_left s own tmed) :)

theorem laggard_dram (own tmed : Nat) : (laggard s own tmed).dram = s.dram := (congrArg (fun x => x.2.2) (laggard_left s own tmed) :)

/-- The state at the decision: the pier's times taken. -/
def timesTaken (s : State) (pier : Nat) : State :=
  updSp s fun q => { q with powerHeld := [], segTimes := q.segTimes.filter fun x => x.1 != pier }

theorem timesOf_timesTaken (pier : Nat) : timesOf (timesTaken s pier) pier = [] := by
  have hnone : (s.sp.segTimes.filter fun x => x.1 != pier).filter (fun x => x.1 == pier) = [] := by
    rw [List.filter_filter, List.filter_eq_nil_iff]
    intro x _
    cases h : x.1 == pier <;> simp [bne, h]
  exact congrArg (List.map (·.2)) hnone

/-- PACE_MATCH_DECISION once the group's times are held. -/
theorem paceMatchDecision_of_held {p : Plan} {pier : Nat} (hplan : s.ks.plan = some p) (hpier : s.ks.lastPier = some pier)
    (hrun : planState s = plRunning) (hpace : s.ks.pace.1 = 0)
    (htimes : ∀ r, r < p.ringLength → ∃ t, (r, t) ∈ timesOf s pier) :
    paceMatchDecision s = laggard ((List.range 32).foldl (stepBay (groupTimes ((timesOf s pier).map (·.2))).1
        (groupTimes ((timesOf s pier).map (·.2))).2) (timesTaken s pier))
      (((timesOf s pier).find? fun x => x.1 == p.ringPos).map (·.2) |>.getD 0) (groupTimes ((timesOf s pier).map (·.2))).2 := by
  have hall : ((List.range p.ringLength).all fun r => (timesOf s pier).any fun x => x.1 == r) = true := by
    refine List.all_eq_true.2 fun r hr => ?_
    obtain ⟨time, ht⟩ := htimes r (List.mem_range.1 hr)
    exact List.any_eq_true.2 ⟨_, ht, beq_self_eq_true r⟩
  have hstays : (timesTaken s pier).ks.pace.1 = 0 := hpace
  simp only [paceMatchDecision, hplan, hpier]
  rw [if_neg (by simp [hrun, hall])]
  exact congrArg (fun u => laggard u _ _) (if_pos hstays)

-- ------------------------------------------------------------------------------------------------ bearings, segment times

theorem bearingTimeout_of_free {q : Option Nat} {b : Bearing} (hstage : s.pw.stage ≠ .off) (hfree : bearingHeld s b = false) :
    bearingTimeout s b q = replayFault (match q with
      | none => notifyFault s (mkEvent stBearing srcToll 2 (bearingUnit b) evFault (q.getD 0) 0)
      | some x => updIssued (notifyFault s (mkEvent stBearing srcToll 2 (bearingUnit b) evFault (q.getD 0) 0)) x
          fun i => { i with status := stBearing }) stBearing := by
  unfold bearingTimeout
  exact if_neg (by simp [hstage, hfree])

theorem replayFault_of_no_plan (h : s.ks.plan = none) (status : Nat) : replayFault s status = s := by
  simp only [replayFault, h]

/-- A segment time of another member of this group, recorded. -/
def timeNoted (s : State) (pier origin time : Nat) : State :=
  updSp s fun q =>
    { q with segTimes := q.segTimes.filter (fun x => !(x.1 == pier && x.2.1 == origin)) ++ [(pier, origin, time)] }

theorem segmentTimeMsg_of_member {p : Plan} {x : Ctl} {pier origin time : Nat} (hplan : s.ks.plan = some p)
    (htag : x.tag = BitVec.ofNat 32 p.groupTag) (hown : origin ≠ p.ringPos) (hlt : origin < p.ringLength) :
    segmentTimeMsg s x pier origin time = match s.via.formed with
      | none => timeNoted s pier origin time
      | some f => if (p.ringPos + 1) % p.ringLength = origin then timeNoted s pier origin time
          else sendNext (timeNoted s pier origin time) f.plusPort fun c => .segmentTime c pier origin time := by
  simp only [segmentTimeMsg, hplan]
  rw [if_neg (by simp [htag, hown, Nat.not_le.2 hlt])]
  rfl

end

/-- Settles O34: each bay steps from the voltages before the decision, and a bearing's timeout is a local fault. -/
theorem paceMatchingAndBearings : Obligations.PaceMatchingAndBearings := by
  unfold Obligations.PaceMatchingAndBearings
  refine ⟨fun s p pier hplan hpier hrun hpace htimes hwf => ?_,
    ⟨fun s b q hheld => congrArg Host.Outcome.next (if_pos (Or.inr hheld)), fun s b q hstage hfree => ?_⟩,
    fun s p c pier origin time hplan htag hown hlt => ?_⟩
  · intro g
    have heq := paceMatchDecision_of_held hplan hpier hrun hpace htimes
    obtain ⟨hsteady, hvolts⟩ := foldl_stepBay (s := timesTaken s pier) (tmax := g.1) (tmed := g.2) (List.nodup_range (n := 32)) hwf
    refine ⟨_, congrArg Host.Outcome.next heq, ?_, ?_, ?_, fun b hb => ?_⟩
    · rw [laggard_ks, steady_ks hsteady]
      rfl
    · rw [laggard_dram, steady_dram hsteady]
      rfl
    · rw [laggard_times, steady_times hsteady, timesOf_timesTaken]
    · rw [laggard_volts]
      exact (hvolts b).trans (if_pos (List.mem_range.2 hb))
  · have heq (q : Option Nat) := bearingTimeout_of_free (q := q) hstage hfree
    refine ⟨lastFault_notifyFault .., fun h => ?_, fun h hnone => ?_, fun x h => ?_⟩
    · subst h
      exact congrArg Host.Outcome.next (heq none)
    · subst h
      exact congrArg Host.Outcome.next ((heq none).trans (replayFault_of_no_plan (by simpa using hnone) _))
    · subst h
      exact congrArg Host.Outcome.next (heq (some x))
  · have heq := segmentTimeMsg_of_member (time := time) (pier := pier) hplan htag hown hlt
    refine ⟨fun hlast => congrArg Host.Outcome.next (heq.trans ?_), fun f hf hmore => congrArg Host.Outcome.next (heq.trans ?_)⟩
    · simp only [hlast, if_true]
      cases s.via.formed <;> rfl
    · simp only [hf, hmore, if_false]
      rfl

end Sys2Proof.Machine

-- ------------------------------------------------------------------------------------------------ the beat

namespace Sys2Proof.Machine

section
variable {s : State}

-- -------------------------------------------------------------------------------- locking

theorem lockBeat_of_unlocked {b : Beat}
    (h : b.lead = none ∨ b.upstream = none ∨ b.locked = true ∨ 2 < b.diff.natAbs) : lockBeat b = b := by
  cases hl : b.lead with
  | none => simp only [lockBeat, hl]
  | some l =>
    rw [hl] at h
    have hstop : (b.upstream.isNone || b.locked || decide (2 < b.diff.natAbs)) = true := by
      simpa [Option.isNone_iff_eq_none, or_assoc] using h
    simp only [lockBeat, hl, hstop, if_true]

theorem lockBeat_of_near {b : Beat} {l : W64} (hlead : b.lead = some l) (hup : b.upstream ≠ none) (hlocked : b.locked = false)
    (hnear : b.diff.natAbs ≤ 2) : lockBeat b = { b with
      locked := true
      adopted := true
      number := b.number + (if b.adopted then 0 else l)
      lead := some (l - (if b.adopted then 0 else l))
      markerAt := b.markerAt.map (· + (if b.adopted then 0 else l)) } := by
  have hgo : (b.upstream.isNone || b.locked || decide (2 < b.diff.natAbs)) = false := by
    simp [hlocked, Nat.not_lt.2 hnear, Option.isNone_eq_false_iff, Option.isSome_iff_ne_none, hup]
  simp only [lockBeat, hlead, hgo, Bool.false_eq_true, if_false]

/-- R13: the number moves at the first lock only. -/
theorem lockBeat_number_of_adopted {b : Beat} (h : b.adopted = true) : (lockBeat b).number = b.number := by
  by_cases hgo : b.lead = none ∨ b.upstream = none ∨ b.locked = true ∨ 2 < b.diff.natAbs
  · rw [lockBeat_of_unlocked hgo]
  · simp only [not_or, Bool.not_eq_true, Nat.not_lt] at hgo
    obtain ⟨hlead, hup, hlocked, hnear⟩ := hgo
    obtain ⟨l, hl⟩ := Option.ne_none_iff_exists'.1 hlead
    rw [lockBeat_of_near hl hup hlocked hnear]
    simp [h]

/-- What a lock leaves of the beat: its length, phase and neighbours. -/
theorem lockBeat_left (b : Beat) : (lockBeat b).ticks = b.ticks ∧ (lockBeat b).length = b.length ∧ (lockBeat b).diff = b.diff
    ∧ (lockBeat b).upstream = b.upstream ∧ (lockBeat b).portHops = b.portHops := by
  unfold lockBeat
  cases b.lead with
  | none => exact ⟨rfl, rfl, rfl, rfl, rfl⟩
  | some l =>
    dsimp only
    split <;> exact ⟨rfl, rfl, rfl, rfl, rfl⟩

theorem lockNow_beat (s : State) : (lockNow s).beat = lockBeat s.beat := by
  simp only [lockNow]
  split <;> rfl

/-- Locking touches the beat, the host's BEAT bit and the log's windows. -/
theorem lockNow_left (s : State) : (lockNow s).ks = s.ks ∧ (lockNow s).dram = s.dram ∧ (lockNow s).via = s.via := by
  simp only [lockNow]
  split <;> exact ⟨rfl, rfl, rfl⟩

/-- R404: the windows move with the number. -/
theorem lockNow_toll (s : State) : (lockNow s).toll = { s.toll with windows := s.toll.windows.map fun w =>
    { w with opened := w.opened + ((lockBeat s.beat).number - s.beat.number) } } := by
  simp only [lockNow]
  split
  next h =>
    have hzero : (lockBeat s.beat).number - s.beat.number = 0 := h
    have hsame : (fun w : Window => { w with opened := w.opened + ((lockBeat s.beat).number - s.beat.number) }) = id := by
      funext w
      rw [hzero, show w.opened + (0 : W64) = w.opened from BitVec.add_zero _]
      rfl
    rw [hsame, List.map_id]
    rfl
  next h =>
    rfl

-- -------------------------------------------------------------------------------- the boundary

/-- The beat that begins (R13, R14 rule 4), before it may lock. -/
def begunBeat (s : State) : Beat :=
  { s.beat with
    number := s.beat.number + 1
    ticks := s.beat.ticks + s.beat.length
    length := nextLength s
    sinceCorr := if nextLength s = 160 then s.beat.sinceCorr + 1 else 1
    corrections := s.beat.corrections + (if nextLength s = 160 then 0 else 1)
    diff := s.beat.diff + ((nextLength s : Int) - 160) }

theorem advanceBeat_eq (s : State) : advanceBeat s = lockNow { s with beat := begunBeat s } := rfl

/-- What counting at a boundary leaves alone: the beat, the plan, the links, the log and the bytes of DRAM. -/
def uncounted (s : State) : Beat × Keystone × Viaduct × Toll × Tab Byte := (s.beat, s.ks, s.via, s.toll, s.dram.mem)

theorem uncounted_ageHits (s : State) : uncounted (ageHits s) = uncounted s := by
  rw [ageHits]
  split <;> rfl

theorem uncounted_noteSectors (s : State) (a : BeatActivity) : uncounted (noteSectors s a) = uncounted s := by
  rw [noteSectors]
  split <;> rfl

theorem uncounted_updSp (s : State) (f : Spans → Spans) : uncounted (updSp s f) = uncounted s := rfl
theorem uncounted_updTre (s : State) (f : Trestle → Trestle) : uncounted (updTre s f) = uncounted s := rfl
theorem uncounted_updHost (s : State) (f : HostIf → HostIf) : uncounted (updHost s f) = uncounted s := rfl

theorem uncounted_beatBoundary (hstage : s.pw.stage ≠ .off) (a : BeatActivity) :
    uncounted (beatBoundary s a) = uncounted (advanceBeat s) := by
  simp only [beatBoundary, if_neg hstage, countLate, noteEvents, countActivity, noteActivity, noteCells_eq, uncounted_updTre,
    uncounted_updHost, uncounted_updSp, uncounted_noteSectors, uncounted_ageHits]

theorem nextLength_of_quiet (h : s.beat.upstream = none ∨ s.beat.sinceCorr < 16 ∨ (-2 ≤ s.beat.diff ∧ s.beat.diff ≤ 2)) :
    nextLength s = 160 := by
  by_cases hfirst : (isRoot s || decide (s.beat.sinceCorr < 16)) = true
  · exact if_pos hfirst
  · refine (if_neg hfirst).trans ?_
    simp only [isRoot, Bool.or_eq_true, Option.isNone_iff_eq_none, decide_eq_true_eq, not_or] at hfirst
    obtain ⟨hlow, hhigh⟩ := (h.resolve_left hfirst.1).resolve_left hfirst.2
    rw [if_neg (by omega), if_neg (by omega)]

theorem nextLength_of_follower (hup : s.beat.upstream ≠ none) (hdue : 16 ≤ s.beat.sinceCorr) :
    nextLength s = if 2 < s.beat.diff then 159 else if s.beat.diff < -2 then 161 else 160 := by
  have hgo : (isRoot s || decide (s.beat.sinceCorr < 16)) = false := by
    simp [isRoot, Option.isNone_eq_false_iff, Option.isSome_iff_ne_none, hup, hdue]
  simp only [nextLength, hgo, Bool.false_eq_true, if_false]

-- -------------------------------------------------------------------------------- markers

/-- Choosing the upstream anew leaves the number, what was heard and measured, and locks to no new upstream. -/
theorem retime_beat (s : State) : (retime s).beat.number = s.beat.number ∧ (retime s).beat.portHops = s.beat.portHops
    ∧ (retime s).beat.delays = s.beat.delays ∧ (retime s).beat.adopted = s.beat.adopted
    ∧ ((retime s).beat.upstream ≠ none → s.beat.locked = false → (retime s).beat.locked = false) := by
  simp only [retime]
  split
  · exact ⟨rfl, rfl, rfl, rfl, fun h => absurd rfl h⟩
  · split
    · exact ⟨rfl, rfl, rfl, rfl, fun h => absurd rfl h⟩
    · refine ⟨rfl, rfl, rfl, rfl, fun _ h => ?_⟩
      simp [showLock, h]

theorem retime_left (s : State) : (retime s).ks = s.ks ∧ (retime s).dram = s.dram ∧ (retime s).via = s.via := by
  simp only [retime]
  split
  · exact ⟨rfl, rfl, rfl⟩
  · split <;> exact ⟨rfl, rfl, rfl⟩

theorem portOf_setPort {n m : Nat} {p : Port} (hwf : tabWf Port.reset s.via.ports = true) :
    portOf (setPort s n p) m = if m = n then p else portOf s m := tabGet_tabSet hwf

theorem foldl_sendPlain_other {l : List Nat} (kind : Nat) (b : Nat → List Byte) {s : State}
    (hwf : tabWf Port.reset s.via.ports = true) {n : Nat} (hn : n ∉ l) :
    portOf (l.foldl (fun t n => sendPlain t n kind (b n)) s) n = portOf s n := by
  induction l generalizing s with
  | nil => rfl
  | cons k l ih =>
    obtain ⟨hkn, hn⟩ := not_or.1 (mt List.mem_cons.2 hn)
    have hother : portOf (sendPlain s k kind (b k)) n = portOf s n := (portOf_setPort hwf).trans (if_neg hkn)
    have hwf' : tabWf Port.reset (sendPlain s k kind (b k)).via.ports = true := tabSet_wf hwf
    rw [List.foldl_cons, ih hwf' hn, hother]

/-- A flit outside the sequence on each of several ports, the state's other parts as they are. -/
theorem foldl_sendPlain {l : List Nat} (hl : l.Nodup) (kind : Nat) (b : Nat → List Byte) {s : State}
    (hwf : tabWf Port.reset s.via.ports = true) {n : Nat} (hn : n ∈ l) :
    portOf (l.foldl (fun t n => sendPlain t n kind (b n)) s) n
      = { portOf s n with wire := (portOf s n).wire ++ [plainFlit kind (portAcks (portOf s n)) (b n)] } := by
  induction l generalizing s with
  | nil => exact absurd hn List.not_mem_nil
  | cons m l ih =>
    obtain ⟨hm, hl⟩ := List.nodup_cons.1 hl
    have hsent (k : Nat) := portOf_setPort (s := s) (n := m) (m := k)
      (p := { portOf s m with wire := (portOf s m).wire ++ [plainFlit kind (portAcks (portOf s m)) (b m)] }) hwf
    have hwf' : tabWf Port.reset (sendPlain s m kind (b m)).via.ports = true := tabSet_wf hwf
    rw [List.foldl_cons]
    by_cases hnm : n = m
    · subst hnm
      rw [foldl_sendPlain_other kind b hwf' hm]
      exact (hsent n).trans (if_pos rfl)
    · have hother : portOf (sendPlain s m kind (b m)) n = portOf s n := (hsent n).trans (if_neg hnm)
      rw [ih hl hwf' ((List.mem_cons.1 hn).resolve_left hnm), hother]

theorem foldl_sendPlain_left (l : List Nat) (kind : Nat) (b : Nat → List Byte) (s : State) :
    (l.foldl (fun t n => sendPlain t n kind (b n)) s).ks = s.ks ∧ (l.foldl (fun t n => sendPlain t n kind (b n)) s).dram = s.dram
    ∧ (l.foldl (fun t n => sendPlain t n kind (b n)) s).beat = s.beat :=
  ⟨foldl_keeps (g := State.ks) (f := fun t n => sendPlain t n kind (b n)) (fun _ _ => rfl) l s,
    foldl_keeps (g := State.dram) (f := fun t n => sendPlain t n kind (b n)) (fun _ _ => rfl) l s,
    foldl_keeps (g := State.beat) (f := fun t n => sendPlain t n kind (b n)) (fun _ _ => rfl) l s⟩

/-- The state after the markers have left. -/
def markersSent (s : State) (tx : Nat) : State :=
  (linkedPorts s).foldl (fun t n => sendPlain t n kindMarker (markerBytes (markerFor (retime s) n tx))) (retime s)

theorem beatMarkerSend_of_due (tx : Nat) (hports : linkedPorts s ≠ [])
    (hdue : ∀ m, s.beat.markerAt = some m → m.toNat + 1024 ≤ s.beat.number.toNat) :
    beatMarkerSend s tx = updBeat (markersSent s tx) fun b =>
      { b with markerAt := some b.number, echoDue := b.echoDue.filter (fun e => !(linkedPorts s).contains e.1)
               asked := ((linkedPorts s).filter fun n => (markerFor (retime s) n tx).echoReq).map fun n => (n, b.number, b.ticks + tx) } := by
  have hearly : s.beat.markerAt.any (fun m => decide (s.beat.number.toNat < m.toNat + 1024)) = false := by
    cases hm : s.beat.markerAt with
    | none => rfl
    | some m => simpa using hdue m hm
  have hsome : (linkedPorts s).isEmpty = false := by simpa using hports
  simp only [beatMarkerSend, hearly, hsome]
  rfl

theorem beatMarkerSend_of_early {tx : Nat} {m : W64} (hm : s.beat.markerAt = some m) (hlt : s.beat.number.toNat < m.toNat + 1024) :
    beatMarkerSend s tx = s := by
  simp [beatMarkerSend, hm, hlt]

/-- A marker's hop count and root, recorded for its port. -/
def markerHeard (s : State) (n : Nat) (m : Marker) (arrival : Int) : State :=
  updBeat s fun b =>
    { b with portHops := (b.portHops.filter fun e => e.1 != n) ++ [(n, (m.hops, m.rootId))]
             echoDue := if m.echoReq then (b.echoDue.filter fun e => e.1 != n) ++ [(n, (m.beat, ((s.beat.ticks : Int) + arrival).toNat))]
               else b.echoDue }

theorem beatMarker_eq {n : Nat} {m : Marker} (arrival : Int) (hlink : isLinked s n = true) (hstage : s.pw.stage ≠ .off)
    (hecho : m.echo = false) : beatMarker s n m arrival = compareMarker (retime (markerHeard s n m arrival)) n m arrival := by
  have hgo : (!isLinked s n || s.pw.stage == .off) = false := by simp [hlink, hstage]
  simp only [beatMarker, hgo, hecho, Bool.false_eq_true, if_false]
  rfl

theorem compareMarker_of_other {n : Nat} {m : Marker} {arrival : Int} (h : s.beat.upstream ≠ some n) :
    compareMarker s n m arrival = s := if_pos h

theorem compareMarker_of_unmeasured {n : Nat} {m : Marker} {arrival : Int} (h : s.beat.delays.find? (fun d => d.1 == n) = none) :
    compareMarker s n m arrival = s := by
  simp only [compareMarker, h, ite_self]

/-- The beat once its offset from a neighbour's boundary is known. -/
def compared (b : Beat) (near : Int × W64) : Beat := { b with diff := -near.1, lead := some (near.2 - b.number) }

theorem compareMarker_of_upstream {n : Nat} {m : Marker} {arrival : Int} {d : Nat × Nat} (h : s.beat.upstream = some n)
    (hd : s.beat.delays.find? (fun d => d.1 == n) = some d) : compareMarker s n m arrival
      = lockNow { s with beat := compared s.beat (nearestBeat (arrival - m.txOffset - d.2) m.beat) } := by
  rw [compareMarker, if_neg (by simp [h])]
  simp only [hd]
  rfl

/-- Comparing keeps the upstream, what was heard, the plan, DRAM and the links. -/
theorem compareMarker_left (s : State) (n : Nat) (m : Marker) (arrival : Int) :
    (compareMarker s n m arrival).beat.upstream = s.beat.upstream ∧ (compareMarker s n m arrival).beat.portHops = s.beat.portHops
    ∧ (compareMarker s n m arrival).ks = s.ks ∧ (compareMarker s n m arrival).dram = s.dram ∧ (compareMarker s n m arrival).via = s.via := by
  by_cases hup : s.beat.upstream = some n
  · cases hd : s.beat.delays.find? (fun d => d.1 == n) with
    | none =>
      rw [compareMarker_of_unmeasured hd]
      exact ⟨rfl, rfl, rfl, rfl, rfl⟩
    | some d =>
      rw [compareMarker_of_upstream hup hd, lockNow_beat]
      obtain ⟨_, _, _, hup', hhops⟩ := lockBeat_left (compared s.beat (nearestBeat (arrival - m.txOffset - d.2) m.beat))
      obtain ⟨hks, hdram, hvia⟩ := lockNow_left { s with beat := compared s.beat (nearestBeat (arrival - m.txOffset - d.2) m.beat) }
      exact ⟨hup', hhops, hks, hdram, hvia⟩
  · rw [compareMarker_of_other hup]
    exact ⟨rfl, rfl, rfl, rfl, rfl⟩

end

/-- Settles O35: the boundary and a marker move the beat, and locking alone moves its number. -/
theorem beatAdvancesAndMarkers : Obligations.BeatAdvancesAndMarkers := by
  unfold Obligations.BeatAdvancesAndMarkers
  refine ⟨fun s a hstage => ?_, fun s tx hports hdue hwf => ?_, fun s tx m hm hlt => ?_, fun s n m arrival hlink hstage hecho => ?_⟩
  · have hleft := uncounted_beatBoundary hstage a
    have hbeat : (beatBoundary s a).beat = lockBeat (begunBeat s) :=
      (congrArg Prod.fst hleft :).trans (lockNow_beat { s with beat := begunBeat s })
    obtain ⟨hks, hdram, hvia⟩ := lockNow_left { s with beat := begunBeat s }
    obtain ⟨hticks, hlength, hdiff, -, -⟩ := lockBeat_left (begunBeat s)
    refine ⟨beatBoundary s a, rfl, ?_, fun h => ?_, fun hup hdue hlate => ?_, fun hup hdue hearly => ?_, ?_, fun h => ?_,
      fun l hl hup hlocked hnear => ?_, (congrArg (·.2.1) hleft :).trans hks, (congrArg (·.2.2.1) hleft :).trans hvia,
      (congrArg (·.2.2.2.2) hleft :).trans (congrArg Dram.mem hdram), ?_⟩
    · rw [hbeat, hticks]
      rfl
    · rw [hbeat, hlength]
      exact nextLength_of_quiet h
    · rw [hbeat, hlength]
      exact (nextLength_of_follower hup hdue).trans (if_pos hlate)
    · rw [hbeat, hlength]
      exact (nextLength_of_follower hup hdue).trans ((if_neg (by omega)).trans (if_pos hearly))
    · rw [hbeat, hdiff, hlength]
      rfl
    · rw [hbeat] at h ⊢
      by_cases hadopted : s.beat.adopted = true
      · rw [lockBeat_number_of_adopted (b := begunBeat s) hadopted]
        rfl
      · rw [hdiff] at h
        have hstop : (begunBeat s).lead = none ∨ (begunBeat s).upstream = none ∨ (begunBeat s).locked = true
            ∨ 2 < (begunBeat s).diff.natAbs := by
          obtain h | h | h | h | h := h
          · exact Or.inl h
          · exact Or.inr (Or.inl h)
          · exact Or.inr (Or.inr (Or.inl h))
          · exact absurd h hadopted
          · exact Or.inr (Or.inr (Or.inr h))
        rw [lockBeat_of_unlocked hstop]
        rfl
    · rw [hbeat, hdiff] at hnear
      rw [hbeat, lockBeat_of_near (b := begunBeat s) hl hup hlocked hnear]
      refine ⟨rfl, fun hadopted => ?_⟩
      have hfirst : (begunBeat s).adopted = false := hadopted
      simp only [hfirst]
      rfl
    · rw [hbeat]
      exact (congrArg (·.2.2.2.1) hleft :).trans (lockNow_toll _)
  · have heq := beatMarkerSend_of_due tx hports hdue
    obtain ⟨hks, hdram, hbeat⟩ := foldl_sendPlain_left (linkedPorts s) kindMarker
      (fun n => markerBytes (markerFor (retime s) n tx)) (retime s)
    obtain ⟨hrks, hrdram, hrvia⟩ := retime_left s
    obtain ⟨hnumber, -⟩ := retime_beat s
    have hnow : (markersSent s tx).beat.number = s.beat.number := (congrArg Beat.number hbeat).trans hnumber
    refine ⟨_, congrArg Host.Outcome.next heq, congrArg some hnow, hnow, hks.trans hrks, hdram.trans hrdram, fun n hn hlinked => ?_⟩
    have hport : portOf (retime s) n = portOf s n := congrArg (fun v : Viaduct => tabGet Port.reset v.ports n) hrvia
    have hsent := foldl_sendPlain (l := linkedPorts s) (List.nodup_range.filter _) kindMarker
      (fun n => markerBytes (markerFor (retime s) n tx)) (s := retime s) (n := n) (by rw [hrvia]; exact hwf)
      (List.mem_filter.2 ⟨List.mem_range.2 hn, hlinked⟩)
    rw [hport] at hsent
    exact ⟨_, congrArg Port.wire hsent, rfl, rfl⟩
  · exact congrArg Host.Outcome.next (beatMarkerSend_of_early hm hlt)
  · obtain ⟨hup, hhops, hks, hdram, hvia⟩ := compareMarker_left (retime (markerHeard s n m arrival)) n m arrival
    obtain ⟨hrks, hrdram, hrvia⟩ := retime_left (markerHeard s n m arrival)
    obtain ⟨hnumber, hrhops, hdelays, hadopted, hlocked⟩ := retime_beat (markerHeard s n m arrival)
    refine ⟨_, congrArg Host.Outcome.next (beatMarker_eq arrival hlink hstage hecho), hks.trans hrks, hdram.trans hrdram,
      hvia.trans hrvia, ?_, fun hother => ?_, fun d hfollow hd => ?_⟩
    · rw [hhops, hrhops]
      have hnone : (s.beat.portHops.filter fun e => e.1 != n).find? (fun e => e.1 == n) = none := by
        refine List.find?_eq_none.2 fun e he => ?_
        simpa using (List.mem_filter.1 he).2
      exact (List.find?_append ..).trans (by rw [hnone]; simp)
    · rw [hup] at hother
      rw [compareMarker_of_other hother]
      exact hnumber
    · rw [hup] at hfollow
      have hcmp := compareMarker_of_upstream (m := m) (arrival := arrival) hfollow (hdelays ▸ hd)
      intro near
      have hbeat := (congrArg State.beat hcmp).trans (lockNow_beat _)
      have hdiff := (lockBeat_left (compared (retime (markerHeard s n m arrival)).beat near)).2.2.1
      have hupstream : (compared (retime (markerHeard s n m arrival)).beat near).upstream ≠ none := by
        rw [show (compared (retime (markerHeard s n m arrival)).beat near).upstream = some n from hfollow]
        exact Option.some_ne_none n
      have habs : (compared (retime (markerHeard s n m arrival)).beat near).diff.natAbs = near.1.natAbs := Int.natAbs_neg _
      refine ⟨(congrArg Beat.diff hbeat).trans hdiff, fun hnear => ?_, fun hfar => ?_, fun hnear hfree hfirst => ?_⟩
      · refine (congrArg Beat.locked hbeat).trans ?_
        cases hl : (retime (markerHeard s n m arrival)).beat.locked with
        | true =>
          rw [lockBeat_of_unlocked (b := compared (retime (markerHeard s n m arrival)).beat near) (Or.inr (Or.inr (Or.inl hl)))]
          exact hl
        | false => rw [lockBeat_of_near (b := compared (retime (markerHeard s n m arrival)).beat near) rfl hupstream hl (Nat.le_trans (Nat.le_of_eq habs) hnear)]
      · refine (congrArg Beat.number hbeat).trans (Eq.trans ?_ hnumber)
        obtain hfar | hold := hfar
        · rw [lockBeat_of_unlocked (Or.inr (Or.inr (Or.inr (habs ▸ hfar))))]
          rfl
        · rw [lockBeat_number_of_adopted (b := compared (retime (markerHeard s n m arrival)).beat near) (hadopted.trans hold)]
          rfl
      · refine (congrArg Beat.number hbeat).trans ?_
        have hunlocked := hlocked (by rw [hfollow]; exact Option.some_ne_none n) hfree
        have hnew : (compared (retime (markerHeard s n m arrival)).beat near).adopted = false := hadopted.trans hfirst
        rw [lockBeat_of_near (b := compared (retime (markerHeard s n m arrival)).beat near) rfl hupstream hunlocked (Nat.le_trans (Nat.le_of_eq habs) hnear)]
        simp only [hnew]
        exact (BitVec.add_comm ..).trans (BitVec.sub_add_cancel ..)

end Sys2Proof.Machine

-- ------------------------------------------------------------------------------------------------ ports that send

namespace Sys2Proof.Machine

-- -------------------------------------------------------------------------------- entries other than the default

/-- An entry that is not the default reads back from any table, canonical or not. -/
theorem tabGet_tabSet_of_ne {α : Type} [DecidableEq α] {d : α} (t : Tab α) (a b : Nat) {x : α} (hx : x ≠ d) :
    tabGet d (tabSet d t a x) b = if b = a then x else tabGet d t b := by
  induction t with
  | nil =>
    by_cases hb : b = a <;> simp [tabSet, tabGet, hx, hb]
  | cons e t ih =>
    obtain ⟨k, v⟩ := e
    rcases Nat.lt_trichotomy a k with hk | hk | hk
    · by_cases hb : b = a
      · simp [tabSet, tabGet, hk, hx, hb]
      · by_cases hba : b < a
        · simp [tabSet, tabGet, hk, hx, hb, hba, show b ≠ k by omega, show b < k by omega]
        · simp [tabSet, tabGet, hk, hx, hb, hba]
    · subst hk
      by_cases hb : b = a <;> simp [tabSet, tabGet, hx, hb]
    · by_cases hb : b = k
      · simp [tabSet, tabGet, show ¬ a < k by omega, show a ≠ k by omega, hb, show k ≠ a by omega]
      · by_cases hbk : b < k
        · simp [tabSet, tabGet, show ¬ a < k by omega, show a ≠ k by omega, hb, hbk, show b ≠ a by omega]
        · simp [tabSet, tabGet, show ¬ a < k by omega, show a ≠ k by omega, hb, hbk, ih]

/-- Of two entries written at one place, the second stands. -/
theorem tabSet_tabSet_of_ne {α : Type} [DecidableEq α] {d : α} (t : Tab α) (a : Nat) {x y : α} (hx : x ≠ d) (hy : y ≠ d) :
    tabSet d (tabSet d t a x) a y = tabSet d t a y := by
  induction t with
  | nil => simp [tabSet, hx, hy]
  | cons e t ih =>
    obtain ⟨k, v⟩ := e
    rcases Nat.lt_trichotomy a k with hk | hk | hk
    · simp [tabSet, hk, hx, hy]
    · subst hk
      simp [tabSet, hx, hy]
    · simp [tabSet, show ¬ a < k by omega, show a ≠ k by omega, ih]

section
variable {s : State} {n : Nat} {p q : Port}

theorem portOf_setPort_of_ne (hq : q ≠ Port.reset) (m : Nat) : portOf (setPort s n q) m = if m = n then q else portOf s m :=
  tabGet_tabSet_of_ne _ _ _ hq

theorem setPort_setPort_of_ne (hp : p ≠ Port.reset) (hq : q ≠ Port.reset) : setPort (setPort s n p) n q = setPort s n q :=
  congrArg (fun t => { s with via := { s.via with ports := t } }) (tabSet_tabSet_of_ne s.via.ports n hp hq)

/-- A port in use is not as after reset. -/
theorem port_ne_reset (h : p.st = .trained ∨ p.retrain = true) : p ≠ Port.reset := by
  rintro rfl
  obtain h | h := h <;> exact absurd h (by decide)

theorem portUp_ne_reset (h : portUp s n = true) : (portOf s n).st = .trained ∨ (portOf s n).retrain = true := by
  simp only [portUp, isTrained, Bool.or_eq_true, Bool.and_eq_true, beq_iff_eq] at h
  exact h.imp id And.left

/-- A port without the flits that it sends and keeps: what sending leaves alone. -/
def unsent (p : Port) : Port := { p with queue := [], tx := [], retry := [], wire := [] }

theorem unsent_st (h : unsent q = unsent p) : q.st = p.st := (congrArg Port.st h :)
theorem unsent_retrain (h : unsent q = unsent p) : q.retrain = p.retrain := (congrArg Port.retrain h :)
theorem unsent_again (h : unsent q = unsent p) : q.again = p.again := (congrArg Port.again h :)
theorem unsent_resent (h : unsent q = unsent p) : q.resent = p.resent := (congrArg Port.resent h :)
theorem unsent_peer (h : unsent q = unsent p) : q.peer = p.peer := (congrArg Port.peer h :)

theorem unsent_pumpList (s : State) (n : Nat) (fs : List Flit) (held : List Nat) (p : Port) :
    unsent (pumpList s n fs held p) = unsent p := by
  induction fs generalizing held p with
  | nil => rfl
  | cons f fs ih =>
    simp only [pumpList]
    split
    · exact ih ..
    · exact ih ..

/-- A port once what must go again has gone. -/
def resentPort (p : Port) : Port := pumpAgain p.again [] { p with again := [] }

theorem pump_eq (s : State) (n : Nat) : pump s n = if (portOf s n).st ≠ .trained then s
    else resendLimit (setPort s n (pumpList s n (resentPort (portOf s n)).queue []
      { resentPort (portOf s n) with queue := [] })) n := rfl

/-- What a trained port with nothing to send again becomes when it sends what it may. -/
theorem pump_of_quiet (hst : (portOf s n).st = .trained) (h : PortQuiet s n) :
    pump s n = setPort s n (pumpList s n (portOf s n).queue [] { portOf s n with queue := [] }) := by
  obtain ⟨hagain, hresent⟩ := h
  have hunsent := unsent_pumpList s n (portOf s n).queue [] { portOf s n with queue := [] }
  have hnone : resentPort (portOf s n) = portOf s n := by
    have hsame : { portOf s n with again := [] } = portOf s n := hagain ▸ rfl
    rw [resentPort, hagain, hsame]
    rfl
  rw [pump_eq, hnone, if_neg (not_not_intro hst)]
  refine if_neg ?_
  rw [portOf_setPort_of_ne (port_ne_reset (Or.inl ((unsent_st hunsent).trans hst))), if_pos rfl, unsent_resent hunsent]
  simpa using fun a b hab => hresent (a, b) hab

/-- Flits queued on a port that is up, with nothing to send again: that port alone sends and keeps flits. -/
theorem queueFlits_of_quiet (fs : List Flit) (hup : portUp s n = true) (h : PortQuiet s n) :
    ∃ q, queueFlits s n fs = setPort s n q ∧ unsent q = unsent (portOf s n) := by
  have hne := portUp_ne_reset hup
  have hset : portOf (updPort s n fun p => { p with queue := p.queue ++ fs }) n = { portOf s n with queue := (portOf s n).queue ++ fs } := by
    refine (portOf_setPort_of_ne (port_ne_reset ?_) n).trans (if_pos rfl)
    exact hne
  by_cases hst : (portOf s n).st = .trained
  · have hpump := pump_of_quiet (s := updPort s n fun p => { p with queue := p.queue ++ fs }) (n := n) (by rw [hset]; exact hst)
      (by rw [PortQuiet, hset]; exact h)
    have hunsent := unsent_pumpList (updPort s n fun p => { p with queue := p.queue ++ fs }) n ((portOf s n).queue ++ fs) []
      { portOf s n with queue := [] }
    rw [hset] at hpump
    refine ⟨_, hpump.trans (setPort_setPort_of_ne (port_ne_reset (Or.inl hst)) (port_ne_reset (Or.inl ?_))), hunsent⟩
    exact (unsent_st hunsent).trans hst
  · refine ⟨{ portOf s n with queue := (portOf s n).queue ++ fs }, ?_, rfl⟩
    rw [queueFlits, pump, hset]
    exact if_pos hst

/-- What a message sent to a neighbour leaves alone, on a port with nothing to send again: all but the ports' flits. -/
def SentAlone (s t : State) : Prop :=
  { t with via := s.via } = s ∧ noWire t.via = noWire s.via ∧ ∀ m, unsent (portOf t m) = unsent (portOf s m)

theorem SentAlone.refl (s : State) : SentAlone s s := ⟨rfl, rfl, fun _ => rfl⟩

theorem SentAlone.trans {s t u : State} (h : SentAlone s t) (h' : SentAlone t u) : SentAlone s u := by
  obtain ⟨h1, h2, h3⟩ := h
  obtain ⟨h1', h2', h3'⟩ := h'
  refine ⟨?_, h2'.trans h2, fun m => (h3' m).trans (h3 m)⟩
  calc { u with via := s.via } = { { u with via := t.via } with via := s.via } := rfl
    _ = { t with via := s.via } := by rw [h1']
    _ = s := h1

theorem SentAlone.quiet {s t : State} (h : SentAlone s t) {m : Nat} (hq : PortQuiet s m) : PortQuiet t m := by
  rw [PortQuiet, unsent_again (h.2.2 m), unsent_resent (h.2.2 m)]
  exact hq

theorem SentAlone.ks {s t : State} (h : SentAlone s t) : t.ks = s.ks := (congrArg State.ks h.1 :)
theorem SentAlone.dram {s t : State} (h : SentAlone s t) : t.dram = s.dram := (congrArg State.dram h.1 :)
theorem SentAlone.grp {s t : State} (h : SentAlone s t) : t.grp = s.grp := (congrArg State.grp h.1 :)

theorem SentAlone.trained {s t : State} (h : SentAlone s t) (m : Nat) : isTrained t m = isTrained s m := by
  rw [isTrained, isTrained, unsent_st (h.2.2 m)]

theorem SentAlone.up {s t : State} (h : SentAlone s t) (m : Nat) : portUp t m = portUp s m := by
  rw [portUp, portUp, h.trained, unsent_retrain (h.2.2 m), miswired, miswired, unsent_peer (h.2.2 m)]

theorem SentAlone.neighbour {s t : State} (h : SentAlone s t) (m : Nat) : neighbourCoord t m = neighbourCoord s m :=
  (congrArg (fun v : Viaduct => neighbourCoord { s with via := v } m) h.2.1 :)

theorem SentAlone.jOf {s t : State} (h : SentAlone s t) (m : Nat) : jOf t m = jOf s m := by
  have hk := h.ks
  have hg := h.grp
  have hown : ownCoord t = ownCoord s := (congrArg (fun v : Viaduct => ownCoord { s with via := v }) h.2.1 :)
  have hformed : t.via.formed = s.via.formed := (congrArg Viaduct.formed h.2.1 :)
  simp only [Machine.jOf, ctlOf, hk, hg, hformed]

/-- A message to the neighbour on a port with nothing to send again. -/
theorem sendVia_of_quiet (i : Instr) (h : PortQuiet s n) : SentAlone s (sendVia s n i)
    ∧ (sendVia s n i).via.sent = s.via.sent ++ (if portUp s n = true then [(n, i)] else []) := by
  by_cases hup : portUp s n = true
  · have hgo : sendVia s n i = queueFlits (updVia s fun v => { v with sent := v.sent ++ [(n, i)] }) n
        (marked (exitBy s (portDim n) n false false) (messageFlits s (neighbourCoord s n) i)) := if_neg (by simp [hup])
    obtain ⟨q, hq, hunsent⟩ := queueFlits_of_quiet (s := updVia s fun v => { v with sent := v.sent ++ [(n, i)] })
      (marked (exitBy s (portDim n) n false false) (messageFlits s (neighbourCoord s n) i)) hup h
    have hne : q ≠ Port.reset := port_ne_reset (by
      rw [unsent_st hunsent, unsent_retrain hunsent]
      exact portUp_ne_reset hup)
    rw [hgo, hq, if_pos hup]
    refine ⟨⟨rfl, rfl, fun m => ?_⟩, rfl⟩
    rw [portOf_setPort_of_ne hne]
    split
    next hm =>
      rw [hm]
      exact hunsent
    next hm =>
      rfl
  · rw [sendVia, if_pos (by simpa using hup), if_neg hup, List.append_nil]
    exact ⟨SentAlone.refl s, rfl⟩

end

end Sys2Proof.Machine

-- ------------------------------------------------------------------------------------------------ journals in mirrors

namespace Sys2Proof.Machine

section
variable {s : State} {p : Plan} {j : JMsg}

/-- Bytes put somewhere stand there. -/
theorem tabGet_tabPut_opt {t : Tab Byte} {a k : Nat} {b : List Byte} (h : tabWf 0 t = true) (hk : k < b.length) :
    some (tabGet 0 (tabPut t a b) (a + k)) = b[k]? := by
  rw [tabGet_tabPut_in h hk, List.getElem?_eq_getElem hk]

theorem mem_of_wf (h : Memory.wf s = true) : tabWf 0 s.dram.mem = true := by
  simp only [Memory.wf, Bool.and_eq_true] at h
  exact h.1.1

/-- The answer to a neighbour is sent; where its port has nothing to send again, nothing else changes. -/
theorem sendVia_left (s : State) (n : Nat) (i : Instr) :
    (sendVia s n i).dram = s.dram ∧ (sendVia s n i).grp = s.grp ∧ (sendVia s n i).ks = s.ks :=
  ⟨silent_dram (silent_sendVia s n i), silent_grp (silent_sendVia s n i), silent_ks (silent_sendVia s n i)⟩

theorem portUp_of_jOk (h : jOk s j = true) : portUp s j.port = true := by
  simp only [jOk, Bool.and_eq_true] at h
  rw [portUp, h.2]
  rfl

-- -------------------------------------------------------------------------------- MIRROR_WRITE, MIRROR_READ, MIRROR_DATA

/-- Journal bytes of the sender, put in its mirror slot. -/
def mirrorPut (s : State) (j : JMsg) (a : Nat) (data : List Byte) : State :=
  updGrp (freshSectors (putMem s a data) [(a, data.length)]) fun g => { g with mirrored := insertNat j.port g.mirrored }

theorem mirrorWriteMsg_of_slot {b off : Nat} {data : List Byte} (hok : jOk s j = true) (hb : mirrorOf j.port = some b)
    (hoff : off + data.length ≤ 0x80000000) : mirrorWriteMsg s j off data
      = sendVia (mirrorPut s j (b + off) data) j.port (.mirrorAck (jOf s (Nat.xor j.port 1)) off data.length) := by
  have hslot : slotRange off data.length = true := decide_eq_true hoff
  simp only [mirrorWriteMsg, hb, hok, hslot]
  rfl

theorem mirrorReadMsg_of_slot {b off len : Nat} (hok : jOk s j = true) (hb : mirrorOf j.port = some b)
    (hoff : off + len ≤ 0x80000000) : mirrorReadMsg s j off len
      = sendVia s j.port (.mirrorData (jOf s (Nat.xor j.port 1)) off (tabBytes s.dram.mem (b + off) len)) := by
  have hslot : slotRange off len = true := decide_eq_true hoff
  simp only [mirrorReadMsg, hb, hok, hslot]
  rfl

theorem mirrorDataMsg_of_slot {off : Nat} {data : List Byte} (hok : jOk s j = true) (hport : mirrorPort s = some j.port)
    (hoff : off + data.length ≤ 0x80000000) : mirrorDataMsg s j off data
      = freshSectors (putMem (stage s data) (journalBase + off) data) [(journalBase + off, data.length)] := by
  have hslot : slotRange off data.length = true := decide_eq_true hoff
  simp [mirrorDataMsg, hport, hok, hslot]

/-- Staging writes bytes of DRAM alone, in its canonical form. -/
theorem stage_left (h : tabWf 0 s.dram.mem = true) (data : List Byte) :
    { stage s data with dram := s.dram } = s ∧ tabWf 0 (stage s data).dram.mem = true := by
  rw [stage]
  split
  · exact ⟨rfl, tabPut_wf (tabPut_wf h)⟩
  · exact ⟨rfl, h⟩

-- -------------------------------------------------------------------------------- MIRROR_ACK

theorem mirrorAckMsg_of_pier {w : PierWork} {e : PierEntry} (len : Nat) (hplan : s.ks.plan = some p) (hok : jOk s j = true)
    (hport : mirrorPort s = some j.port) (hw : s.ks.pierWork = some w) (hstage : w.stage = .mirroring)
    (he : pierBySeq p w.seq = some e) : mirrorAckMsg s j (e.index * slotSize) len = pierWritten s p e := by
  simp [mirrorAckMsg, hplan, hok, hport, hw, hstage, he]

/-- An acknowledgement that is no pier's goes to the update bitmap or the commit entries. -/
theorem mirrorAckMsg_of_no_pier (off len : Nat) (hplan : s.ks.plan = some p) (hok : jOk s j = true)
    (hport : mirrorPort s = some j.port) (hw : s.ks.pierWork = none) : mirrorAckMsg s j off len
      = if (updatePier p).any fun e => off == e.index * slotSize then updateAcked s else commitAck s p off := by
  simp [mirrorAckMsg, hplan, hok, hport, hw]

theorem decision_or_prepare_off (p : Plan) (k : Nat) (hk : 0 < k) :
    ((updatePier p).any fun e => commitSlot p + k == e.index * slotSize) = false := by
  cases h : updatePier p with
  | none => rfl
  | some e =>
    have hne : commitSlot p + k ≠ e.index * slotSize := by
      simp only [commitSlot, h, Option.map_some, Option.getD_some]
      omega
    simpa using hne

theorem mirrorAckMsg_of_decision {w : CommitWork} {o : Bool} (len : Nat) (hplan : s.ks.plan = some p) (hok : jOk s j = true)
    (hport : mirrorPort s = some j.port) (hpier : s.ks.pierWork = none) (hw : s.ks.commitW = some w) (ho : w.deciding = some o) :
    mirrorAckMsg s j (decisionOff p) len = decisionRecorded s p w o := by
  have hoff := decision_or_prepare_off p decisionArea (by decide)
  rw [mirrorAckMsg_of_no_pier _ _ hplan hok hport hpier, if_neg (by rw [decisionOff, hoff]; decide)]
  simp only [commitAck, hw, ho, if_true]

theorem mirrorAckMsg_of_prepare {w : CommitWork} (len : Nat) (hplan : s.ks.plan = some p) (hok : jOk s j = true)
    (hport : mirrorPort s = some j.port) (hpier : s.ks.pierWork = none) (hw : s.ks.commitW = some w) (ho : w.deciding = none)
    (hprepared : w.prepared = false) : mirrorAckMsg s j (prepareOff p) len = preparedNow s p w := by
  have hoff := decision_or_prepare_off p commitArea (by decide)
  rw [mirrorAckMsg_of_no_pier _ _ hplan hok hport hpier, if_neg (by rw [prepareOff, hoff]; decide)]
  simp only [commitAck, hw, ho, hprepared, and_self, if_true]

end

/-- Settles O49: journal bytes go to the sender's mirror slot and back, and an acknowledgement ends what it names. -/
theorem mirrorsKeepJournals : Obligations.MirrorsKeepJournals := by
  unfold Obligations.MirrorsKeepJournals
  intro s j hwf hok
  have hmem := mem_of_wf hwf
  have hup := portUp_of_jOk hok
  refine ⟨fun b off data hb hoff => ?_, fun b off len hb hoff hquiet => ?_, fun off data hport hoff => ?_,
    fun p len hplan hport => ⟨fun w e hw hstage he => ?_, fun w hpier hw => ⟨fun o ho => ?_, fun ho hprepared => ?_⟩⟩⟩
  · have heq := mirrorWriteMsg_of_slot hok hb hoff
    obtain ⟨hdram, hgrp, -⟩ := sendVia_left (mirrorPut s j (b + off) data) j.port
      (.mirrorAck (jOf s (Nat.xor j.port 1)) off data.length)
    refine ⟨_, congrArg Host.Outcome.next heq, fun k hk => ?_, fun x hx => ?_, hgrp, fun hquiet => ?_⟩
    · rw [hdram]
      exact tabGet_tabPut_opt hmem hk
    · rw [hdram]
      exact tabGet_tabPut_other hmem hx
    · obtain ⟨⟨hleft, -, -⟩, hsent⟩ := sendVia_of_quiet (s := mirrorPut s j (b + off) data)
        (.mirrorAck (jOf s (Nat.xor j.port 1)) off data.length) hquiet
      refine ⟨hsent.trans (congrArg (s.via.sent ++ ·) (if_pos hup)), ?_⟩
      exact (congrArg (fun u : State => { u with dram := s.dram, via := s.via, grp := s.grp }) hleft :)
  · obtain ⟨⟨hleft, -, -⟩, hsent⟩ := sendVia_of_quiet
      (.mirrorData (jOf s (Nat.xor j.port 1)) off (tabBytes s.dram.mem (b + off) len)) hquiet
    exact ⟨_, congrArg Host.Outcome.next (mirrorReadMsg_of_slot hok hb hoff),
      hsent.trans (congrArg (s.via.sent ++ ·) (if_pos hup)), hleft⟩
  · obtain ⟨hleft, hstaged⟩ := stage_left hmem data
    refine ⟨_, congrArg Host.Outcome.next (mirrorDataMsg_of_slot hok hport hoff), fun k hk => tabGet_tabPut_opt hstaged hk,
      fun hadmit x hx => ?_, (congrArg (fun u : State => { u with dram := s.dram }) hleft :)⟩
    have hnone : stage s data = s := if_neg (by simp [hadmit])
    exact (tabGet_tabPut_other hstaged hx).trans (by rw [hnone])
  · exact congrArg (fun u => Host.Outcome.next (advance u)) (mirrorAckMsg_of_pier len hplan hok hport hw hstage he)
  · exact congrArg (fun u => Host.Outcome.next (advance u)) (mirrorAckMsg_of_decision len hplan hok hport hpier hw ho)
  · exact congrArg (fun u => Host.Outcome.next (advance u)) (mirrorAckMsg_of_prepare len hplan hok hport hpier hw ho hprepared)

end Sys2Proof.Machine

-- ------------------------------------------------------------------------------------------------ fetches

namespace Sys2Proof.Machine

section
variable {s : State} {p : Plan} {j : JMsg}

/-- The answer to a FETCH. -/
def fetchReply (s : State) (j : JMsg) (h off st : Nat) (d : List Byte) : State :=
  sendVia s j.port (.fetchData (jOf s (Nat.xor j.port 1)) h (BitVec.ofNat 8 st) off d)

/-- Sectors of a range whose bytes DRAM no longer has (R384). -/
def rangeLost (s : State) (a len : Nat) : Bool :=
  (s.dram.bad ++ s.dram.lost).any fun sec => decide (a < 32 * sec + 32) && decide (32 * sec < a + len)

theorem fetchMsg_of_buffer {h off len : Nat} {b : Buf} (hplan : s.ks.plan = some p) (hok : jOk s j = true)
    (hb : p.bufs[h]? = some b) : fetchMsg s j h off len
      = if b.kind ≠ 2 ∨ b.size < off + len then fetchReply s j h off stBadParam []
        else if rangeLost s (halfAddr b (currentHalf s h) + off) len then fetchReply s j h off stMemory []
        else fetchReply s j h off stOk (tabBytes s.dram.mem (halfAddr b (currentHalf s h) + off) len) := by
  simp only [fetchMsg, hplan, hok, hb]
  rfl

/-- A sector is lost of a range where some byte of it lies in a lost one. -/
theorem rangeLost_iff {a len : Nat} (hlen : 0 < len) : rangeLost s a len = true
    ↔ ∃ x, a ≤ x ∧ x < a + len ∧ (x / 32 ∈ s.dram.bad ∨ x / 32 ∈ s.dram.lost) := by
  simp only [rangeLost, List.any_eq_true, List.mem_append, Bool.and_eq_true, decide_eq_true_eq]
  constructor
  · rintro ⟨sec, hsec, hlo, hhi⟩
    have hdiv : max a (32 * sec) / 32 = sec := by omega
    exact ⟨max a (32 * sec), Nat.le_max_left .., by omega, by rwa [hdiv]⟩
  · rintro ⟨x, hlo, hhi, hx⟩
    exact ⟨x / 32, hx, by omega, by omega⟩

/-- The state once the answer to a fetch has come. -/
def fetchTaken (s : State) (f : Nat × (Nat × Nat)) : State := updGrp s fun g => { g with fetches := g.fetches.filter (· != f) }

theorem fetchDataMsg_of_failure {h off : Nat} {st : Byte} {data : List Byte} {f : Nat × (Nat × Nat)} (hplan : s.ks.plan = some p)
    (hok : jOk s j = true) (hf : (s.grp.fetches.find? fun f => f.1 == h && f.2.1 == off) = some f) (hst : st ≠ 0) :
    fetchDataMsg s j h st off data = endGroup (fetchTaken s f) := by
  simp only [fetchDataMsg, hplan, hf, hok]
  exact if_pos (Or.inl hst)

theorem fetchDataMsg_of_bytes {h off : Nat} {data : List Byte} {f : Nat × (Nat × Nat)} {b : Buf} (hplan : s.ks.plan = some p)
    (hok : jOk s j = true) (hf : (s.grp.fetches.find? fun f => f.1 == h && f.2.1 == off) = some f)
    (hb : p.bufs[h]? = some b) (hrefresh : s.grp.refresh = false) (hlen : data.length = f.2.2) :
    fetchDataMsg s j h 0 off data = freshSectors (putMem (fetchTaken s f) (halfAddr b (currentHalf s h) + off) data)
      [(halfAddr b (currentHalf s h) + off, data.length)] := by
  have hno : (fetchTaken s f).grp.refresh = false := hrefresh
  simp only [fetchDataMsg, hplan, hf, hok, hb]
  rw [if_neg (by simp), if_neg (by simp [hlen]), ← fetchTaken, hno]
  simp only [Bool.false_eq_true, if_false]
  exact if_neg (by simp [fetchTaken, putMem, hrefresh])

theorem fetchNoAnswer_of_end (hsome : s.grp.fetches ≠ []) (h : fetchPort s = 0 ∨ isTrained s 0 = false) :
    fetchNoAnswer s = endGroup (updGrp s fun g => { g with fetches := [] }) := by
  cases hl : s.grp.fetches with
  | nil => exact absurd hl hsome
  | cons f fs =>
    simp only [fetchNoAnswer, hl]
    exact if_pos h

theorem fetchNoAnswer_of_other (hsome : s.grp.fetches ≠ []) (hport : fetchPort s ≠ 0) (htrained : isTrained s 0 = true) :
    fetchNoAnswer s = s.grp.fetches.foldl (fun s f => sendVia s 0 (.fetch (jOf s 1) f.1 f.2.1 f.2.2)) s := by
  cases hl : s.grp.fetches with
  | nil => exact absurd hl hsome
  | cons f fs =>
    simp only [fetchNoAnswer, hl]
    exact if_neg (by simp [hport, htrained])

/-- Several messages to the neighbour on one port with nothing to send again. -/
theorem foldl_sendVia_of_quiet {α : Type} {n : Nat} (i : JMsg → α → Instr) (l : List α) (hquiet : PortQuiet s n)
    (hup : portUp s n = true) :
    SentAlone s (l.foldl (fun s x => sendVia s n (i (jOf s (Nat.xor n 1)) x)) s)
    ∧ (l.foldl (fun s x => sendVia s n (i (jOf s (Nat.xor n 1)) x)) s).via.sent
      = s.via.sent ++ l.map fun x => (n, i (jOf s (Nat.xor n 1)) x) := by
  induction l generalizing s with
  | nil => exact ⟨SentAlone.refl s, (List.append_nil _).symm⟩
  | cons x l ih =>
    obtain ⟨halone, hsent⟩ := sendVia_of_quiet (i (jOf s (Nat.xor n 1)) x) hquiet
    obtain ⟨ihalone, ihsent⟩ := ih (halone.quiet hquiet) ((halone.up n).trans hup)
    refine ⟨halone.trans ihalone, ihsent.trans ?_⟩
    rw [hsent, if_pos hup, halone.jOf, List.append_assoc]
    rfl

-- -------------------------------------------------------------------------------- the run of a group ends

theorem planState_abortRun (s : State) (st : Nat) : planState (abortRun s st) = plAborted := by
  rw [abortRun]
  exact (planState_congr (congrArg noTraffic (settleRows_host _))).trans (planState_setPlanState _ (by decide))

/-- A flood of the group notes its key, and beside that sends messages. -/
theorem floodJ_grp (s : State) (except : Option Nat) (jt count pier : Nat) (i : Nat → Instr) :
    ∃ l, (floodJ s except jt count pier i).grp = { s.grp with flooded := l } := by
  rw [floodJ]
  split
  · exact ⟨_, rfl⟩
  · exact ⟨_, silent_grp (s := updGrp s fun g => { g with flooded := g.flooded ++ [(jt, count, pier)] }) (silent_flood _ except i)⟩

theorem floodJ_left (s : State) (except : Option Nat) (jt count pier : Nat) (i : Nat → Instr) :
    (floodJ s except jt count pier i).ks = s.ks ∧ (floodJ s except jt count pier i).dram = s.dram := by
  rw [floodJ]
  split
  · exact ⟨rfl, rfl⟩
  · have h := silent_flood (updGrp s fun g => { g with flooded := g.flooded ++ [(jt, count, pier)] }) except i
    exact ⟨(silent_ks h).trans rfl, (silent_dram h).trans rfl⟩

/-- What a rewind begins as on a member that joins it (Table 19-6 step 2). -/
def joinedRewind (count : Nat) (cause : Byte) (coord need : Nat) : RewindWork :=
  { count := count, cause := cause, coord := coord, need := need, stage := .stopping, replaced := none, reports := [] }

/-- The segment that runs is dropped, after a re-shard's steps have failed. -/
def segmentDropped (s : State) (cause : Byte) : State :=
  dropSegment (if reshardAt s 5 then reshardFails s (finalStatus cause.toNat) else s)
    (if reshardAt s 5 then reshardFails s (finalStatus cause.toNat) else s).ks.updMap

theorem joinRewind_grp (s : State) (count : Nat) (cause : Byte) (coord need : Nat) : (joinRewind s count cause coord need).grp
    = { (segmentDropped s cause).grp with count := count, coord := coord, rewindW := some (joinedRewind count cause coord need) } := by
  refine (foldl_keeps (g := State.grp) (fun u n => ?_) _ _).trans rfl
  exact ite_keeps rfl rfl

theorem joinRewind_ks (s : State) (count : Nat) (cause : Byte) (coord need : Nat) : (joinRewind s count cause coord need).ks
    = { (segmentDropped s cause).ks with haltIssue := true, readies := [] } := by
  refine (foldl_keeps (g := State.ks) (fun u n => ?_) _ _).trans rfl
  exact ite_keeps rfl rfl

/-- R381: a member starts a rewind of a higher COUNT, for itself as for the others. -/
theorem startRewind_grp (s : State) (cause need : Nat) : ∃ l, (startRewind s cause need).grp
    = { (segmentDropped s (BitVec.ofNat 8 cause)).grp with
        count := s.grp.count + 1, coord := s.grp.coord
        rewindW := some (joinedRewind (s.grp.count + 1) (BitVec.ofNat 8 cause) s.grp.coord need), flooded := l } := by
  obtain ⟨l, hl⟩ := floodJ_grp (joinRewind s (s.grp.count + 1) (BitVec.ofNat 8 cause) s.grp.coord need) none 7 (s.grp.count + 1)
    (pierWord (joinRewind s (s.grp.count + 1) (BitVec.ofNat 8 cause) s.grp.coord need).ks.lastPier)
    fun port => .rewind (jOf (joinRewind s (s.grp.count + 1) (BitVec.ofNat 8 cause) s.grp.coord need) port)
      (pierWord (joinRewind s (s.grp.count + 1) (BitVec.ofNat 8 cause) s.grp.coord need).ks.lastPier) (BitVec.ofNat 8 cause) need
      s.grp.coord 0xFFFFFFFF
  rw [joinRewind_grp] at hl
  exact ⟨l, hl⟩

theorem endGroup_of_alone (hplan : s.ks.plan = some p) (h : groupSize p = 1 ∨ s.grp.rewindW ≠ none) :
    endGroup s = abortRun s stReplayFailed := by
  refine if_pos ?_
  rw [members, hplan]
  exact h.imp id Option.isSome_iff_ne_none.2

theorem endGroup_of_member (hplan : s.ks.plan = some p) (hsize : groupSize p ≠ 1) (hno : s.grp.rewindW = none) :
    endGroup s = startRewind s stReplayFailed 1 := by
  refine if_neg ?_
  rw [members, hplan, hno]
  simpa using hsize

end

/-- Settles O51: what a neighbour has is put in place, and a fetch that fails ends the run. -/
theorem fetchesRestoreBytes : Obligations.FetchesRestoreBytes := by
  unfold Obligations.FetchesRestoreBytes
  intro s j p h off len hplan hok hwf
  have hmem := mem_of_wf hwf
  refine ⟨fun b hb => ?_, fun hnone => ?_, fun hsome => ⟨fun hend => ?_, fun hport htrained hquiet => ?_⟩, fun halone => ?_,
    fun hsize hno => ?_⟩
  · have heq := fetchMsg_of_buffer (off := off) (len := len) hplan hok hb
    refine ⟨fun hbad => ?_, fun hkind hin hgood hlen => ?_, fun hkind hin hlost => ?_, fun f data hf => ⟨fun hrefresh hlen => ?_,
      fun st hst => ?_⟩⟩
    · exact congrArg Host.Outcome.next (heq.trans (if_pos hbad))
    · rw [if_neg (by omega), if_neg] at heq
      · exact congrArg Host.Outcome.next heq
      · rw [rangeLost_iff hlen]
        rintro ⟨x, hlo, hhi, hx⟩
        obtain ⟨hbad, hmiss⟩ := hgood x hlo hhi
        exact hx.elim hbad hmiss
    · have hlen : 0 < len := by
        obtain ⟨x, hlo, hhi, -⟩ := hlost
        omega
      rw [if_neg (by omega), if_pos ((rangeLost_iff hlen).2 hlost)] at heq
      exact congrArg Host.Outcome.next heq
    · refine ⟨_, congrArg Host.Outcome.next (fetchDataMsg_of_bytes hplan hok hf hb hrefresh hlen),
        fun k hk => tabGet_tabPut_opt hmem hk, fun x hx => tabGet_tabPut_other hmem hx, fun hin => ?_, rfl, rfl⟩
      simpa using (List.mem_filter.1 hin).2
    · exact congrArg Host.Outcome.next (fetchDataMsg_of_failure hplan hok hf hst)
  · refine congrArg Host.Outcome.next ?_
    simp only [fetchNoAnswer, hnone]
  · exact congrArg Host.Outcome.next (fetchNoAnswer_of_end hsome hend)
  · have hup : portUp s 0 = true := by
      rw [portUp, htrained]
      rfl
    obtain ⟨halone, hsent⟩ := foldl_sendVia_of_quiet (n := 0) (fun j (f : Nat × (Nat × Nat)) => .fetch j f.1 f.2.1 f.2.2) s.grp.fetches
      hquiet hup
    exact ⟨_, congrArg Host.Outcome.next (fetchNoAnswer_of_other hsome hport htrained), halone.dram, halone.ks, hsent⟩
  · rw [endGroup_of_alone hplan halone, planState_abortRun]
  · obtain ⟨l, hl⟩ := startRewind_grp s stReplayFailed 1
    rw [endGroup_of_member hplan hsize hno, hl]
    exact ⟨_, rfl, rfl, rfl⟩

end Sys2Proof.Machine

-- ------------------------------------------------------------------------------------------------ RESHARD_PERMUTE

namespace Sys2Proof.Machine

section
variable {s : State} {seq : Nat} {w : ReshardWork} {x : Move}

/-- The transfer entry of a move, as the Keystone numbers it. -/
def moveEntry (s : State) (w : ReshardWork) (x : Move) : Nat :=
  2 ^ 32 + (((imgXfers s.dram.mem w.mapAddr).zipIdx.find? fun e => e.1.seq == x.seq).map (·.2)).getD 0

/-- A move is done: the next one has its turn. -/
def moveDone (s : State) (seq : Nat) (x : Move) : State :=
  advance (updReshard s fun w => { w with moved := seq, bytes := w.bytes + x.len })

theorem reshardPermute_of_wait (hw : s.ks.reshardW = some w) (hx : (imgMoves s.dram.mem w.mapAddr)[seq - 1]? = some x)
    (h : w.phase ≠ 3 ∨ seq ≠ w.moved + 1) : reshardPermute s seq = s := by
  simp only [reshardPermute, hw, hx]
  exact if_pos h

/-- A move whose turn it is, its bytes readable where it reads any. -/
theorem reshardPermute_of_turn (hw : s.ks.reshardW = some w) (hx : (imgMoves s.dram.mem w.mapAddr)[seq - 1]? = some x)
    (hphase : w.phase = 3) (hturn : seq = w.moved + 1) (hclean : DramClean s)
    (hread : x.kind ≠ 1 → rangeBad s.dram.bad x.src x.len = false) :
    ((moveBytes s w x).2 = none → reshardPermute s seq = (moveBytes s w x).1)
    ∧ ((moveBytes s w x).2 = some [] → reshardPermute s seq = moveDone (moveBytes s w x).1 seq x) := by
  have hsame : (if x.kind = 1 then s else touchSectors s (rangeHits x.src x.len)) = s := by
    rw [touchSectors_of_clean hclean, ite_self]
  have hgood : ¬ (x.kind ≠ 1 ∧ rangeBad s.dram.bad x.src x.len = true) := fun h => by
    rw [hread h.1] at h
    exact absurd h.2 (by decide)
  have hgo : ¬ (w.phase ≠ 3 ∨ seq ≠ w.moved + 1) := by simp [hphase, hturn]
  simp only [reshardPermute, hw, hx]
  rw [if_neg hgo, hsame, if_neg hgood]
  constructor
  · intro h
    simp only [h]
  · intro h
    simp only [h]
    rfl

theorem moveBytes_send (hkind : x.kind = 0) : moveBytes s w x
    = (trySend s (moveEntry s w x) (tabBytes s.dram.mem x.src x.len),
        if xferUsed (trySend s (moveEntry s w x) (tabBytes s.dram.mem x.src x.len)) (moveEntry s w x) then some [] else none) := by
  simp only [moveBytes, hkind]
  rfl

theorem moveBytes_await (hkind : x.kind = 1) (h : received s (moveEntry s w x) = none) : moveBytes s w x = (s, none) := by
  rw [moveEntry] at h
  simp only [moveBytes, hkind, h]

theorem moveBytes_land {b : List Byte} (hkind : x.kind = 1) (h : received s (moveEntry s w x) = some b) : moveBytes s w x
    = ((putSectors (markRecv s (moveEntry s w x)) x.dst b).1, some (putSectors (markRecv s (moveEntry s w x)) x.dst b).2) := by
  rw [moveEntry] at h ⊢
  simp only [moveBytes, hkind, h]

theorem moveBytes_copy (hkind : 2 ≤ x.kind) : moveBytes s w x
    = ((putSectors s x.dst (tabBytes s.dram.mem x.src x.len)).1, some (putSectors s x.dst (tabBytes s.dram.mem x.src x.len)).2) := by
  simp only [moveBytes]
  split
  · omega
  · omega
  · rfl

/-- Bytes that land on readable sectors stand at their new place, and no other byte changes. -/
theorem putSectors_lands {u : State} {b : List Byte} {a : Nat} (hclean : DramClean u) (hmem : tabWf 0 u.dram.mem = true)
    (hbad : ∀ sec, partHits a b.length sec = true → u.dram.bad.contains sec = false) :
    (putSectors u a b).2 = [] ∧ { (putSectors u a b).1 with dram := u.dram } = u
    ∧ (∀ k, k < b.length → some (tabGet 0 (putSectors u a b).1.dram.mem (a + k)) = b[k]?)
    ∧ ∀ y, y < a ∨ a + b.length ≤ y → tabGet 0 (putSectors u a b).1.dram.mem y = tabGet 0 u.dram.mem y := by
  have hleft : (putSectors u a b).2 = [] := putSectors_left_nil hbad fun e he => by
    rw [hclean.1] at he
    exact absurd he List.not_mem_nil
  refine ⟨hleft, setDram_putSectors u.dram u, fun k hk => ?_, fun y hy => ?_⟩
  · rw [tabGet_putSectors hmem, hleft, if_pos ⟨Nat.le_add_right .., rfl⟩, Nat.add_sub_cancel_left, List.getElem?_eq_getElem hk]
    rfl
  · rw [tabGet_putSectors hmem, hleft]
    by_cases hlow : a ≤ y
    · have hout : b[y - a]? = none := List.getElem?_eq_none (by omega)
      rw [if_pos ⟨hlow, rfl⟩, hout]
      rfl
    · exact if_neg fun h => hlow h.1

end

/-- Settles O42: a move in turn copies, lands or sends its bytes; one out of turn waits. -/
theorem reshardPermutes : Obligations.ReshardPermutes := by
  unfold Obligations.ReshardPermutes
  intro s seq w x hw hx run idx done lands
  have hlands {u : State} {b : List Byte} (hclean : DramClean u) (hsame : u.dram = s.dram)
      (hdone : (putSectors u x.dst b).2 = [] → run = done (putSectors u x.dst b).1) : lands u b := by
    intro hwf hbad
    obtain ⟨hleft, hrest, hin, hout⟩ := putSectors_lands (a := x.dst) (b := b) hclean (by rw [hsame]; exact mem_of_wf hwf)
      (by rw [hsame]; exact hbad)
    exact ⟨_, hdone hleft, hrest, hin, fun y hy => (hout y hy).trans (by rw [hsame])⟩
  refine ⟨fun h => congrArg Host.Outcome.next (reshardPermute_of_wait hw hx h), fun hphase hturn hclean => ⟨fun hkind hread => ?_,
    fun hkind hnone => ?_, fun b hkind hsome => ?_, fun hkind hread => ?_⟩⟩
  · obtain ⟨-, hgo⟩ := reshardPermute_of_turn hw hx hphase hturn hclean fun _ => hread
    rw [moveBytes_copy hkind] at hgo
    exact hlands hclean rfl fun hleft => congrArg Host.Outcome.next (hgo (congrArg some hleft))
  · obtain ⟨hgo, -⟩ := reshardPermute_of_turn hw hx hphase hturn hclean fun h => absurd hkind h
    rw [moveBytes_await hkind hnone] at hgo
    exact congrArg Host.Outcome.next (hgo rfl)
  · obtain ⟨-, hgo⟩ := reshardPermute_of_turn hw hx hphase hturn hclean fun h => absurd hkind h
    rw [moveBytes_land hkind hsome] at hgo
    exact hlands (u := markRecv s idx) hclean rfl fun hleft => congrArg Host.Outcome.next (hgo (congrArg some hleft))
  · obtain ⟨hwait, hgo⟩ := reshardPermute_of_turn hw hx hphase hturn hclean fun _ => hread
    rw [moveBytes_send hkind] at hwait hgo
    intro u
    exact ⟨fun h => congrArg Host.Outcome.next (hwait (if_neg (Bool.eq_false_iff.1 h))),
      fun h => congrArg Host.Outcome.next (hgo (if_pos h))⟩

end Sys2Proof.Machine

-- ------------------------------------------------------------------------------------------------ COMMIT

namespace Sys2Proof.Machine

section
variable {s : State} {p : Plan}

/-- The work of a COMMIT that has no digest of its own: its decision is known, or its prepare failed. -/
def undigested (seq : Nat) (a : Attempt) : CommitWork :=
  { seq := seq, a := a, digest := [], prepared := true, deciding := none, lead := none, begun := true, join := none }

/-- COMMIT with the decision of its attempt as its journal holds it: 0 none, 1 COMMIT, 2 ABORT. -/
def commitDecided (s : State) (p : Plan) (d : Desc) (seq st : Nat) (a : Attempt) (o : Nat) : State :=
  match o with
  | 0 => if st = 0 then prepare s p d a else prepareFailed s p d a st
  | o => recordDecision (if o = 1 then writePending s p d else s) p (undigested seq a) (o == 1) none

theorem commitDecided_of_held {d : Desc} {seq st : Nat} {a : Attempt} {o : Nat} (ho : o ≠ 0) : commitDecided s p d seq st a o
    = recordDecision (if o = 1 then writePending s p d else s) p (undigested seq a) (o == 1) none := by
  cases o with
  | zero => exact absurd rfl ho
  | succ o => rfl

theorem commitRun_of_running {seq : Nat} {d : Desc} {i : Issued} (hrun : running s seq = some (p, d, i)) (hop : d.opcode = opCommit)
    (hw : s.ks.commitW = none) (hst : i.status = 0) (hno : s.grp.rewindW = none) : commitRun s seq
      = if (committedRecord s p).1 = s.ks.tCounter.toNat then formStep (commitDone s p seq stOk i) p
        else commitDecided s p d seq (operandStatus s p d (descUses p d)) (ownAttempt s p) (heldDecision s p (ownAttempt s p)) := by
  have hgo : (d.opcode != opCommit || s.ks.commitW.isSome || decide (i.status ≠ 0) || s.grp.rewindW.isSome) = false := by
    simp [hop, hw, hst, hno]
  simp only [commitRun, hrun, hgo, Bool.false_eq_true, if_false]
  by_cases hc : (committedRecord s p).1 = s.ks.tCounter.toNat
  · rw [if_pos hc, if_pos hc]
  · rw [if_neg hc, if_neg hc]
    generalize heldDecision s p (ownAttempt s p) = o
    cases o <;> rfl

-- -------------------------------------------------------------------------------- the decision acts

/-- Handles of a list of places, each once. -/
theorem stepKind2_nodup (p : Plan) : (stepKind2 p).Nodup := by
  have hall : (p.bufs.zipIdx.map (·.2)).Nodup := by
    rw [List.zipIdx_map_snd]
    exact List.nodup_range'
  exact hall.sublist (List.Sublist.map _ List.filter_sublist)

/-- One more at each of several places. -/
theorem tabGet_foldl_succ {l : List Nat} (hl : l.Nodup) {t : Tab Nat} (ht : tabWf 0 t = true) (h : Nat) :
    tabGet 0 (l.foldl (fun t h => tabUpd 0 t h (· + 1)) t) h = tabGet 0 t h + (if l.contains h then 1 else 0) := by
  induction l generalizing t with
  | nil => rfl
  | cons k l ih =>
    obtain ⟨hk, hl⟩ := List.nodup_cons.1 hl
    rw [List.foldl_cons, ih hl (tabUpd_wf ht), tabUpd, tabGet_tabSet ht]
    by_cases hh : h = k
    · subst hh
      simp [hk]
    · simp [hh]

/-- A commit's completion reports: the log and the host's notice, and of the Keystone its record and the work. -/
theorem commitDone_left (seq st : Nat) (i : Issued) : (commitDone s p seq st i).ks
      = { s.ks with commitW := none, issued := s.ks.issued.filter (fun x => x.seq != seq) }
    ∧ (commitDone s p seq st i).sp = s.sp ∧ (commitDone s p seq st i).dram = s.dram ∧ (commitDone s p seq st i).grp = s.grp := by
  simp only [commitDone]
  cases descAt p seq with
  | none => exact ⟨rfl, rfl, rfl, rfl⟩
  | some d =>
    dsimp only
    split
    · split
      · simp
      · exact ⟨rfl, rfl, rfl, rfl⟩
    · simp

/-- The step's norm records become history, in the working area. -/
theorem keepNorms_left (step : Nat) (hmem : tabWf 0 s.dram.mem = true) :
    (∃ l, (keepNorms s step).ks = { s.ks with normHist := l, norms := [] }) ∧ (keepNorms s step).sp = s.sp
    ∧ (keepNorms s step).grp = s.grp
    ∧ ∀ x, x < workingBase → tabGet 0 (keepNorms s step).dram.mem x = tabGet 0 s.dram.mem x := by
  simp only [keepNorms]
  split
  · exact ⟨⟨_, rfl⟩, rfl, rfl, fun _ _ => rfl⟩
  · refine ⟨⟨_, rfl⟩, rfl, rfl, fun x hx => ?_⟩
    refine (tabGet_tabPut_other (tabPut_wf hmem) (Or.inl ?_)).trans (tabGet_tabPut_other hmem (Or.inl ?_))
    · omega
    · omega

theorem formStep_left : (∃ t, (formStep s p).ks = { s.ks with tCounter := t }) ∧ (formStep s p).sp = s.sp
    ∧ (formStep s p).dram = s.dram ∧ (formStep s p).grp = s.grp := by
  rw [formStep]
  split
  · exact ⟨⟨_, rfl⟩, rfl, rfl, rfl⟩
  · exact ⟨⟨_, rfl⟩, rfl, rfl, rfl⟩

theorem rerunDone_of_none (h : s.grp.rerun = none) : rerunDone s p = s := by
  simp only [rerunDone, h]

/-- R294: the generations that the step wrote flip, before its norms and its report. -/
def flipped (s : State) (p : Plan) : State :=
  updKs s fun k =>
    { k with gens := (stepKind2 p).foldl (fun t h => tabUpd 0 t h (· + 1)) k.gens
             written := k.written.filter (fun w => !(stepKind2 p).contains w.handle)
             aborts := 0, attempt := 0 }

theorem applyCommit_of_issued {seq : Nat} {i : Issued} (h : issuedOf s seq = some i) : applyCommit s p seq
    = rerunDone (formStep (commitDone (keepNorms (flipped s p) s.ks.tCounter.toNat) p seq stOk i) p) p := by
  simp only [applyCommit, h]
  rfl

theorem applyDecision_of_commit {w : CommitWork} {i : Issued} (hbegun : w.begun = true) (h : issuedOf s w.seq = some i) :
    applyDecision s p w true = applyCommit s p w.seq := by
  simp only [applyDecision, hbegun, h, if_true]

theorem applyDecision_of_waiting {w : CommitWork} (o : Bool) (hbegun : w.begun = false) (hjoin : w.join = none) :
    applyDecision s p w o = updKs s fun k => { k with commitW := none } := by
  simp only [applyDecision, hbegun, hjoin]
  cases issuedOf s w.seq <;> rfl

end

/-- Settles O41: COMMIT prepares under its attempt, and its decision COMMIT flips what the step wrote. -/
theorem commitPreparesAndFlips : Obligations.CommitPreparesAndFlips := by
  unfold Obligations.CommitPreparesAndFlips
  refine ⟨fun s seq p d i hrun hop hw hst hno => ?_, fun s p w i hbegun hissued hgens hwf hrerun => ?_,
    fun s p w o hbegun hjoin => applyDecision_of_waiting o hbegun hjoin⟩
  · have heq := commitRun_of_running hrun hop hw hst hno
    refine ⟨fun hdone => congrArg Host.Outcome.next (heq.trans (if_pos hdone)), fun hnew => ?_⟩
    rw [if_neg hnew] at heq
    refine ⟨fun hheld hok => ?_, fun hheld hbad => ?_, fun o ho hne => ?_⟩
    · rw [hheld] at heq
      exact congrArg Host.Outcome.next (heq.trans (if_pos hok))
    · rw [hheld] at heq
      exact congrArg Host.Outcome.next (heq.trans (if_neg hbad))
    · rw [ho, commitDecided_of_held hne] at heq
      exact congrArg Host.Outcome.next heq
  · intro t
    have ht : t = rerunDone (formStep (commitDone (keepNorms (flipped s p) s.ks.tCounter.toNat) p w.seq stOk i) p) p :=
      (applyDecision_of_commit hbegun hissued).trans (applyCommit_of_issued hissued)
    obtain ⟨⟨l, hnks⟩, hnsp, hngrp, hnmem⟩ := keepNorms_left (s := flipped s p) s.ks.tCounter.toNat (mem_of_wf hwf)
    obtain ⟨hdks, hdsp, hddram, hdgrp⟩ := commitDone_left (s := keepNorms (flipped s p) s.ks.tCounter.toNat) (p := p) w.seq stOk i
    obtain ⟨⟨c, hfks⟩, hfsp, hfdram, hfgrp⟩ :=
      formStep_left (s := commitDone (keepNorms (flipped s p) s.ks.tCounter.toNat) p w.seq stOk i) (p := p)
    rw [rerunDone_of_none (by rw [hfgrp, hdgrp, hngrp]; exact hrerun)] at ht
    rw [hdks, hnks] at hfks
    rw [ht, hfks]
    refine ⟨fun h => tabGet_foldl_succ (stepKind2_nodup p) hgens h, rfl, ?_, rfl, rfl, rfl, ?_, fun x hx => ?_⟩
    · rw [issuedOf, hfks]
      refine List.find?_eq_none.2 fun j hj => ?_
      simpa using (List.mem_filter.1 hj).2
    · rw [hfsp, hdsp, hnsp]
      rfl
    · rw [hfdram, hddram]
      exact hnmem x hx

end Sys2Proof.Machine

-- ------------------------------------------------------------------------------------------------ votes and recovery

namespace Sys2Proof.Machine

-- -------------------------------------------------------------------------------- the order of attempts

theorem attBefore_self (a : Attempt) : attBefore a a = false := by simp [attBefore]

theorem laterAttempt_self (a : Attempt) : laterAttempt a a = false := by simp [laterAttempt]

/-- A later attempt does not come before. -/
theorem attBefore_of_later {own a : Attempt} (h : laterAttempt own a = true) : attBefore a own = false := by
  simp only [laterAttempt, Bool.and_eq_true, beq_iff_eq, decide_eq_true_eq] at h
  obtain ⟨⟨hstep, hgen⟩, hatt⟩ := h
  simp [attBefore, hstep, hgen]
  omega

section
variable {s : State} {p : Plan} {w : CommitWork} {c : Ctl}

theorem commitPlan_of_tag (hplan : s.ks.plan = some p) (htag : c.tag = BitVec.ofNat 32 p.groupTag) (hseq : commitSeq p ≠ none) :
    commitPlan s c = some p := by
  simp [commitPlan, hplan, htag, Option.isSome_iff_ne_none, hseq]

/-- A member whose COMMIT runs stands in its attempt. -/
theorem standing_of_running (hw : s.ks.commitW = some w) (hjoin : w.join = none) : standing s p = w.a := by
  simp only [standing, hw, hjoin]
  rfl

theorem joinAttempt_of_own (hw : s.ks.commitW = some w) (hjoin : w.join = none) : joinAttempt s p w.a = s := by
  simp only [joinAttempt, standing_of_running hw hjoin, laterAttempt_self]
  rfl

theorem joinAttempt_of_later {a : Attempt} (hw : s.ks.commitW = some w) (hjoin : w.join = none) (hdec : w.deciding = none)
    (h : laterAttempt w.a a = true) : joinAttempt s p a = recordDecision s p { w with join := some a.att } false none := by
  simp only [joinAttempt, standing_of_running hw hjoin, h, hw, hdec]
  rfl

-- -------------------------------------------------------------------------------- votes

/-- The state that holds a token. -/
def holdToken (s : State) (t : VoteToken) : State := updKs s fun k => { k with token := some t }

theorem voteMsg_of_own (hplan : commitPlan s c = some p) (hw : s.ks.commitW = some w) (hjoin : w.join = none) (count : Nat)
    (agree : Bool) (digest : List Byte) : voteMsg s c w.a count agree digest
      = passToken (holdToken s { a := w.a, count := count, agree := agree, digest := digest }) p := by
  simp only [voteMsg, hplan, standing_of_running hw hjoin, attBefore_self, joinAttempt_of_own hw hjoin]
  rfl

theorem voteMsg_of_before {a : Attempt} (hplan : commitPlan s c = some p) (hw : s.ks.commitW = some w) (hjoin : w.join = none)
    (h : attBefore a w.a = true) (count : Nat) (agree : Bool) (digest : List Byte) : voteMsg s c a count agree digest = s := by
  simp only [voteMsg, hplan, standing_of_running hw hjoin, h, if_true]

theorem voteMsg_of_later {a : Attempt} (hplan : commitPlan s c = some p) (hw : s.ks.commitW = some w) (hjoin : w.join = none)
    (hdec : w.deciding = none) (h : laterAttempt w.a a = true) (count : Nat) (agree : Bool) (digest : List Byte) :
    voteMsg s c a count agree digest = passToken (holdToken (recordDecision s p { w with join := some a.att } false none)
      { a := a, count := count, agree := agree, digest := digest }) p := by
  simp only [voteMsg, hplan, standing_of_running hw hjoin, attBefore_of_later h, joinAttempt_of_later hw hjoin hdec h]
  rfl

/-- The token waits for the own step 1. -/
theorem passToken_of_unprepared {t : VoteToken} (ht : s.ks.token = some t) (hw : s.ks.commitW = some w)
    (hprepared : w.prepared = false) : passToken s p = s := by
  simp [passToken, ht, hw, hprepared]

theorem passToken_of_prepared {t : VoteToken} (ht : s.ks.token = some t) (hw : s.ks.commitW = some w) (hprepared : w.prepared = true)
    (hdec : w.deciding = none) (ha : t.a = w.a) : passToken s p
      = if rankOf p = 0 then leaderVote (updKs s fun k => { k with token := none }) p w t.count t.agree
        else sendCtl (updKs s fun k => { k with token := none }) ((rankOf p + 1) % groupSize p) 0 fun c =>
          .vote c w.a (t.count + 1) (t.agree && t.digest == w.digest) t.digest := by
  simp [passToken, ht, hw, hprepared, hdec, ha]

theorem voteTimeout_of_leader (hplan : s.ks.plan = some p) (hw : s.ks.commitW = some w) (hprepared : w.prepared = true)
    (hdec : w.deciding = none) (hsize : 1 < groupSize p) :
    voteTimeout s = if rankOf p = 0 then recordDecision s p w false (some false) else s := by
  simp [voteTimeout, hplan, hw, hprepared, hdec, hsize]

theorem decisionMsg_of_own (hplan : commitPlan s c = some p) (hw : s.ks.commitW = some w) (hjoin : w.join = none)
    (hbegun : w.begun = true) (hdec : w.deciding = none) (o : Bool) : decisionMsg s c w.a o
      = recordDecision (mirrorDecision (sendDecision s p w.a o false) p w.a o) p w o none := by
  have hmine : (some w).filter (fun w => w.begun && w.join.isNone) = some w := by simp [Option.filter, hbegun, hjoin]
  simp only [decisionMsg, hplan, standing_of_running hw hjoin, attBefore_self, joinAttempt_of_own hw hjoin, hw, hmine, hdec,
    Option.isSome_none, Bool.false_eq_true, if_false, ne_eq, not_true_eq_false, or_self]

theorem decisionMsg_of_before {a : Attempt} (hplan : commitPlan s c = some p) (hw : s.ks.commitW = some w) (hjoin : w.join = none)
    (h : attBefore a w.a = true) (o : Bool) : decisionMsg s c a o = s := by
  simp only [decisionMsg, hplan, standing_of_running hw hjoin, h, if_true]

-- -------------------------------------------------------------------------------- recovery

theorem joinedRecovery_iff (a : Attempt) : joinedRecovery s p a = true ↔ ∃ e ∈ repliesOf s a, e.1 = rankOf p := by
  simp [joinedRecovery]

theorem joinedRecovery_of_none {a : Attempt} (h : ∀ e ∈ repliesOf s a, e.1 ≠ rankOf p) : joinedRecovery s p a = false := by
  simpa [joinedRecovery] using h

theorem recoveryStart_of_prepared (hplan : s.ks.plan = some p) (hw : s.ks.commitW = some w) (hprepared : w.prepared = true)
    (hdigest : w.digest ≠ []) (hdec : w.deciding = none) (hno : joinedRecovery s p w.a = false) : recoveryStart s
      = joinRecovery (flood s none fun n => .recoveryQuery (ctlOf s n 0) w.a (rankOf p)) p w.a := by
  have hsome : w.digest.isEmpty = false := by simpa using hdigest
  simp [recoveryStart, hplan, hw, hprepared, hsome, hdec, hno]

theorem answers_of_own (hw : s.ks.commitW = some w) (hjoin : w.join = none) : answers s p w.a = true := by
  simp [answers, standing_of_running hw hjoin]

theorem recoveryQueryMsg_of_own (hplan : commitPlan s c = some p) (hw : s.ks.commitW = some w) (hjoin : w.join = none) (asker : Nat) :
    recoveryQueryMsg s c w.a asker = if joinedRecovery s p w.a then s
      else joinRecovery (flood s (some c.port) fun n => .recoveryQuery { c with port := n } w.a asker) p w.a := by
  simp [recoveryQueryMsg, hplan, standing_of_running hw hjoin, laterAttempt_self, joinAttempt_of_own hw hjoin,
    answers_of_own hw hjoin]

theorem recoveryReplyMsg_of_own (hplan : commitPlan s c = some p) (hw : s.ks.commitW = some w) (hjoin : w.join = none) (o r : Nat) :
    recoveryReplyMsg s c w.a o r = if (repliesOf s w.a).any (fun e => e.1 == r) then s
      else flood (updKs s fun k => { k with recovery := some (w.a, repliesOf s w.a ++ [(r, o)]) }) (some c.port) fun n =>
        .recoveryReply { c with port := n } w.a o r := by
  simp only [recoveryReplyMsg, hplan, standing_of_running hw hjoin, laterAttempt_self, joinAttempt_of_own hw hjoin, noteReply,
    answers_of_own hw hjoin, Bool.not_true, Bool.false_or, Bool.false_eq_true, if_false]
  cases (repliesOf s w.a).any fun e => e.1 == r <;> rfl

theorem foldl_min_eq_iff (l : List Nat) (a : Nat) : l.foldl Nat.min a = a ↔ ∀ x ∈ l, a ≤ x := by
  have hle : ∀ (l : List Nat) (a : Nat), l.foldl Nat.min a ≤ a := fun l => by
    induction l with
    | nil => exact fun a => Nat.le_refl a
    | cons x l ih => exact fun a => Nat.le_trans (ih _) (Nat.min_le_left ..)
  induction l with
  | nil => simp
  | cons x l ih =>
    rw [List.foldl_cons, List.forall_mem_cons]
    by_cases hx : a ≤ x
    · rw [show Nat.min a x = a from Nat.min_eq_left hx]
      exact ih.trans ⟨fun h => ⟨hx, h⟩, And.right⟩
    · refine ⟨fun h => absurd (Nat.le_trans (hle l _) (Nat.min_le_right a x)) ?_, fun h => absurd h.1 hx⟩
      rw [h]
      exact hx

/-- The outcome that the member of lowest rank broadcasts: one that some reply carries, else its own (R295). -/
def recovered (s : State) (p : Plan) (a : Attempt) (l : List (Nat × Nat)) : Nat :=
  match l.find? fun e => e.2 != 0 with | some e => e.2 | none => heldDecision s p a

theorem recoveryWindowEnd_of_joined {l : List (Nat × Nat)} (hplan : s.ks.plan = some p) (hw : s.ks.commitW = some w)
    (hdec : w.deciding = none) (hrec : s.ks.recovery = some (w.a, l)) (hjoined : joinedRecovery s p w.a = true) :
    recoveryWindowEnd s = if (l.map (·.1)).foldl Nat.min (rankOf p) ≠ rankOf p then updKs s fun k => { k with recovery := none }
      else recordDecision (updKs s fun k => { k with recovery := none }) p w (recovered s p w.a l == 1) (some true) := by
  simp only [recoveryWindowEnd, hplan, hrec, hjoined, updKs_ks, hw, hdec, Bool.not_true, Bool.false_eq_true, if_false, ne_eq,
    not_true_eq_false, Option.isSome_none]
  rfl

end

/-- Settles O47: a message of the own attempt moves the vote or the recovery on, an earlier one is dropped, a later one is joined. -/
theorem votesAndRecoveryDecide : Obligations.VotesAndRecoveryDecide := by
  unfold Obligations.VotesAndRecoveryDecide
  refine ⟨fun s p w c hplan hw hdec hbegun hjoin htag hseq => ?_, fun s p w c hplan hw hdec hbegun hjoin htag hseq => ?_⟩
  · have hcommit := commitPlan_of_tag hplan htag hseq
    refine ⟨fun count agree digest => ?_, fun hprepared hsize => ?_,
      fun o => congrArg Host.Outcome.next (decisionMsg_of_own hcommit hw hjoin hbegun hdec o),
      fun a count agree o digest => ⟨fun hbefore => ⟨congrArg Host.Outcome.next (voteMsg_of_before hcommit hw hjoin hbefore ..),
        congrArg Host.Outcome.next (decisionMsg_of_before hcommit hw hjoin hbefore o)⟩,
        fun hlater => congrArg Host.Outcome.next (voteMsg_of_later hcommit hw hjoin hdec hlater ..)⟩⟩
    · have heq := voteMsg_of_own hcommit hw hjoin count agree digest
      have hpass := fun h => passToken_of_prepared (s := holdToken s ⟨w.a, count, agree, digest⟩) (p := p) rfl hw h hdec rfl
      refine ⟨fun hwait => congrArg Host.Outcome.next (heq.trans (passToken_of_unprepared rfl hw hwait)),
        fun hready hlead => congrArg Host.Outcome.next (heq.trans ((hpass hready).trans (if_pos hlead))),
        fun hready hmember => congrArg Host.Outcome.next (heq.trans ((hpass hready).trans (if_neg hmember)))⟩
    · have heq := voteTimeout_of_leader hplan hw hprepared hdec hsize
      exact ⟨fun hlead => congrArg Host.Outcome.next (heq.trans (if_pos hlead)),
        fun hmember => congrArg Host.Outcome.next (heq.trans (if_neg hmember))⟩
  · have hcommit := commitPlan_of_tag hplan htag hseq
    refine ⟨fun hprepared hdigest hno => congrArg Host.Outcome.next
      (recoveryStart_of_prepared hplan hw hprepared hdigest hdec (joinedRecovery_of_none hno)), fun asker => ?_, fun o r => ?_,
      fun hrec => ⟨fun hno => ?_, fun hyes => ?_⟩⟩
    · have heq := recoveryQueryMsg_of_own hcommit hw hjoin asker
      exact ⟨fun hno => congrArg Host.Outcome.next (heq.trans (if_neg (by rw [joinedRecovery_of_none hno]; decide))),
        fun hyes => congrArg Host.Outcome.next (heq.trans (if_pos ((joinedRecovery_iff w.a).2 hyes)))⟩
    · have heq := recoveryReplyMsg_of_own hcommit hw hjoin o r
      refine ⟨fun hknown => congrArg Host.Outcome.next (heq.trans (if_pos (by simpa using hknown))), fun hnew => ?_⟩
      have hfresh : ¬ ((repliesOf s w.a).any fun e => e.1 == r) = true := by
        rw [List.any_eq_true]
        rintro ⟨e, he, hr⟩
        exact hnew e he (beq_iff_eq.1 hr)
      have hflood := silent_flood (updKs s fun k => { k with recovery := some (w.a, repliesOf s w.a ++ [(r, o)]) }) (some c.port)
        fun n => .recoveryReply { c with port := n } w.a o r
      exact ⟨_, congrArg Host.Outcome.next (heq.trans (if_neg hfresh)), (silent_ks hflood).trans rfl,
        (silent_dram hflood).trans rfl⟩
    · refine congrArg Host.Outcome.next ?_
      have hout := joinedRecovery_of_none hno
      simp only [recoveryWindowEnd, hplan, hrec, hout]
      rfl
    · have heq := recoveryWindowEnd_of_joined hplan hw hdec hrec ((joinedRecovery_iff w.a).2 hyes)
      refine ⟨fun hlower => ?_, fun hlowest => ?_⟩
      · refine congrArg Host.Outcome.next (heq.trans (if_pos fun h => ?_))
        obtain ⟨e, he, hlt⟩ := hlower
        exact absurd ((foldl_min_eq_iff _ _).1 h e.1 (List.mem_map_of_mem he)) (Nat.not_le.2 hlt)
      · have hlead : (List.map (·.1) (repliesOf s w.a)).foldl Nat.min (rankOf p) = rankOf p := by
          refine (foldl_min_eq_iff _ _).2 fun x hx => ?_
          obtain ⟨e, he, rfl⟩ := List.mem_map.1 hx
          exact hlowest e he
        rw [if_neg (not_not_intro hlead)] at heq
        refine ⟨fun e he => ?_, fun hnone hheld => ?_⟩
        · have ho : recovered s p w.a (repliesOf s w.a) = e.2 := by simp only [recovered, he]
          rw [ho] at heq
          exact congrArg Host.Outcome.next heq
        · have hfind : (repliesOf s w.a).find? (fun e => e.2 != 0) = none :=
            List.find?_eq_none.2 fun e he => by simp [hnone e he]
          have ho : recovered s p w.a (repliesOf s w.a) = 0 := by simp only [recovered, hfind, hheld]
          rw [ho] at heq
          exact congrArg Host.Outcome.next heq

end Sys2Proof.Machine

-- ------------------------------------------------------------------------------------------------ transfers of a group

namespace Sys2Proof.Machine

section
variable {s : State} {p : Plan} {m : DataMsg} {c : Ctl} {q k len r : Nat}

/-- The receive entry that a DATA message meets. -/
def receiveHit (s : State) (m : DataMsg) : Option XferRun :=
  s.ks.xfers.find? fun x =>
    x.x.kind == 1 && x.x.cls == m.cls && rankAt s m.src == some x.x.peer && x.x.msgSeq == m.msgSeq && x.data.isNone

/-- The send entry that a RECEIVE_READY of rank r meets. -/
def sendHit (s : State) (r q k : Nat) : Option XferRun :=
  s.ks.xfers.find? fun x => x.x.kind == 0 && x.x.peer == r && x.x.cls == k && x.x.msgSeq == q && !x.ready

theorem dataMessageReceive_discarded (h : discarding s = true) : dataMessageReceive s m = s := by
  rw [dataMessageReceive, if_pos h]

theorem dataMessageReceive_unmet (hplan : s.ks.plan = some p) (h : discarding s = false) (hhit : receiveHit s m = none) :
    dataMessageReceive s m = protocolError s m.port 0 := by
  simp only [receiveHit] at hhit
  simp only [dataMessageReceive, h, hplan, hhit, Bool.false_eq_true, if_false]

theorem dataMessageReceive_met {x : XferRun} (hplan : s.ks.plan = some p) (h : discarding s = false)
    (hhit : receiveHit s m = some x) : dataMessageReceive s m
      = if m.bytes.length ≠ x.x.len ∨ m.tag.toNat ≠ p.groupTag ∨ m.epoch.toNat ≠ epochNow s then protocolError s m.port x.x.seq
        else updXfer s x.idx fun x => { x with data := some m.bytes } := by
  simp only [receiveHit] at hhit
  simp only [dataMessageReceive, h, hplan, hhit, Bool.false_eq_true, if_false]

theorem receiveReadyMsg_discarded (hplan : s.ks.plan = some p) (h : discarding s = true) : receiveReadyMsg s c q k len = s := by
  simp only [receiveReadyMsg, hplan]
  exact if_pos (Or.inr h)

/-- R201: a RECEIVE_READY of a known rank, with no re-shard held. -/
theorem receiveReadyMsg_known (hplan : s.ks.plan = some p) (htag : c.tag = BitVec.ofNat 32 p.groupTag) (hw : s.ks.reshardW = none)
    (h : discarding s = false) (hr : rankAt s c.src = some r) : receiveReadyMsg s c q k len = match sendHit s r q k with
      | some x => if x.x.len ≠ len then protocolError s c.port x.x.seq else updXfer s x.idx fun x => { x with ready := true }
      | none => updKs s fun ks => { ks with readies := ks.readies ++ [(r, k, q, len)] } := by
  simp only [receiveReadyMsg, hplan]
  rw [if_neg (by simp [htag, h]), if_neg (by simp [hw])]
  simp only [hr]
  rfl

end

/-- Settles O45: the entry that a message meets, if any, decides what it does. -/
theorem dataMessagesAreDelivered : Obligations.DataMessagesAreDelivered := by
  refine ⟨fun s m p hplan => ⟨fun h => congrArg Host.Outcome.next (dataMessageReceive_discarded h), fun h => ⟨fun hhit =>
    congrArg Host.Outcome.next (dataMessageReceive_unmet hplan h hhit), fun x hhit => ?_⟩⟩,
    fun s c q k len p hplan htag hw => ⟨fun h => congrArg Host.Outcome.next (receiveReadyMsg_discarded hplan h),
      fun r h hr => ?_⟩⟩
  · have heq := dataMessageReceive_met hplan h hhit
    refine ⟨fun ⟨hlen, hgroup, hepoch⟩ => congrArg Host.Outcome.next (heq.trans (if_neg ?_)),
      fun hbad => congrArg Host.Outcome.next (heq.trans (if_pos ?_))⟩
    · exact not_or.2 ⟨not_not_intro hlen, not_or.2 ⟨not_not_intro hgroup, not_not_intro hepoch⟩⟩
    · refine Classical.byContradiction fun hall => ?_
      simp only [not_or, Classical.not_not] at hall
      exact hbad hall
  · have heq := receiveReadyMsg_known (q := q) (k := k) (len := len) hplan htag hw h hr
    refine ⟨fun hhit => ?_, fun x hhit => ?_⟩
    · rw [show sendHit s r q k = none from hhit] at heq
      exact congrArg Host.Outcome.next heq
    · rw [show sendHit s r q k = some x from hhit] at heq
      exact ⟨fun hlen => congrArg Host.Outcome.next (heq.trans (if_neg (not_not_intro hlen))),
        fun hlen => congrArg Host.Outcome.next (heq.trans (if_pos hlen))⟩

end Sys2Proof.Machine

-- ------------------------------------------------------------------------------------------------ forming a group, and its START

namespace Sys2Proof.Machine

section
variable {s : State} {w : FormWork} {c : Ctl} {len pos : Nat} {ver : W32} {step : Byte} {bypass : Bool} {id : W64}

/-- With a RING_FORM in hand no link command begins. -/
theorem linkQueue_of_forming (h : s.via.formW = some w) : linkQueue s = s := by
  have hbusy : linkBusy s = true := by simp [linkBusy, h]
  unfold linkQueue
  cases s.host.long.length with
  | zero => rfl
  | succ n => rw [nextLink, if_pos hbusy]

theorem linkQueue_of_empty (h : s.host.long = []) : linkQueue s = s := by
  rw [linkQueue, h]
  rfl

/-- A command that is the only one held leaves nothing to begin once its record is written. -/
theorem linkQueue_finishCmd {d : Taken} (honly : ∀ x ∈ s.host.long, x.tag = d.tag) (st : Nat) (rs : List Nat) :
    linkQueue (finishCmd s d st rs) = finishCmd s d st rs := by
  refine linkQueue_of_empty ?_
  rw [finishCmd_long, List.filter_eq_nil_iff]
  exact fun x hx => by simp [honly x hx]

theorem silent_ungroup (s : State) : silent (ungroup s)
    = silent (updVia s fun v => { v with formed := none, given := none, formW := none, bypass := false, bypassSeen := [] }) :=
  silent_resendIdent _ _

theorem ungroup_formed (s : State) : (ungroup s).via.formed = none := (congrArg Viaduct.formed (silent_via (silent_ungroup s)) :)

theorem ungroup_formW (s : State) : (ungroup s).via.formW = none := (congrArg Viaduct.formW (silent_via (silent_ungroup s)) :)

theorem ungroup_long (s : State) : (ungroup s).host.long = s.host.long :=
  (congrArg HostIf.long (silent_host (silent_ungroup s)) :)

/-- The ports that hear of a refused RING_FORM. -/
def tellRefusal (s : State) (w : FormWork) : State :=
  (List.range 8).foldl (fun s n => if hopOf w.f n then sendVia s n (formMsg s w.f n stBadParam) else s) s

theorem tellRefusal_long (s : State) (w : FormWork) : (tellRefusal s w).host.long = s.host.long :=
  (congrArg HostIf.long (silent_host
    (silent_foldl (fun _ n => show silent (if hopOf w.f n = true then _ else _) = _ from ite_keeps (silent_sendVia ..) rfl) _ s)) :)

theorem formRefused_eq (s : State) (w : FormWork) (i : Instr) :
    formRefused s w i = finishCmd (ungroup (tellRefusal s w)) w.cmd stBadParam [0, 0, 0, formStatus i] := rfl

/-- R341: a FORM on a trained port, with a RING_FORM in hand and no re-shard. -/
theorem formAnyRow_of_forming (hw : s.via.formW = some w) (hreshard : s.ks.reshardW = none) (hport : isTrained s c.port = true) :
    formAnyRow s c len pos ver step bypass id = linkQueue (formHere s w c.port (.form c len pos ver step bypass id)) := by
  simp only [formAnyRow, hreshard, formRow, hport, hw, Bool.not_true, Bool.false_eq_true, if_false]

theorem formAnyRow_early (hw : s.via.formW = none) (hformed : s.via.formed = none) (hreshard : s.ks.reshardW = none)
    (hport : isTrained s c.port = true) : formAnyRow s c len pos ver step bypass id
      = updVia s fun v => { v with forms := v.forms.filter (fun e => e.1 != c.port) ++ [(c.port, .form c len pos ver step bypass id)] } := by
  simp only [formAnyRow, hreshard, formRow, hport, hw, hformed, Bool.not_true, Bool.false_eq_true, if_false]

theorem formTimeoutRow_of_forming (hw : s.via.formW = some w) (hreshard : s.ks.reshardW = none) :
    formTimeoutRow s = linkQueue (formFails s w stLinkDown []) := by
  simp only [formTimeoutRow, hreshard, formTimeout, hw]

/-- A FORM that is compared and refused. -/
theorem formHere_refused {n : Nat} {i : Instr} (hcompared : hopOf w.f n = true ∨ bypassRing w.f = true ∧ 6 ≤ n)
    (hst : formAgrees s w.f n i ≠ 0) : formHere s w n i = formRefused s w i := by
  have hmet : ¬ (!hopOf w.f n && !(bypassRing w.f && decide (6 ≤ n))) = true := by
    rcases hcompared with h | ⟨h, h'⟩
    · simp [h]
    · simp [h, h']
  rw [formHere, if_neg hmet, if_pos hst]

theorem formHere_ignored {n : Nat} {i : Instr} (hhop : hopOf w.f n = false) (hbypass : ¬ (bypassRing w.f = true ∧ 6 ≤ n)) :
    formHere s w n i = s := by
  have hskip : (bypassRing w.f && decide (6 ≤ n)) = false := Bool.eq_false_iff.2 fun h => hbypass (by simpa using h)
  rw [formHere, if_pos (by simp [hhop, hskip])]

theorem formHere_hop {n : Nat} {i : Instr} (hhop : hopOf w.f n = true) (hst : formAgrees s w.f n i = 0) :
    formHere s w n i = if (if w.seen.contains n then w.seen else w.seen ++ [n]).contains w.f.plusPort
          ∧ (if w.seen.contains n then w.seen else w.seen ++ [n]).contains w.f.minusPort then formDone s w.cmd w.f
      else updVia s fun v => { v with formW := some { w with seen := if w.seen.contains n then w.seen else w.seen ++ [n] } } := by
  simp [formHere, hhop, hst]

theorem formHere_bypass {n : Nat} {i : Instr} (hhop : hopOf w.f n = false) (hbypass : bypassRing w.f = true ∧ 6 ≤ n)
    (hst : formAgrees s w.f n i = 0) : formHere s w n i
      = if bypassMay s w.f then updVia s fun v => { v with bypassSeen := insertNat n v.bypassSeen } else s := by
  simp [formHere, hhop, hbypass, hst]

theorem hopOf_iff {f : Formation} {n : Nat} : hopOf f n = true ↔ n = f.plusPort ∨ n = f.minusPort := by simp [hopOf]

/-- The group formed: the trainer is free, the command has its record. -/
theorem formDone_ends (d : Taken) (f : Formation) : (formDone s d f).via.formW = none ∧ d.tag ∉ (formDone s d f).host.inUse := by
  refine ⟨?_, not_mem_inUse_finishCmd _ _ _ _⟩
  simp only [formDone, finishCmd_via]
  exact (congrArg Viaduct.formW (silent_via (silent_resendIdent _ s)) :)

theorem linkQueue_formDone {d : Taken} (f : Formation) (honly : ∀ x ∈ s.host.long, x.tag = d.tag) :
    linkQueue (formDone s d f) = formDone s d f := by
  have hlong : ∀ t : State, (resendIdent t s).host.long = t.host.long := fun t =>
    (congrArg HostIf.long (silent_host (silent_resendIdent t s)) :)
  refine linkQueue_finishCmd (fun x hx => ?_) _ _
  rw [hlong] at hx
  exact honly x hx

/-- A FORM refused ends the command with BAD_PARAM, and no group is held. -/
theorem formRefused_ends (honly : ∀ x ∈ s.host.long, x.tag = w.cmd.tag) (i : Instr) :
    ∃ u, linkQueue (formRefused s w i) = finishCmd u w.cmd stBadParam [0, 0, 0, formStatus i]
      ∧ u.via.formed = none ∧ u.via.formW = none := by
  have hlong : ∀ x ∈ (ungroup (tellRefusal s w)).host.long, x.tag = w.cmd.tag := by rwa [ungroup_long, tellRefusal_long]
  exact ⟨ungroup (tellRefusal s w), linkQueue_finishCmd hlong _ _, ungroup_formed _, ungroup_formW _⟩

end

-- -------------------------------------------------------------------------------- the START of a group

section
variable {s : State} {p : Plan} {c : Ctl} {r : Nat} {epoch : W32} {x : Coord}

theorem rankRow_of_no_reshard (h : s.ks.reshardW = none) : rankRow s c r epoch x = rankMsg s c r epoch x := by
  simp only [rankRow, h]

/-- R344: a RANK of the own group and epoch, on a trained port. -/
theorem rankMsg_of_group (hplan : s.ks.plan = some p) (htag : c.tag = BitVec.ofNat 32 p.groupTag) (hepoch : epoch.toNat = p.epoch)
    (hr : r < groupSize p) (hport : isTrained s c.port = true) : rankMsg s c r epoch x = match coordOfRank s r with
      | some y =>
        if y ≠ x then
          (if s.ks.startStage.isSome then failStart s stPlanInvalid
           else if planState s = plLoaded then updVia s fun v => { v with ranks := v.ranks ++ [(r, x)] }
           else s)
        else if s.ks.startStage.isNone && x == neighbourCoord s c.port && (planState s == plRunning || planState s == plPaused)
          then s.via.ranks.foldl (fun t e => sendVia t c.port (.rank (ctlOf s (Nat.xor c.port 1) 0) e.1 epoch e.2)) s
        else s
      | none => floodEnded (flood (updVia s fun v => { v with ranks := v.ranks ++ [(r, x)], ranksEpoch := epoch }) (some c.port)
          fun n => .rank { c with port := n } r epoch x) p := by
  simp only [rankMsg, hplan]
  exact if_neg (by simp [htag, hepoch, hport, Nat.not_le.2 hr])

/-- R41: a digest of the own group, while the START compares. -/
theorem groupDigest_of_group {d : List Byte} (hplan : s.ks.plan = some p) (htag : c.tag = BitVec.ofNat 32 p.groupTag)
    (hr : r < groupSize p) (hstage : s.ks.startStage = some .compare) : groupDigest s c r d
      = checkDigests (updVia s fun v => { v with digests := (r, d) :: v.digests.filter (fun e => e.1 != r) }) p := by
  simp only [groupDigest, hplan]
  rw [if_neg (by simp [htag, Nat.not_le.2 hr]), if_pos (by simp [hstage])]

theorem checkDigests_differ (hstage : s.ks.startStage = some .compare) (h : ∃ e ∈ s.via.digests, e.2 ≠ p.digest) :
    checkDigests s p = failStart s stPlanInvalid := by
  rw [checkDigests, if_neg (not_not_intro hstage), if_pos (by simpa using h)]

/-- The last digest that agrees begins the run. -/
theorem checkDigests_agree (hstage : s.ks.startStage = some .compare) (hsame : ∀ e ∈ s.via.digests, e.2 = p.digest)
    (hall : ∀ k, k < groupSize p → ∃ e ∈ s.via.digests, e.1 = k) (hadmit : s.grp.admitting = false) :
    checkDigests s p = beginRun s p := by
  have hdiffer : ¬ (s.via.digests.any fun e => e.2 != p.digest) = true := by
    rw [List.any_eq_true]
    rintro ⟨e, he, hne⟩
    exact bne_iff_ne.1 hne (hsame e he)
  have hin : ((List.range (groupSize p)).all fun r => s.via.digests.any fun e => e.1 == r) = true := by
    refine List.all_eq_true.2 fun k hk => ?_
    obtain ⟨e, he, hek⟩ := hall k (List.mem_range.1 hk)
    exact List.any_eq_true.2 ⟨e, he, beq_iff_eq.2 hek⟩
  rw [checkDigests, if_neg (not_not_intro hstage), if_neg hdiffer, if_pos hin, hadmit]
  rfl

theorem rankTimeoutRow_of_no_reshard (h : s.ks.reshardW = none) : rankTimeoutRow s = rankFloodTimeout s := by
  simp only [rankTimeoutRow, h]

end

/-- Settles O46: what a FORM, a RANK and a digest do follows from whether they agree and whether they are the last. -/
theorem groupsFormAndCompare : Obligations.GroupsFormAndCompare := by
  refine ⟨fun s w hw hreshard => ⟨fun c len pos ver step bypass id hport => ?_, fun honly => ?_⟩,
    fun s c len pos ver step bypass id hw hformed hreshard hport =>
      congrArg Host.Outcome.next (formAnyRow_early hw hformed hreshard hport), fun s p c hplan hreshard htag => ?_⟩
  · have heq := formAnyRow_of_forming (len := len) (pos := pos) (ver := ver) (step := step) (bypass := bypass) (id := id)
      hw hreshard hport
    have hrefuse : ∀ _ : (hopOf w.f c.port = true ∨ bypassRing w.f = true ∧ 6 ≤ c.port),
        formAgrees s w.f c.port (.form c len pos ver step bypass id) ≠ 0 → (∀ x ∈ s.host.long, x.tag = w.cmd.tag) →
        ∃ u, exec (.form c len pos ver step bypass id) s = .next (finishCmd u w.cmd stBadParam [0, 0, 0, c.status.toNat])
          ∧ u.via.formed = none ∧ u.via.formW = none := fun hcompared hst honly => by
      obtain ⟨u, hu, hnone⟩ := formRefused_ends honly (.form c len pos ver step bypass id)
      rw [formHere_refused hcompared hst, hu] at heq
      exact ⟨u, congrArg Host.Outcome.next heq, hnone⟩
    refine ⟨fun hhop => ⟨fun hst hnew hother => ?_, fun hst hlast honly => ?_, hrefuse (Or.inl hhop)⟩,
      fun hhop => ⟨fun hbypass hst hmay => ?_, fun hbypass hst hmay => ?_, fun hbypass => hrefuse (Or.inr hbypass),
        fun hbypass => ?_⟩⟩
    · obtain ⟨n, hn, hne, hunseen⟩ := hother
      rw [formHere_hop hhop hst, hnew, if_neg Bool.false_ne_true, if_neg ?_] at heq
      · exact congrArg Host.Outcome.next (heq.trans (linkQueue_of_forming rfl))
      · rintro ⟨hplus, hminus⟩
        have hmiss : ¬ (w.seen ++ [c.port]).contains n = true := by simp [hunseen, hne]
        rcases hopOf_iff.1 hn with rfl | rfl
        · exact hmiss hplus
        · exact hmiss hminus
    · have hseen : ∀ n, hopOf w.f n = true →
          (if w.seen.contains c.port then w.seen else w.seen ++ [c.port]).contains n = true := fun n hn => by
        rcases hlast n hn with rfl | hmem
        · split
          next h =>
            exact h
          next h =>
            simp
        · split <;> simp [hmem]
      rw [formHere_hop hhop hst, if_pos ⟨hseen _ (hopOf_iff.2 (Or.inl rfl)), hseen _ (hopOf_iff.2 (Or.inr rfl))⟩,
        linkQueue_formDone _ honly] at heq
      obtain ⟨hformed, hgiven, hcoord, hdims⟩ := formDone_via (s := s) (c := w.cmd) w.f
      obtain ⟨hfree, htag⟩ := formDone_ends (s := s) w.cmd w.f
      exact ⟨_, congrArg Host.Outcome.next heq, hformed, hgiven, hcoord, hdims, hfree, htag⟩
    · rw [formHere_bypass hhop hbypass hst, if_pos hmay] at heq
      exact congrArg Host.Outcome.next (heq.trans (linkQueue_of_forming hw))
    · rw [formHere_bypass hhop hbypass hst, hmay] at heq
      exact congrArg Host.Outcome.next (heq.trans (linkQueue_of_forming hw))
    · rw [formHere_ignored hhop hbypass] at heq
      exact congrArg Host.Outcome.next (heq.trans (linkQueue_of_forming hw))
  · have heq := formTimeoutRow_of_forming hw hreshard
    have honly' : ∀ x ∈ (ungroup s).host.long, x.tag = w.cmd.tag := by rwa [ungroup_long]
    rw [formFails, linkQueue_finishCmd honly'] at heq
    exact ⟨_, congrArg Host.Outcome.next heq, by rw [finishCmd_via, ungroup_formed], by rw [finishCmd_via, ungroup_formW],
      not_mem_inUse_finishCmd _ _ _ _⟩
  · refine ⟨fun r epoch x hepoch hr hport => ?_, fun r d hr hstage => ?_, fun hstage => ?_, fun hstage => ?_, fun hstage => ?_⟩
    · have heq := (rankRow_of_no_reshard (c := c) (r := r) (epoch := epoch) (x := x) hreshard).trans
        (rankMsg_of_group hplan htag hepoch hr hport)
      refine ⟨fun hnone => ?_, fun y hy hne => ?_⟩
      · rw [hnone] at heq
        exact congrArg Host.Outcome.next heq
      · rw [hy] at heq
        have hclash := heq.trans (if_pos hne)
        refine ⟨fun hstage => ?_, fun hstage hloaded => ?_, fun hstage hrun => ?_⟩
        · exact congrArg Host.Outcome.next (hclash.trans (if_pos (Option.isSome_iff_ne_none.2 hstage)))
        · exact congrArg Host.Outcome.next (hclash.trans ((if_neg (by simp [hstage])).trans (if_pos hloaded)))
        · exact congrArg Host.Outcome.next (hclash.trans ((if_neg (by simp [hstage])).trans (if_neg hrun)))
    · have heq := groupDigest_of_group (d := d) hplan htag hr hstage
      refine ⟨fun hne => ?_, fun hd hsame hall hadmit => ?_⟩
      · exact congrArg Host.Outcome.next (heq.trans (checkDigests_differ hstage ⟨(r, d), List.mem_cons_self, hne⟩))
      · refine congrArg Host.Outcome.next (heq.trans (checkDigests_agree hstage (fun e he => ?_) (fun k hk => ?_) hadmit))
        · rcases List.mem_cons.1 he with rfl | he
          · exact hd
          · exact hsame e (List.mem_filter.1 he).1
        · by_cases hkr : k = r
          · exact ⟨(r, d), List.mem_cons_self, hkr.symm⟩
          · obtain ⟨e, he, hek⟩ := (hall k hk).resolve_left hkr
            exact ⟨e, List.mem_cons_of_mem _ (List.mem_filter.2 ⟨he, by simp [hek, hkr]⟩), hek⟩
    · exact congrArg Host.Outcome.next ((rankTimeoutRow_of_no_reshard hreshard).trans (if_pos hstage))
    · exact congrArg Host.Outcome.next (if_pos hstage)
    · exact ⟨congrArg Host.Outcome.next ((rankTimeoutRow_of_no_reshard hreshard).trans (if_neg (by simp [hstage]))),
        congrArg Host.Outcome.next (if_neg (by simp [hstage]))⟩

end Sys2Proof.Machine

-- ------------------------------------------------------------------------------------------------ coordinated rewinds

namespace Sys2Proof.Machine

section
variable {s : State} {p : Plan} {j : JMsg} {w : RewindWork} {pier need coord replaces target : Nat} {cause : Byte} {step : W64}

/-- The flood by which a REWIND is passed on. -/
def rewindPassed (s : State) (j : JMsg) (pier : Nat) (cause : Byte) (need coord replaces : Nat) : State :=
  floodJ s (some j.port) 7 j.count (if replaces = 0xFFFFFFFF then pier else pier + 65536 * (coord + 1)) fun port =>
    .rewind { j with port := port } pier cause need coord replaces

theorem rewindMsg_lower (hok : jOk s j = true) (hpart : takesPart s = true) (hcount : j.count < s.grp.count) :
    rewindMsg s j pier cause need coord replaces = s := by
  rw [rewindMsg, if_neg (by simp [hok, hpart])]
  exact (if_neg (Nat.not_lt.2 (Nat.le_of_lt hcount))).trans (if_pos hcount)

theorem rewindMsg_higher (hok : jOk s j = true) (hpart : takesPart s = true) (hcount : s.grp.count < j.count) :
    rewindMsg s j pier cause need coord replaces
      = if replaces = 0xFFFFFFFF then joinRewind (rewindPassed s j pier cause need coord replaces) j.count cause coord need
        else if replaces = (rewindPassed s j pier cause need coord replaces).grp.coord then
          updGrp (joinRewind (rewindPassed s j pier cause need coord replaces) j.count cause coord need) fun g =>
            { g with rewindW := g.rewindW.map fun w => { w with replaced := some replaces } }
        else joinRewind (rewindPassed s j pier cause need coord replaces) j.count cause
          (rewindPassed s j pier cause need coord replaces).grp.coord need := by
  rw [rewindMsg, if_neg (by simp [hok, hpart])]
  exact if_pos hcount

/-- A REWIND of the COUNT held adds its NEED. -/
theorem rewindMsg_same (hok : jOk s j = true) (hpart : takesPart s = true) (hcount : j.count = s.grp.count)
    (hw : s.grp.rewindW = some w) : rewindMsg s j pier cause need coord 0xFFFFFFFF
      = updGrp (rewindPassed s j pier cause need coord 0xFFFFFFFF) fun g =>
          { g with rewindW := some { w with need := max w.need need } } := by
  obtain ⟨l, hl⟩ := floodJ_grp s (some j.port) 7 j.count pier fun port =>
    .rewind { j with port := port } pier cause need coord 0xFFFFFFFF
  have hheld : (rewindPassed s j pier cause need coord 0xFFFFFFFF).grp.rewindW = some w := by
    rw [rewindPassed, if_pos rfl, hl]
    exact hw
  rw [rewindMsg, if_neg (by simp [hok, hpart]), if_neg (by omega), if_neg (by omega)]
  simp only [rewindPassed, if_true] at hheld ⊢
  simp only [hheld]
  exact if_neg (by simp [followsClaim])

theorem rewindPassed_grp (s : State) (j : JMsg) (pier : Nat) (cause : Byte) (need coord replaces : Nat) :
    ∃ l, (rewindPassed s j pier cause need coord replaces).grp = { s.grp with flooded := l } := floodJ_grp ..

-- -------------------------------------------------------------------------------- QUIESCE and QUIESCED

/-- A member that holds no unacknowledged flit is quiet, and knows whether it needs a step restart. -/
def quietWork (s : State) (p : Plan) (w : RewindWork) : RewindWork :=
  { w with stage := .quiet, need := max w.need (bitNat (needsRestart s p)) }

theorem quiesce_of_stopping (hplan : s.ks.plan = some p) (hw : s.grp.rewindW = some w) (hstage : w.stage = .stopping) :
    quiesce s = if ((List.range 8).all fun n => (portOf s n).retry.isEmpty) = false then s
      else if isCoord s then updGrp s fun g => { g with
        rewindW := some (addReport (quietWork s p w) (ownReport s (quietWork s p w).need)) }
      else sendJ (updGrp s fun g => { g with rewindW := some (quietWork s p w) }) s.grp.coord fun j =>
        .quiesced j (pierWord s.grp.watermark) (quietWork s p w).need (BitVec.ofNat 64 s.grp.wmStep) := by
  have hstop : ∀ q : Prop, (w.stage ≠ .stopping ∨ q) = q := fun q => by simp [hstage]
  simp only [quiesce, hplan, hw, hstop]
  rfl

theorem allQuiet_iff : ((List.range 8).all fun n => (portOf s n).retry.isEmpty) = true ↔ ∀ n, n < 8 → (portOf s n).retry = [] := by
  simp only [List.all_eq_true, List.mem_range, List.isEmpty_iff]

theorem quiescedMsg_of_count (hw : s.grp.rewindW = some w) (hok : jOk s j = true) (hcoord : isCoord s = true)
    (hcount : j.count = w.count) : quiescedMsg s j pier need step
      = updGrp s fun g => { g with rewindW := some (addReport w (j.sender, (step.toNat, (pier, need)))) } := by
  simp only [quiescedMsg, hw]
  exact if_neg (by simp [hok, hcoord, hcount])

-- -------------------------------------------------------------------------------- the coordinator decides

/-- Every rank has reported. -/
def allReported (p : Plan) (w : RewindWork) : Bool := (List.range (groupSize p)).all fun r => w.reports.any fun x => x.1 == r

theorem allReported_iff : allReported p w = true ↔ ∀ r, r < groupSize p → ∃ x ∈ w.reports, x.1 = r := by
  simp only [allReported, List.all_eq_true, List.mem_range, List.any_eq_true, beq_iff_eq]

/-- The ranks that have not reported. -/
def unreported (p : Plan) (w : RewindWork) : List Nat := (List.range (groupSize p)).filter fun r => !(w.reports.any fun x => x.1 == r)

theorem unreported_eq_nil_iff : unreported p w = [] ↔ ∀ r, r < groupSize p → ∃ x ∈ w.reports, x.1 = r := by
  simp only [unreported, List.filter_eq_nil_iff, List.mem_range, Bool.not_eq_true, Bool.not_eq_false', List.any_eq_true,
    beq_iff_eq]

/-- The group quiet, the coordinator restarts or ends it. -/
theorem quietPeriodEnd_of_quiet (hplan : s.ks.plan = some p) (hw : s.grp.rewindW = some w) (hstage : w.stage = .quiet)
    (hcoord : isCoord s = true) : quietPeriodEnd s = if (!allReported p w) = true then s
      else
        let restart := w.need == 1 || w.reports.any fun r => r.2.2.2 == 1
        let pier := if restart then s.ks.stepPier else ofPierWord (rewindPier w)
        let u := updGrp s fun g => { g with rewindW := some { w with need := bitNat restart, stage := .restarting } }
        sendRestart (if rewindTarget s p restart pier = 3 then u else countRewind u pier) p (pierWord pier)
          (rewindTarget s p restart pier) := by
  have hquiet : (w.stage != .quiet) = false := by simp [hstage]
  simp only [quietPeriodEnd, hplan, hw, hcoord, hquiet, Bool.not_true, Bool.false_or]
  rfl

theorem rewindTarget_end {restart : Bool} {o : Option Nat} (hw : s.grp.rewindW = some w)
    (h : overLimit s o = true ∨ restart = true ∧ p.stepLocal = false ∨ w.cause.toNat = stReplayFailed) :
    rewindTarget s p restart o = 3 := by
  refine if_pos ?_
  rw [hw]
  rcases h with h | ⟨h, h'⟩ | h
  · simp [h]
  · simp [h, h']
  · simp [h]

theorem rewindTarget_go {restart : Bool} {o : Option Nat} (hw : s.grp.rewindW = some w)
    (h : ¬ (overLimit s o = true ∨ restart = true ∧ p.stepLocal = false ∨ w.cause.toNat = stReplayFailed)) :
    rewindTarget s p restart o = if actionHold s then 4 else if restart then 1 else 0 := by
  simp only [not_or, not_and, Bool.not_eq_false] at h
  obtain ⟨hlimit, hlocal, hcause⟩ := h
  refine if_neg ?_
  rw [hw]
  simpa [hlimit, hcause] using hlocal

theorem coordinatorLossTimeout_of_quiet (hplan : s.ks.plan = some p) (hw : s.grp.rewindW = some w) (hstage : w.stage = .quiet)
    (hcoord : isCoord s = true) : coordinatorLossTimeout s = if (unreported p w).isEmpty then s
      else
        let v := updGrp s fun g => { g with lostRanks := unreported p w }
        let t := if p.stepLocal && !overLimit s s.ks.stepPier then 2 else 3
        sendRestart (if t = 3 then v else countRewind v s.ks.stepPier) p (pierWord s.ks.stepPier) t := by
  have hquiet : (w.stage != .quiet) = false := by simp [hstage]
  simp only [coordinatorLossTimeout, hplan, hw, hcoord, hquiet, Bool.not_true, Bool.false_or]
  rfl

theorem coordinatorTakeover_idle (hplan : s.ks.plan = some p) (hw : s.grp.rewindW = some w)
    (h : isCoord s = true ∨ w.stage ≠ .quiet) : coordinatorTakeover s = s := by
  simp only [coordinatorTakeover, hplan, hw]
  exact if_pos (by simpa using h)

/-- R382: the report of a member that claims the coordinator's part. -/
def takenOver (s : State) (p : Plan) (w : RewindWork) : RewindWork :=
  addReport { w with coord := rankOf p, replaced := some s.grp.coord, reports := [] } (ownReport s w.need)

theorem coordinatorTakeover_claims (hplan : s.ks.plan = some p) (hw : s.grp.rewindW = some w) (hcoord : isCoord s = false)
    (hstage : w.stage = .quiet) : ∃ i, coordinatorTakeover s
      = floodJ (updGrp s fun g => { g with coord := rankOf p, rewindW := some (takenOver s p w) }) none 7 (takenOver s p w).count
          (pierWord s.ks.lastPier + 65536 * (rankOf p + 1)) i := by
  simp only [coordinatorTakeover, hplan, hw]
  exact ⟨_, if_neg (by simp [hcoord, hstage])⟩

-- -------------------------------------------------------------------------------- RESTART

/-- The RESTART passed on. -/
def restartPassed (s : State) (j : JMsg) (pier target : Nat) (step : W64) : State :=
  floodJ (updGrp s fun g => { g with count := max g.count j.count }) (some j.port) 9 j.count (pier + 65536 * target) fun port =>
    .restart { j with port := port } pier target step

theorem restartPassed_admitting : (restartPassed s j pier target step).grp.admitting = s.grp.admitting := by
  obtain ⟨l, hl⟩ := floodJ_grp (updGrp s fun g => { g with count := max g.count j.count }) (some j.port) 9 j.count
    (pier + 65536 * target) fun port => .restart { j with port := port } pier target step
  exact (congrArg Group.admitting hl :)

theorem restartMsg_again (hplan : s.ks.plan = some p) (hseen : s.grp.flooded.contains (9, j.count, pier + 65536 * target) = true) :
    restartMsg s j pier target step = s := by
  simp only [restartMsg, hplan]
  exact if_pos (by simp only [hseen, Bool.or_true, Bool.true_or])

/-- R381: a RESTART that this member waits for. -/
theorem restartMsg_first (hplan : s.ks.plan = some p) (hw : s.grp.rewindW = some w) (hcount : w.count = j.count) (hok : jOk s j = true)
    (hpart : takesPart s = true) (hnew : s.grp.flooded.contains (9, j.count, pier + 65536 * target) = false) :
    restartMsg s j pier target step = if s.grp.admitting && (target == 1 || target == 4) then
        formStep (updKs (applyRestart (restartPassed s j pier target step) p pier target) fun k => { k with stepIndex := step.toNat }) p
      else applyRestart (restartPassed s j pier target step) p pier target := by
  simp only [restartMsg, hplan]
  rw [if_neg (by rw [hok, hnew, hw, hpart]; simp [hcount])]
  have hadmit := restartPassed_admitting (s := s) (j := j) (pier := pier) (target := target) (step := step)
  rw [← hadmit]
  rfl

end

/-- What a REWIND of a higher COUNT leaves (Table 19-6 step 2, R382). -/
theorem rewindMsg_joins {s : State} {j : JMsg} (hok : jOk s j = true) (hpart : takesPart s = true) (hcount : s.grp.count < j.count)
    (pier : Nat) (cause : Byte) (need coord replaces : Nat) :
    ∃ w, (rewindMsg s j pier cause need coord replaces).grp.rewindW = some w ∧ w.stage = .stopping ∧ w.count = j.count
      ∧ w.need = need ∧ w.cause = cause ∧ (rewindMsg s j pier cause need coord replaces).grp.count = j.count
      ∧ w.coord = (if replaces = 0xFFFFFFFF ∨ replaces = s.grp.coord then coord else s.grp.coord)
      ∧ w.replaced = (if replaces ≠ 0xFFFFFFFF ∧ replaces = s.grp.coord then some replaces else none)
      ∧ (rewindMsg s j pier cause need coord replaces).grp.coord = w.coord
      ∧ (rewindMsg s j pier cause need coord replaces).ks.haltIssue = true
      ∧ (rewindMsg s j pier cause need coord replaces).ks.readies = [] := by
  obtain ⟨l, hl⟩ := rewindPassed_grp s j pier cause need coord replaces
  have hsame : (rewindPassed s j pier cause need coord replaces).grp.coord = s.grp.coord := (congrArg Group.coord hl :)
  have hgrp := fun c => joinRewind_grp (rewindPassed s j pier cause need coord replaces) j.count cause c need
  have hks := fun c => joinRewind_ks (rewindPassed s j pier cause need coord replaces) j.count cause c need
  have heq := rewindMsg_higher (pier := pier) (cause := cause) (need := need) (coord := coord) (replaces := replaces) hok hpart hcount
  rw [hsame] at heq
  by_cases hnone : replaces = 0xFFFFFFFF
  · rw [if_pos hnone] at heq
    rw [heq, hgrp, hks]
    exact ⟨_, rfl, rfl, rfl, rfl, rfl, rfl, (if_pos (Or.inl hnone)).symm, (if_neg fun h => h.1 hnone).symm, rfl, rfl, rfl⟩
  · rw [if_neg hnone] at heq
    by_cases hown : replaces = s.grp.coord
    · rw [if_pos hown] at heq
      rw [heq, updGrp_grp, updGrp_ks, hgrp, hks]
      exact ⟨_, rfl, rfl, rfl, rfl, rfl, rfl, (if_pos (Or.inr hown)).symm, (if_pos ⟨hnone, hown⟩).symm, rfl, rfl, rfl⟩
    · rw [if_neg hown] at heq
      rw [heq, hgrp, hks]
      exact ⟨_, rfl, rfl, rfl, rfl, rfl, rfl, (if_neg (not_or.2 ⟨hnone, hown⟩)).symm, (if_neg fun h => hown h.2).symm, rfl, rfl, rfl⟩

/-- Settles O50: each message and timeout by the COUNT that it carries, the stage of the rewind and who the coordinator is. -/
theorem rewindsAreCoordinated : Obligations.RewindsAreCoordinated := by
  intro s p hplan
  refine ⟨fun j pier cause need coord replaces hok hpart => ⟨fun hcount => congrArg Host.Outcome.next (rewindMsg_lower hok hpart hcount),
    fun hcount => ?_, fun w hcount hw hnone => ?_⟩, fun w hw hstage => ⟨fun hbusy => ?_, fun hquiet => ?_⟩,
    fun w j pier need step hw hok hcoord hcount => congrArg Host.Outcome.next (quiescedMsg_of_count hw hok hcoord hcount),
    fun w hw hstage hcoord => ?_, fun w hw => ⟨fun h => congrArg Host.Outcome.next (coordinatorTakeover_idle hplan hw h),
      fun hcoord hstage => ?_⟩, fun w j pier target step hw hcount hok hpart => ⟨fun hseen =>
      congrArg Host.Outcome.next (restartMsg_again hplan hseen), fun hnew => ?_⟩⟩
  · obtain ⟨w, h⟩ := rewindMsg_joins hok hpart hcount pier cause need coord replaces
    exact ⟨_, w, rfl, h⟩
  · subst hnone
    obtain ⟨hks, hdram⟩ := floodJ_left s (some j.port) 7 j.count pier fun port =>
      .rewind { j with port := port } pier cause need coord 0xFFFFFFFF
    exact ⟨_, congrArg Host.Outcome.next (rewindMsg_same hok hpart hcount hw), rfl, hks, hdram⟩
  · refine congrArg Host.Outcome.next ((quiesce_of_stopping hplan hw hstage).trans (if_pos (Bool.eq_false_iff.2 fun h => ?_)))
    obtain ⟨n, hn, hne⟩ := hbusy
    exact hne (allQuiet_iff.1 h n hn)
  · have heq := (quiesce_of_stopping hplan hw hstage).trans (if_neg (by rw [allQuiet_iff.2 hquiet]; decide))
    exact ⟨fun hcoord => congrArg Host.Outcome.next (heq.trans (if_pos hcoord)),
      fun hcoord => congrArg Host.Outcome.next (heq.trans (if_neg (by simp [hcoord])))⟩
  · have hend := quietPeriodEnd_of_quiet hplan hw hstage hcoord
    have hloss := coordinatorLossTimeout_of_quiet hplan hw hstage hcoord
    refine ⟨fun hmissing => ?_, fun hall => ⟨fun hends => ?_, fun hends => ?_⟩, fun hall => ?_, fun hmissing => ?_⟩
    · have hwait : allReported p w = false := Bool.eq_false_iff.2 fun h => by
        obtain ⟨r, hr, hunknown⟩ := hmissing
        exact hunknown (allReported_iff.1 h r hr)
      exact congrArg Host.Outcome.next (hend.trans (if_pos (by rw [hwait]; rfl)))
    · rw [if_neg (by rw [allReported_iff.2 hall]; decide)] at hend
      dsimp only at hend
      rw [rewindTarget_end hw hends, if_pos rfl] at hend
      exact congrArg Host.Outcome.next hend
    · have hne : ∀ b : Bool, (if actionHold s then 4 else if b then 1 else 0) ≠ 3 := fun b => by cases actionHold s <;> cases b <;> decide
      rw [if_neg (by rw [allReported_iff.2 hall]; decide)] at hend
      dsimp only at hend
      rw [rewindTarget_go hw hends, if_neg (hne _)] at hend
      exact congrArg Host.Outcome.next hend
    · exact congrArg Host.Outcome.next (hloss.trans (if_pos (by rw [unreported_eq_nil_iff.2 hall]; rfl)))
    · have hlost : ¬ (unreported p w).isEmpty = true := fun h => by
        obtain ⟨r, hr, hunknown⟩ := hmissing
        exact hunknown (unreported_eq_nil_iff.1 (List.isEmpty_iff.1 h) r hr)
      rw [if_neg hlost] at hloss
      dsimp only at hloss
      refine ⟨fun ⟨hlocal, hlimit⟩ => ?_, fun hends => ?_⟩
      · rw [show (if p.stepLocal && !overLimit s s.ks.stepPier then 2 else 3) = 2 by simp [hlocal, hlimit]] at hloss
        exact congrArg Host.Outcome.next hloss
      · rw [show (if p.stepLocal && !overLimit s s.ks.stepPier then 2 else 3) = 3 by rcases hends with h | h <;> simp [h]] at hloss
        exact congrArg Host.Outcome.next hloss
  · obtain ⟨i, hi⟩ := coordinatorTakeover_claims hplan hw hcoord hstage
    obtain ⟨l, hl⟩ := floodJ_grp (updGrp s fun g => { g with coord := rankOf p, rewindW := some (takenOver s p w) }) none 7
      (takenOver s p w).count (pierWord s.ks.lastPier + 65536 * (rankOf p + 1)) i
    obtain ⟨hks, hdram⟩ := floodJ_left (updGrp s fun g => { g with coord := rankOf p, rewindW := some (takenOver s p w) }) none 7
      (takenOver s p w).count (pierWord s.ks.lastPier + 65536 * (rankOf p + 1)) i
    exact ⟨_, takenOver s p w, congrArg Host.Outcome.next hi, (congrArg Group.coord hl :), (congrArg Group.rewindW hl :), rfl, rfl,
      rfl, hks, hdram⟩
  · have heq := restartMsg_first (step := step) hplan hw hcount hok hpart hnew
    refine ⟨fun h => congrArg Host.Outcome.next (heq.trans (if_neg ?_)), fun hadmit htarget =>
      congrArg Host.Outcome.next (heq.trans (if_pos (by simpa [hadmit] using htarget)))⟩
    rcases h with h | ⟨h, h'⟩
    · simp [h]
    · simp [h, h']

end Sys2Proof.Machine

-- ------------------------------------------------------------------------------------------------ ALIVE and admission

namespace Sys2Proof.Machine

section
variable {s t : State} {p : Plan} {j : JMsg} {r : Nat} {step : W64}

-- -------------------------------------------------------------------------------- ALIVE

theorem SentAlone.planState (h : SentAlone s t) : planState t = Machine.planState s := (congrArg Machine.planState h.1 :)

theorem SentAlone.beat (h : SentAlone s t) : t.beat = s.beat := (congrArg State.beat h.1 :)

theorem SentAlone.adjacentRank (h : SentAlone s t) (n : Nat) : adjacentRank t n = Machine.adjacentRank s n := by
  have hranks : t.via.ranks = s.via.ranks := (congrArg Viaduct.ranks h.2.1 :)
  simp only [Machine.adjacentRank, h.trained, h.neighbour, rankAt, ranksNow, h.ks, hranks]

/-- The ALIVE that goes out on a port. -/
def aliveOf (s : State) (n : Nat) : Instr :=
  .alive (jOf s (Nat.xor n 1)) (pierWord s.ks.lastPier) (planState s) s.beat.number

/-- ALIVE on one port, where a member of the group is there. -/
def aliveTo (s : State) (n : Nat) : State := if (adjacentRank s n).isSome then sendVia s n (aliveOf s n) else s

theorem SentAlone.aliveOf (h : SentAlone s t) (n : Nat) : aliveOf t n = Machine.aliveOf s n := by
  simp only [Machine.aliveOf, h.jOf, h.ks, h.planState, h.beat]

theorem portUp_of_trained {n : Nat} (h : isTrained s n = true) : portUp s n = true := by simp [portUp, h]

theorem portUp_of_adjacent {n : Nat} (h : (adjacentRank s n).isSome = true) : portUp s n = true := by
  refine portUp_of_trained ?_
  refine Classical.byContradiction fun hdown => ?_
  simp [adjacentRank, hdown] at h

theorem aliveTo_of_quiet {n : Nat} (hquiet : PortQuiet s n) : SentAlone s (aliveTo s n)
    ∧ (aliveTo s n).via.sent = s.via.sent ++ if (adjacentRank s n).isSome then [(n, aliveOf s n)] else [] := by
  rw [aliveTo]
  split
  next h =>
    obtain ⟨halone, hsent⟩ := sendVia_of_quiet (aliveOf s n) hquiet
    rw [if_pos (portUp_of_adjacent h)] at hsent
    exact ⟨halone, hsent⟩
  next h =>
    exact ⟨SentAlone.refl s, (List.append_nil _).symm⟩

theorem foldl_aliveTo (l : List Nat) (hquiet : ∀ n ∈ l, PortQuiet s n) : SentAlone s (l.foldl aliveTo s)
    ∧ (l.foldl aliveTo s).via.sent
      = s.via.sent ++ (l.filter fun n => (adjacentRank s n).isSome).map fun n => (n, aliveOf s n) := by
  induction l generalizing s with
  | nil => exact ⟨SentAlone.refl s, (List.append_nil _).symm⟩
  | cons n l ih =>
    obtain ⟨halone, hsent⟩ := aliveTo_of_quiet (hquiet n List.mem_cons_self)
    obtain ⟨ihalone, ihsent⟩ := ih fun m hm => halone.quiet (hquiet m (List.mem_cons_of_mem _ hm))
    refine ⟨halone.trans ihalone, ihsent.trans ?_⟩
    simp only [hsent, halone.adjacentRank, halone.aliveOf, List.filter_cons]
    split <;> simp

theorem aliveSend_of_member (hplan : s.ks.plan = some p) (hpart : takesPart s = true) (hsize : 1 < groupSize p) :
    aliveSend s = (List.range 8).foldl aliveTo s := by
  have hmany : decide (members s ≤ 1) = false := by simpa [members, hplan] using hsize
  rw [aliveSend, if_neg (by simp [hpart, hmany])]
  congr 1
  funext u n
  rw [aliveTo]
  cases adjacentRank u n <;> rfl

theorem aliveMsg_of_ok {pier ps : Nat} {beat : W64} (hok : jOk s j = true) : aliveMsg s j pier ps beat = updGrp s fun g => { g with
    alive := g.alive.filter (fun e => e.1 != j.sender) ++ [(j.sender, (ps, beat))]
    lostRanks := if g.coord = ownRank s then g.lostRanks else g.lostRanks.filter (· != j.sender) } := by
  rw [aliveMsg, if_neg (by simp [hok])]
  simp only [beq_iff_eq]

-- -------------------------------------------------------------------------------- a silent member

/-- The watcher that finds a member silent notes and tells it. -/
def silenceTold (s : State) (r : Nat) : State :=
  updGrp (notifyFault (updGrp s fun g => { g with alive := g.alive.filter (fun e => e.1 != r) })
    (mkEvent stLinkDown srcKs 2 r evFault r 0)) fun g => { g with lostRanks := g.lostRanks ++ [r] }

theorem silentMember_starts {n : Nat} (hplan : s.ks.plan = some p) (hpart : takesPart s = true) (hsize : 1 < groupSize p) (hn : n < 8)
    (hadj : adjacentRank s n = some r) (hother : r ≠ ownRank s) (hw : s.grp.rewindW = none) (hlost : r ∉ s.grp.lostRanks)
    (hreshard : reshardAt s 5 = false) : silentMember s r = startRewind (silenceTold s r) stLinkDown 0 := by
  have hmany : decide (members s ≤ 1) = false := by simpa [members, hplan] using hsize
  have hany : ((List.range 8).any fun n => adjacentRank s n == some r) = true :=
    List.any_eq_true.2 ⟨n, List.mem_range.2 hn, by rw [hadj]; exact beq_self_eq_true _⟩
  rw [silentMember, hany, if_neg (by simp [hpart, hmany, hother, hlost])]
  refine (if_neg (by simp [hw])).trans (if_neg ?_)
  rw [show reshardAt (updGrp s _) 5 = false from hreshard]
  decide

theorem dropSegment_grp (s : State) (keep : List Nat) : (dropSegment s keep).grp = s.grp := rfl

/-- With no re-shard held, dropping the segment leaves the group's state alone. -/
theorem segmentDropped_grp (h : reshardAt s 5 = false) (cause : Byte) : (segmentDropped s cause).grp = s.grp := by
  rw [segmentDropped, dropSegment_grp, h]
  rfl

theorem startRewind_ks (s : State) (cause need : Nat) : (startRewind s cause need).ks.haltIssue = true := by
  unfold startRewind
  dsimp only
  rw [(floodJ_left ..).1, joinRewind_ks]

theorem silenceTold_ks (s : State) (r : Nat) : (silenceTold s r).ks = s.ks := by
  rw [silenceTold, updGrp_ks, notifyFault_ks, updGrp_ks]

theorem silenceTold_grp (s : State) (r : Nat) : (silenceTold s r).grp
    = { s.grp with alive := s.grp.alive.filter (fun e => e.1 != r), lostRanks := s.grp.lostRanks ++ [r] } := by
  rw [silenceTold, updGrp_grp, notifyFault_grp, updGrp_grp]

theorem reshardAt_silenceTold (k : Nat) : reshardAt (silenceTold s r) k = reshardAt s k := by
  rw [reshardAt, silenceTold_ks]
  rfl

-- -------------------------------------------------------------------------------- ADMIT and ADMITTED

theorem admitMsg_of_unit {gen : W32} (hplan : s.ks.plan = some p) (hok : jOk s j = true) (hadmit : s.grp.admitting = true)
    (hstage : s.ks.startStage = some .journal) : admitMsg s j step gen = generationCheck s p step.toNat gen.toNat := by
  simp only [admitMsg, hplan, hok, hadmit, hstage]
  rfl

theorem admitMsg_of_holder {gen : W32} {b : Nat} (hplan : s.ks.plan = some p) (hok : jOk s j = true) (hadmit : s.grp.admitting = false)
    (hb : mirrorOf j.port = some b) (hhold : s.grp.holdAdmit = true) : admitMsg s j step gen
      = if (!mirrorsUnit s p j.port b) = true then logEvent s (mkEvent stPlanInvalid srcKs 1 j.port evState j.sender 0)
        else sendVia (returnJournal s p j.port b) j.port (.admitUnit (jOf s (Nat.xor j.port 1))
          (BitVec.ofNat 64 (committedRecord s p).1) (BitVec.ofNat 32 (committedRecord s p).2.2)) := by
  simp only [admitMsg, hplan, hok, hadmit, hb, hhold]
  rfl

theorem sendMirror_of_quiet {n : Nat} (hquiet : PortQuiet s n) (b off len : Nat) : SentAlone s (sendMirror s n b off len) :=
  (sendVia_of_quiet _ hquiet).1

/-- The journal returned to the unit is sent, and nothing else changes. -/
theorem returnJournal_of_quiet {n : Nat} (hquiet : PortQuiet s n) (p : Plan) (b : Nat) : SentAlone s (returnJournal s p n b) := by
  have hpiers : ∀ (l : List PierEntry) (u : State), SentAlone s u → SentAlone s (l.foldl (fun s e =>
      if memNat s.dram.mem (b + e.index * slotSize) 4 = recordMagic then
        sendMirror s n b (e.index * slotSize) (min slotSize (memNat s.dram.mem (b + e.index * slotSize + 8) 4))
      else s) u) := fun l => by
    induction l with
    | nil => exact fun u hu => hu
    | cons e l ih =>
      refine fun u hu => ih _ ?_
      dsimp only
      split
      · exact hu.trans (sendMirror_of_quiet (hu.quiet hquiet) ..)
      · exact hu
  unfold returnJournal
  split
  · exact (hpiers p.piers s (SentAlone.refl s)).trans (sendMirror_of_quiet ((hpiers p.piers s (SentAlone.refl s)).quiet hquiet) ..)
  · exact hpiers p.piers s (SentAlone.refl s)

theorem admittedMsg_of_coord (hplan : s.ks.plan = some p) (hok : jOk s j = true) (hcoord : isCoord s = true)
    (hhold : s.grp.holdAdmit = true) : admittedMsg s j
      = if (s.grp.lostRanks.filter (· != j.sender)).isEmpty then
          sendRestart (updGrp s fun g => { g with lostRanks := s.grp.lostRanks.filter (· != j.sender) }) p (pierWord s.ks.stepPier)
            (if actionHold s then 4 else 1)
        else updGrp s fun g => { g with lostRanks := s.grp.lostRanks.filter (· != j.sender) } := by
  simp only [admittedMsg, hplan, hok, hcoord, hhold]
  rfl

end

/-- Settles O52: ALIVE goes where a member is adjacent; a silent one starts a rewind; ADMIT and ADMITTED by who holds the mirror. -/
theorem membersWatchAndAdmit : Obligations.MembersWatchAndAdmit := by
  intro s p hplan
  refine ⟨fun hpart hsize hquiet => ?_, fun j pier ps beat hok => congrArg Host.Outcome.next (aliveMsg_of_ok hok),
    fun r n hpart hsize hn hadj hother hw _ hlost hreshard => ?_, fun j step gen b hok => ⟨fun hadmit hstage =>
      congrArg Host.Outcome.next (admitMsg_of_unit hplan hok hadmit hstage), fun hadmit hb hhold hunit => ?_,
      fun hadmit hb hhold hunit hquiet => ?_⟩, fun j step hok hcoord hhold => ?_⟩
  · obtain ⟨halone, hsent⟩ := foldl_aliveTo (List.range 8) fun n hn => hquiet n (List.mem_range.1 hn)
    exact ⟨_, congrArg Host.Outcome.next (aliveSend_of_member hplan hpart hsize), halone.1, hsent⟩
  · have heq := silentMember_starts hplan hpart hsize hn hadj hother hw hlost hreshard
    obtain ⟨l, hl⟩ := startRewind_grp (silenceTold s r) stLinkDown 0
    rw [segmentDropped_grp ((reshardAt_silenceTold 5).trans hreshard), silenceTold_grp] at hl
    refine ⟨_, _, congrArg Host.Outcome.next heq, (congrArg Group.rewindW hl :), rfl, rfl, rfl, startRewind_ks .., fun e he => ?_,
      (congrArg Group.lostRanks hl :)⟩
    have halive : (startRewind (silenceTold s r) stLinkDown 0).grp.alive = s.grp.alive.filter (fun e => e.1 != r) :=
      (congrArg Group.alive hl :)
    rw [halive] at he
    exact bne_iff_ne.1 (List.mem_filter.1 he).2
  · exact congrArg Host.Outcome.next ((admitMsg_of_holder hplan hok hadmit hb hhold).trans (if_pos (by rw [hunit]; rfl)))
  · have heq := (admitMsg_of_holder (step := step) (gen := gen) hplan hok hadmit hb hhold).trans (if_neg (by rw [hunit]; decide))
    have hjournal := returnJournal_of_quiet hquiet p b
    obtain ⟨halone, hsent⟩ := sendVia_of_quiet (.admitUnit (jOf s (Nat.xor j.port 1)) (BitVec.ofNat 64 (committedRecord s p).1)
      (BitVec.ofNat 32 (committedRecord s p).2.2)) (hjournal.quiet hquiet)
    rw [if_pos ((hjournal.up _).trans (portUp_of_jOk hok))] at hsent
    exact ⟨_, congrArg Host.Outcome.next heq, (hjournal.trans halone).1, by rw [hsent]; exact List.getLast?_concat ..⟩
  · have heq := admittedMsg_of_coord hplan hok hcoord hhold
    exact ⟨fun hleft => congrArg Host.Outcome.next (heq.trans (if_neg (by simpa using hleft))),
      fun hleft => congrArg Host.Outcome.next (heq.trans (if_pos (by rw [hleft]; rfl)))⟩

end Sys2Proof.Machine

-- ------------------------------------------------------------------------------------------------ re-shards decide

namespace Sys2Proof.Machine

section
variable {s : State} {p : Plan} {c : Taken} {tag : Nat}

theorem advanceToken_of_no_reshard (h : s.ks.reshardW = none) : advanceToken s = s := by
  simp only [advanceToken, h]

theorem advanceMoves_of_no_reshard (h : s.ks.reshardW = none) : advanceMoves s = s := by
  simp only [advanceMoves, h]

/-- With no re-shard held there is nothing to go on with. -/
theorem advance_of_no_reshard (h : s.ks.reshardW = none) : advance s = s := by
  rw [advance, advanceToken_of_no_reshard h, advanceMoves_of_no_reshard h, advanceMoves_of_no_reshard h,
    advanceToken_of_no_reshard h]

-- -------------------------------------------------------------------------------- RESHARD

theorem reshardCmd_busy (h : Served s cmdReshard tag c) (hpay : payClean c [(4, 4), (8, 8)] = true) (hw : s.ks.reshardW ≠ none) :
    reshardCmd s tag = finishCmd s c stBusy [] := by
  rw [reshardCmd, serve_of_served h]
  dsimp only
  rw [if_neg (by simp [hpay])]
  exact if_pos (by rw [Option.isSome_iff_ne_none.2 hw, Bool.or_true])

/-- The work of a RESHARD whose image has passed its checks. -/
def reshardBegun (s : State) (p : Plan) (c : Taken) (f : Formation) : ReshardWork :=
  { tag := c.tag, epoch := payAt c 4 4, mapAddr := payAt c 8 8, form := f, plan := none
    phase := bitNat (planState s == plPaused && (s.ks.lastPier.bind (pierByIndex p)).any fun x => x.flags.testBit 1)
    pier := s.ks.lastPier.getD 0, joined := false, ranks := [], seen := [], early := [], ports := [], moved := 0
    bytes := 0, retried := false }

theorem reshardCmd_begins {f : Formation} (h : Served s cmdReshard tag c) (hpay : payClean c [(4, 4), (8, 8)] = true)
    (hplan : s.ks.plan = some p) (hst : planState s = plRunning ∨ planState s = plPaused) (hw : s.ks.reshardW = none)
    (himg : imgStatus (acceptCmd s c) p (payAt c 8 8) (payAt c 4 4) = 0)
    (hring : (acceptCmd s c).via.formed.bind (imgRing (acceptCmd s c).dram.mem (payAt c 8 8)) = some f) :
    reshardCmd s tag = updKs (acceptCmd s c) fun k =>
      { k with reshardW := some (reshardBegun (acceptCmd s c) p c f), reshardBad := none } := by
  have hplan' : (acceptCmd s c).ks.plan = some p := (congrArg Keystone.plan (acceptCmd_ks s c)).trans hplan
  rw [reshardCmd, serve_of_served h]
  dsimp only
  rw [if_neg (by simp [hpay]), if_neg (by simpa [hw, ← Decidable.or_iff_not_imp_left] using hst)]
  simp only [hplan', hring, himg]
  rfl

theorem reshardCmd_refused (h : Served s cmdReshard tag c) (hpay : payClean c [(4, 4), (8, 8)] = true)
    (hplan : s.ks.plan = some p) (hst : planState s = plRunning ∨ planState s = plPaused) (hw : s.ks.reshardW = none)
    (himg : imgStatus (acceptCmd s c) p (payAt c 8 8) (payAt c 4 4) ≠ 0) :
    ∃ st, reshardCmd s tag = finishCmd (dissent (acceptCmd s c) (payAt c 4 4) (payAt c 8 8)) c st [] := by
  have hplan' : (acceptCmd s c).ks.plan = some p := (congrArg Keystone.plan (acceptCmd_ks s c)).trans hplan
  rw [reshardCmd, serve_of_served h]
  dsimp only
  rw [if_neg (by simp [hpay]), if_neg (by simpa [hw, ← Decidable.or_iff_not_imp_left] using hst)]
  simp only [hplan']
  cases hcase : imgStatus (acceptCmd s c) p (payAt c 8 8) (payAt c 4 4) with
  | zero => exact absurd hcase himg
  | succ n => exact ⟨_, rfl⟩

theorem dissent_of_alone (hplan : s.ks.plan = some p) (hsize : groupSize p = 1) (epoch a : Nat) :
    dissent s epoch a = updKs s fun k => { k with reshardBad := some epoch } := by
  simp only [dissent, updKs_ks, hplan, hsize, if_true]

-- -------------------------------------------------------------------------------- the token and its decision

section
variable {w : ReshardWork} {m : Ctl}

theorem reshardPlan_of_tag (hplan : s.ks.plan = some p) (htag : m.tag = BitVec.ofNat 32 p.groupTag) : reshardPlan s m = some p := by
  simp only [reshardPlan, hplan, htag, if_true]

theorem reshardTokenMsg_of_leader {t : ReshardToken} (hplan : s.ks.plan = some p) (htag : m.tag = BitVec.ofNat 32 p.groupTag)
    (hw : s.ks.reshardW = some w) (hlead : rankOf p = 0) (hjoined : w.joined = true) (hepoch : t.epoch = w.epoch)
    (hphase : tokenPhase { w with joined := false } = some t.phase) :
    reshardTokenMsg s m t = advance (decideReshard s p w t.phase (t.agree && t.count == groupSize p)) := by
  simp only [reshardTokenMsg, reshardPlan_of_tag hplan htag, hlead, if_true, hw]
  exact if_pos (by simp [hjoined, hphase, hepoch])

theorem reshardTokenTimeout_of_leader {phase : Nat} (hplan : s.ks.plan = some p) (hw : s.ks.reshardW = some w) (hlead : rankOf p = 0)
    (hjoined : w.joined = true) (hsize : 1 < groupSize p) (hphase : tokenPhase { w with joined := false } = some phase) :
    reshardTokenTimeout s = decideReshard s p w phase false := by
  simp only [reshardTokenTimeout, hplan, hw, hphase]
  exact if_pos ⟨hlead, hjoined, hsize⟩

theorem reshardTokenTimeout_of_member (hplan : s.ks.plan = some p) (hlead : rankOf p ≠ 0) : reshardTokenTimeout s = s := by
  unfold reshardTokenTimeout
  split
  · next q w hq _ =>
    obtain rfl : p = q := Option.some.inj (hplan.symm.trans hq)
    split
    · exact if_neg fun h => hlead h.1
    · rfl
  · rfl

theorem silent_sendOld (s : State) (r st : Nat) (i : Ctl → Instr) : silent (sendOld s r st i) = silent s := by
  unfold sendOld
  split
  · rfl
  · exact silent_sendTo ..

theorem silent_sendReshardDecision (s : State) (p : Plan) (epoch phase : Nat) (go : Bool) :
    silent (sendReshardDecision s p epoch phase go) = silent s := silent_foldl (fun _ _ => silent_sendOld ..) _ _

/-- R359: a REFUSE of READY ends the re-shard; with no PAUSE_AT_PIER pending the old plan stands as it was. -/
theorem reshardRefused_of_ready (hw : w.phase < 2) (hpause : s.ks.pauseReq = none) :
    reshardRefused s w = finishReshard s stPlanInvalid [] := by
  rw [reshardRefused, if_pos hw, settlePause]
  refine if_neg ?_
  have hnone : (finishReshard s stPlanInvalid []).ks.pauseReq = none := by
    unfold finishReshard
    split
    · exact hpause
    · rw [finishOpt_ks]
      exact hpause
  simp [hnone]

theorem finishReshard_of_held (hw : s.ks.reshardW = some w) (st : Nat) (rs : List Nat) : finishReshard s st rs
    = finishOpt (updKs s fun k => { k with reshardW := none, reshardTok := none }) (s.host.long.find? fun c => c.tag == w.tag) st rs := by
  simp only [finishReshard, hw]

theorem applyReshard_of_refuse {phase : Nat} (hphase : tokenPhase { w with joined := false } = some phase) :
    applyReshard s p w phase 0 false = reshardRefused s w := by
  rw [applyReshard, if_neg (not_not_intro rfl), if_neg (not_not_intro hphase)]
  rfl

theorem reshardDecisionMsg_of_held {phase : Nat} {go : Bool} (hplan : s.ks.plan = some p) (htag : m.tag = BitVec.ofNat 32 p.groupTag)
    (hw : s.ks.reshardW = some w) (hstatus : m.status = 0) : reshardDecisionMsg s m w.epoch phase go
      = advance (applyReshard (sendReshardDecision s p w.epoch phase go) p w phase 0 go) := by
  have hheld : (sendReshardDecision s p w.epoch phase go).ks.reshardW = some w := by
    rw [silent_ks (silent_sendReshardDecision ..)]
    exact hw
  simp only [reshardDecisionMsg, reshardPlan_of_tag hplan htag, hstatus, if_true, hheld]
  exact if_pos (Or.inl trivial)

end

end

/-- Settles O48: RESHARD by what its image's checks find; the leader's decision; a REFUSE of READY. -/
theorem reshardDecides : Obligations.ReshardDecides := by
  intro s p hplan
  refine ⟨fun tag c h hpay hst => ⟨fun hw => congrArg Host.Outcome.next (reshardCmd_busy h hpay hw), fun hw =>
    ⟨fun f himg hring => ?_, fun hsize himg => ?_⟩⟩, fun w c hw htag => ⟨fun phase count agree digest hlead hjoined hepoch hphase => ?_,
      fun phase hlead hjoined hsize hphase =>
        congrArg Host.Outcome.next (reshardTokenTimeout_of_leader hplan hw hlead hjoined hsize hphase),
      fun hlead => congrArg Host.Outcome.next (reshardTokenTimeout_of_member hplan hlead),
      fun hstatus hphase hnew hepoch hpause => ?_⟩⟩
  · have hring' : (acceptCmd s c).via.formed.bind (imgRing (acceptCmd s c).dram.mem (payAt c 8 8)) = some f := by
      rw [acceptCmd_via, acceptCmd_dram]
      exact hring
    refine ⟨_, reshardBegun (acceptCmd s c) p c f, congrArg Host.Outcome.next (reshardCmd_begins h hpay hplan hst hw himg hring'),
      rfl, rfl, rfl, rfl, rfl, rfl, fun hrun => ?_, ?_, planState_acceptCmd .., acceptCmd_long ..⟩
    · have hrun' : planState (acceptCmd s c) = plRunning := (planState_acceptCmd ..).trans hrun
      simp only [reshardBegun, hrun']
      rfl
    · exact (congrArg Keystone.plan (acceptCmd_ks s c)).trans hplan
  · obtain ⟨st, heq⟩ := reshardCmd_refused h hpay hplan hst hw himg
    rw [dissent_of_alone (p := p) ((congrArg Keystone.plan (acceptCmd_ks s c)).trans hplan) hsize] at heq
    refine ⟨_, congrArg Host.Outcome.next heq, ?_, ?_, not_mem_inUse_finishCmd _ _ _ _⟩
    · rw [finishCmd_ks, updKs_ks, acceptCmd_ks]
    · rw [planState_finishCmd]
      exact planState_acceptCmd ..
  · have hto : (BitVec.ofNat 32 w.epoch).toNat = w.epoch := by rw [BitVec.toNat_ofNat, Nat.mod_eq_of_lt hepoch]
    exact congrArg Host.Outcome.next (reshardTokenMsg_of_leader
      (t := { epoch := (BitVec.ofNat 32 w.epoch).toNat, phase := phase, agree := agree, count := count, digest := digest })
      hplan htag hw hlead hjoined hto hphase)
  · have hto : (BitVec.ofNat 32 w.epoch).toNat = w.epoch := by rw [BitVec.toNat_ofNat, Nat.mod_eq_of_lt hepoch]
    have htok : tokenPhase { w with joined := false } = some 1 := by
      simp [tokenPhase, hphase, Option.isSome_iff_ne_none.2 hnew]
    have hsent := silent_sendReshardDecision s p w.epoch 1 false
    have hks := silent_ks hsent
    have heq := reshardDecisionMsg_of_held (phase := 1) (go := false) hplan htag hw hstatus
    rw [applyReshard_of_refuse htok, reshardRefused_of_ready (by omega) (by rw [hks]; exact hpause),
      finishReshard_of_held (w := w) (by rw [hks]; exact hw), advance_of_no_reshard (by rw [finishOpt_ks]; rfl)] at heq
    refine ⟨_, (congrArg (fun e => Host.Outcome.next (reshardDecisionMsg s c e 1 false)) hto).trans (congrArg Host.Outcome.next heq),
      ?_, ?_, ?_, ?_, ?_⟩
    · rw [finishOpt_ks]; rfl
    · rw [finishOpt_ks, updKs_ks, hks]; exact hplan
    · rw [finishOpt_ks, updKs_ks, hks]
    · rw [planState_finishOpt]; exact (silent_planState hsent : planState (sendReshardDecision s p w.epoch 1 false) = planState s)
    · rw [finishOpt_dram, updKs_dram, silent_dram hsent]

end Sys2Proof.Machine

-- ------------------------------------------------------------------------------------------------ piers and watermarks

namespace Sys2Proof.Machine

-- -------------------------------------------------------------------------------- a pier is complete

/-- What the end of a pier leaves for the next segment, and what the group holds. -/
def pierView (s : State) : Option PierWork × List Issued × Nat × List Wrote × Option ReshardWork × Group :=
  (s.ks.pierWork, s.ks.issued, s.ks.limitCount, s.ks.written, s.ks.reshardW, s.grp)

theorem pierView_of_eq {s t : State} (hks : t.ks = s.ks) (hgrp : t.grp = s.grp) : pierView t = pierView s := by
  simp only [pierView, hks, hgrp]

theorem pierView_finishStart (s : State) (st : Nat) : pierView (finishStart s st) = pierView s := by
  simp only [pierView, finishStart, finishOpt_ks, finishOpt_grp]
  rfl

theorem pierView_finishPause (s : State) (st : Nat) : pierView (finishPause s st) = pierView s := by
  unfold finishPause
  split
  · rfl
  · simp only [pierView, finishCmd_ks, finishCmd_grp]
    rfl

theorem pierView_applySetting (s : State) (x : Setting) : pierView (applySetting s x) = pierView s := by
  cases x with
  | pace m v => exact ite_keeps rfl rfl
  | commit r f => rfl
  | replay a l => rfl

theorem pierView_applyDue (s : State) : pierView (applyDue s) = pierView s :=
  foldl_keeps pierView_applySetting s.ks.due (updKs s fun k => { k with due := [] })

theorem pierView_holdPlan (s : State) : pierView (holdPlan s) = pierView s := by
  refine (pierView_of_eq (s := applyDue (finishPause s stOk)) ?_ ?_).trans ((pierView_applyDue _).trans (pierView_finishPause s stOk))
  · rw [holdPlan, settleRows_ks, setPlanState_ks]
  · rw [holdPlan, settleRows_grp, setPlanState_grp]

theorem due_applySetting (s : State) (x : Setting) : (applySetting s x).ks.due = s.ks.due := by
  cases x with
  | pace m v => exact ite_keeps (g := fun s : State => s.ks.due) rfl rfl
  | commit r f => rfl
  | replay a l => rfl

theorem due_applyDue (s : State) : (applyDue s).ks.due = [] :=
  (foldl_keeps (g := fun s : State => s.ks.due) due_applySetting s.ks.due (updKs s fun k => { k with due := [] }) :)

theorem due_holdPlan (s : State) : (holdPlan s).ks.due = [] := by
  rw [holdPlan, settleRows_ks, setPlanState_ks, due_applyDue]

theorem applySetting_dram (s : State) (x : Setting) : (applySetting s x).dram = s.dram := by
  cases x with
  | pace m v => exact ite_keeps (g := State.dram) rfl rfl
  | commit r f => rfl
  | replay a l => rfl

theorem applyDue_dram (s : State) : (applyDue s).dram = s.dram :=
  foldl_keeps applySetting_dram s.ks.due (updKs s fun k => { k with due := [] })

theorem finishStart_dram (s : State) (st : Nat) : (finishStart s st).dram = s.dram := by
  rw [finishStart, finishOpt_dram, updKs_dram]

theorem finishPause_dram (s : State) (st : Nat) : (finishPause s st).dram = s.dram := by
  unfold finishPause
  split
  · rfl
  · rw [finishCmd_dram, updKs_dram]

theorem holdPlan_dram {s : State} (h : DramClean s) : (holdPlan s).dram = s.dram := by
  have hdram : (setPlanState (applyDue (finishPause s stOk)) plPaused).dram = s.dram := by
    rw [setPlanState_dram, applyDue_dram, finishPause_dram]
  rw [holdPlan, settleRows_of_clean (by rw [DramClean, hdram]; exact h), hdram]

theorem holdReshard_of_none {s : State} (h : s.ks.reshardW = none) (e : PierEntry) : holdReshard s e = s := by
  have hmap : ∀ f, updReshard s f = s := fun f => by
    rw [updReshard, updKs, h]
    exact congrArg (fun r => { s with ks := { s.ks with reshardW := r } }) h.symm
  rw [holdReshard]
  exact ite_eq_right_iff.2 fun _ => hmap _

/-- Steps 2 to 6 of Table 19-3 done, the segment of a pier is over; settings take effect, and the plan may hold. -/
theorem pierComplete_eq (s : State) (p : Plan) (e : PierEntry) : ∃ u, pierView u
      = (none, s.ks.issued.filter (fun i => i.seq != e.seq), 0, [], s.ks.reshardW, s.grp) ∧ u.dram = s.dram
    ∧ (pierComplete s p e = holdReshard (applyDue u) e ∨ pierComplete s p e = holdPlan (holdReshard (applyDue u) e)
      ∨ pierComplete s p e = holdPlan (finishStart (holdReshard (applyDue u) e) stOk)) := by
  obtain ⟨t, ht, hks, hgrp, hdram⟩ : ∃ t, (if (descAt p e.seq).any isReport then logEvent s (mkEvent 0 srcKs 0 512 evReport e.seq 0) else s) = t
      ∧ t.ks = s.ks ∧ t.grp = s.grp ∧ t.dram = s.dram :=
    ⟨_, rfl, ite_keeps (g := State.ks) (logEvent_ks ..) rfl, ite_keeps (g := State.grp) (logEvent_grp ..) rfl,
      ite_keeps (g := State.dram) (logEvent_dram ..) rfl⟩
  unfold pierComplete
  rw [ht]
  dsimp only
  generalize hu : updKs t _ = u
  refine ⟨u, ?_, by rw [← hu]; exact hdram, ?_⟩
  · rw [← hu]
    simp only [pierView, updKs_ks, updKs_grp, hks, hgrp]
  · split
    · exact Or.inr (Or.inr rfl)
    · split
      · exact Or.inr (Or.inl rfl)
      · exact Or.inl rfl

/-- The end of a pier, with no re-shard held. -/
theorem pierComplete_left {s : State} (hw : s.ks.reshardW = none) (p : Plan) (e : PierEntry) :
    pierView (pierComplete s p e) = (none, s.ks.issued.filter (fun i => i.seq != e.seq), 0, [], none, s.grp)
    ∧ (pierComplete s p e).ks.due = [] ∧ (DramClean s → (pierComplete s p e).dram = s.dram) := by
  obtain ⟨u, hview, hdram, hcases⟩ := pierComplete_eq s p e
  rw [hw] at hview
  have hdue := pierView_applyDue u
  rw [hview] at hdue
  have hdram' := (applyDue_dram u).trans hdram
  have hclean : DramClean s → DramClean (applyDue u) := fun h => by rw [DramClean, hdram']; exact h
  rw [holdReshard_of_none (congrArg (fun v => v.2.2.2.2.1) hdue :)] at hcases
  rcases hcases with h | h | h
  · rw [h]
    exact ⟨hdue, due_applyDue u, fun _ => hdram'⟩
  · rw [h]
    exact ⟨(pierView_holdPlan _).trans hdue, due_holdPlan _, fun hs => (holdPlan_dram (hclean hs)).trans hdram'⟩
  · rw [h]
    have hstart := finishStart_dram (applyDue u) stOk
    refine ⟨(pierView_holdPlan _).trans ((pierView_finishStart _ _).trans hdue), due_holdPlan _, fun hs => ?_⟩
    exact (holdPlan_dram (by rw [DramClean, hstart]; exact hclean hs)).trans (hstart.trans hdram')

-- -------------------------------------------------------------------------------- a pier's record

theorem noteUnmirrored_reshardW (s : State) : (noteUnmirrored s).ks.reshardW = s.ks.reshardW :=
  ite_keeps (g := fun s : State => s.ks.reshardW) rfl (by rw [logEvent_ks]; rfl)

theorem carryForward_ks (s : State) (p : Plan) : (carryForward s p).ks = s.ks :=
  foldl_keeps (g := State.ks) (f := fun s (b : Buf × Nat) => if b.1.kind == 1 && wroteBuf s b.2 then fillWorking s b.1 b.2 else s)
    (fun s b => ite_keeps (g := State.ks) (x := fillWorking s b.1 b.2) rfl rfl) p.bufs.zipIdx s

/-- A descriptor of the segment before a pier names the context. -/
def segmentNames (s : State) (p : Plan) (seq c : Nat) : Bool :=
  p.descs.any fun d => decide (s.ks.segmentOf ≤ d.seq) && decide (d.seq ≤ seq) && d.context == c && c != 0xFF

theorem runContexts_reshardW (s : State) (p : Plan) (seq : Nat) : (runContexts s p seq).ks.reshardW = s.ks.reshardW := by
  have hrun : ∀ (named : Nat → Bool) (l : List Ctx) (r : State × List Ctx), (l.foldl (fun (r : State × List Ctx) c =>
      if named c.ctx then ((runContext r.1 c).1, r.2 ++ [(runContext r.1 c).2]) else (r.1, r.2 ++ [c])) r).1.ks = r.1.ks := fun named l => by
    induction l with
    | nil => exact fun r => rfl
    | cons c l ih => exact fun r => (ih _).trans (by dsimp only; split <;> rfl)
  exact (congrArg Keystone.reshardW (hrun (segmentNames s p seq) s.ks.resident (s, [])) :)

theorem formStep_reshardW (s : State) (p : Plan) : (formStep s p).ks.reshardW = s.ks.reshardW :=
  ite_keeps (g := fun s : State => s.ks.reshardW) rfl rfl

theorem journalWrite_ks (s : State) (off : Nat) (b : List Byte) : (journalWrite s off b).ks = s.ks := by
  unfold journalWrite
  dsimp only
  split
  · rfl
  · rw [silent_ks (silent_sendVia ..)]
    rfl

section
variable {s : State} {p : Plan}

/-- The state whose record a pier writes: kind 1 bytes carried forward, contexts and STEP as the segment leaves them (R446). -/
def pierReached (s : State) (p : Plan) (seq : Nat) (e : PierEntry) : State :=
  if (updatePier p).any (fun x => x.seq == e.seq) then formStep (runContexts (carryForward (noteUnmirrored s) p) p seq) p
  else runContexts (carryForward (noteUnmirrored s) p) p seq

theorem pierReached_reshardW (seq : Nat) (e : PierEntry) : (pierReached s p seq e).ks.reshardW = s.ks.reshardW := by
  have hrun : (runContexts (carryForward (noteUnmirrored s) p) p seq).ks.reshardW = s.ks.reshardW := by
    rw [runContexts_reshardW, carryForward_ks, noteUnmirrored_reshardW]
  rw [pierReached]
  split
  · rw [formStep_reshardW, hrun]
  · exact hrun

theorem pierRun_eq {seq : Nat} {d : Desc} {i : Issued} {e : PierEntry} (hrun : running s seq = some (p, d, i))
    (hop : d.opcode = opPier) (he : pierBySeq p seq = some e) (hidle : s.ks.pierWork = none) (hw : s.grp.rewindW = none) :
    pierRun s seq = if (s.ks.issued.any fun i => decide (i.seq < seq)) = true then s
      else if (mirrorPort (journalWrite (pierReached s p seq e) (e.index * slotSize) (pierRecord (pierReached s p seq e) p e))).isNone then
        pierWritten (journalWrite (pierReached s p seq e) (e.index * slotSize) (pierRecord (pierReached s p seq e) p e)) p e
      else updKs (journalWrite (pierReached s p seq e) (e.index * slotSize) (pierRecord (pierReached s p seq e) p e)) fun k =>
        { k with pierWork := some { seq := seq, index := e.index, stage := .mirroring } } := by
  have hopp : (d.opcode != opPier) = false := by simp [hop]
  simp only [pierRun, hrun, he, hopp, hidle, hw, Option.isSome_none, Bool.false_or, Bool.or_false]
  rfl

-- -------------------------------------------------------------------------------- PIER_DONE and WATERMARK

/-- The coordinator notes that a member has written a pier. -/
def pierNoted (s : State) (j : JMsg) (pier : Nat) : State :=
  updGrp s fun g => { g with dones := if g.dones.contains (j.sender, pier) then g.dones else g.dones ++ [(j.sender, pier)] }

theorem mem_pierNoted {j : JMsg} {pier : Nat} {x : Nat × Nat} :
    x ∈ (pierNoted s j pier).grp.dones ↔ x ∈ (j.sender, pier) :: s.grp.dones := by
  simp only [pierNoted, updGrp_grp, List.contains_iff_mem]
  split
  next h =>
    simp only [List.mem_cons, iff_or_self]
    rintro rfl
    exact h
  next h =>
    simp only [List.mem_append, List.mem_cons, List.not_mem_nil, or_false, or_comm (a := x ∈ s.grp.dones)]

theorem pierDoneMsg_of_coord {j : JMsg} {pier : Nat} {step : W64} (hplan : s.ks.plan = some p) (hok : jOk s j = true)
    (hcount : s.grp.count ≤ j.count) (hcoord : isCoord s = true) :
    pierDoneMsg s j pier step = tryWatermark (pierNoted s j pier) p pier step.toNat := by
  simp only [pierDoneMsg, hplan]
  exact if_neg (by simp [hok, hcoord, hcount])

theorem pierDoneMsg_of_member {j : JMsg} {pier : Nat} {step : W64} (hplan : s.ks.plan = some p) (hcoord : isCoord s = false) :
    pierDoneMsg s j pier step = s := by
  simp only [pierDoneMsg, hplan]
  exact if_pos (by simp [hcoord])

theorem tryWatermark_waits {pier step : Nat} (h : ∃ r, r < groupSize p ∧ (r, pier) ∉ s.grp.dones) : tryWatermark s p pier step = s := by
  obtain ⟨r, hr, hmissing⟩ := h
  have hno : ((List.range (groupSize p)).all fun r => s.grp.dones.contains (r, pier)) = false := by
    rw [Bool.eq_false_iff]
    intro hall
    exact hmissing (List.contains_iff_mem.1 (List.all_eq_true.1 hall r (List.mem_range.2 hr)))
  rw [tryWatermark, hno, Bool.and_false, Bool.false_and]
  rfl

theorem tryWatermark_floods {pier step : Nat} (hcoord : isCoord s = true) (hall : ∀ r, r < groupSize p → (r, pier) ∈ s.grp.dones)
    (hw : s.grp.rewindW = none) : tryWatermark s p pier step
      = holdWatermark (floodJ s none 6 s.grp.count (stepKey pier step) fun n => .watermark (jOf s n) pier (BitVec.ofNat 64 step)) p pier step := by
  have hyes : ((List.range (groupSize p)).all fun r => s.grp.dones.contains (r, pier)) = true :=
    List.all_eq_true.2 fun r hr => List.contains_iff_mem.2 (hall r (List.mem_range.1 hr))
  rw [tryWatermark, hyes, hcoord, hw]
  rfl

theorem watermarkMsg_seen {j : JMsg} {pier : Nat} {step : W64} (hplan : s.ks.plan = some p)
    (h : s.grp.flooded.contains (6, j.count, stepKey pier step.toNat) = true) : watermarkMsg s j pier step = s := by
  simp only [watermarkMsg, hplan]
  exact if_pos (by simp only [h, Bool.or_true, Bool.true_or])

theorem watermarkMsg_new {j : JMsg} {pier : Nat} {step : W64} (hplan : s.ks.plan = some p) (hok : jOk s j = true)
    (hcount : s.grp.count ≤ j.count) (h : s.grp.flooded.contains (6, j.count, stepKey pier step.toNat) = false) :
    ∃ i, watermarkMsg s j pier step
      = holdWatermark (floodJ s (some j.port) 6 j.count (stepKey pier step.toNat) i) p pier step.toNat := by
  simp only [watermarkMsg, hplan]
  exact ⟨_, if_neg (by rw [hok, h]; simp [hcount])⟩

/-- The group's watermark reaches a pier. -/
def watermarkAt (s : State) (pier step : Nat) : State :=
  updGrp s fun g => { g with watermark := some pier, wmStep := step, dones := g.dones.filter (fun d => d.2 != pier) }

theorem holdWatermark_of_holding {w : PierWork} {e : PierEntry} {step : Nat} (hw : s.ks.pierWork = some w) (hstage : w.stage = .holding)
    (he : pierBySeq p w.seq = some e) : holdWatermark s p e.index step = pierComplete (watermarkAt s e.index step) p e := by
  simp only [holdWatermark, updGrp_ks, hw, he]
  exact if_pos ⟨hstage, trivial⟩

end

/-- Settles O33: the record is written and mirrored; the watermark goes out when all have written, and ends the pier held at. -/
theorem piersAreWrittenAndEnded : Obligations.PiersAreWrittenAndEnded := by
  refine ⟨fun s seq p d i e hrun hop he hidle hw => ?_, fun s j p pier step hplan hreshard hok hcount =>
    ⟨fun hcoord => ?_, fun hcoord => ?_, fun hseen => ?_, fun w e hnew hwork hstage he hindex => ?_⟩⟩
  · have heq := pierRun_eq hrun hop he hidle hw
    refine ⟨fun hlower hreshard => ?_, fun hfirst => ?_⟩
    · obtain ⟨x, hx, hlt⟩ := hlower
      rw [if_pos (List.any_eq_true.2 ⟨x, hx, decide_eq_true hlt⟩)] at heq
      exact congrArg Host.Outcome.next ((congrArg advance heq).trans (advance_of_no_reshard hreshard))
    · have hno : ¬ (s.ks.issued.any fun i => decide (i.seq < seq)) = true := by
        rw [List.any_eq_true]
        rintro ⟨x, hx, hlt⟩
        exact absurd (of_decide_eq_true hlt) (Nat.not_lt.2 (hfirst x hx))
      rw [if_neg hno] at heq
      refine ⟨fun hnone => ?_, fun hsome hreshard => ?_⟩
      · exact congrArg (fun u => Host.Outcome.next (advance u)) (heq.trans (if_pos (Option.isNone_iff_eq_none.2 hnone)))
      · have hmirror := heq.trans (if_neg fun h => hsome (Option.isNone_iff_eq_none.1 h))
        refine congrArg Host.Outcome.next ((congrArg advance hmirror).trans (advance_of_no_reshard ?_))
        rw [updKs_ks, journalWrite_ks]
        exact (pierReached_reshardW seq e).trans hreshard
  · have heq := pierDoneMsg_of_coord (pier := pier) (step := step) hplan hok hcount hcoord
    refine ⟨fun hmissing => ?_, fun hall hw => ?_⟩
    · obtain ⟨r, hr, hno⟩ := hmissing
      rw [tryWatermark_waits ⟨r, hr, fun h => hno (mem_pierNoted.1 h)⟩] at heq
      exact congrArg Host.Outcome.next ((congrArg advance heq).trans (advance_of_no_reshard hreshard))
    · rw [tryWatermark_floods (s := pierNoted s j pier) hcoord (fun r hr => mem_pierNoted.2 (hall r hr)) hw] at heq
      exact congrArg (fun u => Host.Outcome.next (advance u)) heq
  · exact congrArg Host.Outcome.next ((congrArg advance (pierDoneMsg_of_member hplan hcoord)).trans (advance_of_no_reshard hreshard))
  · exact congrArg Host.Outcome.next ((congrArg advance (watermarkMsg_seen hplan hseen)).trans (advance_of_no_reshard hreshard))
  · subst hindex
    obtain ⟨i, heq⟩ := watermarkMsg_new hplan hok hcount hnew
    obtain ⟨hks, hdram⟩ := floodJ_left s (some j.port) 6 j.count (stepKey e.index step.toNat) i
    generalize floodJ s (some j.port) 6 j.count (stepKey e.index step.toNat) i = u at heq hks hdram
    rw [holdWatermark_of_holding (by rw [hks]; exact hwork) hstage he] at heq
    have hno : (watermarkAt u e.index step.toNat).ks.reshardW = none := (congrArg Keystone.reshardW hks).trans hreshard
    obtain ⟨hview, hdue, hclean⟩ := pierComplete_left hno p e
    have hgrp : (pierComplete (watermarkAt u e.index step.toNat) p e).grp = (watermarkAt u e.index step.toNat).grp :=
      (congrArg (fun v => v.2.2.2.2.2) hview :)
    have hissued : (pierComplete (watermarkAt u e.index step.toNat) p e).ks.issued
        = (watermarkAt u e.index step.toNat).ks.issued.filter (fun i => i.seq != e.seq) := (congrArg (fun v => v.2.1) hview :)
    refine ⟨_, congrArg Host.Outcome.next ((congrArg advance heq).trans
      (advance_of_no_reshard (congrArg (fun v => v.2.2.2.2.1) hview :))), by rw [hgrp]; rfl, (congrArg (fun v => v.1) hview :), ?_,
      (congrArg (fun v => v.2.2.1) hview :), (congrArg (fun v => v.2.2.2.1) hview :), hdue, fun hs => ?_⟩
    · rw [issuedOf, hissued, List.find?_eq_none]
      exact fun x hx => by simpa using (List.mem_filter.1 hx).2
    · rw [hclean (by rw [DramClean]; exact hdram ▸ hs)]
      exact congrArg Dram.mem hdram

end Sys2Proof.Machine

-- ------------------------------------------------------------------------------------------------ one port at a time

namespace Sys2Proof.Machine

-- -------------------------------------------------------------------------------- entries of a canonical table

section
variable {α : Type} [DecidableEq α] {d v : α} {lo k : Nat} {t : Tab α}

theorem tabGet_of_mem_from (h : tabWfFrom d lo t = true) (hm : (k, v) ∈ t) : tabGet d t k = v ∧ lo ≤ k := by
  induction t generalizing lo with
  | nil => exact absurd hm List.not_mem_nil
  | cons e t ih =>
    obtain ⟨a, x⟩ := e
    simp only [tabWfFrom, Bool.and_eq_true, decide_eq_true_eq] at h
    obtain ⟨⟨hlo, -⟩, ht⟩ := h
    rcases List.mem_cons.1 hm with heq | hm
    · obtain ⟨rfl, rfl⟩ := Prod.mk.injEq .. ▸ heq
      exact ⟨if_pos rfl, hlo⟩
    · obtain ⟨hget, hlt⟩ := ih ht hm
      exact ⟨by rw [tabGet, if_neg (by omega), if_neg (by omega), hget], by omega⟩

theorem tabGet_of_mem (h : tabWf d t = true) (hm : (k, v) ∈ t) : tabGet d t k = v := (tabGet_of_mem_from h hm).1

omit [DecidableEq α] in
theorem mem_of_tabGet_ne (h : tabGet d t k ≠ d) : (k, tabGet d t k) ∈ t := by
  induction t with
  | nil => exact absurd rfl h
  | cons e t ih =>
    obtain ⟨a, x⟩ := e
    by_cases hk : k = a
    · subst hk
      simp [tabGet]
    · by_cases hlt : k < a
      · exact absurd (by simp [tabGet, hk, hlt]) h
      · have hget : tabGet d ((a, x) :: t) k = tabGet d t k := by simp [tabGet, hk, hlt]
        rw [hget] at h ⊢
        exact List.mem_cons_of_mem _ (ih h)

/-- An entry written with what it holds changes nothing. -/
theorem tabSet_tabGet_self (h : tabWfFrom d lo t = true) (k : Nat) : tabSet d t k (tabGet d t k) = t := by
  induction t generalizing lo with
  | nil => simp [tabSet, tabGet]
  | cons e t ih =>
    obtain ⟨a, x⟩ := e
    simp only [tabWfFrom, Bool.and_eq_true, decide_eq_true_eq] at h
    obtain ⟨⟨-, hx⟩, ht⟩ := h
    rcases Nat.lt_trichotomy k a with hk | hk | hk
    · simp [tabSet, tabGet, hk, show k ≠ a by omega]
    · subst hk
      simp [tabSet, tabGet, hx]
    · simp [tabSet, tabGet, show ¬ k < a by omega, show k ≠ a by omega, ih ht]

end

-- -------------------------------------------------------------------------------- a port's canonical table

/-- The ports are listed in their canonical form. -/
def portsWf (s : State) : Prop := tabWf Port.reset s.via.ports = true

/-- The change is one of port n's, and of what has been sent; nothing else of the state differs. -/
def PortOnly (n : Nat) (s t : State) : Prop :=
  portsWf t ∧ (∀ m, m ≠ n → portOf t m = portOf s m) ∧ { t with via := s.via } = s ∧ noWire t.via = noWire s.via

section
variable {s t u : State} {n m : Nat} {p q : Port}

theorem PortOnly.refl (h : portsWf s) : PortOnly n s s := ⟨h, fun _ _ => rfl, rfl, rfl⟩

theorem PortOnly.trans (h : PortOnly n s t) (h' : PortOnly n t u) : PortOnly n s u := by
  obtain ⟨-, hports, hrest, hvia⟩ := h
  obtain ⟨hwf, hports', hrest', hvia'⟩ := h'
  refine ⟨hwf, fun m hm => (hports' m hm).trans (hports m hm), ?_, hvia'.trans hvia⟩
  calc { u with via := s.via } = { { u with via := t.via } with via := s.via } := rfl
    _ = { t with via := s.via } := by rw [hrest']
    _ = s := hrest

theorem PortOnly.wf (h : PortOnly n s t) : portsWf t := h.1
theorem PortOnly.other (h : PortOnly n s t) (hm : m ≠ n) : portOf t m = portOf s m := h.2.1 m hm
theorem PortOnly.rest (h : PortOnly n s t) : { t with via := s.via } = s := h.2.2.1
theorem PortOnly.via (h : PortOnly n s t) : noWire t.via = noWire s.via := h.2.2.2
theorem PortOnly.ks (h : PortOnly n s t) : t.ks = s.ks := (congrArg State.ks h.rest :)
theorem PortOnly.dram (h : PortOnly n s t) : t.dram = s.dram := (congrArg State.dram h.rest :)
theorem PortOnly.sp (h : PortOnly n s t) : t.sp = s.sp := (congrArg State.sp h.rest :)

theorem portsWf_setPort (h : portsWf s) (n : Nat) (q : Port) : portsWf (setPort s n q) := tabSet_wf h

theorem portOf_setPort_same (h : portsWf s) (n : Nat) (q : Port) : portOf (setPort s n q) n = q := (portOf_setPort h).trans (if_pos rfl)

theorem portOf_setPort_other (h : portsWf s) (hm : m ≠ n) (q : Port) : portOf (setPort s n q) m = portOf s m :=
  (portOf_setPort h).trans (if_neg hm)

theorem portOnly_setPort (h : portsWf s) (n : Nat) (q : Port) : PortOnly n s (setPort s n q) :=
  ⟨portsWf_setPort h n q, fun _ hm => portOf_setPort_other h hm q, rfl, rfl⟩

theorem portOnly_updPort (h : portsWf s) (n : Nat) (f : Port → Port) : PortOnly n s (updPort s n f) := portOnly_setPort h n _

theorem portOf_updPort (h : portsWf s) (n : Nat) (f : Port → Port) : portOf (updPort s n f) n = f (portOf s n) :=
  portOf_setPort_same h n _

theorem setPort_self (h : portsWf s) (n : Nat) : setPort s n (portOf s n) = s :=
  congrArg (fun l => { s with via := { s.via with ports := l } }) (tabSet_tabGet_self h n)

theorem portOnly_sendLink (h : portsWf s) (n : Nat) (i : Instr) : PortOnly n s (sendLink s n i) := by
  obtain ⟨hwf, hother, -, -⟩ := portOnly_updPort (s := updVia s fun v => { v with sent := v.sent ++ [(n, i)] }) h n fun p =>
    { p with wire := p.wire ++ [plainFlit kindLink (portAcks p) (linkBytes i)] }
  exact ⟨hwf, hother, rfl, rfl⟩

theorem portOf_sendLink (h : portsWf s) (n : Nat) (i : Instr) : portOf (sendLink s n i) n
    = { portOf s n with wire := (portOf s n).wire ++ [plainFlit kindLink (portAcks (portOf s n)) (linkBytes i)] } :=
  portOf_updPort (s := updVia s fun v => { v with sent := v.sent ++ [(n, i)] }) h n _

theorem sendLink_sent (s : State) (n : Nat) (i : Instr) : (sendLink s n i).via.sent = s.via.sent ++ [(n, i)] := rfl

theorem portOnly_sendPlain (h : portsWf s) (n kind : Nat) (b : List Byte) : PortOnly n s (sendPlain s n kind b) :=
  portOnly_updPort h n _

theorem portOf_sendPlain (h : portsWf s) (n kind : Nat) (b : List Byte) : portOf (sendPlain s n kind b) n
    = { portOf s n with wire := (portOf s n).wire ++ [plainFlit kind (portAcks (portOf s n)) b] } := portOf_updPort h n _

-- -------------------------------------------------------------------------------- a port that retrains

/-- The ports but n, and what no interrupt, record or message changes. -/
def PortTouched (n : Nat) (s t : State) : Prop :=
  portsWf t ∧ (∀ m, m ≠ n → portOf t m = portOf s m) ∧ silent t = silent s

theorem PortTouched.trans (h : PortTouched n s t) (h' : PortTouched n t u) : PortTouched n s u :=
  ⟨h'.1, fun m hm => (h'.2.1 m hm).trans (h.2.1 m hm), h'.2.2.trans h.2.2⟩

theorem PortTouched.wf (h : PortTouched n s t) : portsWf t := h.1
theorem PortTouched.other (h : PortTouched n s t) (hm : m ≠ n) : portOf t m = portOf s m := h.2.1 m hm
theorem PortTouched.ks (h : PortTouched n s t) : t.ks = s.ks := silent_ks h.2.2
theorem PortTouched.dram (h : PortTouched n s t) : t.dram = s.dram := silent_dram h.2.2
theorem PortTouched.sp (h : PortTouched n s t) : t.sp = s.sp := silent_sp h.2.2

theorem PortOnly.touched (h : PortOnly n s t) : PortTouched n s t := by
  refine ⟨h.wf, fun m hm => h.other hm, ?_⟩
  have hrest := congrArg silent h.rest
  have hvia : silent t = { silent { t with via := s.via } with via := noWire t.via } := rfl
  rw [hvia, hrest, h.via]
  rfl

theorem portOf_raiseIrq (s : State) (src m : Nat) : portOf (raiseIrq s src) m = portOf s m := by rw [portOf, raiseIrq_via]; rfl

theorem portsWf_raiseIrq (h : portsWf s) (src : Nat) : portsWf (raiseIrq s src) := by rw [portsWf, raiseIrq_via]; exact h

theorem portTouched_raiseIrq (h : portsWf s) (src : Nat) : PortTouched n s (raiseIrq s src) :=
  ⟨portsWf_raiseIrq h src, fun m _ => portOf_raiseIrq s src m, silent_raiseIrq s src⟩

/-- A port as it is when its retraining begins. -/
def retraining (p : Port) : Port := { p with st := .training, retrain := true, retrains := p.retrains + 1 }

theorem portOf_beginRetrain (h : portsWf s) (n : Nat) : portOf (beginRetrain s n) n = retraining (portOf s n) :=
  (portOf_raiseIrq ..).trans (portOf_updPort h n _)

theorem portTouched_beginRetrain (h : portsWf s) (n : Nat) : PortTouched n s (beginRetrain s n) :=
  (portOnly_updPort h n retraining).touched.trans (portTouched_raiseIrq (portsWf_setPort h n _) 6)

theorem beginRetrain_sent (s : State) (n : Nat) : (beginRetrain s n).via.sent = s.via.sent :=
  (congrArg Viaduct.sent (raiseIrq_via (updPort s n retraining) 6) : (beginRetrain s n).via.sent = (updPort s n retraining).via.sent)

theorem portRetrain_of_linked (h : isLinked s n = true) :
    portRetrain s n = beginRetrain (sendLink s n (.retrainRequest (Nat.xor n 1))) n := by
  rw [portRetrain, if_neg (by simp [h])]

theorem isLinked_of_trained (h : isTrained s n = true) : isLinked s n = true := by rw [isLinked, h, Bool.true_or]

theorem portTouched_portRetrain (h : portsWf s) (n : Nat) : PortTouched n s (portRetrain s n) := by
  rw [portRetrain]
  split
  · exact (PortOnly.refl h).touched
  · exact (portOnly_sendLink h n _).touched.trans (portTouched_beginRetrain (portOnly_sendLink h n _).wf n)

theorem portOf_portRetrain (h : portsWf s) (hlink : isLinked s n = true) : portOf (portRetrain s n) n
    = retraining { portOf s n with
        wire := (portOf s n).wire ++ [plainFlit kindLink (portAcks (portOf s n)) (linkBytes (.retrainRequest (Nat.xor n 1)))] } := by
  rw [portRetrain_of_linked hlink, portOf_beginRetrain (portOnly_sendLink h n _).wf, portOf_sendLink h]

end

-- -------------------------------------------------------------------------------- what a port sends again

/-- The counts of resends once each flit of a list has gone again. -/
def countResent (l : List Flit) (t : Tab Nat) : Tab Nat := l.foldl (fun t f => tabUpd 0 t (flitKey f) (· + 1)) t

section
variable {p : Port} {l l' : List Flit} {t : Tab Nat} {k : Nat}

theorem countResent_wf (h : tabWf 0 t = true) : tabWf 0 (countResent l t) = true := by
  induction l generalizing t with
  | nil => exact h
  | cons f l ih => exact ih (tabUpd_wf h)

theorem tabGet_countResent (h : tabWf 0 t = true) (hl : (l.map flitKey).Nodup) :
    tabGet 0 (countResent l t) k = tabGet 0 t k + if k ∈ l.map flitKey then 1 else 0 := by
  induction l generalizing t with
  | nil => simp [countResent]
  | cons f l ih =>
    obtain ⟨hf, hl⟩ := List.nodup_cons.1 hl
    have hrest : tabGet 0 (countResent (f :: l) t) k = _ := ih (t := tabUpd 0 t (flitKey f) (· + 1)) (tabUpd_wf h) hl
    rw [hrest, tabUpd, tabGet_tabSet h, List.map_cons]
    by_cases hk : k = flitKey f
    · subst hk
      simp [hf]
    · simp [hk]

/-- With nothing stopped every flit goes again. -/
theorem pumpAgain_of_open (h : p.stopped = []) : pumpAgain l [] p
    = { p with wire := p.wire ++ l.map (fun f => { f with acks := portAcks p }), resends := p.resends + l.length
               resent := countResent l p.resent } := by
  induction l generalizing p with
  | nil => simp [pumpAgain, countResent]
  | cons f l ih =>
    have hgo : ¬ (([] : List Nat).contains f.cls || p.stopped.contains (f.cls, laneOf f)) = true := by simp [h]
    rw [pumpAgain, if_neg hgo, ih (p := sendAgain p f) h]
    simp only [sendAgain, List.map_cons, List.append_assoc, List.singleton_append, List.length_cons, countResent, List.foldl_cons]
    congr 1
    omega

/-- A port without what sending again changes. -/
def unresent (p : Port) : Port := { p with wire := [], again := [], resends := 0, resent := [] }

theorem unresent_pumpAgain (l : List Flit) (held : List Nat) (p : Port) : unresent (pumpAgain l held p) = unresent p := by
  induction l generalizing held p with
  | nil => rfl
  | cons f l ih =>
    simp only [pumpAgain]
    split <;> exact ih ..

/-- Of the flits that are to go again some go, each once. -/
theorem resent_pumpAgain (l : List Flit) (held : List Nat) (p : Port) :
    ∃ l', l'.Sublist l ∧ (pumpAgain l held p).resent = countResent l' p.resent := by
  induction l generalizing held p with
  | nil => exact ⟨[], List.Sublist.refl _, rfl⟩
  | cons f l ih =>
    simp only [pumpAgain]
    split
    · obtain ⟨l', hl, heq⟩ := ih (f.cls :: held) { p with again := p.again ++ [f] }
      exact ⟨l', hl.cons f, heq⟩
    · obtain ⟨l', hl, heq⟩ := ih held (sendAgain p f)
      exact ⟨f :: l', hl.cons_cons f, heq⟩

/-- No flit has gone again eight times where each goes once more and none has gone seven times. -/
theorem countResent_lt (h : tabWf 0 t = true) (hl : (l.map flitKey).Nodup) (hlt : ∀ x ∈ t, x.2 < 8)
    (hseven : ∀ f ∈ l, tabGet 0 t (flitKey f) ≠ 7) : ∀ x ∈ countResent l t, x.2 < 8 := by
  rintro ⟨k, v⟩ hx
  have hv := tabGet_of_mem (countResent_wf h) hx
  rw [tabGet_countResent h hl] at hv
  have hold : tabGet 0 t k < 8 := by
    by_cases h0 : tabGet 0 t k = 0
    · omega
    · exact hlt _ (mem_of_tabGet_ne h0)
  by_cases hk : k ∈ l.map flitKey
  · obtain ⟨f, hf, rfl⟩ := List.mem_map.1 hk
    have := hseven f hf
    rw [if_pos hk] at hv
    simp only
    omega
  · rw [if_neg hk] at hv
    simp only
    omega

theorem countResent_eighth {f : Flit} (h : tabWf 0 t = true) (hl : (l.map flitKey).Nodup) (hf : f ∈ l)
    (hseven : tabGet 0 t (flitKey f) = 7) : ∃ x ∈ countResent l t, 8 ≤ x.2 := by
  have hget : tabGet 0 (countResent l t) (flitKey f) = 8 := by
    rw [tabGet_countResent h hl, if_pos (List.mem_map_of_mem hf), hseven]
  exact ⟨(flitKey f, _), mem_of_tabGet_ne (by rw [hget]; decide), Nat.le_of_eq hget.symm⟩

end

-- -------------------------------------------------------------------------------- what a port that pumps keeps

/-- A port without what sending, resending and retraining change. -/
def unpumped (p : Port) : Port :=
  { p with st := .trained, retrain := false, retrains := 0, queue := [], tx := [], retry := [], wire := [], again := [], resends := 0
           resent := [] }

/-- What a port has become once it has sent what it may. -/
def pumpedPort (s : State) (n : Nat) : Port :=
  pumpList s n (resentPort (portOf s n)).queue [] { resentPort (portOf s n) with queue := [] }

section
variable {s : State} {n : Nat}

theorem unpumped_pumpedPort (s : State) (n : Nat) : unpumped (pumpedPort s n) = unpumped (portOf s n) := by
  have hlist := congrArg unpumped (unsent_pumpList s n (resentPort (portOf s n)).queue [] { resentPort (portOf s n) with queue := [] })
  have hagain := congrArg unpumped (unresent_pumpAgain (portOf s n).again [] { portOf s n with again := [] })
  exact (hlist : unpumped (pumpedPort s n) = unpumped (resentPort (portOf s n))).trans hagain

theorem st_pumpedPort (s : State) (n : Nat) : (pumpedPort s n).st = (portOf s n).st := by
  have hlist := congrArg Port.st (unsent_pumpList s n (resentPort (portOf s n)).queue [] { resentPort (portOf s n) with queue := [] })
  have hagain := congrArg Port.st (unresent_pumpAgain (portOf s n).again [] { portOf s n with again := [] })
  exact (hlist : (pumpedPort s n).st = (resentPort (portOf s n)).st).trans hagain

theorem pump_of_trained (h : isTrained s n = true) : pump s n = resendLimit (setPort s n (pumpedPort s n)) n := by
  rw [pump_eq, if_neg (not_not_intro (beq_iff_eq.1 h))]
  rfl

theorem pump_of_untrained (h : isTrained s n = false) : pump s n = s := by
  rw [pump_eq]
  exact if_pos fun hst => by simp [isTrained, hst] at h

theorem pump_calm (hwf : portsWf s) (h : isTrained s n = true) (hcalm : ∀ x ∈ (pumpedPort s n).resent, x.2 < 8) :
    pump s n = setPort s n (pumpedPort s n) := by
  rw [pump_of_trained h, resendLimit, portOf_setPort_same hwf]
  exact if_neg (by simpa using fun a b hab => hcalm (a, b) hab)

theorem pump_retrains (hwf : portsWf s) (h : isTrained s n = true) (heighth : ∃ x ∈ (pumpedPort s n).resent, 8 ≤ x.2) :
    pump s n = portRetrain (setPort s n (pumpedPort s n)) n := by
  obtain ⟨⟨a, b⟩, hmem, hb⟩ := heighth
  rw [pump_of_trained h, resendLimit, portOf_setPort_same hwf]
  exact if_pos (List.any_eq_true.2 ⟨(a, b), hmem, decide_eq_true hb⟩)

theorem portTouched_pump (hwf : portsWf s) (n : Nat) : PortTouched n s (pump s n)
    ∧ unpumped (portOf (pump s n) n) = unpumped (portOf s n) := by
  cases h : isTrained s n with
  | false => rw [pump_of_untrained h]; exact ⟨(PortOnly.refl hwf).touched, rfl⟩
  | true =>
    have hset := portOnly_setPort hwf n (pumpedPort s n)
    have hport := portOf_setPort_same hwf n (pumpedPort s n)
    have hkeeps := unpumped_pumpedPort s n
    by_cases hcalm : ∀ x ∈ (pumpedPort s n).resent, x.2 < 8
    · rw [pump_calm hwf h hcalm, hport]
      exact ⟨hset.touched, hkeeps⟩
    · have heighth : ∃ x ∈ (pumpedPort s n).resent, 8 ≤ x.2 := by simpa using hcalm
      have hlink : isLinked (setPort s n (pumpedPort s n)) n = true := isLinked_of_trained (by
        rw [isTrained, hport, st_pumpedPort]
        exact h)
      rw [pump_retrains hwf h heighth, portOf_portRetrain hset.wf hlink, hport]
      exact ⟨hset.touched.trans (portTouched_portRetrain hset.wf n), hkeeps⟩

/-- With nothing waiting and nothing to send again a port sends nothing. -/
theorem pump_idle (hwf : portsWf s) (hqueue : (portOf s n).queue = []) (hquiet : PortQuiet s n) : pump s n = s := by
  cases h : isTrained s n with
  | false => exact pump_of_untrained h
  | true =>
    rw [pump_of_quiet (beq_iff_eq.1 h) hquiet, hqueue, pumpList]
    rw [← hqueue]
    exact setPort_self hwf n

theorem queueFlits_of_untrained (hwf : portsWf s) (h : isTrained s n = false) (fs : List Flit) :
    queueFlits s n fs = updPort s n fun p => { p with queue := p.queue ++ fs } := by
  refine pump_of_untrained ?_
  rw [isTrained, portOf_updPort hwf]
  exact h

end

end Sys2Proof.Machine

-- ------------------------------------------------------------------------------------------------ ports that train

namespace Sys2Proof.Machine

section
variable {s t : State} {n m : Nat}

-- -------------------------------------------------------------------------------- what ends with a port's service

theorem armWaiting_of_none (h : ∀ e ∈ s.ks.rearm, e.1 ≠ n) : armWaiting s n = s := by
  have hfind : (s.ks.rearm.find? fun e => e.1 == n) = none := List.find?_eq_none.2 fun e he => by simpa using h e he
  simp only [armWaiting, hfind]

theorem armWaiting_via (s : State) (n : Nat) : (armWaiting s n).via = s.via := by
  unfold armWaiting
  split <;> rfl

theorem forgetMarkers_left (s : State) (n : Nat) : (forgetMarkers s n).ks = s.ks ∧ (forgetMarkers s n).dram = s.dram
    ∧ (forgetMarkers s n).via = s.via := by
  obtain ⟨hks, hdram, hvia⟩ := retime_left (updBeat s fun b =>
    { b with portHops := b.portHops.filter (fun e => e.1 != n), delays := b.delays.filter (fun d => d.1 != n)
             asked := b.asked.filter (fun a => a.1 != n), echoDue := b.echoDue.filter (fun e => e.1 != n) })
  exact ⟨hks, hdram, hvia⟩

theorem portOf_congr (h : t.via = s.via) (m : Nat) : portOf t m = portOf s m := by rw [portOf, portOf, h]

theorem portsWf_congr (h : t.via = s.via) (hwf : portsWf s) : portsWf t := by rw [portsWf, h]; exact hwf

/-- A port without the flits that wait on it. -/
def unqueued (p : Port) : Port := { p with queue := [] }

theorem unqueued_st {p q : Port} (h : unqueued q = unqueued p) : q.st = p.st := (congrArg Port.st h :)

/-- Flits queued on any port leave one that is not trained as it is, beside its queue. -/
theorem queueFlits_keeps (hwf : portsWf s) (hdown : isTrained s n = false) (m : Nat) (fs : List Flit) :
    portsWf (queueFlits s m fs) ∧ unqueued (portOf (queueFlits s m fs) n) = unqueued (portOf s n) := by
  by_cases hm : m = n
  · subst hm
    rw [queueFlits_of_untrained hwf hdown, portOf_updPort hwf]
    exact ⟨portsWf_setPort hwf m _, rfl⟩
  · have hqueued := portOnly_updPort hwf m fun p => { p with queue := p.queue ++ fs }
    have hpump := (portTouched_pump hqueued.wf m).1
    exact ⟨hpump.wf, by rw [queueFlits, hpump.other (Ne.symm hm), hqueued.other (Ne.symm hm)]⟩

theorem rerouteFlit_keeps (hwf : portsWf s) (hdown : isTrained s n = false) (f : Flit) :
    portsWf (rerouteFlit s f) ∧ unqueued (portOf (rerouteFlit s f) n) = unqueued (portOf s n) := by
  unfold rerouteFlit routeFlits
  split
  · exact ⟨portsWf_congr (logEvent_via ..) hwf, by rw [portOf_congr (logEvent_via ..)]⟩
  · exact queueFlits_keeps hwf hdown _ _

theorem foldl_rerouteFlit_keeps (l : List Flit) (hwf : portsWf s) (hdown : isTrained s n = false) :
    portsWf (l.foldl rerouteFlit s) ∧ unqueued (portOf (l.foldl rerouteFlit s) n) = unqueued (portOf s n) := by
  induction l generalizing s with
  | nil => exact ⟨hwf, rfl⟩
  | cons f l ih =>
    obtain ⟨hwf', hport⟩ := rerouteFlit_keeps hwf hdown f
    obtain ⟨hwf'', hport'⟩ := ih hwf' (by rw [isTrained, unqueued_st hport]; exact hdown)
    exact ⟨hwf'', hport'.trans hport⟩

theorem silent_rerouteFlit (s : State) (f : Flit) : silent (rerouteFlit s f) = silent s := silent_routeFlits ..

theorem rerouteQueue_keeps (hwf : portsWf s) (hdown : isTrained s n = false) : portsWf (rerouteQueue s n)
    ∧ unqueued (portOf (rerouteQueue s n) n) = unqueued (portOf s n) ∧ noWire (rerouteQueue s n).via = noWire s.via := by
  have hempty := portOnly_updPort hwf n unqueued
  have hport := portOf_updPort hwf n unqueued
  obtain ⟨hwf', hport'⟩ := foldl_rerouteFlit_keeps (portOf s n).queue hempty.wf (n := n) (by rw [isTrained, hport]; exact hdown)
  exact ⟨hwf', hport'.trans (by rw [hport]; rfl),
    (silent_via (silent_foldl silent_rerouteFlit (portOf s n).queue (updPort s n unqueued))).trans rfl⟩

theorem leaveService_keeps (hwf : portsWf s) (hdown : isTrained s n = false) : portsWf (leaveService s n)
    ∧ unqueued (portOf (leaveService s n) n) = unqueued (portOf s n) ∧ noWire (leaveService s n).via = noWire s.via := by
  have hvia : (forgetMarkers (armWaiting s n) n).via = s.via := (forgetMarkers_left _ n).2.2.trans (armWaiting_via s n)
  obtain ⟨hwf', hport, hvia'⟩ := rerouteQueue_keeps (s := forgetMarkers (armWaiting s n) n) (n := n) (portsWf_congr hvia hwf)
    (by rw [isTrained, portOf_congr hvia]; exact hdown)
  exact ⟨hwf', hport.trans (by rw [portOf_congr hvia]), hvia'.trans (by rw [hvia])⟩

/-- With nothing waiting, on a port or to arm, only what was heard of the beat goes. -/
theorem leaveService_of_idle (hwf : portsWf s) (harm : ∀ e ∈ s.ks.rearm, e.1 ≠ n) (hqueue : (portOf s n).queue = []) :
    leaveService s n = forgetMarkers s n := by
  have hvia := (forgetMarkers_left s n).2.2
  have hport := portOf_congr hvia n
  rw [leaveService, armWaiting_of_none harm, rerouteQueue, hport, hqueue, List.foldl_nil]
  rw [updPort, ← hqueue, ← hport]
  exact setPort_self (portsWf_congr hvia hwf) n

-- -------------------------------------------------------------------------------- a port's state

theorem portTouched_portChange (hwf : portsWf s) (n : Nat) (st : PortState) : PortTouched n s (portChange s n st)
    ∧ portOf (portChange s n st) n = { portOf s n with st := st } := by
  have hset := portOnly_updPort hwf n fun p => { p with st := st }
  have hport := portOf_updPort hwf n fun p => { p with st := st }
  simp only [portChange]
  split
  · exact ⟨hset.touched, hport⟩
  · exact ⟨hset.touched.trans (portTouched_raiseIrq hset.wf 6), (portOf_raiseIrq ..).trans hport⟩

/-- A port without what is on the wire. -/
def unwired (p : Port) : Port := { p with wire := [] }

theorem sendLink_unwired (hwf : portsWf s) (n m : Nat) (i : Instr) : unwired (portOf (sendLink s n i) m) = unwired (portOf s m) := by
  by_cases h : m = n
  · rw [h, portOf_sendLink hwf]
    rfl
  · rw [(portOnly_sendLink hwf n i).other h]

theorem foldl_sendLink_unwired (i : State → Nat → Instr) (l : List Nat) (hwf : portsWf s) :
    portsWf (l.foldl (fun s n => sendLink s n (i s n)) s)
    ∧ ∀ m, unwired (portOf (l.foldl (fun s n => sendLink s n (i s n)) s) m) = unwired (portOf s m) := by
  induction l generalizing s with
  | nil => exact ⟨hwf, fun _ => rfl⟩
  | cons n l ih =>
    obtain ⟨hwf', hports⟩ := ih (portOnly_sendLink hwf n (i s n)).wf
    exact ⟨hwf', fun m => (hports m).trans (sendLink_unwired hwf n m _)⟩

theorem resendIdent_unwired (hwf : portsWf s) (old : State) :
    portsWf (resendIdent s old) ∧ ∀ m, unwired (portOf (resendIdent s old) m) = unwired (portOf s m) := by
  rw [resendIdent]
  split
  · exact ⟨hwf, fun _ => rfl⟩
  · exact foldl_sendLink_unwired (fun s p => .ident (Nat.xor p 1) (identOf s p)) _ hwf

theorem resendIdent_self (s : State) : resendIdent s s = s := by rw [resendIdent, if_pos rfl]

/-- The IDENT does not name the ports. -/
theorem learnCoord_left (s : State) : (learnCoord s).ks = s.ks ∧ (learnCoord s).dram = s.dram ∧ (learnCoord s).via.ports = s.via.ports := by
  unfold learnCoord
  split
  · exact ⟨rfl, rfl, rfl⟩
  · split <;> exact ⟨rfl, rfl, rfl⟩

theorem learnCoord_of_formed (h : s.via.formed ≠ none) : learnCoord s = s := by
  rw [learnCoord, if_pos (Option.isSome_iff_ne_none.2 h)]

theorem identTold_left (hwf : portsWf s) (old : State) : (resendIdent (learnCoord s) old).ks = s.ks
    ∧ (resendIdent (learnCoord s) old).dram = s.dram ∧ portsWf (resendIdent (learnCoord s) old)
    ∧ ∀ m, unwired (portOf (resendIdent (learnCoord s) old) m) = unwired (portOf s m) := by
  obtain ⟨hks, hdram, hports⟩ := learnCoord_left s
  have hwf' : portsWf (learnCoord s) := by rw [portsWf, hports]; exact hwf
  obtain ⟨hwf'', hunwired⟩ := resendIdent_unwired hwf' old
  exact ⟨(silent_ks (silent_resendIdent ..)).trans hks, (silent_dram (silent_resendIdent ..)).trans hdram, hwf'',
    fun m => (hunwired m).trans (by rw [portOf, portOf, hports])⟩

-- -------------------------------------------------------------------------------- retraining

theorem retrainRequest_clause (hwf : portsWf s) (h : isTrained s n = true) : portOf (retrainRequestMsg s n) n = retraining (portOf s n)
    ∧ (retrainRequestMsg s n).via.sent = s.via.sent ∧ (retrainRequestMsg s n).ks = s.ks ∧ (retrainRequestMsg s n).dram = s.dram
    ∧ ∀ m, m ≠ n → portOf (retrainRequestMsg s n) m = portOf s m := by
  have htouched := portTouched_beginRetrain hwf n
  rw [retrainRequestMsg, if_neg (by simp [h])]
  exact ⟨portOf_beginRetrain hwf n, beginRetrain_sent s n, htouched.ks, htouched.dram, fun m hm => htouched.other hm⟩

theorem portRetrain_sent (h : isLinked s n = true) :
    (portRetrain s n).via.sent = s.via.sent ++ [(n, .retrainRequest (Nat.xor n 1))] := by
  rw [portRetrain_of_linked h, beginRetrain_sent, sendLink_sent]

end

-- -------------------------------------------------------------------------------- training ends

section
variable {s : State} {n : Nat}

/-- A port whose training has succeeded: sequence spaces kept by a retraining, fresh else. -/
def trainedPort (p : Port) (spare : Bool) (rtt : Nat) : Port :=
  { (if p.retrain then { p with again := p.retry, resent := [] } else freshPort p) with
      st := .trained, retrain := false, spare := spare, rtt := rtt }

/-- A port once a LINK flit has gone out on it. -/
def linkSent (p : Port) (i : Instr) : Port := { p with wire := p.wire ++ [plainFlit kindLink (portAcks p) (linkBytes i)] }

/-- The state when the IDENT goes out on a port that has trained. -/
def identSent (s : State) (n : Nat) (spare : Bool) (rtt : Nat) : State :=
  sendLink (forgetDelay (updPort s n fun p => trainedPort p spare rtt) n) n (.ident (Nat.xor n 1) (identOf s n))

theorem miswired_of_peer (h : ∀ i, (portOf s n).peer = some i → i.version = 1 ∧ i.port = Nat.xor n 1) : miswired n (portOf s n) = false := by
  rw [miswired]
  cases hp : (portOf s n).peer with
  | none => rfl
  | some i => simp [(h i hp).2]

theorem version_of_peer (h : ∀ i, (portOf s n).peer = some i → i.version = 1 ∧ i.port = Nat.xor n 1) :
    ((portOf s n).peer.any fun i => i.version != 1) = false := by
  cases hp : (portOf s n).peer with
  | none => rfl
  | some i => simp [(h i hp).1]

theorem portTrains_eq (hwf : portsWf s) (harm : ∀ e ∈ s.ks.rearm, e.1 ≠ n) (hwire : miswired n (portOf s n) = false)
    (spare : Bool) (rtt : Nat) : portTrains s n spare rtt
      = resendIdent (learnCoord (raiseIrq (pump (identSent s n spare rtt) n) 6)) (raiseIrq (pump (identSent s n spare rtt) n) 6) := by
  have hset : (updPort s n fun p => { (if p.retrain then { p with again := p.retry, resent := [] } else freshPort p) with
      st := if miswired n p then .miswired else .trained, retrain := false, spare := spare, rtt := rtt })
        = updPort s n fun p => trainedPort p spare rtt := by
    rw [updPort, hwire]
    rfl
  have hst : (portOf (updPort s n fun p => trainedPort p spare rtt) n).st ≠ .miswired := by
    rw [portOf_updPort hwf]
    exact fun h => nomatch h
  simp only [portTrains]
  rw [hset, if_neg hst, armWaiting_of_none (s := updPort s n fun p => trainedPort p spare rtt) harm]
  rfl

theorem portOf_identSent (hwf : portsWf s) (spare : Bool) (rtt : Nat) : portsWf (identSent s n spare rtt)
    ∧ (∀ m, m ≠ n → portOf (identSent s n spare rtt) m = portOf s m)
    ∧ portOf (identSent s n spare rtt) n = linkSent (trainedPort (portOf s n) spare rtt) (.ident (Nat.xor n 1) (identOf s n)) := by
  have hset := portOnly_updPort hwf n fun p => trainedPort p spare rtt
  have hwf' : portsWf (forgetDelay (updPort s n fun p => trainedPort p spare rtt) n) := hset.wf
  have hsend := portOnly_sendLink hwf' n (.ident (Nat.xor n 1) (identOf s n))
  have hport : portOf (forgetDelay (updPort s n fun p => trainedPort p spare rtt) n) n = trainedPort (portOf s n) spare rtt :=
    portOf_updPort hwf n fun p => trainedPort p spare rtt
  refine ⟨hsend.wf, fun m hm => (hsend.other hm).trans (hset.other hm), ?_⟩
  rw [identSent, portOf_sendLink hwf', hport]
  rfl

theorem queue_resentPort (p : Port) : (resentPort p).queue = p.queue :=
  (congrArg Port.queue (unresent_pumpAgain p.again [] { p with again := [] }) :)

/-- With nothing waiting a port sends only what must go again. -/
theorem pumpedPort_of_empty (h : (portOf s n).queue = []) : pumpedPort s n = resentPort (portOf s n) := by
  have hqueue := (queue_resentPort (portOf s n)).trans h
  rw [pumpedPort, hqueue, pumpList, ← hqueue]

theorem resentPort_calm {p : Port} (hnone : p.resent = []) (hkeys : (p.again.map flitKey).Nodup) :
    ∀ x ∈ (resentPort p).resent, x.2 < 8 := by
  obtain ⟨l, hl, heq⟩ := resent_pumpAgain p.again [] { p with again := [] }
  have hresent : (resentPort p).resent = countResent l [] := heq.trans (by rw [hnone])
  rw [hresent]
  exact countResent_lt rfl (hkeys.sublist (hl.map flitKey)) (fun x hx => absurd hx List.not_mem_nil) fun f _ => by simp [tabGet]

theorem trainedPort_resent (p : Port) (spare : Bool) (rtt : Nat) : (trainedPort p spare rtt).resent = [] := by
  rw [trainedPort]
  cases p.retrain <;> rfl

theorem trainedPort_again (p : Port) (spare : Bool) (rtt : Nat) :
    (trainedPort p spare rtt).again = if p.retrain then p.retry else [] := by
  rw [trainedPort]
  cases p.retrain <;> rfl

theorem trainedPort_queue (p : Port) (spare : Bool) (rtt : Nat) : (trainedPort p spare rtt).queue = p.queue := by
  rw [trainedPort]
  cases p.retrain <;> rfl

/-- R328: what a port that has trained sends, IDENT first, then what a retraining held. -/
theorem pump_identSent (hwf : portsWf s) (hqueue : (portOf s n).queue = []) (hkeys : ((portOf s n).retry.map flitKey).Nodup)
    (spare : Bool) (rtt : Nat) : pump (identSent s n spare rtt) n
      = setPort (identSent s n spare rtt) n (resentPort (portOf (identSent s n spare rtt) n)) := by
  obtain ⟨hwf', -, hport⟩ := portOf_identSent (n := n) hwf spare rtt
  have htrained : isTrained (identSent s n spare rtt) n = true := by rw [isTrained, hport]; rfl
  have hempty : (portOf (identSent s n spare rtt) n).queue = [] := by
    rw [hport]
    exact (trainedPort_queue (portOf s n) spare rtt).trans hqueue
  rw [pump_calm hwf' htrained, pumpedPort_of_empty hempty]
  rw [pumpedPort_of_empty hempty, hport]
  refine resentPort_calm (trainedPort_resent (portOf s n) spare rtt) ?_
  rw [show (linkSent (trainedPort (portOf s n) spare rtt) (.ident (Nat.xor n 1) (identOf s n))).again = _ from
    trainedPort_again (portOf s n) spare rtt]
  split
  · exact hkeys
  · exact List.nodup_nil

theorem checkForm_of_none (h : s.via.formW = none) : checkForm s = s := by simp only [checkForm, h]

theorem linkPortDone_of_none (h : s.via.linkTag = none) : linkPortDone s n = s := by simp only [linkPortDone, h]

theorem learnCoord_via (s : State) : ∃ c d, (learnCoord s).via = { s.via with coord := c, dims := d } := by
  unfold learnCoord
  split
  · exact ⟨_, _, rfl⟩
  · split
    · exact ⟨_, _, rfl⟩
    · exact ⟨_, _, rfl⟩

/-- With no link command in hand the end of a training starts none. -/
theorem trainingDone_of_free {t : State} (hvia : ∃ c d, noWire t.via = { noWire s.via with coord := c, dims := d })
    (htag : s.via.linkTag = none) (hform : s.via.formW = none) : linkPortDone (checkForm t) n = t := by
  obtain ⟨c, d, h⟩ := hvia
  rw [checkForm_of_none ((congrArg Viaduct.formW h :).trans hform), linkPortDone_of_none ((congrArg Viaduct.linkTag h :).trans htag)]

/-- The port is trained, and where its IDENT and what it held have gone. -/
def portTrained (s : State) (n : Nat) (spare : Bool) (rtt : Nat) : State :=
  raiseIrq (setPort (identSent s n spare rtt) n (resentPort (portOf (identSent s n spare rtt) n))) 6

theorem portOf_portTrained (hwf : portsWf s) (spare : Bool) (rtt : Nat) : portsWf (portTrained s n spare rtt)
    ∧ (∀ m, m ≠ n → portOf (portTrained s n spare rtt) m = portOf s m)
    ∧ portOf (portTrained s n spare rtt) n
      = resentPort (linkSent (trainedPort (portOf s n) spare rtt) (.ident (Nat.xor n 1) (identOf s n))) := by
  obtain ⟨hwf', hother, hport⟩ := portOf_identSent (n := n) hwf spare rtt
  have hset := portOnly_setPort hwf' n (resentPort (portOf (identSent s n spare rtt) n))
  have hirq := portTouched_raiseIrq (n := n) hset.wf 6
  refine ⟨hirq.wf, fun m hm => (hirq.other hm).trans ((hset.other hm).trans (hother m hm)), ?_⟩
  rw [portTrained, portOf_raiseIrq, portOf_setPort_same hwf', hport]

theorem portTrained_left (s : State) (n : Nat) (spare : Bool) (rtt : Nat) : (portTrained s n spare rtt).ks = s.ks
    ∧ (portTrained s n spare rtt).dram = s.dram ∧ noWire (portTrained s n spare rtt).via = noWire s.via := by
  have h := silent_raiseIrq (setPort (identSent s n spare rtt) n (resentPort (portOf (identSent s n spare rtt) n))) 6
  exact ⟨(silent_ks h).trans rfl, (silent_dram h).trans rfl, (silent_via h).trans rfl⟩

/-- R332: training ends with at most one failed lane. -/
theorem portTrainingComplete_trained {failed : List Nat} {rtt : Nat} (hwf : portsWf s) (hst : (portOf s n).st = .training)
    (htag : s.via.linkTag = none) (hform : s.via.formW = none) (hqueue : (portOf s n).queue = []) (harm : ∀ e ∈ s.ks.rearm, e.1 ≠ n)
    (hkeys : ((portOf s n).retry.map flitKey).Nodup) (hlanes : ((failed.filter (· < 9)).eraseDups).length ≤ 1)
    (hpeer : ∀ i, (portOf s n).peer = some i → i.version = 1 ∧ i.port = Nat.xor n 1) :
    portTrainingComplete s n failed rtt = resendIdent
      (learnCoord (portTrained s n (((failed.filter (· < 9)).eraseDups).any (· < 8)) rtt))
      (portTrained s n (((failed.filter (· < 9)).eraseDups).any (· < 8)) rtt) := by
  have heq := portTrains_eq hwf harm (miswired_of_peer hpeer) (((failed.filter (· < 9)).eraseDups).any (· < 8)) rtt
  rw [pump_identSent hwf hqueue hkeys] at heq
  simp only [portTrainingComplete, hst]
  rw [if_neg (not_not_intro rfl), if_neg (by omega), if_neg (by rw [version_of_peer hpeer]; decide), heq, ← portTrained]
  refine trainingDone_of_free ?_ htag hform
  obtain ⟨c, d, hvia⟩ := learnCoord_via (portTrained s n (((failed.filter (· < 9)).eraseDups).any (· < 8)) rtt)
  obtain ⟨-, -, hleft⟩ := portTrained_left s n (((failed.filter (· < 9)).eraseDups).any (· < 8)) rtt
  refine ⟨c, d, (silent_via (silent_resendIdent _ _)).trans ?_⟩
  rw [hvia, ← hleft]
  rfl

/-- A port that has failed or stopped: nothing held, no peer. -/
def stoppedPort (p : Port) (st : PortState) : Port := { freshPort { p with st := st } with retrain := false, peer := none }

theorem stopPort_clause (hwf : portsWf s) (st : PortState) (hqueue : (portOf s n).queue = []) (harm : ∀ e ∈ s.ks.rearm, e.1 ≠ n) :
    portsWf (stopPort s n st) ∧ (∀ m, m ≠ n → portOf (stopPort s n st) m = portOf s m)
    ∧ portOf (stopPort s n st) n = stoppedPort (portOf s n) st ∧ (stopPort s n st).ks = s.ks
    ∧ noWire (stopPort s n st).via = noWire s.via := by
  obtain ⟨hchange, hport⟩ := portTouched_portChange hwf n st
  have hset := portOnly_updPort hchange.wf n fun p => { freshPort p with retrain := false, peer := none }
  have hstopped := portOf_updPort hchange.wf n fun p => { freshPort p with retrain := false, peer := none }
  rw [hport] at hstopped
  have hks := hset.ks.trans hchange.ks
  obtain ⟨hks', -, hvia⟩ := forgetMarkers_left (updPort (portChange s n st) n fun p => { freshPort p with retrain := false, peer := none }) n
  rw [stopPort, leaveService_of_idle hset.wf (by rw [hks]; exact harm) (by rw [hstopped]; exact hqueue)]
  exact ⟨portsWf_congr hvia hset.wf, fun m hm => (portOf_congr hvia m).trans ((hset.other hm).trans (hchange.other hm)),
    (portOf_congr hvia n).trans hstopped, hks'.trans hks, by rw [hvia, hset.via, silent_via hchange.2.2]⟩

theorem coordFault_of_no_plan (h : s.ks.plan = none) (st : Nat) : coordFault s st = s := by simp only [coordFault, h]

/-- R332: two failed lanes leave the port down. -/
theorem portFails_eq (hplan : (stopPort s n .down).ks.plan = none) : portFails s n
    = if (portOf s n).retrain then notifyFault (stopPort s n .down) (mkEvent stLinkDown srcVia 2 n evFault 0 0)
      else logEvent (stopPort s n .down) (mkEvent stLinkDown srcVia 2 n evFault 0 0) := by
  simp only [portFails]
  rw [coordFault_of_no_plan (by rw [notifyFault_ks]; exact hplan)]

theorem portTrainingComplete_failed {failed : List Nat} {rtt : Nat} (hst : (portOf s n).st = .training)
    (hlanes : 2 ≤ ((failed.filter (· < 9)).eraseDups).length) : portTrainingComplete s n failed rtt = linkPortDone (checkForm (portFails s n)) n := by
  simp only [portTrainingComplete, hst]
  rw [if_neg (not_not_intro rfl), if_pos hlanes]

end

end Sys2Proof.Machine

-- ------------------------------------------------------------------------------------------------ IDENT

namespace Sys2Proof.Machine

section
variable {s t : State} {n : Nat} {i : Ident}

/-- With nothing stopped all that must go again goes. -/
theorem resentPort_wire {p : Port} (h : p.stopped = []) :
    (resentPort p).wire = p.wire ++ p.again.map fun f => { f with acks := portAcks p } := by
  rw [resentPort, pumpAgain_of_open (p := { p with again := [] }) h]
  rfl

/-- A port of a trained link, once its peer's IDENT has been compared. -/
def identifiedPort (p : Port) (n : Nat) (i : Ident) : Port :=
  { p with peer := some i, st := if i.port = Nat.xor n 1 then .trained else .miswired }

/-- The state once the peer's IDENT has been compared. -/
def identified (s : State) (n : Nat) (i : Ident) : State :=
  portChange (updPort s n fun p => { p with peer := some i, retrain := p.retrain && i.version == 1 }) n
    (if i.port = Nat.xor n 1 then .trained else .miswired)

theorem identified_clause (hwf : portsWf s) (hversion : i.version = 1) : PortTouched n s (identified s n i)
    ∧ portOf (identified s n i) n = identifiedPort (portOf s n) n i := by
  have hset := portOnly_updPort hwf n fun p => { p with peer := some i, retrain := p.retrain && i.version == 1 }
  have hport := portOf_updPort hwf n fun p => { p with peer := some i, retrain := p.retrain && i.version == 1 }
  obtain ⟨hchange, hst⟩ := portTouched_portChange hset.wf n (if i.port = Nat.xor n 1 then .trained else .miswired)
  refine ⟨hset.touched.trans hchange, hst.trans ?_⟩
  rw [hport, identifiedPort, hversion]
  simp

/-- A port whose peer reports the expected port goes on; another leaves service, miswired. -/
def identServed (s : State) (n : Nat) (i : Ident) : State :=
  if i.port = Nat.xor n 1 then identified s n i
  else logEvent (leaveService (identified s n i) n) (mkEvent stLinkDown srcVia 2 n evFault 0 0)

theorem identMsg_of_trained (hwf : portsWf s) (htrained : isTrained s n = true) (hversion : i.version = 1) :
    identMsg s n i = checkForm (resendIdent (learnCoord (identServed s n i)) s) := by
  have hst : (portOf s n).st = .trained := beq_iff_eq.1 htrained
  obtain ⟨-, hport⟩ := identified_clause (n := n) hwf hversion
  have hstate : (if i.version ≠ 1 then PortState.training
      else if True ∧ decide (i.port ≠ Nat.xor n 1) = true then .miswired
      else if PortState.trained = .miswired ∧ decide (i.port ≠ Nat.xor n 1) = false then .trained else .trained)
        = if i.port = Nat.xor n 1 then .trained else .miswired := by
    by_cases hwire : i.port = Nat.xor n 1 <;> simp [hversion, hwire]
  simp only [identMsg, hst]
  rw [if_neg (by decide), hstate]
  generalize ht : portChange (updPort s n _) n _ = t
  obtain rfl : identified s n i = t := ht
  rw [portUp_of_trained htrained, identServed]
  by_cases hwire : i.port = Nat.xor n 1
  · have hup : portUp (identified s n i) n = true := portUp_of_trained (by rw [isTrained, hport, identifiedPort, if_pos hwire]; rfl)
    simp [hup, hwire]
  · have hmiss : miswired n (portOf (identified s n i) n) = true := by
      rw [hport, miswired]
      simpa [identifiedPort] using hwire
    have hup : portUp (identified s n i) n = false := by
      rw [portUp, hmiss, isTrained, hport, identifiedPort, if_neg hwire]
      simp
    rw [if_neg hwire, decide_eq_true hwire, hup]
    simp only [Bool.not_false, Bool.and_self, beq_self_eq_true, if_true]

theorem identServed_clause (hwf : portsWf s) (hversion : i.version = 1) : portsWf (identServed s n i)
    ∧ unqueued (portOf (identServed s n i) n) = unqueued (identifiedPort (portOf s n) n i)
    ∧ noWire (identServed s n i).via = noWire s.via := by
  obtain ⟨htouched, hport⟩ := identified_clause (n := n) hwf hversion
  have hvia := silent_via htouched.2.2
  rw [identServed]
  split
  next hwire =>
    exact ⟨htouched.wf, by rw [hport], hvia⟩
  next hwire =>
    have hdown : isTrained (identified s n i) n = false := by rw [isTrained, hport, identifiedPort, if_neg hwire]; rfl
    obtain ⟨hwf', hport', hvia'⟩ := leaveService_keeps htouched.wf hdown
    refine ⟨portsWf_congr (logEvent_via ..) hwf', ?_, by rw [logEvent_via, hvia', hvia]⟩
    rw [portOf_congr (logEvent_via ..), hport', hport]

/-- The peer that a port with a coordinate to learn from names. -/
def teacher (s : State) (n : Nat) : Option (Nat × Ident) :=
  match (portOf s n).peer with
  | some i => if i.coordValid && isTrained s n then some (n, i) else none
  | none => none

theorem teacher_of_peer (hpeer : (portOf s n).peer = some i) (hvalid : i.coordValid = true) (htrained : isTrained s n = true) :
    teacher s n = some (n, i) := by
  simp only [teacher, hpeer, hvalid, htrained, Bool.and_self, if_true]

theorem teacher_of_none (h : ∀ j, (portOf s n).peer = some j → isTrained s n = true → j.coordValid = false) : teacher s n = none := by
  unfold teacher
  split
  · next j hj =>
    refine if_neg fun hboth => ?_
    obtain ⟨hvalid, htrained⟩ := (Bool.and_eq_true ..).mp hboth
    exact absurd hvalid (by rw [h j hj htrained]; decide)
  · rfl

/-- The lowest of the torus ports that teaches is the first found. -/
theorem findSome_first {α : Type} {f : Nat → Option α} {a : α} {n : Nat} (hn : n < 6) (hbefore : ∀ m, m < n → f m = none)
    (hf : f n = some a) : [0, 1, 2, 3, 4, 5].findSome? f = some a := by
  have hrange : ∀ k, k < 6 → (List.range' 0 6)[k]? = some k := by decide
  rw [show [0, 1, 2, 3, 4, 5] = List.range' 0 6 from rfl]
  refine List.findSome?_eq_some_iff.2 ⟨List.range' 0 n, n, List.range' (n + 1) (5 - n), ?_, hf, fun m hm => ?_⟩
  · have : ∀ k, k < 6 → List.range' 0 6 = List.range' 0 k ++ k :: List.range' (k + 1) (5 - k) := by decide
    exact this n hn
  · exact hbefore m (by simpa using hm)

/-- R334: with no group formed the coordinate follows from the first port that teaches it. -/
theorem learnCoord_of_teacher (hformed : s.via.formed = none) (hn : n < 6) (hbefore : ∀ m, m < n → teacher s m = none)
    (h : teacher s n = some (n, i)) : (learnCoord s).via.coord
      = some (withAxis i.coord (n / 2) (if n % 2 = 0
          then (axisOf i.coord (n / 2) + max 1 (axisOf i.dims (n / 2)) - 1) % max 1 (axisOf i.dims (n / 2))
          else (axisOf i.coord (n / 2) + 1) % max 1 (axisOf i.dims (n / 2))))
      ∧ (learnCoord s).via.dims = some i.dims := by
  have hfind : [0, 1, 2, 3, 4, 5].findSome? (teacher s) = some (n, i) := findSome_first hn hbefore h
  unfold learnCoord
  rw [if_neg (by simp [hformed])]
  split
  · next hnone => exact absurd (hfind.symm.trans hnone) (by simp)
  · next m j hsome =>
    obtain ⟨rfl, rfl⟩ := Prod.mk.inj (Option.some.inj (hfind.symm.trans hsome))
    exact ⟨rfl, rfl⟩

theorem isTrained_congr {m : Nat} (h : portOf t m = portOf s m) : isTrained t m = isTrained s m := by rw [isTrained, isTrained, h]

theorem teacher_congr {m : Nat} (h : portOf t m = portOf s m) : teacher t m = teacher s m := by
  rw [teacher, teacher, h, isTrained_congr h]

end

/-- Settles O44: each event of a link by what it leaves on the port, the other ports as they are where nothing is sent again. -/
theorem portsTrain : Obligations.PortsTrain := by
  intro s n hwf
  refine ⟨fun htrained => ⟨?_, ?_⟩, fun failed rtt hst htag hform hqueue harm hkeys => ⟨fun hlanes hpeer => ?_, fun hlanes hplan => ?_⟩,
    fun i htrained hversion hform => ?_⟩
  · obtain ⟨hport, hsent, hks, hdram, hother⟩ := retrainRequest_clause (s := s) (n := n) hwf htrained
    exact ⟨_, rfl, hport, hsent, hks, hdram, hother⟩
  · have hlink := isLinked_of_trained htrained
    have htouched := portTouched_portRetrain (s := s) hwf n
    exact ⟨_, rfl, portRetrain_sent hlink, portOf_portRetrain hwf hlink, htouched.ks, htouched.dram, fun m hm => htouched.other hm⟩
  · have heq := portTrainingComplete_trained (rtt := rtt) hwf hst htag hform hqueue harm hkeys hlanes hpeer
    generalize ((failed.filter (· < 9)).eraseDups).any (· < 8) = spare at heq
    obtain ⟨hwf', hother, hport⟩ := portOf_portTrained (n := n) hwf spare rtt
    obtain ⟨hks, hdram, hvia⟩ := portTrained_left s n spare rtt
    obtain ⟨hks', hdram', -, hunwired⟩ := identTold_left hwf' (portTrained s n spare rtt)
    have hformed : (portTrained s n spare rtt).via.formed = s.via.formed := (congrArg Viaduct.formed hvia :)
    have hsame : s.via.formed ≠ none → resendIdent (learnCoord (portTrained s n spare rtt)) (portTrained s n spare rtt)
        = portTrained s n spare rtt := fun h => by rw [learnCoord_of_formed (by rw [hformed]; exact h), resendIdent_self]
    have hkeeps : unresent (portOf (resendIdent (learnCoord (portTrained s n spare rtt)) (portTrained s n spare rtt)) n)
        = unresent (trainedPort (portOf s n) spare rtt) := by
      have h := congrArg unresent (hunwired n)
      rw [hport] at h
      exact h.trans (unresent_pumpAgain _ [] { linkSent (trainedPort (portOf s n) spare rtt) _ with again := [] })
    refine ⟨_, congrArg Host.Outcome.next heq, (congrArg Port.st hkeeps :), (congrArg Port.spare hkeeps :), (congrArg Port.rtt hkeeps :),
      fun hretrain => ?_, fun hfirst => ?_, fun h m hm => by rw [hsame h, hother m hm], hks'.trans hks, hdram'.trans hdram⟩
    · have hkept : trainedPort (portOf s n) spare rtt = { portOf s n with
          again := (portOf s n).retry, resent := [], st := .trained, retrain := false, spare := spare, rtt := rtt } := by
        rw [trainedPort, hretrain]; rfl
      rw [hkept] at hkeeps hport
      refine ⟨(congrArg Port.tx hkeeps :), (congrArg Port.rx hkeeps :), (congrArg Port.retry hkeeps :), fun h hstop => ?_⟩
      rw [hsame h, hport, resentPort_wire]
      · rfl
      · exact hstop
    · have hfresh : trainedPort (portOf s n) spare rtt = { freshPort (portOf s n) with
          st := .trained, retrain := false, spare := spare, rtt := rtt } := by rw [trainedPort, hfirst]; rfl
      rw [hfresh] at hkeeps
      exact ⟨(congrArg Port.tx hkeeps :), (congrArg Port.rx hkeeps :), (congrArg Port.retry hkeeps :)⟩
  · obtain ⟨hwf', hother, hport, hks, hvia⟩ := stopPort_clause (n := n) hwf .down hqueue harm
    have hfails := portFails_eq (s := s) (n := n) (by rw [hks]; exact hplan)
    have hviaf : (portFails s n).via = (stopPort s n .down).via := by
      rw [hfails]
      split
      · exact notifyFault_via ..
      · exact logEvent_via ..
    have hdone : linkPortDone (checkForm (portFails s n)) n = portFails s n :=
      trainingDone_of_free ⟨s.via.coord, s.via.dims, by rw [hviaf, hvia]; rfl⟩ htag hform
    refine ⟨_, congrArg Host.Outcome.next ((portTrainingComplete_failed hst hlanes).trans hdone), ?_, ?_,
      fun hretrain => ?_, fun m hm => (portOf_congr hviaf m).trans (hother m hm)⟩
    · rw [portOf_congr hviaf, hport]; rfl
    · rw [portOf_congr hviaf, hport]; rfl
    · rw [hfails, if_pos hretrain, lastFault_notifyFault]; rfl
  · obtain ⟨hwf', hport, hvia⟩ := identServed_clause (n := n) hwf hversion
    obtain ⟨-, -, -, hunwired⟩ := identTold_left hwf' s
    have hform' : (resendIdent (learnCoord (identServed s n i)) s).via.formW = none := by
      obtain ⟨c, d, hlearn⟩ := learnCoord_via (identServed s n i)
      have h1 : (resendIdent (learnCoord (identServed s n i)) s).via.formW = (learnCoord (identServed s n i)).via.formW :=
        (congrArg Viaduct.formW (silent_via (silent_resendIdent _ _)) :)
      rw [h1, hlearn]
      exact (congrArg Viaduct.formW hvia :).trans hform
    have heq := (identMsg_of_trained (n := n) hwf htrained hversion).trans (checkForm_of_none hform')
    have hcoord : (resendIdent (learnCoord (identServed s n i)) s).via.coord = (learnCoord (identServed s n i)).via.coord :=
      (congrArg Viaduct.coord (silent_via (silent_resendIdent _ _)) :)
    have hdims : (resendIdent (learnCoord (identServed s n i)) s).via.dims = (learnCoord (identServed s n i)).via.dims :=
      (congrArg Viaduct.dims (silent_via (silent_resendIdent _ _)) :)
    have hkeeps : unwired (unqueued (portOf (resendIdent (learnCoord (identServed s n i)) s) n))
        = unwired (unqueued (identifiedPort (portOf s n) n i)) :=
      (congrArg unqueued (hunwired n) :).trans (congrArg unwired hport :)
    refine ⟨_, congrArg Host.Outcome.next heq, (congrArg Port.peer hkeeps :), (congrArg Port.st hkeeps :), fun h => ?_,
      fun hnone hn hvalid hwire hlower => ?_⟩
    · have hformed : (identServed s n i).via.formed = s.via.formed := (congrArg Viaduct.formed hvia :)
      rw [hcoord, learnCoord_of_formed (by rw [hformed]; exact h)]
      exact (congrArg Viaduct.coord hvia :)
    · have hserved : identServed s n i = identified s n i := if_pos hwire
      obtain ⟨htouched, hidentified⟩ := identified_clause (n := n) hwf hversion
      rw [hserved] at hcoord hdims hvia ⊢
      have hlearn := learnCoord_of_teacher (s := identified s n i) (n := n) (i := i) ((congrArg Viaduct.formed hvia :).trans hnone) hn
        (fun m hm => (teacher_congr (htouched.other (Nat.ne_of_lt hm))).trans
          (teacher_of_none fun j hj htr => hlower m hm j hj htr))
        (teacher_of_peer (by rw [hidentified]; rfl) hvalid (by rw [isTrained, hidentified, identifiedPort, if_pos hwire]; rfl))
      exact ⟨hcoord.trans hlearn.1, hdims.trans hlearn.2⟩

end Sys2Proof.Machine

-- ------------------------------------------------------------------------------------------------ flits on a link

namespace Sys2Proof.Machine

section
variable {s t : State} {n c l : Nat} {f : Flit}

-- -------------------------------------------------------------------------------- what a flit on the wire does not change

theorem portUp_congr (h : ∀ m, unwired (portOf t m) = unwired (portOf s m)) (m : Nat) : portUp t m = portUp s m := by
  have hst : (portOf t m).st = (portOf s m).st := (congrArg Port.st (h m) :)
  have hretrain : (portOf t m).retrain = (portOf s m).retrain := (congrArg Port.retrain (h m) :)
  have hpeer : (portOf t m).peer = (portOf s m).peer := (congrArg Port.peer (h m) :)
  simp only [portUp, isTrained, miswired, hst, hretrain, hpeer]

theorem routeTo_congr (h : ∀ m, unwired (portOf t m) = unwired (portOf s m)) (hvia : noWire t.via = noWire s.via) (dest : Coord)
    (o : Option Nat) (around dateline : Bool) : routeTo t dest o around dateline = routeTo s dest o around dateline := by
  have hcoord : t.via.coord = s.via.coord := (congrArg Viaduct.coord hvia :)
  have hdims : t.via.dims = s.via.dims := (congrArg Viaduct.dims hvia :)
  have hup : portUp t = portUp s := funext (portUp_congr h)
  unfold routeTo aroundExit exitBy ownCoord
  rw [hcoord, hdims, hup]

theorem maySend_congr (hks : t.ks = s.ks) (m : Nat) {p q : Port} (hp : unwired p = unwired q) (f : Flit) : maySend t m p f = maySend s m q f := by
  have hst : p.st = q.st := (congrArg Port.st hp :)
  have hstop : p.stopped = q.stopped := (congrArg Port.stopped hp :)
  have hagain : p.again = q.again := (congrArg Port.again hp :)
  have hretry : p.retry = q.retry := (congrArg Port.retry hp :)
  have hshare : retryShare t m = retryShare s m := by
    unfold retryShare classSlots portSlot
    rw [hks]
  simp only [maySend, hshare, hst, hstop, hagain, hretry]

theorem forwardWaits_congr (h : ∀ m, unwired (portOf t m) = unwired (portOf s m)) (hvia : noWire t.via = noWire s.via)
    (hks : t.ks = s.ks) (out c : Nat) : forwardWaits t out c = forwardWaits s out c := by
  have hexit : ∀ m l, laneExit t m c l = laneExit s m c l := fun m l => by
    have hlanes : (portOf t m).lanes = (portOf s m).lanes := (congrArg Port.lanes (h m) :)
    simp only [laneExit, hlanes, routeTo_congr h hvia]
  have hmay : ∀ m g, maySend t m (portOf t m) g = maySend s m (portOf s m) g := fun m g => maySend_congr hks m (h m) g
  simp only [forwardWaits, wantsPort, hexit, hmay]

-- -------------------------------------------------------------------------------- FLIT_RECEIVE

theorem takeAcks_of_none {p : Port} (h : p.retry = []) (acks : List Nat) : takeAcks p acks = p := by
  have hclass : ∀ (p : Port), p.retry = [] → ∀ c a, ackClass p c a = p := fun p h c a => by simp [ackClass, h]
  simp only [takeAcks, List.foldl_cons, List.foldl_nil, hclass p h]

theorem flitReceive_refused {fecOk : Bool} {crc : W32} (h : isTrained s n = true) (hbad : fecOk = false ∨ crc ≠ flitCrc f) :
    flitReceive s n fecOk f crc = setPort s n { portOf s n with suspect := [0, 1, 2, 3] } := by
  rw [flitReceive, if_neg (by simp [h])]
  exact if_pos (by simpa using hbad)

/-- Whether a class of flits waits in some input lane for a port. -/
def forwardBusy (s : State) (n : Nat) : Bool := [0, 1, 2, 3].any (forwardWaits s n)

/-- R326: a good flit of a class, where the port holds nothing that its ACKs could free or that could go again. -/
theorem flitReceive_good (hwf : portsWf s) (h : isTrained s n = true) (hseq : sequenced f = true) (hretry : (portOf s n).retry = [])
    (hqueue : (portOf s n).queue = []) (hquiet : PortQuiet s n) (harm : ∀ e ∈ s.ks.rearm, e.1 ≠ n) :
    flitReceive s n true f (flitCrc f) = if f.lseq = (portOf s n).rx.getD f.cls 0 then idleAck (acceptFlit s n f) n
      else if (portOf s n).suspect.contains f.cls then
        sendLink (updPort s n fun p => { p with suspect := p.suspect.filter (· != f.cls) }) n
          (.nack (Nat.xor n 1) f.cls ((portOf s n).rx.getD f.cls 0))
      else idleAck s n := by
  have hacks : (updPort s n fun p => takeAcks p f.acks) = s := by
    rw [updPort, takeAcks_of_none hretry, setPort_self hwf]
  rw [flitReceive, if_neg (by simp [h]), if_neg (by simp)]
  simp only [hacks, armWaiting_of_none harm, pump_idle hwf hqueue hquiet, hseq, Bool.not_true, Bool.false_eq_true, if_false]

theorem portOnly_idleAck (hwf : portsWf s) (n : Nat) : PortOnly n s (idleAck s n)
    ∧ portOf (idleAck s n) n = (if forwardBusy s n then portOf s n
        else { portOf s n with wire := (portOf s n).wire ++ [plainFlit 0 (portAcks (portOf s n)) []] })
    ∧ forwardBusy (idleAck s n) n = forwardBusy s n := by
  have hsend := portOnly_sendPlain hwf n 0 []
  have hport := portOf_sendPlain hwf n 0 []
  have hsame : forwardBusy (sendPlain s n 0 []) n = forwardBusy s n := by
    have hunwired : ∀ m, unwired (portOf (sendPlain s n 0 []) m) = unwired (portOf s m) := fun m => by
      by_cases hm : m = n
      · rw [hm, hport]; rfl
      · rw [hsend.other hm]
    rw [forwardBusy, forwardBusy, show forwardWaits (sendPlain s n 0 []) n = forwardWaits s n from
      funext (forwardWaits_congr hunwired hsend.via hsend.ks n)]
  by_cases hbusy : forwardBusy s n = true
  · rw [idleAck, if_pos (show ([0, 1, 2, 3].any (forwardWaits s n)) = true from hbusy), if_pos hbusy]
    exact ⟨PortOnly.refl hwf, rfl, rfl⟩
  · rw [idleAck, if_neg (show ¬ ([0, 1, 2, 3].any (forwardWaits s n)) = true from hbusy), if_neg hbusy]
    exact ⟨hsend, hport, hsame⟩

/-- A port without what flow control changes. -/
def unflowed (p : Port) : Port := { p with wire := [], xoffSent := [] }

theorem portOnly_flowCheck (hwf : portsWf s) (n c l : Nat) : PortOnly n s (flowCheck s n c l)
    ∧ unflowed (portOf (flowCheck s n c l) n) = unflowed (portOf s n) := by
  have hsend : ∀ (g : Port → Port) (i : Instr), (∀ p, unflowed (g p) = unflowed p) →
      PortOnly n s (sendLink (updPort s n g) n i) ∧ unflowed (portOf (sendLink (updPort s n g) n i) n) = unflowed (portOf s n) :=
    fun g i hg => by
      have hset := portOnly_updPort hwf n g
      refine ⟨hset.trans (portOnly_sendLink hset.wf n i), ?_⟩
      rw [portOf_sendLink hset.wf, portOf_updPort hwf]
      exact hg _
  simp only [flowCheck]
  split
  · exact hsend _ _ fun _ => rfl
  · split
    · exact hsend _ _ fun _ => rfl
    · exact ⟨PortOnly.refl hwf, rfl⟩

/-- A port that has taken the next flit of a class. -/
def acceptedPort (p : Port) (f : Flit) : Port :=
  { p with rx := listSet p.rx f.cls ((p.rx.getD f.cls 0 + 1) % 4096), suspect := p.suspect.filter (· != f.cls) }

theorem acceptFlit_own (hwf : portsWf s) (h : f.dest = ownCoord s) : PortOnly n s (acceptFlit s n f)
    ∧ portOf (acceptFlit s n f) n = { acceptedPort (portOf s n) f with
        parts := if f.last then (portOf s n).parts.filter (fun g => !sameMsg f g) else (portOf s n).parts ++ [f] } := by
  have hset := portOnly_updPort hwf n fun p => acceptedPort p f
  have hport := portOf_updPort hwf n fun p => acceptedPort p f
  have heq : acceptFlit s n f = updPort (updPort s n fun p => acceptedPort p f) n fun p =>
      { p with parts := if f.last then p.parts.filter (fun g => !sameMsg f g) else p.parts ++ [f] } := if_pos h
  rw [heq, portOf_updPort hset.wf, hport]
  exact ⟨hset.trans (portOnly_updPort hset.wf n _), rfl⟩

theorem acceptFlit_other (hwf : portsWf s) (h : f.dest ≠ ownCoord s) : PortOnly n s (acceptFlit s n f)
    ∧ unflowed (portOf (acceptFlit s n f) n)
      = unflowed { acceptedPort (portOf s n) f with lanes := (portOf s n).lanes ++ [f] } := by
  have hset := portOnly_updPort hwf n fun p => acceptedPort p f
  have hport := portOf_updPort hwf n fun p => acceptedPort p f
  have hlane := portOnly_updPort hset.wf n fun p => { p with lanes := p.lanes ++ [f] }
  have hlaned := portOf_updPort hset.wf n fun p => { p with lanes := p.lanes ++ [f] }
  rw [hport] at hlaned
  obtain ⟨hflow, hflowed⟩ := portOnly_flowCheck hlane.wf n f.cls (laneOf f)
  have heq : acceptFlit s n f = flowCheck (updPort (updPort s n fun p => acceptedPort p f) n fun p => { p with lanes := p.lanes ++ [f] })
      n f.cls (laneOf f) := if_neg h
  rw [heq]
  exact ⟨hset.trans (hlane.trans hflow), hflowed.trans (by rw [hlaned]; rfl)⟩

/-- What the port has received and holds once a flit in sequence is taken. -/
theorem acceptFlit_port (hwf : portsWf s) (f : Flit) : PortOnly n s (acceptFlit s n f)
    ∧ (portOf (acceptFlit s n f) n).rx = (acceptedPort (portOf s n) f).rx
    ∧ (portOf (acceptFlit s n f) n).suspect = (portOf s n).suspect.filter (· != f.cls)
    ∧ (portOf (acceptFlit s n f) n).lanes = (if f.dest = ownCoord s then (portOf s n).lanes else (portOf s n).lanes ++ [f]) := by
  by_cases h : f.dest = ownCoord s
  · obtain ⟨honly, hport⟩ := acceptFlit_own (n := n) hwf h
    rw [hport, if_pos h]
    exact ⟨honly, rfl, rfl, rfl⟩
  · obtain ⟨honly, hport⟩ := acceptFlit_other (n := n) hwf h
    rw [if_neg h]
    exact ⟨honly, (congrArg Port.rx hport :), (congrArg Port.suspect hport :), (congrArg Port.lanes hport :)⟩

theorem getD_listSet {l : List Nat} {i x : Nat} (h : i < l.length) (k : Nat) :
    (listSet l i x).getD k 0 = if k = i then x else l.getD k 0 := by
  induction l generalizing i k with
  | nil => exact absurd h (Nat.not_lt_zero i)
  | cons a l ih =>
    cases i with
    | zero => cases k <;> simp [listSet]
    | succ i =>
      cases k with
      | zero => simp [listSet]
      | succ k => simpa [listSet] using ih (Nat.lt_of_succ_lt_succ h) k

-- -------------------------------------------------------------------------------- flits that go again

/-- What a port becomes that sends flits of a class again, with none to go again before. -/
theorem resend_of_quiet {p : Port} (hagain : p.again = []) (hstop : p.stopped = []) (c : Nat) (fs : List Flit) :
    resentPort (resend p c fs) = { p with wire := p.wire ++ fs.map (fun f => { f with acks := portAcks p }),
                                          resends := p.resends + fs.length, resent := countResent fs p.resent } := by
  have hfs : (resend p c fs).again = fs := by simp [resend, hagain]
  have hnone : { resend p c fs with again := [] } = p := by
    rw [resend, ← hagain]
  rw [resentPort, hfs, hnone, pumpAgain_of_open hstop]

theorem pumpedPort_resend (hwf : portsWf s) (hqueue : (portOf s n).queue = []) (hquiet : PortQuiet s n)
    (hstop : (portOf s n).stopped = []) (c : Nat) (fs : List Flit) : pumpedPort (updPort s n fun p => resend p c fs) n
      = { portOf s n with wire := (portOf s n).wire ++ fs.map (fun f => { f with acks := portAcks (portOf s n) }),
                          resends := (portOf s n).resends + fs.length, resent := countResent fs (portOf s n).resent } := by
  have hport := portOf_updPort hwf n fun p => resend p c fs
  rw [pumpedPort_of_empty (by rw [hport]; exact hqueue), hport, resend_of_quiet hquiet.1 hstop]

theorem isTrained_resend (hwf : portsWf s) (h : isTrained s n = true) (c : Nat) (fs : List Flit) :
    isTrained (updPort s n fun p => resend p c fs) n = true := by
  rw [isTrained, portOf_updPort hwf]
  exact h

/-- R326: none of them sent seven times before, the flits go again. -/
theorem resendClass_calm (hwf : portsWf s) (h : isTrained s n = true) (hqueue : (portOf s n).queue = []) (hquiet : PortQuiet s n)
    (hstop : (portOf s n).stopped = []) (htab : tabWf 0 (portOf s n).resent = true) {fs : List Flit} (hkeys : (fs.map flitKey).Nodup)
    (hcalm : ¬ ∃ f ∈ fs, tabGet 0 (portOf s n).resent (flitKey f) = 7) (c : Nat) :
    PortOnly n s (resendClass s n c fs) ∧ portOf (resendClass s n c fs) n = { portOf s n with
      wire := (portOf s n).wire ++ fs.map (fun f => { f with acks := portAcks (portOf s n) }),
      resends := (portOf s n).resends + fs.length, resent := countResent fs (portOf s n).resent } := by
  have hset := portOnly_updPort hwf n fun p => resend p c fs
  have hpumped := pumpedPort_resend hwf hqueue hquiet hstop c fs
  have hcount := countResent_lt htab hkeys hquiet.2 fun f hf h7 => hcalm ⟨f, hf, h7⟩
  have heq : resendClass s n c fs = setPort (updPort s n fun p => resend p c fs) n (pumpedPort (updPort s n fun p => resend p c fs) n) :=
    pump_calm hset.wf (isTrained_resend hwf h c fs) (by rw [hpumped]; exact hcount)
  rw [heq, portOf_setPort_same hset.wf, hpumped]
  exact ⟨hset.trans (portOnly_setPort hset.wf n _), rfl⟩

/-- R328: the eighth resend of a flit makes the port retrain. -/
theorem resendClass_eighth (hwf : portsWf s) (h : isTrained s n = true) (hqueue : (portOf s n).queue = []) (hquiet : PortQuiet s n)
    (hstop : (portOf s n).stopped = []) (htab : tabWf 0 (portOf s n).resent = true) {fs : List Flit} (hkeys : (fs.map flitKey).Nodup)
    (heighth : ∃ f ∈ fs, tabGet 0 (portOf s n).resent (flitKey f) = 7) (c : Nat) :
    (portOf (resendClass s n c fs) n).st = .training ∧ (portOf (resendClass s n c fs) n).retrain = true
    ∧ (resendClass s n c fs).ks = s.ks ∧ (resendClass s n c fs).dram = s.dram := by
  have hset := portOnly_updPort hwf n fun p => resend p c fs
  have hpumped := pumpedPort_resend hwf hqueue hquiet hstop c fs
  obtain ⟨f, hf, h7⟩ := heighth
  have heq : resendClass s n c fs = portRetrain (setPort (updPort s n fun p => resend p c fs) n (pumpedPort (updPort s n fun p => resend p c fs) n)) n :=
    pump_retrains hset.wf (isTrained_resend hwf h c fs) (by rw [hpumped]; exact countResent_eighth htab hkeys hf h7)
  have hset' := portOnly_setPort hset.wf n (pumpedPort (updPort s n fun p => resend p c fs) n)
  have hlink : isLinked (setPort (updPort s n fun p => resend p c fs) n (pumpedPort (updPort s n fun p => resend p c fs) n)) n = true := by
    refine isLinked_of_trained ?_
    rw [isTrained, portOf_setPort_same hset.wf, hpumped]
    exact h
  have htouched := (hset.trans hset').touched.trans (portTouched_portRetrain hset'.wf n)
  rw [heq, portOf_portRetrain hset'.wf hlink]
  exact ⟨rfl, rfl, htouched.ks, htouched.dram⟩

-- -------------------------------------------------------------------------------- XON, and flits that are forwarded

theorem portOnly_pump (hwf : portsWf s) (hquiet : PortQuiet s n) : PortOnly n s (pump s n) := by
  cases h : isTrained s n with
  | false => rw [pump_of_untrained h]; exact PortOnly.refl hwf
  | true => rw [pump_of_quiet (beq_iff_eq.1 h) hquiet]; exact portOnly_setPort hwf n _

end

end Sys2Proof.Machine

-- ------------------------------------------------------------------------------------------------ flits that are forwarded

namespace Sys2Proof.Machine

section
variable {s : State} {n c l : Nat} {f : Flit} {e : Exit}

/-- Two changes of the links alone are one. -/
theorem links_trans {s t u : State} (h : { t with via := s.via } = s) (h' : { u with via := t.via } = t) : { u with via := s.via } = s :=
  (congrArg (fun x : State => { x with via := s.via }) h').trans h

theorem PortTouched.via {s t : State} {n : Nat} (h : PortTouched n s t) : noWire t.via = noWire s.via := silent_via h.2.2

-- -------------------------------------------------------------------------------- XOFF and XON

theorem xonMsg_clause (hwf : portsWf s) (h : isTrained s n = true) : PortTouched n s (xonMsg s n c l)
    ∧ (portOf (xonMsg s n c l) n).stopped = (portOf s n).stopped.filter (· != (c, l))
    ∧ (PortQuiet s n → { xonMsg s n c l with via := s.via } = s) := by
  have hset := portOnly_updPort hwf n fun p => { p with stopped := p.stopped.filter (· != (c, l)) }
  have hport := portOf_updPort hwf n fun p => { p with stopped := p.stopped.filter (· != (c, l)) }
  obtain ⟨hpump, hkeeps⟩ := portTouched_pump hset.wf n
  rw [xonMsg, if_neg (by simp [h])]
  refine ⟨hset.touched.trans hpump, ?_, fun hquiet => ?_⟩
  · rw [hport] at hkeeps
    exact (congrArg Port.stopped hkeeps :)
  · exact (hset.trans (portOnly_pump hset.wf (by rw [PortQuiet, hport]; exact hquiet))).rest

theorem xoffMsg_eq (h : isTrained s n = true) : xoffMsg s n c l
    = updPort s n fun p => { p with stopped := if p.stopped.contains (c, l) then p.stopped else p.stopped ++ [(c, l)] } := by
  rw [xoffMsg, if_neg (by simp [h])]

-- -------------------------------------------------------------------------------- FLIT_FORWARD

/-- The flit has left its lane; flow control sees the room. -/
def laneLeft (s : State) (n c l : Nat) (f : Flit) : State := flowCheck (updPort s n fun p => { p with lanes := p.lanes.erase f }) n c l

theorem laneLeft_clause (hwf : portsWf s) (n c l : Nat) (f : Flit) : PortOnly n s (laneLeft s n c l f)
    ∧ unflowed (portOf (laneLeft s n c l f) n) = unflowed { portOf s n with lanes := (portOf s n).lanes.erase f } := by
  have hset := portOnly_updPort hwf n fun p => { p with lanes := p.lanes.erase f }
  obtain ⟨hflow, hport⟩ := portOnly_flowCheck hset.wf n c l
  rw [portOf_updPort hwf] at hport
  exact ⟨hset.trans hflow, hport⟩

/-- A flit as it leaves by an exit. -/
def leaving (f : Flit) (e : Exit) : Flit := { f with around := e.around, dateline := e.dateline }

/-- The output port once it has sent the flit of an input. -/
def forwardedPort (p : Port) (g : Flit) (c n : Nat) : Port := { sendFlit p g with served := listSet (sendFlit p g).served c n }

theorem flitForward_of_none (h : ∀ f ∈ (portOf s n).lanes, ¬ (f.cls = c ∧ laneOf f = l)) : flitForward s n c l = s := by
  have hfind : ((portOf s n).lanes.find? fun f => f.cls == c && laneOf f == l) = none :=
    List.find?_eq_none.2 fun f hf => by simpa using h f hf
  simp only [flitForward, hfind]

theorem flitForward_dropped (hf : ((portOf s n).lanes.find? fun f => f.cls == c && laneOf f == l) = some f)
    (hroute : routeTo s f.dest (some n) f.around f.dateline = none) : flitForward s n c l
      = laneLeft (logEvent s (mkEvent stLinkDown srcVia 2 n evFault 0 (coordBits f.dest))) n c l f := by
  simp only [flitForward, hf, hroute]
  rfl

theorem flitForward_waits (hf : ((portOf s n).lanes.find? fun f => f.cls == c && laneOf f == l) = some f)
    (hroute : routeTo s f.dest (some n) f.around f.dateline = some e)
    (hwait : maySend s e.port (portOf s e.port) (leaving f e) = false ∨ forwardTurn s n c e.port = false) : flitForward s n c l = s := by
  simp only [flitForward, hf, hroute]
  refine if_neg fun hgo => ?_
  obtain ⟨hmay, hturn⟩ := (Bool.and_eq_true ..).mp hgo
  rcases hwait with h | h
  · exact absurd (h.symm.trans hmay) (by decide)
  · exact absurd (h.symm.trans hturn) (by decide)

theorem flitForward_goes (hf : ((portOf s n).lanes.find? fun f => f.cls == c && laneOf f == l) = some f)
    (hroute : routeTo s f.dest (some n) f.around f.dateline = some e)
    (hmay : maySend s e.port (portOf s e.port) (leaving f e) = true) (hturn : forwardTurn s n c e.port = true) : flitForward s n c l
      = pump (laneLeft (updPort s e.port fun p => forwardedPort p (leaving f e) c n) n c l f) e.port := by
  simp only [flitForward, hf, hroute]
  refine (if_pos ((Bool.and_eq_true ..).mpr ⟨hmay, hturn⟩)).trans ?_
  rfl

/-- The state in which a forwarded flit has gone out, before its port sends what else it may. -/
def forwarded (s : State) (n c l : Nat) (f : Flit) (e : Exit) : State :=
  laneLeft (updPort s e.port fun p => forwardedPort p (leaving f e) c n) n c l f

theorem forwarded_clause (hwf : portsWf s) (n c l : Nat) (f : Flit) (e : Exit) : portsWf (forwarded s n c l f e)
    ∧ (∀ m, m ≠ n → m ≠ e.port → portOf (forwarded s n c l f e) m = portOf s m)
    ∧ { forwarded s n c l f e with via := s.via } = s
    ∧ (portOf (forwarded s n c l f e) n).lanes = (portOf s n).lanes.erase f
    ∧ (e.port ≠ n → portOf (forwarded s n c l f e) e.port = forwardedPort (portOf s e.port) (leaving f e) c n)
    ∧ unflowed (portOf (forwarded s n c l f e) e.port)
      = unflowed { forwardedPort (portOf s e.port) (leaving f e) c n with lanes := (portOf (forwarded s n c l f e) e.port).lanes } := by
  have hset := portOnly_updPort hwf e.port fun p => forwardedPort p (leaving f e) c n
  have hport := portOf_updPort hwf e.port fun p => forwardedPort p (leaving f e) c n
  obtain ⟨honly, hleft⟩ := laneLeft_clause hset.wf n c l f
  have hlanes : (portOf (forwarded s n c l f e) n).lanes
    = (portOf (updPort s e.port fun p => forwardedPort p (leaving f e) c n) n).lanes.erase f := (congrArg Port.lanes hleft :)
  have hsame : (portOf (updPort s e.port fun p => forwardedPort p (leaving f e) c n) n).lanes = (portOf s n).lanes := by
    by_cases hn : n = e.port
    · subst hn
      rw [hport]
      rfl
    · rw [hset.other hn]
  have hout : e.port ≠ n → portOf (forwarded s n c l f e) e.port = forwardedPort (portOf s e.port) (leaving f e) c n := fun hne =>
    (honly.other hne).trans hport
  have hrest : { forwarded s n c l f e with via := s.via } = s :=
    links_trans (t := updPort s e.port fun p => forwardedPort p (leaving f e) c n) rfl honly.rest
  refine ⟨honly.wf, fun m hm hm' => (honly.other hm).trans (hset.other hm'), hrest, by rw [hlanes, hsame], hout, ?_⟩
  by_cases hn : e.port = n
  · subst hn
    rw [hport] at hleft
    rw [hlanes, hsame]
    exact hleft
  · rw [hout hn]

/-- R331: what a flit that is forwarded changes. -/
theorem pump_forwarded (hwf : portsWf s) (n c l : Nat) (f : Flit) (e : Exit) :
    (portOf (pump (forwarded s n c l f e) e.port) n).lanes = (portOf s n).lanes.erase f
    ∧ (∀ m, m ≠ n → m ≠ e.port → portOf (pump (forwarded s n c l f e) e.port) m = portOf s m)
    ∧ (pump (forwarded s n c l f e) e.port).ks = s.ks ∧ (pump (forwarded s n c l f e) e.port).dram = s.dram
    ∧ (pump (forwarded s n c l f e) e.port).sp = s.sp
    ∧ (PortQuiet s e.port → { pump (forwarded s n c l f e) e.port with via := s.via } = s
      ∧ (e.port ≠ n → (portOf s e.port).queue = [] →
        portOf (pump (forwarded s n c l f e) e.port) e.port = forwardedPort (portOf s e.port) (leaving f e) c n)) := by
  obtain ⟨hwf', hother, hrest, hlanes, hout, hflow⟩ := forwarded_clause hwf n c l f e
  generalize forwarded s n c l f e = u at hwf' hother hrest hlanes hout hflow ⊢
  obtain ⟨hpump, hkeeps⟩ := portTouched_pump hwf' e.port
  have hks : u.ks = s.ks := (congrArg State.ks hrest :)
  have hdram : u.dram = s.dram := (congrArg State.dram hrest :)
  have hsp : u.sp = s.sp := (congrArg State.sp hrest :)
  have hagain : (portOf u e.port).again = (portOf s e.port).again := (congrArg Port.again hflow :)
  have hresent : (portOf u e.port).resent = (portOf s e.port).resent := (congrArg Port.resent hflow :)
  refine ⟨?_, fun m hm hm' => (hpump.other hm').trans (hother m hm hm'), hpump.ks.trans hks, hpump.dram.trans hdram,
    hpump.sp.trans hsp, fun hquiet => ?_⟩
  · by_cases hn : n = e.port
    · subst hn
      exact (congrArg Port.lanes hkeeps :).trans hlanes
    · rw [hpump.other hn, hlanes]
  · have hquiet' : PortQuiet u e.port := by rw [PortQuiet, hagain, hresent]; exact hquiet
    have honly := portOnly_pump hwf' hquiet'
    refine ⟨links_trans hrest honly.rest, fun hne hqueue => ?_⟩
    rw [pump_idle hwf' (by rw [hout hne]; exact hqueue) hquiet', hout hne]

end

/-- Settles O43: a flit by whether it decodes and is next; a resend by the counts; a forwarded flit by its route and turn. -/
theorem flitsAreSequencedAndForwarded : Obligations.FlitsAreSequencedAndForwarded := by
  refine ⟨fun s n htrained hwf => ⟨fun fecOk f crc hbad => congrArg Host.Outcome.next (flitReceive_refused htrained hbad),
    fun f hseq hcls hrx hretry hqueue hquiet harm => ?_, fun c e hqueue hquiet hstop htab hkeys => ?_⟩, fun s n c l hwf =>
    ⟨fun htrained => ⟨?_, ?_⟩, fun hnone => congrArg Host.Outcome.next (flitForward_of_none hnone), fun f hf =>
      ⟨fun hroute => ?_, fun e hroute => ⟨fun hwait => congrArg Host.Outcome.next (flitForward_waits hf hroute hwait),
        fun hmay hturn => ?_⟩⟩⟩⟩
  · have heq := flitReceive_good (f := f) hwf htrained hseq hretry hqueue hquiet harm
    refine ⟨fun hnext => ?_, fun hother hsuspect => ?_, fun hother hsuspect => ?_⟩
    · rw [if_pos hnext] at heq
      obtain ⟨honly, hrxd, hsus, hlanes⟩ := acceptFlit_port (n := n) hwf f
      obtain ⟨hidle, hport, hbusy⟩ := portOnly_idleAck honly.wf n
      have hview : unwired (portOf (idleAck (acceptFlit s n f) n) n) = unwired (portOf (acceptFlit s n f) n) := by
        rw [hport]
        split <;> rfl
      have hrxt : (portOf (idleAck (acceptFlit s n f) n) n).rx = (portOf (acceptFlit s n f) n).rx := (congrArg Port.rx hview :)
      have hboth := honly.trans hidle
      refine ⟨_, congrArg Host.Outcome.next heq, ⟨fun m hm => hboth.other hm, hboth.rest⟩, fun k => ?_,
        (congrArg Port.suspect hview :).trans hsus, (congrArg Port.lanes hview :).trans hlanes, fun hown => ⟨?_, ?_⟩, fun hfree => ?_⟩
      · rw [hrxt, hrxd, acceptedPort, getD_listSet (by rw [hrx]; exact hcls), hnext]
      · obtain ⟨-, hownport⟩ := acceptFlit_own (n := n) hwf hown
        have hwire : (portOf (acceptFlit s n f) n).wire = (portOf s n).wire := by rw [hownport]; rfl
        have hacks : portAcks (portOf (idleAck (acceptFlit s n f) n) n) = portAcks (portOf (acceptFlit s n f) n) := by
          rw [portAcks, portAcks, hrxt]
        have hsent : (portOf (idleAck (acceptFlit s n f) n) n).wire = if forwardBusy (idleAck (acceptFlit s n f) n) n then (portOf s n).wire
            else (portOf s n).wire ++ [plainFlit 0 (portAcks (portOf (idleAck (acceptFlit s n f) n) n)) []] := by
          rw [hbusy, hacks, ← hwire, hport]
          split <;> rfl
        exact hsent
      · obtain ⟨-, hownport⟩ := acceptFlit_own (n := n) hwf hown
        exact (congrArg Port.parts hview :).trans (congrArg Port.parts hownport)
      · have hacks : portAcks (portOf (idleAck (acceptFlit s n f) n) n) = portAcks (portOf (acceptFlit s n f) n) := by
          rw [portAcks, portAcks, hrxt]
        have hfree' : forwardBusy (acceptFlit s n f) n = false := hbusy.symm.trans hfree
        have hlast : (portOf (idleAck (acceptFlit s n f) n) n).wire.getLast?
            = some (plainFlit 0 (portAcks (portOf (idleAck (acceptFlit s n f) n) n)) []) := by
          rw [hacks, hport, hfree']
          exact List.getLast?_concat
        exact hlast
    · rw [if_neg hother, if_pos hsuspect] at heq
      have hset := portOnly_updPort (s := s) hwf n fun p => { p with suspect := p.suspect.filter (· != f.cls) }
      have hboth := hset.trans (portOnly_sendLink hset.wf n (.nack (Nat.xor n 1) f.cls ((portOf s n).rx.getD f.cls 0)))
      refine ⟨_, congrArg Host.Outcome.next heq, ⟨fun m hm => hboth.other hm, hboth.rest⟩, rfl, ?_⟩
      rw [portOf_sendLink hset.wf, portOf_updPort hwf]
      rfl
    · rw [if_neg hother, if_neg (by rw [hsuspect]; decide)] at heq
      obtain ⟨hidle, hport, -⟩ := portOnly_idleAck (s := s) hwf n
      exact ⟨_, congrArg Host.Outcome.next heq, ⟨fun m hm => hidle.other hm, hidle.rest⟩, hport⟩
  · have hnack : nackMsg s n c e = resendClass s n c (((portOf s n).retry.filter fun f => f.cls == c).dropWhile fun f => f.lseq != e) := by
      rw [nackMsg, if_neg (by simp [htrained])]
    have htimeout : classResendTimeout s n c = resendClass s n c ((portOf s n).retry.filter fun f => f.cls == c) := by
      rw [classResendTimeout, if_neg (by simp [htrained])]
    have hlive : (((portOf s n).retry.filter fun f => f.cls == c).map flitKey).Nodup := hkeys.sublist (List.filter_sublist.map _)
    have hfrom : ((((portOf s n).retry.filter fun f => f.cls == c).dropWhile fun f => f.lseq != e).map flitKey).Nodup :=
      hlive.sublist ((List.dropWhile_sublist _).map _)
    have hcalm : ∀ fs : List Flit, (fs.map flitKey).Nodup → (¬ ∃ f ∈ fs, tabGet 0 (portOf s n).resent (flitKey f) = 7) →
        (portOf (resendClass s n c fs) n).wire = (portOf s n).wire ++ fs.map (fun f => { f with acks := portAcks (portOf s n) })
        ∧ (portOf (resendClass s n c fs) n).retry = (portOf s n).retry
        ∧ (∀ m, m ≠ n → portOf (resendClass s n c fs) m = portOf s m) ∧ { resendClass s n c fs with via := s.via } = s := fun fs hfs hno => by
      obtain ⟨honly, hport⟩ := resendClass_calm hwf htrained hqueue hquiet hstop htab hfs hno c
      exact ⟨by rw [hport], by rw [hport], fun m hm => honly.other hm, honly.rest⟩
    exact ⟨fun hno => ⟨_, congrArg Host.Outcome.next hnack, hcalm _ hfrom hno⟩,
      fun hno => ⟨_, congrArg Host.Outcome.next htimeout, hcalm _ hlive hno⟩,
      fun hyes => ⟨_, congrArg Host.Outcome.next hnack, resendClass_eighth hwf htrained hqueue hquiet hstop htab hfrom hyes c⟩,
      fun hyes => ⟨_, congrArg Host.Outcome.next htimeout, resendClass_eighth hwf htrained hqueue hquiet hstop htab hlive hyes c⟩⟩
  · have hset := portOnly_updPort (s := s) hwf n fun p =>
      { p with stopped := if p.stopped.contains (c, l) then p.stopped else p.stopped ++ [(c, l)] }
    have hport := portOf_updPort (s := s) hwf n fun p =>
      { p with stopped := if p.stopped.contains (c, l) then p.stopped else p.stopped ++ [(c, l)] }
    refine ⟨_, congrArg Host.Outcome.next (xoffMsg_eq htrained), fun x => ?_, by rw [hport], fun m hm => hset.other hm, hset.rest⟩
    rw [hport]
    by_cases hin : (c, l) ∈ (portOf s n).stopped
    · have hno : x ∈ (portOf s n).stopped ∨ x = (c, l) ↔ x ∈ (portOf s n).stopped := or_iff_left_of_imp fun h => h ▸ hin
      simp only [List.contains_iff_mem.2 hin, if_true, hno]
    · simp [hin]
  · obtain ⟨htouched, hstopped, hquiet⟩ := xonMsg_clause (c := c) (l := l) hwf htrained
    refine ⟨_, rfl, fun x => ?_, fun m hm => htouched.other hm, htouched.ks, htouched.dram, htouched.sp, hquiet⟩
    rw [hstopped, List.mem_filter, bne_iff_ne]
  · have hvia := logEvent_via (s := s) (e := mkEvent stLinkDown srcVia 2 n evFault 0 (coordBits f.dest))
    obtain ⟨honly, hport⟩ := laneLeft_clause (portsWf_congr hvia hwf) n c l f
    rw [portOf_congr hvia] at hport
    exact ⟨_, congrArg Host.Outcome.next (flitForward_dropped hf hroute), (congrArg Port.lanes hport :),
      fun m hm => (honly.other hm).trans (portOf_congr hvia m), honly.ks.trans (logEvent_ks ..), honly.dram.trans (logEvent_dram ..)⟩
  · exact ⟨_, congrArg Host.Outcome.next (flitForward_goes hf hroute hmay hturn), pump_forwarded hwf n c l f e⟩

end Sys2Proof.Machine

-- ------------------------------------------------------------------------------------------------ status bits, and what an announcement changes

namespace Sys2Proof.Machine

-- -------------------------------------------------------------------------------- bits

/-- Adding a bit's value where the bit is clear sets it and changes no other. -/
theorem testBit_add_two_pow {v k : Nat} (hclear : v.testBit k = false) (j : Nat) :
    (v + 2 ^ k).testBit j = if j = k then true else v.testBit j := by
  obtain hlt | rfl | hgt := Nat.lt_trichotomy j k
  · rw [if_neg (by omega), Nat.add_comm, Nat.testBit_two_pow_add_gt hlt]
  · rw [if_pos rfl, Nat.add_comm, Nat.testBit_two_pow_add_eq, hclear]; rfl
  · rw [Nat.testBit_eq_decide_div_mod_eq, decide_eq_false_iff_not] at hclear
    have hhigh : (v + 2 ^ k) / 2 ^ (k + 1) = v / 2 ^ (k + 1) := by
      rw [Nat.pow_succ, ← Nat.div_div_eq_div_mul, ← Nat.div_div_eq_div_mul, Nat.add_div_right _ (Nat.two_pow_pos k)]
      omega
    obtain ⟨m, rfl⟩ := Nat.exists_eq_add_of_lt hgt
    rw [if_neg (by omega), show k + m + 1 = m + (k + 1) by omega, ← Nat.testBit_div_two_pow, hhigh, Nat.testBit_div_two_pow]

/-- Taking a bit's value where the bit is set clears it and changes no other. -/
theorem testBit_sub_two_pow {v k : Nat} (hset : v.testBit k = true) (j : Nat) :
    (v - 2 ^ k).testBit j = if j = k then false else v.testBit j := by
  have hle := Nat.ge_two_pow_of_testBit hset
  have hclear : (v - 2 ^ k).testBit k = false := by
    rw [Nat.testBit_eq_decide_div_mod_eq, decide_eq_true_iff] at hset
    have hdiv : (v - 2 ^ k) / 2 ^ k = v / 2 ^ k - 1 := by simpa using Nat.sub_mul_div v (2 ^ k) 1
    rw [Nat.testBit_eq_decide_div_mod_eq, decide_eq_false_iff_not, hdiv]
    omega
  have hback := testBit_add_two_pow hclear j
  rw [Nat.sub_add_cancel hle] at hback
  split
  next hjk =>
    rw [hjk, hclear]
  next hjk =>
    rw [hback, if_neg hjk]

theorem testBit_setBit_eq (v k j : Nat) (b : Bool) : (setBit v k b).testBit j = if j = k then b else v.testBit j := by
  unfold setBit
  split
  next hsame =>
    split
    next hjk => rw [hjk, hsame]
    next => rfl
  next hsame =>
    split
    next hb =>
      rw [testBit_add_two_pow (by simpa [hb] using hsame), hb]
    next hb =>
      rw [testBit_sub_two_pow (by simpa [hb] using hsame), Bool.eq_false_iff.2 hb]

/-- HC_STATUS after one of its bits is given a value. -/
theorem statusBit_testBit (h : HostIf) {k j : Nat} (b : Bool) (hj : j < 32) :
    (statusBit h k b).status.toNat.testBit j = if j = k then b else h.status.toNat.testBit j := by
  rw [statusBit, BitVec.toNat_ofNat, Nat.testBit_mod_two_pow, testBit_setBit_eq, decide_eq_true hj, Bool.true_and]

/-- A field of HC_STATUS whose bits are as before reads as before. -/
theorem bitsOf_congr {v w hi lo : Nat} (h : ∀ j, lo ≤ j → j ≤ hi → v.testBit j = w.testBit j) : bitsOf v hi lo = bitsOf w hi lo := by
  refine Nat.eq_of_testBit_eq fun i => ?_
  simp only [bitsOf, Nat.testBit_mod_two_pow, Nat.testBit_div_two_pow]
  by_cases hi' : i < hi + 1 - lo
  · rw [h (i + lo) (by omega) (by omega)]
  · simp [hi']

@[simp] theorem planStateOf_statusBit (h : HostIf) {k : Nat} (b : Bool) (hk : k < 2 ∨ 4 < k) :
    planStateOf (statusBit h k b) = planStateOf h :=
  bitsOf_congr fun j h1 h2 => (statusBit_testBit h b (by omega)).trans (if_neg (by omega))

@[simp] theorem planStateOf_statusField_fault (h : HostIf) (v : Nat) : planStateOf (statusField h 15 8 v) = planStateOf h := by
  simp only [planStateOf, statusField, bitsOf, BitVec.toNat_ofNat]
  omega

theorem notReady_statusBit (h : HostIf) {k : Nat} (b : Bool) (hk : k ≠ 0) : notReady (statusBit h k b) = notReady h :=
  (statusBit_testBit h b (by decide)).trans (if_neg fun h0 => hk h0.symm)

theorem notReady_statusBit_ready (h : HostIf) (b : Bool) : notReady (statusBit h bitReady b) = b :=
  (statusBit_testBit h b (by decide)).trans (if_pos rfl)

theorem notReady_statusField_fault (h : HostIf) (v : Nat) : notReady (statusField h 15 8 v) = notReady h := by
  simp only [notReady, statusField, bitsOf, BitVec.toNat_ofNat, Nat.testBit_zero, decide_eq_decide]
  omega

theorem notReady_statusField_plan (h : HostIf) (v : Nat) : notReady (statusField h 4 2 v) = notReady h := by
  simp only [notReady, statusField, bitsOf, BitVec.toNat_ofNat, Nat.testBit_zero, decide_eq_decide]
  omega

-- -------------------------------------------------------------------------------- announcements

/-- The state without what an announcement of Table 20-3 changes: the log, interrupts, HC_STATUS and PLDM events. -/
def announced (s : State) : State :=
  { silent s with
    host := { noTraffic s.host with status := 0 }
    toll := { noLog s.toll with replies := [] } }

section
variable {s t : State}

theorem announced_of_silent (h : silent t = silent s) : announced t = announced s :=
  (congrArg (fun u : State => { u with host := { u.host with status := 0 }, toll := { u.toll with replies := [] } }) h :)

theorem announced_platformEvent (s : State) (code unit : Nat) (start : Bool) : announced (platformEvent s code unit start) = announced s := by
  unfold platformEvent
  split <;> rfl

theorem announced_protectionEvent (s : State) (code unit reading : Nat) (start : Bool) (severity status : Nat) :
    announced (protectionEvent s code unit reading start severity status) = announced s :=
  (announced_platformEvent ..).trans ((announced_of_silent (silent_logEvent ..)).trans
    (announced_of_silent (silent_raiseIrq (updHost s fun h => statusBit h bitThermal (protecting s)) 5) :))

theorem announced_showAlerts (s : State) : announced (showAlerts s) = announced s := rfl

theorem announced_showStaged (s : State) : announced (showStaged s) = announced s := rfl

section
variable (h : announced t = announced s)
include h
theorem announced_ks : t.ks = s.ks := (congrArg State.ks h :)
theorem announced_sp : t.sp = s.sp := (congrArg State.sp h :)
theorem announced_dram : t.dram = s.dram := (congrArg State.dram h :)
theorem announced_beat : t.beat = s.beat := (congrArg State.beat h :)
theorem announced_pw : { t.pw with uart := [] } = { s.pw with uart := [] } := (congrArg State.pw h :)
theorem announced_toll : { noLog t.toll with replies := [] } = { noLog s.toll with replies := [] } := (congrArg State.toll h :)
theorem announced_holds : t.toll.holds = s.toll.holds := (congrArg Toll.holds (announced_toll h) :)
theorem announced_floors : t.toll.floors = s.toll.floors := (congrArg Toll.floors (announced_toll h) :)
end

/-- Every announcement of a protection shows in HC_STATUS whether one lasts (R401). -/
theorem protectionEvent_thermal (s : State) (code unit reading : Nat) (start : Bool) (severity status : Nat) :
    (protectionEvent s code unit reading start severity status).host.status.toNat.testBit bitThermal = protecting s := by
  have hplatform : ∀ u : State, (platformEvent u code unit start).host = u.host := fun u => by
    unfold platformEvent; split <;> rfl
  have hstatus : (raiseIrq (updHost s fun h => statusBit h bitThermal (protecting s)) 5).host.status
      = (statusBit s.host bitThermal (protecting s)).status := (congrArg HostIf.status (noTraffic_raiseIrq ..) :)
  rw [protectionEvent, hplatform, logEvent_host, hstatus, statusBit_testBit _ _ (by decide), if_pos rfl]

end

end Sys2Proof.Machine

-- ------------------------------------------------------------------------------------------------ samples, holds and floors

namespace Sys2Proof.Machine

-- -------------------------------------------------------------------------------- voltages

theorem foldl_min_le (l : List Nat) (a : Nat) : l.foldl Nat.min a ≤ a := by
  induction l generalizing a with
  | nil => exact Nat.le_refl a
  | cons x l ih => exact Nat.le_trans (ih _) (Nat.min_le_left ..)

theorem foldl_min_le_of_mem {l : List Nat} {x : Nat} (h : x ∈ l) (a : Nat) : l.foldl Nat.min a ≤ x := by
  induction l generalizing a with
  | nil => cases h
  | cons y l ih =>
    obtain rfl | h := List.mem_cons.1 h
    · exact Nat.le_trans (foldl_min_le l _) (Nat.min_le_right ..)
    · exact ih h _

section
variable {s t : State} {b : Nat}

/-- R433: the voltage rests on holds, floors and what pace matching has set. -/
theorem vSet_congr (hholds : t.toll.holds = s.toll.holds) (hfloors : t.toll.floors = s.toll.floors) (hv : paceVolt t b = paceVolt s b) :
    vSet t b = vSet s b := by
  simp only [vSet, hholds, hfloors, hv]

theorem vSet_le_of_floor (h : s.toll.floors.any (floorOn b) = true) : vSet s b ≤ 550 := by
  simp only [vSet, h, if_true]
  exact Nat.min_le_right ..

theorem vSet_le_of_hold {h : Hold} (hmem : h ∈ s.toll.holds) (hon : holdOn b h = true) : vSet s b ≤ h.ceil := by
  have hmin := foldl_min_le_of_mem (List.mem_map_of_mem (f := (·.ceil)) (List.mem_filter.2 ⟨hmem, hon⟩)) 850
  simp only [vSet]
  split
  · exact Nat.le_trans (Nat.min_le_left ..) (Nat.le_trans (Nat.min_le_left ..) hmin)
  · exact Nat.le_trans (Nat.min_le_left ..) hmin

/-- A bay whose setting is the voltage that it has keeps that voltage. -/
theorem vSet_of_settled (hholds : t.toll.holds = s.toll.holds) (hfloors : t.toll.floors = s.toll.floors) (hv : paceVolt t b = vSet s b) :
    vSet t b = vSet s b := by
  simp only [vSet, hholds, hfloors, hv]
  generalize ((s.toll.holds.filter (holdOn b)).map (·.ceil)).foldl Nat.min 850 = held
  generalize paceVolt s b = v
  split
  · show min (min held (min (min held v) 550)) 550 = min (min held v) 550
    omega
  · show min held (min held v) = min held v
    omega

-- -------------------------------------------------------------------------------- the release of a hold

/-- Pace matching's setting of one bay gives way, where its policy lets it; nothing else changes. -/
theorem settleVolt_eq (s : State) (a : Nat) : ∃ v, settleVolt s a = updSp s fun q => { q with volts := v } := by
  unfold settleVolt
  split
  · exact ⟨s.sp.volts, rfl⟩
  · exact ⟨_, rfl⟩

theorem settleVolt_paceVolt_ne (hwf : tabWf 700 s.sp.volts = true) {a : Nat} (hne : b ≠ a) : paceVolt (settleVolt s a) b = paceVolt s b := by
  unfold settleVolt
  split
  · rfl
  · exact tabGet_tabSet_other hwf hne

theorem settleVolt_paceVolt_same (hwf : tabWf 700 s.sp.volts = true) (hpol : s.ks.pace.1 ≠ 2) (hreg : tabGet 0 s.ks.armed.regs b = 0) :
    paceVolt (settleVolt s b) b = vSet s b := by
  rw [settleVolt, if_neg (by simp [hpol, hreg])]
  exact tabGet_tabSet_same hwf

theorem settleVolt_wf (hwf : tabWf 700 s.sp.volts = true) (a : Nat) : tabWf 700 (settleVolt s a).sp.volts = true := by
  unfold settleVolt
  split
  · exact hwf
  · exact tabSet_wf hwf

/-- Settling bays one after the other leaves each of them with the voltage that it had at the start. -/
theorem foldl_settleVolt (b : Nat) (l : List Nat) (hpol : s.ks.pace.1 ≠ 2) (hreg : tabGet 0 s.ks.armed.regs b = 0)
    (hwf : tabWf 700 s.sp.volts = true) :
    vSet (l.foldl settleVolt s) b = vSet s b
    ∧ (b ∈ l ∨ paceVolt s b = vSet s b → paceVolt (l.foldl settleVolt s) b = vSet s b) := by
  induction l generalizing s with
  | nil => exact ⟨rfl, fun h => h.resolve_left List.not_mem_nil⟩
  | cons a l ih =>
    obtain ⟨v, hv⟩ := settleVolt_eq s a
    have hholds : (settleVolt s a).toll.holds = s.toll.holds := by rw [hv]; rfl
    have hfloors : (settleVolt s a).toll.floors = s.toll.floors := by rw [hv]; rfl
    have hks : (settleVolt s a).ks = s.ks := by rw [hv]; rfl
    have hstep : vSet (settleVolt s a) b = vSet s b ∧ (b = a ∨ paceVolt s b = vSet s b → paceVolt (settleVolt s a) b = vSet s b) := by
      by_cases hba : b = a
      · subst hba
        have hset := settleVolt_paceVolt_same hwf hpol hreg
        exact ⟨vSet_of_settled hholds hfloors hset, fun _ => hset⟩
      · have hset := settleVolt_paceVolt_ne hwf hba
        exact ⟨vSet_congr hholds hfloors hset, fun h => hset.trans (h.resolve_left hba)⟩
    obtain ⟨hvolt, hsettled⟩ := ih (hks ▸ hpol) (hks ▸ hreg) (settleVolt_wf hwf a)
    rw [hstep.1] at hvolt hsettled
    refine ⟨hvolt, fun h => hsettled ?_⟩
    rw [List.mem_cons, or_assoc] at h
    obtain h | h | h := h
    · exact .inr (hstep.2 (.inl h))
    · exact .inl h
    · exact .inr (hstep.2 (.inr h))

-- -------------------------------------------------------------------------------- one condition at a sample

/-- The holds of a condition that are released at this sample. -/
def freedHolds (s : State) (c : HoldCond) : List Hold :=
  (s.toll.holds.filter (ofCond c)).filter fun h => !h.releasing && (moveHold c h).releasing

/-- The state once the bays of released holds have settled. -/
def settled (s : State) (c : HoldCond) : State := (allBays.filter fun b => (freedHolds s c).any (holdOn b)).foldl settleVolt s

/-- The holds that a condition starts. -/
def newHolds (s : State) (c : HoldCond) : List Hold :=
  (if c.on then c.bays.filter fun b => !(s.toll.holds.filter (ofCond c)).any (holdOn b) else []).map fun b =>
    Hold.mk c.code c.unit (baysBits [b]) (max 550 (vSet (settled s c) b - 5)) 0 false

/-- The holds of a condition that go on after this sample. -/
def leftHolds (s : State) (c : HoldCond) : List Hold := ((s.toll.holds.filter (ofCond c)).map (moveHold c)).filter fun h => !holdOver h

/-- The state with a condition's holds after a sample. -/
def rehold (s : State) (c : HoldCond) : State :=
  updToll (settled s c) fun t => { t with holds := t.holds.filter (fun h => !ofCond c h) ++ leftHolds s c ++ newHolds s c }

theorem settled_eq (s : State) (c : HoldCond) : ∃ v, settled s c = updSp s fun q => { q with volts := v } := by
  have hfold : ∀ (l : List Nat) (s : State), ∃ v, l.foldl settleVolt s = updSp s fun q => { q with volts := v } := fun l => by
    induction l with
    | nil => exact fun s => ⟨s.sp.volts, rfl⟩
    | cons a l ih =>
      intro s
      obtain ⟨w, hw⟩ := settleVolt_eq s a
      obtain ⟨v, hv⟩ := ih (settleVolt s a)
      exact ⟨v, hv.trans (by rw [hw]; rfl)⟩
  exact hfold _ _

/-- A condition's holds move, end and start, with announcements. -/
theorem sampleCond_announced (s : State) (c : HoldCond) :
    (sampleCond s c = settled s c ∧ s.toll.holds.filter (ofCond c) = [] ∧ newHolds s c = [])
    ∨ announced (sampleCond s c) = announced (rehold s c) := by
  by_cases hnone : ((s.toll.holds.filter (ofCond c)).isEmpty && (newHolds s c).isEmpty) = true
  · rw [Bool.and_eq_true, List.isEmpty_iff, List.isEmpty_iff] at hnone
    exact .inl ⟨if_pos (Bool.and_eq_true_iff.2 ⟨List.isEmpty_iff.2 hnone.1, List.isEmpty_iff.2 hnone.2⟩), hnone.1, hnone.2⟩
  · refine .inr ?_
    have heq : sampleCond s c = (if (leftHolds s c).length < (s.toll.holds.filter (ofCond c)).length then
        protectionEvent (if (newHolds s c).isEmpty then rehold s c
          else protectionEvent (rehold s c) c.code c.unit (unsignedOf 32 c.reading) true 1 stThermal)
          c.code c.unit (unsignedOf 32 c.reading) false 0 stOk
        else if (newHolds s c).isEmpty then rehold s c
          else protectionEvent (rehold s c) c.code c.unit (unsignedOf 32 c.reading) true 1 stThermal) := if_neg hnone
    have hinner : announced (if (newHolds s c).isEmpty then rehold s c
        else protectionEvent (rehold s c) c.code c.unit (unsignedOf 32 c.reading) true 1 stThermal) = announced (rehold s c) :=
      ite_keeps rfl (announced_protectionEvent ..)
    rw [heq]
    exact ite_keeps ((announced_protectionEvent ..).trans hinner) hinner

theorem sampleCond_holds (s : State) (c : HoldCond) :
    (sampleCond s c).toll.holds = s.toll.holds.filter (fun h => !ofCond c h) ++ leftHolds s c ++ newHolds s c := by
  obtain ⟨v, hv⟩ := settled_eq s c
  obtain ⟨heq, hmine, hnew⟩ | h := sampleCond_announced s c
  · have hall : s.toll.holds.filter (fun h => !ofCond c h) = s.toll.holds := by
      rw [List.filter_eq_self]
      exact fun h hh => by simpa using List.filter_eq_nil_iff.1 hmine h hh
    rw [heq, hnew, hv, leftHolds, hmine, hall]
    simp
  · rw [announced_holds h, rehold, hv]
    rfl

/-- A condition's sample changes the holds, the settings of pace matching and what announcements write. -/
theorem sampleCond_eq (s : State) (c : HoldCond) : ∃ v l, (sampleCond s c).sp = { s.sp with volts := v } ∧
    announced (sampleCond s c) = announced (updToll (updSp s fun q => { q with volts := v }) fun t => { t with holds := l }) := by
  obtain ⟨v, hv⟩ := settled_eq s c
  obtain ⟨heq, -, -⟩ | h := sampleCond_announced s c
  · exact ⟨v, s.toll.holds, by rw [heq, hv]; rfl, by rw [heq, hv]; rfl⟩
  · refine ⟨v, (rehold s c).toll.holds, ?_, ?_⟩
    · rw [announced_sp h, rehold, hv]; rfl
    · rw [h, rehold, hv]; rfl

/-- R399: at the release of a hold its bay keeps its voltage as pace matching's setting. -/
theorem paceVolt_sampleCond_of_released {c : HoldCond} {h : Hold} (hb : b < 32) (hmem : h ∈ s.toll.holds) (hof : ofCond c h = true)
    (hon : holdOn b h = true) (hrel : h.releasing = false) (hcalm : h.calm = 15) (hcon : c.on = false) (hcoff : c.off = true)
    (hpol : s.ks.pace.1 ≠ 2) (hreg : tabGet 0 s.ks.armed.regs b = 0) (hwf : tabWf 700 s.sp.volts = true) :
    paceVolt (sampleCond s c) b = vSet s b := by
  have hfree : (moveHold c h).releasing = true := by simp [moveHold, hcon, hcoff, hrel, hcalm]
  have hfreed : (freedHolds s c).any (holdOn b) = true :=
    List.any_eq_true.2 ⟨h, List.mem_filter.2 ⟨List.mem_filter.2 ⟨hmem, hof⟩, by simp [hrel, hfree]⟩, hon⟩
  have hsettled : paceVolt (settled s c) b = vSet s b :=
    (foldl_settleVolt b _ hpol hreg hwf).2 (.inl (List.mem_filter.2 ⟨List.mem_range.2 hb, hfreed⟩))
  have hsp : (sampleCond s c).sp = (settled s c).sp := by
    obtain ⟨heq, -, -⟩ | h := sampleCond_announced s c
    · rw [heq]
    · exact (announced_sp h).trans rfl
  rw [← hsettled, paceVolt, hsp]
  rfl

end

end Sys2Proof.Machine

-- ------------------------------------------------------------------------------------------------ a sample and its holds

namespace Sys2Proof.Machine

-- -------------------------------------------------------------------------------- what a sample leaves alone

/-- What the holds of a sample do not write: Keystone, DRAM contents, the beat, readings and their times. -/
def gauges (s : State) : Keystone × Tab Byte × Toll :=
  (s.ks, s.dram.mem, { noLog s.toll with replies := [], holds := [], warm := [] })

/-- What the holds of a sample rest on besides the readings. -/
def holdBasis (s : State) : List Hold × List Floor × Tab Nat := (s.toll.holds, s.toll.floors, s.sp.volts)

section
variable {s t : State}

theorem gauges_of_announced (h : announced t = announced s) : gauges t = gauges s :=
  (congrArg (fun u : State => (u.ks, u.dram.mem, { u.toll with holds := [], warm := [] })) h :)

theorem holdBasis_of_announced (h : announced t = announced s) : holdBasis t = holdBasis s := (congrArg holdBasis h :)

theorem view_of_announced (h : announced t = announced s) : (gauges t, holdBasis t) = (gauges s, holdBasis s) :=
  Prod.ext (gauges_of_announced h) (holdBasis_of_announced h)

theorem gauges_sampleCond (s : State) (c : HoldCond) : gauges (sampleCond s c) = gauges s := by
  obtain ⟨v, l, -, h⟩ := sampleCond_eq s c
  exact (gauges_of_announced h).trans rfl

theorem sampleCond_floors (s : State) (c : HoldCond) : (sampleCond s c).toll.floors = s.toll.floors :=
  (congrArg (fun g => g.2.2.floors) (gauges_sampleCond s c) :)

/-- A warning, or the start or end of a warning, is an announcement. -/
theorem warnHot_view (s : State) : (gauges (warnHot s), holdBasis (warnHot s)) = (gauges s, holdBasis s) := by
  refine foldl_keeps (g := fun s => (gauges s, holdBasis s)) (fun s e => ?_) _ s
  have hlog : ∀ b : Bool, announced (if b then logEvent s (mkEvent stThermal srcToll 1 e.1 evReport (unsignedOf 32 e.2) 0) else s)
      = announced s := fun b => ite_keeps (announced_of_silent (silent_logEvent ..)) rfl
  dsimp only
  generalize hu : (if decide (760 < e.2) = true then logEvent s (mkEvent stThermal srcToll 1 e.1 evReport (unsignedOf 32 e.2) 0) else s) = u
  have hus : announced u = announced s := hu ▸ hlog _
  refine Eq.trans (ite_keeps (g := fun s => (gauges s, holdBasis s)) rfl ?_) (view_of_announced hus)
  exact (view_of_announced (announced_platformEvent ..)).trans rfl

theorem refreshRate_view (s : State) (x : Sample) :
    (gauges (refreshRate s x), holdBasis (refreshRate s x)) = (gauges s, holdBasis s) := by
  refine foldl_keeps (g := fun s => (gauges s, holdBasis s)) (fun s k => ?_) _ s
  refine ite_keeps (g := fun s => (gauges s, holdBasis s)) rfl ?_
  exact (view_of_announced (announced_platformEvent ..)).trans rfl

-- -------------------------------------------------------------------------------- holds of single bays

/-- The condition of one bay's temperature (Table 20-3). -/
def bayCond (x : Sample) (b : Nat) : HoldCond :=
  HoldCond.mk 1 b [b] (x.bayTemp.getD b 0) (decide (800 < x.bayTemp.getD b 0)) (decide (x.bayTemp.getD b 0 < 784))

theorem baysBits_one {b c : Nat} (hc : c < 32) : (baysBits [b]).toNat.testBit c = decide (c = b) := by
  rw [baysBits, BitVec.toNat_ofNat, Nat.testBit_mod_two_pow, List.foldl_cons, List.foldl_nil, testBit_setBit_eq, decide_eq_true hc,
    Nat.zero_testBit]
  by_cases h : c = b <;> simp [h]

/-- Every hold is that of one bay's temperature, of a bay below `n`. -/
def BayHolds (n : Nat) (s : State) : Prop := ∀ h ∈ s.toll.holds, h.code = 1 ∧ h.unit < n ∧ h.bays = baysBits [h.unit]

theorem BayHolds.none_of (h : BayHolds n s) (x : Sample) : s.toll.holds.filter (ofCond (bayCond x n)) = [] := by
  rw [List.filter_eq_nil_iff]
  intro g hg
  have hlt := (h g hg).2.1
  simp only [ofCond, bayCond, Bool.and_eq_true, beq_iff_eq, not_and]
  omega

/-- A bay's condition meets no hold of its own among those of lower bays: it starts one, or changes nothing. -/
theorem sampleCond_bayCond (h : BayHolds n s) (x : Sample) :
    (sampleCond s (bayCond x n)).toll.holds = s.toll.holds
        ++ (if 800 < x.bayTemp.getD n 0 then [Hold.mk 1 n (baysBits [n]) (max 550 (vSet s n - 5)) 0 false] else [])
    ∧ (sampleCond s (bayCond x n)).sp.volts = s.sp.volts := by
  have hnone := h.none_of x
  have hsettled : settled s (bayCond x n) = s := by
    have hfreed : freedHolds s (bayCond x n) = [] := by rw [freedHolds, hnone]; rfl
    rw [settled, hfreed]
    rfl
  have hall : s.toll.holds.filter (fun g => !ofCond (bayCond x n) g) = s.toll.holds := by
    rw [List.filter_eq_self]
    exact fun g hg => by simpa using List.filter_eq_nil_iff.1 hnone g hg
  constructor
  · rw [sampleCond_holds, hall, leftHolds, newHolds, hnone, hsettled]
    by_cases hhot : 800 < x.bayTemp.getD n 0
    · simp [bayCond, hhot, -List.getD_eq_getElem?_getD]
    · simp [bayCond, hhot, -List.getD_eq_getElem?_getD]
  · obtain ⟨heq, -, -⟩ | hann := sampleCond_announced s (bayCond x n)
    · rw [heq, hsettled]
    · exact (congrArg Spans.volts (announced_sp hann)).trans (congrArg (fun u : State => u.sp.volts) hsettled : (settled s _).sp.volts = _)

/-- The samples of the bays below `n`, from no holds. -/
theorem bayConds_below (hholds : s.toll.holds = []) (x : Sample) (n : Nat) :
    BayHolds n (((List.range n).map (bayCond x)).foldl sampleCond s)
    ∧ (((List.range n).map (bayCond x)).foldl sampleCond s).toll.floors = s.toll.floors
    ∧ (((List.range n).map (bayCond x)).foldl sampleCond s).sp.volts = s.sp.volts := by
  induction n with
  | zero => exact ⟨fun h hh => absurd hh (by rw [List.range_zero, List.map_nil, List.foldl_nil, hholds]; exact List.not_mem_nil), rfl, rfl⟩
  | succ n ih =>
    rw [List.range_succ, List.map_append, List.foldl_append, List.map_singleton, List.foldl_cons, List.foldl_nil]
    generalize ((List.range n).map (bayCond x)).foldl sampleCond s = u at ih ⊢
    obtain ⟨hbays, hfloors, hvolts⟩ := ih
    obtain ⟨hnew, hsame⟩ := sampleCond_bayCond hbays x
    refine ⟨fun g hg => ?_, (sampleCond_floors u _).trans hfloors, hsame.trans hvolts⟩
    rw [hnew, List.mem_append] at hg
    obtain hg | hg := hg
    · obtain ⟨hcode, hunit, hbits⟩ := hbays g hg
      exact ⟨hcode, by omega, hbits⟩
    · split at hg
      · rw [List.mem_singleton] at hg
        rw [hg]
        exact ⟨rfl, Nat.lt_succ_self n, rfl⟩
      · cases hg

/-- The hold that a hot bay gets, from no holds: 5 mV below its voltage. -/
theorem hot_bay_held (hholds : s.toll.holds = []) (x : Sample) {b : Nat} (hb : b < 32) (hhot : 800 < x.bayTemp.getD b 0) :
    Hold.mk 1 b (baysBits [b]) (max 550 (vSet s b - 5)) 0 false
      ∈ (((List.range (b + 1)).map (bayCond x)).foldl sampleCond s).toll.holds := by
  obtain ⟨hbays, hfloors, hvolts⟩ := bayConds_below hholds x b
  rw [List.range_succ, List.map_append, List.foldl_append, List.map_singleton, List.foldl_cons, List.foldl_nil]
  generalize ((List.range b).map (bayCond x)).foldl sampleCond s = u at hbays hfloors hvolts ⊢
  have hv : vSet u b = vSet s b := by
    have hfree : u.toll.holds.filter (holdOn b) = [] := List.filter_eq_nil_iff.2 fun g hg => by
      obtain ⟨-, hunit, hbits⟩ := hbays g hg
      rw [holdOn, hbits, baysBits_one hb, decide_eq_true_iff]
      omega
    simp only [vSet, hfree, hholds, hfloors, paceVolt, hvolts, List.filter_nil]
  rw [(sampleCond_bayCond hbays x).1, if_pos hhot, hv]
  exact List.mem_append_right _ (List.mem_singleton.2 rfl)

/-- A condition of another code or unit leaves a hold as it is. -/
theorem mem_sampleCond {c : HoldCond} {h : Hold} (hmem : h ∈ s.toll.holds) (hof : ofCond c h = false) : h ∈ (sampleCond s c).toll.holds := by
  rw [sampleCond_holds]
  exact List.mem_append_left _ (List.mem_append_left _ (List.mem_filter.2 ⟨hmem, by rw [hof]; rfl⟩))

theorem mem_foldl_sampleCond {h : Hold} (l : List HoldCond) (hmem : h ∈ s.toll.holds) (hof : ∀ c ∈ l, ofCond c h = false) :
    h ∈ (l.foldl sampleCond s).toll.holds := by
  induction l generalizing s with
  | nil => exact hmem
  | cons c l ih => exact ih (mem_sampleCond hmem (hof c List.mem_cons_self)) fun d hd => hof d (List.mem_cons_of_mem _ hd)

/-- The conditions of Table 20-3 in order: the bays, then the conditions of other units and codes. -/
theorem holdConds_eq (s : State) : ∃ rest, holdConds s = (List.range 32).map (bayCond s.toll.sample) ++ rest
    ∧ ∀ c ∈ rest, c.code ≠ 1 ∨ 32 ≤ c.unit := by
  refine ⟨_, by rw [holdConds, List.append_assoc, List.append_assoc]; rfl, fun c hc => ?_⟩
  simp only [List.mem_append, List.mem_map, List.mem_cons, List.not_mem_nil, or_false] at hc
  obtain ⟨q, -, rfl⟩ | ⟨k, -, rfl⟩ | rfl | rfl := hc
  · exact .inr (Nat.le_add_right 32 q)
  all_goals exact .inl (by simp)

/-- A hot bay's hold is there at the end of the sample. -/
theorem holdConds_hot_bay {u : State} (hholds : u.toll.holds = []) {b : Nat} (hb : b < 32)
    (hhot : 800 < s.toll.sample.bayTemp.getD b 0) :
    Hold.mk 1 b (baysBits [b]) (max 550 (vSet u b - 5)) 0 false ∈ ((holdConds s).foldl sampleCond u).toll.holds := by
  obtain ⟨rest, heq, hrest⟩ := holdConds_eq s
  have hrange : List.range 32 = List.range (b + 1) ++ (List.range (31 - b)).map (b + 1 + ·) := by
    rw [← List.range_add]
    congr 1
    omega
  rw [heq, hrange, List.map_append, List.append_assoc, List.foldl_append]
  refine mem_foldl_sampleCond _ (hot_bay_held hholds s.toll.sample hb hhot) fun c hc => ?_
  simp only [ofCond, Bool.and_eq_false_iff, beq_eq_false_iff_ne]
  obtain hc | hc := List.mem_append.1 hc
  · simp only [List.mem_map, List.mem_range] at hc
    obtain ⟨-, ⟨k, -, rfl⟩, rfl⟩ := hc
    exact .inr (fun h0 => by simp only [bayCond] at h0; omega)
  · obtain hcode | hunit := hrest c hc
    · exact .inl (Ne.symm hcode)
    · exact .inr (by omega)

-- -------------------------------------------------------------------------------- a sample

/-- The readings that a sample leaves (R397, R398). -/
def sampleOf (s : State) (x : Sample) : Sample :=
  let y := clampSample (poweredPace s x)
  if s.pw.rails then y else { s.toll.sample with p12Mv := y.p12Mv, p12Ma := y.p12Ma, auxMv := y.auxMv, p12Runs := y.p12Runs }

/-- The state with the readings of a sample, before its holds. -/
def sampled (s : State) (x : Sample) : State :=
  updToll s fun t =>
    { t with sample := sampleOf s x, stale := !s.pw.rails, sampleBeat := s.beat.number
             oor := if s.pw.rails then outOfRange (poweredPace s x) else t.oor
             lastCorr := s.dram.corrected.foldl (fun m e => tabSet 0 m e.1 (e.2 - tabGet 0 t.corrAt e.1)) []
             corrAt := s.dram.corrected }

/-- A sample's readings, warnings and holds, before the snapshot. -/
def sampleHeld (s : State) (x : Sample) : State :=
  if s.pw.rails then (holdConds (sampled s x)).foldl sampleCond (refreshRate (warnHot (sampled s x)) (sampled s x).toll.sample)
  else sampled s x

/-- The Tollhouse with its next snapshot. -/
def withSnapshot (s : State) : State :=
  updToll s fun t => { t with snapSeq := s.toll.snapSeq + 2, snap := snapshot s (s.toll.snapSeq + 2) }

theorem sensorSample_eq (h : fwRuns s = true) (x : Sample) : sensorSample s x = withSnapshot (sampleHeld s x) := by
  unfold sensorSample
  rw [h]
  rfl

end

end Sys2Proof.Machine

-- ------------------------------------------------------------------------------------------------ what starting the core leaves alone

namespace Sys2Proof.Machine

/-- What the boots and the training of the memory write is left out: logs, keys, spans, ports, versions, the Tollhouse's firmware. -/
def bootLeft (s : State) : State :=
  { silent s with
    free := 0
    ks := { s.ks with prefixKey := 0, prefixEpoch := 0, accLost := false }
    sp := .reset
    via := .reset
    host := { noTraffic s.host with status := 0, runalVer := 0, resultVer := 0, ucodeVer := 0, tollVer := 0 }
    dram := { s.dram with spared := [], failedCh := [], weak := [], laneHits := [], trainTemp := [] }
    toll := { Toll.reset with slots := s.toll.slots, rollback := s.toll.rollback, keyHash := s.toll.keyHash, actW := s.toll.actW }
    pw := { s.pw with stage := .off, faultN := false, uart := [] } }

/-- What a start leaves alone, PLAN_STATE and NOT_READY with it. -/
def bootView (s : State) : Nat × Bool × State := (planState s, notReady s.host, bootLeft s)

section
variable {s t : State}

theorem bootView_of_silent (h : silent t = silent s) : bootView t = bootView s := (congrArg bootView h :)

@[simp] theorem bootView_logEvent (s : State) (e : Event) : bootView (logEvent s e) = bootView s := bootView_of_silent (silent_logEvent ..)

@[simp] theorem bootView_raiseIrq (s : State) (n : Nat) : bootView (raiseIrq s n) = bootView s := bootView_of_silent (silent_raiseIrq ..)

@[simp] theorem bootView_updSp (s : State) (f : Spans → Spans) : bootView (updSp s f) = bootView s := rfl

/-- A bit of HC_STATUS that is neither PLAN_STATE nor NOT_READY. -/
theorem bootView_statusBit (s : State) {k : Nat} (b : Bool) (hk : k = 1 ∨ 4 < k) : bootView (updHost s fun h => statusBit h k b) = bootView s :=
  Prod.ext (planStateOf_statusBit s.host b (by omega))
    (Prod.ext (notReady_statusBit s.host b (by omega)) rfl)

theorem bootView_recordRepair (s : State) (r : Repair) (source unit detail : Nat) :
    bootView (recordRepair s r source unit detail) = bootView s := (bootView_logEvent ..).trans rfl

-- -------------------------------------------------------------------------------- march repair

theorem bootView_repairSram (s : State) (a : Sram) : bootView (repairSram s a) = bootView s :=
  (foldl_keeps (g := bootView) (fun _ _ => bootView_recordRepair ..) _ _).trans
    (foldl_keeps (g := bootView) (fun _ _ => bootView_recordRepair ..) _ _)

theorem bootView_substitute (s : State) (x : Nat) : bootView (substitute s x) = bootView s := by
  unfold substitute
  dsimp only
  split
  · exact (bootView_recordRepair ..).trans rfl
  · refine (bootView_recordRepair ..).trans ?_
    exact ite_keeps (g := bootView) rfl rfl

theorem bootView_retirePhys (s : State) (p : Nat) : bootView (retirePhys s p) = bootView s := by
  unfold retirePhys
  split
  · exact bootView_substitute ..
  · exact ite_keeps rfl rfl

theorem bootView_disableSet (s : State) (q set : Nat) : bootView (disableSet s q set) = bootView s :=
  ite_keeps (g := bootView) rfl ((bootView_recordRepair ..).trans rfl)

theorem bootView_marchRepair (s : State) (sel : Sram → Bool) : bootView (marchRepair s sel) = bootView s := by
  have hrepair : bootView (repairSrams s sel) = bootView s := foldl_keeps (g := bootView) bootView_repairSram _ _
  refine Eq.trans ?_ hrepair
  refine (foldl_keeps (g := bootView) (fun u c => ?_) _ _).trans (foldl_keeps (g := bootView) bootView_retirePhys _ _)
  split
  · exact bootView_disableSet ..
  · rfl

theorem bootView_applySpareMap (s : State) : bootView (applySpareMap s) = bootView s :=
  (foldl_keeps (g := bootView) (fun _ _ => ite_keeps (g := bootView) (bootView_substitute ..) rfl) _ _).trans (bootView_updSp ..)

theorem bootView_marchSpans (s : State) (sel : Nat → Bool) : bootView (marchSpans s sel) = bootView s := rfl

theorem bootView_noteCells (s : State) (l : List Cell) : bootView (noteCells s l) = bootView s := ite_keeps (g := bootView) rfl rfl

-- -------------------------------------------------------------------------------- links, channels, components

theorem bootView_announce (s old : State) : bootView (announce s old) = bootView s := by
  refine (bootView_of_silent (silent_resendIdent ..)).trans ?_
  unfold learnCoord
  split
  · rfl
  · split
    · rfl
    · rfl

/-- What the training of a stack writes. -/
theorem bootView_training (s : State) (spared : Dram → Tab (List Nat)) (weak : Dram → List (Nat × Nat)) (hits : Dram → List (Nat × Nat))
    (temp : Dram → Tab Int) :
    bootView (updDram s fun d => { d with spared := spared d, weak := weak d, laneHits := hits d, trainTemp := temp d }) = bootView s := rfl

theorem bootView_failedCh (s : State) (c : Nat) :
    bootView (updDram s fun d => { d with failedCh := insertNat c d.failedCh }) = bootView s := rfl

theorem bootView_trainStack (s : State) (k : Nat) : bootView (trainStack s k) = bootView s :=
  (foldl_keeps (g := bootView) (fun u c => (bootView_logEvent ..).trans (bootView_failedCh u c)) _ _).trans
    (bootView_training s _ _ _ _)

theorem bootView_trainAll (s : State) (weak : List (Nat × Nat)) : bootView (trainAll s weak) = bootView s :=
  (foldl_keeps (g := bootView) bootView_trainStack _ _).trans rfl

theorem bootView_bootComponent (s : State) (comp : Nat) : bootView (bootComponent s comp).1 = bootView s := by
  unfold bootComponent
  split
  · exact bootView_logEvent ..
  · split
    · rfl
    · exact (bootView_logEvent ..).trans rfl

theorem bootView_showStaged (s : State) : bootView (showStaged s) = bootView s := bootView_statusBit _ _ (by decide)

theorem bootView_showAlerts (s : State) : bootView (showAlerts s) = bootView s :=
  (bootView_statusBit (updHost s fun h => statusBit h bitBeat (!s.beat.locked)) (protecting s) (by decide)).trans
    (bootView_statusBit s (!s.beat.locked) (by decide))

theorem bootView_startFails (s : State) (stage : Stage) : bootView (startFails s stage) = bootView s := (bootView_logEvent ..).trans rfl

theorem bootView_newPrefixKey (s : State) : bootView (newPrefixKey s) = bootView s := by
  unfold newPrefixKey drawRandom
  generalize (List.range 20).map _ = bytes
  rfl

-- -------------------------------------------------------------------------------- what boots

/-- Some slot of a component holds an image that the boot ROM accepts (R410). -/
def boots (t : Toll) (comp : Nat) : Bool := imageOk t comp (imageSlot t comp 0) || imageOk t comp (imageSlot t comp 1)

theorem imageOk_of_keys {t u : Toll} (hkey : t.keyHash = u.keyHash) (hroll : t.rollback = u.rollback) (comp : Nat) (b : List Byte) :
    imageOk t comp b = imageOk u comp b := by
  have hcount : rollbackOf t = rollbackOf u := by unfold rollbackOf; rw [hroll]
  unfold imageOk imageChecks
  rw [hkey, hcount]

theorem boots_congr {t u : Toll} (hkey : t.keyHash = u.keyHash) (hroll : t.rollback = u.rollback) (hslots : t.slots = u.slots) (comp : Nat) :
    boots t comp = boots u comp := by
  simp only [boots, imageSlot, hslots, imageOk_of_keys hkey hroll]

theorem boots_of_view (h : bootView t = bootView s) (comp : Nat) : boots t.toll comp = boots s.toll comp :=
  boots_congr (congrArg (fun v => v.2.2.toll.keyHash) h :) (congrArg (fun v => v.2.2.toll.rollback) h :)
    (congrArg (fun v => v.2.2.toll.slots) h :) comp

/-- A component boots from one of its two slots, whichever is active. -/
theorem bootSlot_isSome (t : Toll) (comp : Nat) : (bootSlot t comp).isSome = boots t comp := by
  have hactive : activeWhich t comp = 0 ∨ activeWhich t comp = 1 := by unfold activeWhich; split <;> simp
  unfold bootSlot boots
  obtain h | h := hactive <;> rw [h] <;> dsimp only
  · cases imageOk t comp (imageSlot t comp 0) <;> cases imageOk t comp (imageSlot t comp 1) <;> simp [*]
  · cases imageOk t comp (imageSlot t comp 0) <;> cases imageOk t comp (imageSlot t comp 1) <;> simp [*]

theorem bootSlot_eq_none_iff (t : Toll) (comp : Nat) : bootSlot t comp = none ↔ boots t comp = false := by
  rw [← bootSlot_isSome, Option.isSome_eq_false_iff, Option.isNone_iff_eq_none]

theorem bootComponent_boots (s : State) (comp : Nat) : (bootComponent s comp).2 = boots s.toll comp := by
  rw [← bootSlot_isSome]
  unfold bootComponent
  split <;> rename_i h
  · rw [h]; rfl
  · rw [h]; split <;> rfl

theorem startFails_pw (s : State) (stage : Stage) : (startFails s stage).pw.stage = stage ∧ (startFails s stage).pw.faultN = true :=
  have h := silent_logEvent (updPw s fun p => { p with stage := stage, faultN := true }) (mkEvent stInternal srcToll 3 0 evState 0 0)
  ⟨(congrArg (fun u : State => u.pw.stage) h :), (congrArg (fun u : State => u.pw.faultN) h :)⟩

-- -------------------------------------------------------------------------------- the core boots

/-- Steps 7 and 8 of Table 21-1, once both images and the Keystone's SRAM are good. -/
def bootedCore (s : State) (env : StartEnv) : State :=
  let t := s.toll
  let u := updHost s fun h =>
    { statusBit h bitMbox true with
      runalVer := 0x00030002
      resultVer := BitVec.ofNat 32 (max (imgResult (activeImage t 1)) (imgResult (activeImage t 2)))
      ucodeVer := BitVec.ofNat 32 (imgVersion (activeImage t 2)) }
  let s := announce u s
  let s := raiseIrq (newPrefixKey s) 4
  let inService := fun a => match physSram a with | some q => !s.sp.retired.contains q | none => true
  let s := marchRepair (noteCells (marchSpans (applySpareMap s) fun _ => true) env.cells) inService
  updPw s fun p => { p with stage := .booted }

theorem bootView_versions (s : State) (a b c : W32) :
    bootView (updHost s fun h => { statusBit h bitMbox true with runalVer := a, resultVer := b, ucodeVer := c }) = bootView s :=
  Eq.trans rfl (bootView_statusBit s true (.inl rfl) : bootView (updHost s fun h => statusBit h bitMbox true) = bootView s)

theorem bootView_updPw (s : State) (stage : Stage) : bootView (updPw s fun p => { p with stage := stage }) = bootView s := rfl

theorem bootView_bootedCore (s : State) (env : StartEnv) : bootView (bootedCore s env) = bootView s := by
  unfold bootedCore
  extract_lets t u v w sel x
  have hw : bootView w = bootView s := calc bootView w
      _ = bootView v := (bootView_raiseIrq ..).trans (bootView_newPrefixKey v)
      _ = bootView u := bootView_announce ..
      _ = bootView s := bootView_versions ..
  calc bootView (updPw x fun p => { p with stage := .booted })
      _ = bootView x := bootView_updPw ..
      _ = bootView (noteCells (marchSpans (applySpareMap w) fun _ => true) env.cells) := bootView_marchRepair ..
      _ = bootView (marchSpans (applySpareMap w) fun _ => true) := bootView_noteCells ..
      _ = bootView (applySpareMap w) := bootView_marchSpans ..
      _ = bootView w := bootView_applySpareMap w
      _ = bootView s := hw

/-- The images that the core runs are in their slots. -/
def coreBoots (t : Toll) : Bool := boots t 1 && boots t 2

theorem bootCore_eq (s : State) (env : StartEnv) : ∃ u, bootView u = bootView s ∧ bootCore s env
    = if coreBoots s.toll = false then startFails u .keystoneHeld
      else if env.keystoneSramOk = false then startFails u .sramFailed else bootedCore u env := by
  refine ⟨(bootComponent (bootComponent s 1).1 2).1, (bootView_bootComponent ..).trans (bootView_bootComponent ..), ?_⟩
  have hboots : ((bootComponent s 1).2 && (bootComponent (bootComponent s 1).1 2).2) = coreBoots s.toll := by
    rw [bootComponent_boots, bootComponent_boots, boots_of_view (bootView_bootComponent s 1) 2, coreBoots]
  rw [← hboots]
  unfold bootCore
  simp only [Bool.not_eq_true']
  rfl

theorem bootView_bootCore (s : State) (env : StartEnv) : bootView (bootCore s env) = bootView s := by
  obtain ⟨u, hu, heq⟩ := bootCore_eq s env
  rw [heq, ← hu]
  exact ite_keeps (bootView_startFails ..) (ite_keeps (bootView_startFails ..) (bootView_bootedCore ..))

/-- Where a start stands (Table 21-2). -/
theorem bootCore_stage (s : State) (env : StartEnv) : (bootCore s env).pw.stage
    = if coreBoots s.toll = false then .keystoneHeld else if env.keystoneSramOk then .booted else .sramFailed := by
  obtain ⟨u, -, heq⟩ := bootCore_eq s env
  rw [heq]
  by_cases hboots : coreBoots s.toll = false
  · rw [if_pos hboots, if_pos hboots, (startFails_pw ..).1]
  · rw [if_neg hboots, if_neg hboots]
    cases env.keystoneSramOk
    · exact (startFails_pw ..).1
    · rfl

theorem bootCore_faultN {s : State} (env : StartEnv) (h : coreBoots s.toll = false) : (bootCore s env).pw.faultN = true := by
  obtain ⟨u, -, heq⟩ := bootCore_eq s env
  rw [heq, if_pos h]
  exact (startFails_pw ..).2

end

end Sys2Proof.Machine

-- ------------------------------------------------------------------------------------------------ what resets clear and keep

namespace Sys2Proof.Machine

section
variable {s t : State}

/-- A reset during FW_STAGE concerns the update path alone. -/
theorem unstage_eq (s : State) : ∃ f st u g, unstage s
    = { s with free := f, host := { s.host with status := st }, toll := { s.toll with update := u, staged := g } } := by
  unfold unstage
  split
  · exact ⟨_, _, _, _, rfl⟩
  · exact ⟨s.free, s.host.status, s.toll.update, s.toll.staged, rfl⟩

/-- The commands that engines of the Keystone hold go. -/
def heldNone (k : Keystone) : Keystone :=
  { k with loading := none, startTag := none, startStage := none, pauseReq := none, marchTag := none
           reshardW := none, reshardTok := none, reshardBad := none }

theorem dropHeld_eq (s : State) : ∃ f st u g, dropHeld s
    = { s with free := f, ks := heldNone s.ks, via := { s.via with linkTag := none, linkLeft := [], formW := none }
               host := { s.host with status := st }, toll := { s.toll with update := u, staged := g } } :=
  unstage_eq _

theorem dropCommands_eq (s : State) : ∃ f st u g a, dropCommands s
    = { s with free := f, ks := heldNone s.ks, via := { s.via with linkTag := none, linkLeft := [], formW := none }
               host := { s.host with status := st }, toll := { s.toll with update := u, staged := g, actW := a } }
    ∧ (s.toll.actW = none → a = none) := by
  obtain ⟨f, st, u, g, h⟩ := dropHeld_eq s
  exact ⟨f, st, u, g, s.toll.actW.map fun w => { w with cmd := none }, by rw [dropCommands, h]; rfl, fun h => by rw [h]; rfl⟩

/-- The host interface without regions, with no plan and not ready (R420). -/
def hostUnready (h : HostIf) : HostIf := { notYetReady h with regions := [] }

/-- What the core's reset leaves (Tables 21-3, 21-4). -/
theorem coreReset_eq (s : State) : ∃ f st u g v, coreReset s
    = { s with free := f, ks := clearedKs s.ks, sp := repairedSpans s.sp, grp := .reset, tre := .reset, via := v
               dram := { s.dram with adds := [], window := [], markers := [] }
               host := hostUnready { s.host with status := st }, toll := { s.toll with update := u, staged := g } } := by
  obtain ⟨f, st, u, g, h⟩ := dropHeld_eq s
  exact ⟨f, st, u, g, _, by rw [coreReset, h]; rfl⟩

theorem statusField_ctrl (h : HostIf) (hi lo v : Nat) : (statusField h hi lo v).ctrl = h.ctrl := rfl

theorem statusField_inUse (h : HostIf) (hi lo v : Nat) : (statusField h hi lo v).inUse = h.inUse := rfl

theorem statusBit_ctrl (h : HostIf) (k : Nat) (b : Bool) : (statusBit h k b).ctrl = h.ctrl := rfl

theorem statusBit_inUse (h : HostIf) (k : Nat) (b : Bool) : (statusBit h k b).inUse = h.inUse := rfl

theorem hostUnready_ctrl (h : HostIf) : (hostUnready h).ctrl = h.ctrl := by
  simp only [hostUnready, notYetReady, statusField_ctrl, statusBit_ctrl]

theorem hostUnready_inUse (h : HostIf) : (hostUnready h).inUse = h.inUse := by
  simp only [hostUnready, notYetReady, statusField_inUse, statusBit_inUse]

theorem planStateOf_hostUnready (h : HostIf) : planStateOf (hostUnready h) = plNone := (statusField_bits ..).trans (Nat.mod_eq_of_lt (by decide))

theorem notReady_hostUnready (h : HostIf) : notReady (hostUnready h) = true :=
  (notReady_statusField_plan ..).trans ((notReady_statusBit _ _ (by decide)).trans (notReady_statusBit_ready ..))

theorem planState_coreReset (s : State) : planState (coreReset s) = plNone := by
  obtain ⟨f, st, u, g, v, h⟩ := coreReset_eq s
  rw [h]
  exact planStateOf_hostUnready _

-- -------------------------------------------------------------------------------- supplies off

theorem coreReset_pw (s : State) : (coreReset s).pw = s.pw := by
  obtain ⟨f, st, u, g, v, h⟩ := coreReset_eq s
  rw [h]

theorem coreReset_beat (s : State) : (coreReset s).beat = s.beat := by
  obtain ⟨f, st, u, g, v, h⟩ := coreReset_eq s
  rw [h]

theorem coreReset_dram (s : State) : (coreReset s).dram = { s.dram with adds := [], window := [], markers := [] } := by
  obtain ⟨f, st, u, g, v, h⟩ := coreReset_eq s
  rw [h]

theorem coreReset_toll (s : State) : { (coreReset s).toll with update := s.toll.update, staged := s.toll.staged } = s.toll := by
  obtain ⟨f, st, u, g, v, h⟩ := coreReset_eq s
  rw [h]

theorem coreReset_notReady (s : State) : notReady (coreReset s).host = true := by
  obtain ⟨f, st, u, g, v, h⟩ := coreReset_eq s
  have hhost : (coreReset s).host = hostUnready { s.host with status := st } := by rw [h]
  rw [hhost, notReady_hostUnready]

theorem coreReset_plan (s : State) : (coreReset s).ks.plan = none := by
  obtain ⟨f, st, u, g, v, h⟩ := coreReset_eq s
  rw [h]
  rfl

/-- Registers of the host interface that the core's reset leaves as they are. -/
theorem coreReset_host (s : State) : (coreReset s).host.ctrl = s.host.ctrl ∧ (coreReset s).host.inUse = s.host.inUse := by
  obtain ⟨f, st, u, g, v, h⟩ := coreReset_eq s
  have hhost : (coreReset s).host = hostUnready { s.host with status := st } := by rw [h]
  rw [hhost, hostUnready_ctrl, hostUnready_inUse]
  exact ⟨rfl, rfl⟩

theorem dropCommands_pw (s : State) : (dropCommands s).pw = s.pw := by
  obtain ⟨f, st, u, g, a, h, -⟩ := dropCommands_eq s
  rw [h]

theorem dropCommands_beat (s : State) : (dropCommands s).beat = s.beat := by
  obtain ⟨f, st, u, g, a, h, -⟩ := dropCommands_eq s
  rw [h]

theorem dropCommands_dram (s : State) : (dropCommands s).dram = s.dram := by
  obtain ⟨f, st, u, g, a, h, -⟩ := dropCommands_eq s
  rw [h]

theorem dropCommands_sp (s : State) : (dropCommands s).sp = s.sp := by
  obtain ⟨f, st, u, g, a, h, -⟩ := dropCommands_eq s
  rw [h]

theorem dropCommands_toll (s : State) :
    { (dropCommands s).toll with update := s.toll.update, staged := s.toll.staged, actW := s.toll.actW } = s.toll := by
  obtain ⟨f, st, u, g, a, h, -⟩ := dropCommands_eq s
  rw [h]

theorem dropCommands_actW (h : s.toll.actW = none) : (dropCommands s).toll.actW = none := by
  obtain ⟨f, st, u, g, a, heq, hnone⟩ := dropCommands_eq s
  rw [heq]
  exact hnone h

theorem dropCommands_plan (s : State) : (dropCommands s).ks.plan = s.ks.plan := by
  obtain ⟨f, st, u, g, a, h, -⟩ := dropCommands_eq s
  rw [h]
  rfl

-- -------------------------------------------------------------------------------- host registers

theorem planStateOf_clearHostRegs (h : HostIf) : planStateOf (clearHostRegs h) = planStateOf h := planStateOf_statusField_fault ..

theorem notReady_clearHostRegs (h : HostIf) : notReady (clearHostRegs h) = notReady h := notReady_statusField_fault ..

theorem planState_showAlerts (s : State) : planState (showAlerts s) = planState s := (congrArg Prod.fst (bootView_showAlerts s) :)

theorem notReady_showAlerts (s : State) : notReady (showAlerts s).host = notReady s.host := (congrArg (fun v => v.2.1) (bootView_showAlerts s) :)

theorem planState_showStaged (s : State) : planState (showStaged s) = planState s := (congrArg Prod.fst (bootView_showStaged s) :)

theorem notReady_showStaged (s : State) : notReady (showStaged s).host = notReady s.host := (congrArg (fun v => v.2.1) (bootView_showStaged s) :)

-- -------------------------------------------------------------------------------- supplies off

theorem powerOff_ks (s : State) : (powerOff s).ks = .reset := rfl

theorem powerOff_mem (s : State) : (powerOff s).dram.mem = [] := rfl

theorem powerOff_pw (s : State) : (powerOff s).pw = { s.pw with
    rails := false, restart := false, warmPending := false, warmEnv := none
    stage := if s.pw.stage = .off ∨ s.pw.stage = .romOnly then s.pw.stage else .firmware } := by
  rw [← dropCommands_pw s, ← coreReset_pw (dropCommands s)]
  rfl

theorem planState_powerOff (s : State) : planState (powerOff s) = plNone :=
  (planStateOf_clearHostRegs (clearConfig (coreReset (dropCommands s)).host)).trans (planState_coreReset (dropCommands s))

theorem notReady_powerOff (s : State) : notReady (powerOff s).host = true :=
  (notReady_clearHostRegs (clearConfig (coreReset (dropCommands s)).host)).trans (coreReset_notReady (dropCommands s))

theorem powerOff_beat (s : State) : (powerOff s).beat.number = s.beat.number ∧ (powerOff s).beat.adopted = s.beat.adopted := by
  rw [← dropCommands_beat s, ← coreReset_beat (dropCommands s)]
  exact ⟨rfl, rfl⟩

theorem powerOff_flashLog (s : State) : (powerOff s).toll.flashLog = s.toll.flashLog :=
  (congrArg Toll.flashLog (coreReset_toll (dropCommands s)) :).trans (congrArg Toll.flashLog (dropCommands_toll s) :)

end

end Sys2Proof.Machine

-- ------------------------------------------------------------------------------------------------ sensors, floors and trips

namespace Sys2Proof.Machine

section
variable {s : State}

theorem gauges_sampleHeld (s : State) (x : Sample) : gauges (sampleHeld s x) = gauges (sampled s x) :=
  ite_keeps (g := gauges)
    ((foldl_keeps (g := gauges) gauges_sampleCond _ _).trans
      ((congrArg Prod.fst (refreshRate_view ..) :).trans (congrArg Prod.fst (warnHot_view ..) :))) rfl

/-- R398: a reading above the threshold is above it once held to its range. -/
theorem clampI_hot {v : Int} (h : 800 < v) : 800 < clampI (-320) 1200 v := by
  simp only [clampI]
  omega

/-- Table 20-3: a bay that a sample finds too hot is held 5 mV below its voltage. -/
theorem sampleHeld_hot_bay (hrails : s.pw.rails = true) (hholds : s.toll.holds = []) {x : Sample} {b : Nat} {v : Int} (hb : b < 32)
    (hv : x.bayTemp[b]? = some v) (hhot : 800 < v) :
    Hold.mk 1 b (baysBits [b]) (max 550 (vSet s b - 5)) 0 false ∈ (sampleHeld s x).toll.holds := by
  have hbasis : holdBasis (refreshRate (warnHot (sampled s x)) (sampled s x).toll.sample) = holdBasis s :=
    (congrArg Prod.snd (refreshRate_view ..) :).trans (congrArg Prod.snd (warnHot_view (sampled s x)) :)
  have hreading : 800 < (sampled s x).toll.sample.bayTemp.getD b 0 := by
    have hsample : (sampled s x).toll.sample = clampSample (poweredPace s x) := if_pos hrails
    have hmap : (clampSample (poweredPace s x)).bayTemp[b]? = some (clampI (-320) 1200 v) :=
      (List.getElem?_map).trans (congrArg (Option.map _) hv)
    rw [hsample, List.getD_eq_getElem?_getD, hmap]
    exact clampI_hot hhot
  rw [sampleHeld, if_pos hrails]
  generalize refreshRate (warnHot (sampled s x)) (sampled s x).toll.sample = u at hbasis ⊢
  have hvset : vSet u b = vSet s b :=
    vSet_congr (congrArg Prod.fst hbasis :) (congrArg (fun p => p.2.1) hbasis :) (congrArg (fun p => tabGet 700 p.2.2 b) hbasis :)
  rw [← hvset]
  exact holdConds_hot_bay ((congrArg Prod.fst hbasis :).trans hholds) hb hreading

-- -------------------------------------------------------------------------------- floors

/-- The state with a floor more. -/
def withFloor (s : State) (f : Floor) : State := updToll s fun t => { t with floors := t.floors ++ [f] }

/-- The state without the floors of a comparator. -/
def withoutFloor (s : State) (f : Floor) : State := updToll s fun t => { t with floors := t.floors.filter fun g => !sameFloor f g }

theorem addFloor_announced {f : Floor} (hnew : s.toll.floors.any (sameFloor f) = false) :
    announced (addFloor s f) = announced (withFloor s f)
    ∧ (addFloor s f).host.status.toNat.testBit bitThermal = true := by
  rw [addFloor, if_neg (by rw [hnew]; decide)]
  refine ⟨announced_protectionEvent .., ?_⟩
  rw [protectionEvent_thermal]
  simp [protecting, updToll]

theorem dropFloor_announced (s : State) (f : Floor) : announced (dropFloor s f) = announced (withoutFloor s f) :=
  announced_protectionEvent ..

theorem sameFloor_self (f : Floor) : sameFloor f f = true := by simp [sameFloor]

theorem any_sameFloor_filter (l : List Floor) (f : Floor) : (l.filter fun g => !sameFloor f g).any (sameFloor f) = false := by
  rw [List.any_eq_false]
  exact fun g hg => by simpa using (List.mem_filter.1 hg).2

/-- The floor of PROCHOT_N is there once it has been added, or was there before. -/
theorem addFloor_there (s : State) (f : Floor) : (addFloor s f).toll.floors.any (sameFloor f) = true := by
  cases hnew : s.toll.floors.any (sameFloor f) with
  | true => rw [addFloor, if_pos hnew, hnew]
  | false =>
    rw [announced_floors (addFloor_announced hnew).1]
    simp [withFloor, updToll, sameFloor_self]

theorem addFloor_frame (s : State) (f : Floor) : (addFloor s f).ks = s.ks ∧ (addFloor s f).dram = s.dram
    ∧ (addFloor s f).pw.prochot = s.pw.prochot := by
  unfold addFloor
  split
  · exact ⟨rfl, rfl, rfl⟩
  · have h := announced_protectionEvent (withFloor s f) f.code f.unit 0 true 2 stThermal
    exact ⟨(announced_ks h).trans rfl, (announced_dram h).trans rfl, (congrArg Power.prochot (announced_pw h) :)⟩

-- -------------------------------------------------------------------------------- the release of the current floor

/-- The hold on every bay that follows the current floor. -/
def currentHolds : List Hold := allBays.map fun b => Hold.mk 6 101 (baysBits [b]) 550 0 false

/-- The state with the hold that follows the current floor. -/
def currentHeld (s : State) : State :=
  updToll s fun t => { t with holds := t.holds.filter (fun h => !(h.code == 6 && h.unit == 101)) ++ currentHolds }

theorem vSet_currentHeld (s : State) {b : Nat} (hb : b < 32) : vSet (currentHeld s) b ≤ 550 :=
  vSet_le_of_hold (h := Hold.mk 6 101 (baysBits [b]) 550 0 false)
    (List.mem_append_right _ (List.mem_map.2 ⟨b, List.mem_range.2 hb, rfl⟩)) ((baysBits_one hb).trans (decide_eq_true rfl))

theorem announced_updHolds {t : State} (h : announced t = announced s) (f : List Hold → List Hold) :
    announced (updToll t fun u => { u with holds := f u.holds }) = announced (updToll s fun u => { u with holds := f u.holds }) :=
  (congrArg (fun u => announced (updToll u fun x => { x with holds := f x.holds })) h :)

theorem hardwareFloorRelease_announced {c : Comparator} (h : s.toll.floors.any (sameFloor (floorOf c)) = true) :
    announced (hardwareFloorRelease s c)
      = announced (if c = .current then currentHeld (withoutFloor s (floorOf c)) else withoutFloor s (floorOf c)) := by
  have hdrop := dropFloor_announced s (floorOf c)
  rw [hardwareFloorRelease, if_neg (by rw [h]; decide)]
  by_cases hc : c = .current
  · have hheld : announced (currentHeld (dropFloor s (floorOf c))) = announced (currentHeld (withoutFloor s (floorOf c))) :=
      announced_updHolds hdrop fun l => l.filter (fun h => !(h.code == 6 && h.unit == 101)) ++ currentHolds
    rw [if_pos hc, ← hheld, if_neg (not_not_intro hc)]
    exact announced_protectionEvent (currentHeld (dropFloor s (floorOf c))) 6 101 0 true 1 stThermal
  · rw [if_neg hc, ← hdrop, if_pos hc]

-- -------------------------------------------------------------------------------- a trip

theorem pw_endFloors (s : State) : { (endFloors s).pw with uart := [] } = { s.pw with uart := [] } :=
  foldl_keeps (g := fun s : State => { s.pw with uart := [] }) (fun u f => announced_pw (dropFloor_announced u f)) _ _

/-- A trip switches the supplies off from a state with its latch set, and puts the log in flash. -/
theorem trip_eq (hrails : s.pw.rails = true) (x : TripSensor) (v : Int) :
    ∃ u, trip s x v = showStaged (updToll (showAlerts (powerOff u)) persist) ∧ u.pw.tripped = true ∧ u.pw.thermtrip = true := by
  have hpw := (pw_endFloors _).trans (announced_pw (announced_protectionEvent
    (updPw s fun p => { p with tripped := true, thermtrip := true }) 7 (tripUnit x) (unsignedOf 32 v) true 3 stThermal))
  exact ⟨_, if_neg (by rw [hrails]; decide), (congrArg Power.tripped hpw :), (congrArg Power.thermtrip hpw :)⟩

end

/-- Settles O53: the holds of a sample bay by bay, the settled voltages of a released hold, and the ceilings that floors set. -/
theorem sensorsHoldVoltages : Obligations.SensorsHoldVoltages := by
  unfold Obligations.SensorsHoldVoltages
  refine ⟨fun s x hfw => ?_, fun s c h b hb hmem hof hon hrel hcalm hcon hcoff hpol hreg hwf =>
      paceVolt_sampleCond_of_released hb hmem hof hon hrel hcalm hcon hcoff hpol hreg hwf,
    fun s c _ _ _ => ⟨fun hrails hnew => ?_, fun hthere => ?_⟩, fun s hrails => ?_, fun s => ?_, fun s x v hrails => ?_, fun s hth => ?_⟩
  · have hg := gauges_sampleHeld s x
    have hsample : (sampleHeld s x).toll.sample = sampleOf s x := (congrArg (fun g => g.2.2.sample) hg :)
    refine ⟨_, congrArg Host.Outcome.next (sensorSample_eq hfw x), (congrArg (fun g => g.2.2.stale) hg :),
      (congrArg (fun g => g.2.2.sampleBeat) hg :), (congrArg (fun g => g.2.2.snapSeq + 2) hg :), (congrArg (fun g => g.1) hg :),
      (congrArg (fun g => g.2.1) hg :), ?_, fun hrails => ?_, fun hrails => ?_, fun hrails hholds b v hb hv hhot => ?_⟩
    · refine (congrArg Sample.p12Mv hsample).trans ?_
      unfold sampleOf
      split <;> rfl
    · exact hsample.trans (if_pos hrails)
    · have hkeep : sampleOf s x = _ := if_neg (by rw [hrails]; decide)
      exact ⟨(congrArg Sample.bayTemp (hsample.trans hkeep) :), (congrArg Sample.dramTemp (hsample.trans hkeep) :)⟩
    · exact ⟨_, sampleHeld_hot_bay hrails hholds hb hv hhot, rfl, rfl, (baysBits_one hb).trans (decide_eq_true rfl), rfl⟩
  · obtain ⟨hann, hthermal⟩ := addFloor_announced hnew
    have hfloors : (addFloor s (floorOf c)).toll.floors = s.toll.floors ++ [floorOf c] := announced_floors hann
    refine ⟨_, congrArg Host.Outcome.next (if_neg (by rw [hrails]; decide)), hfloors, fun b hon => ?_, hthermal,
      (announced_ks hann :), (announced_dram hann :)⟩
    refine vSet_le_of_floor ?_
    rw [hfloors, List.any_append, List.any_cons, hon, Bool.true_or, Bool.or_true]
  · have hann := hardwareFloorRelease_announced hthere
    refine ⟨_, rfl, ?_, ?_, ?_, fun hc => ?_, fun hc b hb => ?_⟩
    · rw [announced_floors hann]; split <;> rfl
    · rw [announced_ks hann]; split <;> rfl
    · rw [announced_dram hann]; split <;> rfl
    · rw [announced_holds hann, if_neg hc]; rfl
    · rw [if_pos hc] at hann
      refine Nat.le_trans (Nat.le_of_eq (vSet_congr (announced_holds hann) (announced_floors hann) ?_))
        (vSet_currentHeld (withoutFloor s (floorOf c)) hb)
      exact (congrArg (fun q : Spans => tabGet 700 q.volts b) (announced_sp hann) :)
  · obtain ⟨hks, hdram, hpro⟩ := addFloor_frame (updPw s fun p => { p with prochot := true }) prochotFloor
    exact ⟨_, congrArg Host.Outcome.next (if_neg (by rw [show (updPw s fun p => { p with prochot := true }).pw.rails = true from hrails]; decide)),
      hpro, addFloor_there .., hks, hdram⟩
  · by_cases hthere : s.toll.floors.any (sameFloor prochotFloor) = true
    · have hann := dropFloor_announced (updPw s fun p => { p with prochot := false }) prochotFloor
      refine ⟨_, congrArg Host.Outcome.next (if_pos hthere), (congrArg Power.prochot (announced_pw hann) :), ?_, (announced_holds hann :),
        (announced_ks hann :), (announced_dram hann :)⟩
      rw [announced_floors hann]
      exact any_sameFloor_filter ..
    · exact ⟨_, congrArg Host.Outcome.next (if_neg hthere), rfl, Bool.eq_false_iff.2 hthere, rfl, rfl, rfl⟩
  · obtain ⟨u, hu, htripped, hthermtrip⟩ := trip_eq hrails x v
    refine ⟨_, congrArg Host.Outcome.next hu, ?_, ?_, ?_, rfl, rfl, rfl, ?_⟩
    · exact (congrArg Power.rails (powerOff_pw u) :)
    · exact (congrArg Power.tripped (powerOff_pw u) :).trans htripped
    · exact (congrArg Power.thermtrip (powerOff_pw u) :).trans hthermtrip
    · exact (planState_showStaged _).trans ((planState_showAlerts (powerOff u)).trans (planState_powerOff u))
  · have h := announced_protectionEvent (updPw s fun p => { p with thermtrip := false, tripped := false, p12v := false }) 7 0 0 false 1 0
    exact ⟨_, congrArg Host.Outcome.next (if_neg (by rw [hth]; decide)), (congrArg Power.thermtrip (announced_pw h) :),
      (congrArg Power.tripped (announced_pw h) :), (congrArg Power.p12v (announced_pw h) :), (announced_ks h :), (announced_dram h :)⟩

end Sys2Proof.Machine

-- ------------------------------------------------------------------------------------------------ boots, restarts and what settles afterwards

namespace Sys2Proof.Machine

section
variable {s t : State}

-- -------------------------------------------------------------------------------- what two states with one view agree on

section
variable (h : bootView t = bootView s)
include h
theorem view_planState : planState t = planState s := (congrArg Prod.fst h :)
theorem view_notReady : notReady t.host = notReady s.host := (congrArg (fun v => v.2.1) h :)
theorem view_plan : t.ks.plan = s.ks.plan := (congrArg (fun v => v.2.2.ks.plan) h :)
theorem view_beat : t.beat = s.beat := (congrArg (fun v => v.2.2.beat) h :)
theorem view_perst : t.pw.perst = s.pw.perst := (congrArg (fun v => v.2.2.pw.perst) h :)
theorem view_rails : t.pw.rails = s.pw.rails := (congrArg (fun v => v.2.2.pw.rails) h :)
theorem view_p12v : t.pw.p12v = s.pw.p12v := (congrArg (fun v => v.2.2.pw.p12v) h :)
theorem view_ctrl : t.host.ctrl = s.host.ctrl := (congrArg (fun v => v.2.2.host.ctrl) h :)
theorem view_inUse : t.host.inUse = s.host.inUse := (congrArg (fun v => v.2.2.host.inUse) h :)
theorem view_mem : t.dram.mem = s.dram.mem := (congrArg (fun v => v.2.2.dram.mem) h :)
theorem view_selfRef : t.dram.selfRef = s.dram.selfRef := (congrArg (fun v => v.2.2.dram.selfRef) h :)
theorem view_scrubOn : t.dram.scrubOn = s.dram.scrubOn := (congrArg (fun v => v.2.2.dram.scrubOn) h :)
theorem view_actW : t.toll.actW = s.toll.actW := (congrArg (fun v => v.2.2.toll.actW) h :)
theorem view_clean (hs : DramClean s) : DramClean t := by
  obtain ⟨hflaws, hscrub, hfail⟩ := hs
  exact ⟨(congrArg (fun v => v.2.2.dram.flaws) h :).trans hflaws, (congrArg (fun v => v.2.2.dram.scrubBad) h :).trans hscrub,
    (congrArg (fun v => v.2.2.dram.failing) h :).trans hfail⟩
end

-- -------------------------------------------------------------------------------- the Tollhouse boots

/-- The Tollhouse as its boot begins: the log's number goes on, requests and an update are forgotten (Table 21-1, step B). -/
def romStarted (s : State) : State :=
  updPw (updToll s fun t =>
    { t with seqno := nextSeqno t, sramLog := [], persistLost := t.persistLost || !t.unsaved.isEmpty, unsaved := []
             windows := [], update := .none, staging := [], receiver := none, negotiated := false, stale := true })
    fun p => { p with stage := .romOnly, faultN := false }

theorem bootView_romStarted (s : State) : bootView (romStarted s) = bootView s := rfl

/-- The Tollhouse firmware runs (step C). -/
def tollStarted (s : State) : State :=
  let s := updToll s deriveKeys
  let s := updHost s fun h => { h with tollVer := BitVec.ofNat 32 (imgVersion (activeImage s.toll 0)) }
  showStaged (updPw s fun p => { p with stage := .firmware })

theorem bootView_tollVer (s : State) (v : W32) : bootView (updHost s fun h => { h with tollVer := v }) = bootView s := rfl

theorem deriveKeys_eq (t : Toll) : ∃ cdi, deriveKeys t = { t with udsLocked := true, cdi := cdi } := ⟨_, rfl⟩

theorem bootView_deriveKeys (s : State) : bootView (updToll s deriveKeys) = bootView s := by
  obtain ⟨cdi, h⟩ := deriveKeys_eq s.toll
  unfold updToll
  rw [h]
  rfl

theorem bootView_tollStarted (s : State) : bootView (tollStarted s) = bootView s :=
  (bootView_showStaged ..).trans ((bootView_updPw ..).trans ((bootView_tollVer ..).trans (bootView_deriveKeys s)))

theorem bootToll_eq (s : State) : ∃ u, bootView u = bootView s ∧ { u.pw with uart := [] } = { (romStarted s).pw with uart := [] }
    ∧ bootToll s = if boots s.toll 0 then (tollStarted u, true) else (updPw u fun p => { p with faultN := true }, false) := by
  have hpw : { (bootComponent (romStarted s) 0).1.pw with uart := [] } = { (romStarted s).pw with uart := [] } := by
    unfold bootComponent
    split
    · exact (congrArg State.pw (silent_logEvent ..) :)
    · split
      · rfl
      · exact (congrArg State.pw (silent_logEvent ..) :)
  refine ⟨(bootComponent (romStarted s) 0).1, (bootView_bootComponent ..).trans (bootView_romStarted s), hpw, ?_⟩
  have hboots : (bootComponent (romStarted s) 0).2 = boots s.toll 0 :=
    (bootComponent_boots ..).trans (boots_of_view (bootView_romStarted s) 0)
  rw [← hboots]
  rfl

theorem bootView_bootToll (s : State) : bootView (bootToll s).1 = bootView s := by
  obtain ⟨u, hu, -, heq⟩ := bootToll_eq s
  rw [heq, ← hu]
  split
  · exact bootView_tollStarted u
  · rfl

theorem bootToll_boots (s : State) : (bootToll s).2 = boots s.toll 0 := by
  obtain ⟨u, -, -, heq⟩ := bootToll_eq s
  rw [heq]
  split <;> simp [*]

theorem bootToll_of_boots (h : boots s.toll 0 = true) : (bootToll s).1.pw.stage = .firmware ∧ (bootToll s).1.toll.udsLocked = true := by
  obtain ⟨u, -, -, heq⟩ := bootToll_eq s
  rw [heq, if_pos h]
  exact ⟨rfl, rfl⟩

theorem bootToll_of_none (h : boots s.toll 0 = false) : (bootToll s).1.pw.stage = .romOnly ∧ (bootToll s).1.pw.faultN = true := by
  obtain ⟨u, -, hpw, heq⟩ := bootToll_eq s
  rw [heq, h]
  exact ⟨(congrArg Power.stage hpw :), rfl⟩

-- -------------------------------------------------------------------------------- rows that move

/-- What moving failing rows leaves alone besides what its lemmas name: supplies, self-refresh, images and the activation. -/
def settleView (s : State) : Power × Bool × Toll :=
  ({ s.pw with uart := [] }, s.dram.selfRef,
    { Toll.reset with slots := s.toll.slots, rollback := s.toll.rollback, keyHash := s.toll.keyHash, actW := s.toll.actW })

theorem settleView_of_silent (h : silent t = silent s) : settleView t = settleView s := (congrArg settleView h :)

theorem settleView_recordRepair (s : State) (r : Repair) (source unit detail : Nat) :
    settleView (recordRepair s r source unit detail) = settleView s := (settleView_of_silent (silent_logEvent ..)).trans rfl

theorem selfRef_countRead (l : List SectorErr) (d : Dram) :
    (l.foldl (fun d e => if e.fatal then countBad d e.addr else countCorrected d e) d).selfRef = d.selfRef := by
  induction l generalizing d with
  | nil => rfl
  | cons e l ih =>
    refine (ih _).trans ?_
    dsimp only
    split <;> rfl

theorem settleView_loseSectors (s : State) (sel : Nat → Bool) : settleView (loseSectors s sel) = settleView s := by
  have hself : (loseSectors s sel).dram.selfRef = s.dram.selfRef := selfRef_countRead ..
  simp only [settleView, hself, loseSectors_pw, loseSectors_toll]

theorem settleView_rows (s : State) (f : Dram → Dram) (hf : ∀ d, (f d).selfRef = d.selfRef) : settleView (updDram s f) = settleView s := by
  simp only [settleView, updDram_dram, hf, updDram_pw, updDram_toll]

theorem settleView_retireRegion (s : State) (ch region : Nat) : settleView (retireRegion s ch region) = settleView s := by
  unfold retireRegion
  split
  · rfl
  · exact (settleView_recordRepair ..).trans ((settleView_rows _ _ fun _ => rfl).trans (settleView_loseSectors ..))

theorem settleView_remapRow (s : State) (k : Nat) : settleView (remapRow s k) = settleView s := by
  unfold remapRow
  dsimp only
  split
  · exact settleView_retireRegion ..
  · exact (settleView_recordRepair ..).trans ((settleView_rows _ _ fun _ => rfl).trans (settleView_loseSectors ..))

theorem settleView_settleRows (s : State) : settleView (settleRows s) = settleView s :=
  foldl_keeps (g := settleView) (fun _ _ => ite_keeps (g := settleView) (settleView_remapRow ..) rfl) _ _

theorem settleView_settleIdle (s : State) : settleView (settleIdle s) = settleView s :=
  ite_keeps (g := settleView) rfl (Eq.trans
    (ite_keeps (g := settleView) rfl (foldl_keeps (g := settleView) (fun _ _ => settleView_of_silent (silent_logEvent ..)) _ _))
    (settleView_settleRows s))

theorem settleIdle_perst (s : State) : (settleIdle s).pw.perst = s.pw.perst := (congrArg (fun v => v.1.perst) (settleView_settleIdle s) :)
theorem settleIdle_pwLeft (s : State) : { (settleIdle s).pw with uart := [] } = { s.pw with uart := [] } :=
  (congrArg (fun v => v.1) (settleView_settleIdle s) :)
theorem settleIdle_selfRef (s : State) : (settleIdle s).dram.selfRef = s.dram.selfRef := (congrArg (fun v => v.2.1) (settleView_settleIdle s) :)
theorem settleIdle_actW (s : State) : (settleIdle s).toll.actW = s.toll.actW := (congrArg (fun v => v.2.2.actW) (settleView_settleIdle s) :)

end

end Sys2Proof.Machine

-- ------------------------------------------------------------------------------------------------ resets

namespace Sys2Proof.Machine

section
variable {s t : State}

-- -------------------------------------------------------------------------------- a plan forgotten

/-- Supplies, the beat and the host interface. -/
def outer (s : State) : Power × Beat × HostIf := (s.pw, s.beat, s.host)

theorem outer_updSp (s : State) (f : Spans → Spans) : outer (updSp s f) = outer s := rfl

theorem outer_updKs (s : State) (f : Keystone → Keystone) : outer (updKs s f) = outer s := rfl

theorem outer_updGrp (s : State) (f : Group → Group) : outer (updGrp s f) = outer s := rfl

theorem outer_dropSegment (s : State) (keep : List Nat) : outer (dropSegment s keep) = outer s := rfl

theorem outer_undefinedBytes (n : Nat) (s : State) (a : Nat) : outer (undefinedBytes s a n) = outer s := by
  induction n generalizing s a with
  | zero => rfl
  | succ n ih => exact (ih _ _).trans rfl

theorem outer_undefineKind0 (s : State) (p : Plan) : outer (undefineKind0 s p) = outer s :=
  foldl_keeps (g := outer) (fun _ _ => ite_keeps (g := outer) (outer_undefinedBytes ..) rfl) _ _

theorem outer_stopPlan (s : State) : outer (stopPlan s) = outer s := by
  unfold stopPlan
  split
  · rfl
  · exact (outer_undefineKind0 ..).trans ((outer_updGrp ..).trans ((outer_updKs ..).trans (outer_dropSegment ..)))

theorem outer_applySetting (s : State) (x : Setting) : outer (applySetting s x) = outer s := by
  cases x with
  | pace m v =>
    unfold applySetting
    dsimp only
    split
    · exact outer_updSp ..
    · exact outer_updKs ..
  | commit r f => rfl
  | replay a l => rfl

theorem outer_applyDue (s : State) : outer (applyDue s) = outer s :=
  foldl_keeps (g := outer) outer_applySetting s.ks.due (updKs s fun k => { k with due := [] })

theorem outer_regEffect (s : State) (old : Tab Nat) (i : Nat) : outer (regEffect s old i) = outer s :=
  ite_keeps (g := outer) rfl (ite_keeps (g := outer) rfl rfl)

theorem outer_armAll (s : State) (c : BlockCfg) : outer (armAll s c) = outer s :=
  (foldl_keeps (g := outer) (fun u i => outer_regEffect u s.ks.armed.regs i) _ _).trans (outer_updKs ..)

theorem outer_forgetPlan (s : State) : outer (forgetPlan s) = outer s := by
  have harm := (outer_armAll (dropSegment s []) .reset).trans (outer_dropSegment ..)
  unfold forgetPlan
  generalize armAll (dropSegment s []) .reset = u at harm ⊢
  exact (outer_updGrp ..).trans ((outer_updSp ..).trans ((outer_updKs ..).trans harm))

theorem forgetPlan_plan (s : State) : (forgetPlan s).ks.plan = none := rfl

-- -------------------------------------------------------------------------------- HC_STATUS shows what holds

theorem showAlerts_eq (s : State) : ∃ st, showAlerts s = updHost s fun h => { h with status := st } := ⟨_, rfl⟩

theorem clearHostRegs_eq (h : HostIf) : ∃ st, clearHostRegs h
    = { clearTagsInUse h with
        ctrl := 0, err := 0, cqBaseLo := 0, cqBaseHi := 0, coal := HostIf.reset.coal, msixMap := HostIf.reset.msixMap
        bar2Lo := 0, bar2Hi := 0, beatHi := 0, flipped := [], coalCount := [], status := st } := ⟨_, rfl⟩

end

end Sys2Proof.Machine

-- ------------------------------------------------------------------------------------------------ what each reset clears and keeps

namespace Sys2Proof.Machine

section
variable {s t : State}

-- -------------------------------------------------------------------------------- PERST_N

/-- What a warm reset does before the links hear of it (R423). -/
def warmCore (s : State) : State := announce (coreReset (dropCommands s)) s

theorem warmCore_view (s : State) : bootView (warmCore s) = bootView (coreReset (dropCommands s)) := bootView_announce ..

theorem warmCore_planState (s : State) : planState (warmCore s) = plNone := (view_planState (warmCore_view s)).trans (planState_coreReset _)

theorem warmCore_plan (s : State) : (warmCore s).ks.plan = none := (view_plan (warmCore_view s)).trans (coreReset_plan _)

theorem warmCore_beat (s : State) : (warmCore s).beat = s.beat :=
  (view_beat (warmCore_view s)).trans ((coreReset_beat _).trans (dropCommands_beat s))

theorem warmCore_perst (s : State) : (warmCore s).pw.perst = s.pw.perst :=
  (view_perst (warmCore_view s)).trans (by rw [coreReset_pw, dropCommands_pw])

theorem warmCore_mem (s : State) : (warmCore s).dram.mem = s.dram.mem :=
  (view_mem (warmCore_view s)).trans (by rw [coreReset_dram, dropCommands_dram])

/-- The warm reset's last part: self-refresh, host registers, the supplies' state. -/
def warmHold (s : State) : State :=
  showAlerts (updPw (updHost (updDram s fun d => { d with selfRef := true }) fun h => { clearHostRegs (clearConfig h) with linkUp := false })
    fun p => { p with stage := .warmHeld, restart := false, warmPending := false })

theorem warmReset_eq (s : State) : warmReset s = warmHold (warmCore s) := rfl

theorem planState_warmHold (s : State) : planState (warmHold s) = planState s :=
  (planState_showAlerts _).trans (planStateOf_clearHostRegs (clearConfig s.host))

/-- R423: PERST_N after readiness. -/
theorem perstNAssert_ready (hperst : s.pw.perst = false) (hready : s.pw.stage = .ready) :
    perstNAssert s = warmHold (warmCore (updPw s fun p => { p with perst := true })) := by
  rw [perstNAssert, if_neg (by rw [hperst]; decide)]
  exact if_pos hready

-- -------------------------------------------------------------------------------- host registers

theorem clearHostRegs_ctrl (h : HostIf) : (clearHostRegs h).ctrl = 0 := rfl
theorem clearHostRegs_err (h : HostIf) : (clearHostRegs h).err = 0 := rfl
theorem clearHostRegs_inUse (h : HostIf) : (clearHostRegs h).inUse = [] := rfl
theorem clearHostRegs_linkUp (h : HostIf) : (clearHostRegs h).linkUp = h.linkUp := rfl

/-- HC_STATUS alone changes when alerts are shown. -/
theorem showAlerts_host (s : State) : ∃ st, (showAlerts s).host = { s.host with status := st } := by
  obtain ⟨st, h⟩ := showAlerts_eq s
  exact ⟨st, congrArg State.host h⟩

theorem showAlerts_ctrl (s : State) : (showAlerts s).host.ctrl = s.host.ctrl := by
  obtain ⟨st, h⟩ := showAlerts_host s
  rw [h]

theorem showAlerts_err (s : State) : (showAlerts s).host.err = s.host.err := by
  obtain ⟨st, h⟩ := showAlerts_host s
  rw [h]

theorem showAlerts_inUse (s : State) : (showAlerts s).host.inUse = s.host.inUse := by
  obtain ⟨st, h⟩ := showAlerts_host s
  rw [h]

theorem showAlerts_regions (s : State) : (showAlerts s).host.regions = s.host.regions := by
  obtain ⟨st, h⟩ := showAlerts_host s
  rw [h]

theorem showAlerts_linkUp (s : State) : (showAlerts s).host.linkUp = s.host.linkUp := by
  obtain ⟨st, h⟩ := showAlerts_host s
  rw [h]

/-- R423: PERST_N before readiness, with the rails on. -/
theorem perstNAssert_early (hperst : s.pw.perst = false) (hready : s.pw.stage ≠ .ready) (hrails : s.pw.rails = true) :
    perstNAssert s = holdPcie (updPw s fun p => { p with perst := true, warmPending := p.restart }) := by
  rw [perstNAssert, if_neg (by rw [hperst]; decide)]
  exact (if_neg hready).trans (if_neg (by rw [show (updPw s fun p => { p with perst := true }).pw.rails = true from hrails]; decide))

theorem perstNAssert_off (hperst : s.pw.perst = false) (hready : s.pw.stage ≠ .ready) (hrails : s.pw.rails = false) :
    perstNAssert s = { s with pw := { s.pw with perst := true } } := by
  rw [perstNAssert, if_neg (by rw [hperst]; decide)]
  exact (if_neg hready).trans (if_pos (by rw [show (updPw s fun p => { p with perst := true }).pw.rails = false from hrails]; rfl))

/-- The PCIe controller and Trestle in reset, before HC_STATUS shows it. -/
def pcieHeld (s : State) : State :=
  updHost { s with tre := .reset } fun h => { clearHostRegs (clearConfig h) with linkUp := false, regions := [] }

theorem holdPcie_eq (s : State) : holdPcie s = showAlerts (pcieHeld (dropCommands s)) := rfl

theorem showAlerts_pw (s : State) : (showAlerts s).pw = s.pw := rfl
theorem showAlerts_beat (s : State) : (showAlerts s).beat = s.beat := rfl
theorem showAlerts_tre (s : State) : (showAlerts s).tre = s.tre := rfl
theorem showAlerts_ks (s : State) : (showAlerts s).ks = s.ks := rfl
theorem showAlerts_sp (s : State) : (showAlerts s).sp = s.sp := rfl
theorem showAlerts_dram (s : State) : (showAlerts s).dram = s.dram := rfl

/-- What PERST_N leaves before readiness. -/
theorem holdPcie_left (s : State) : (holdPcie s).pw = s.pw ∧ (holdPcie s).tre = .reset ∧ (holdPcie s).dram = s.dram
    ∧ (holdPcie s).sp = s.sp ∧ (holdPcie s).beat = s.beat := by
  rw [holdPcie_eq, showAlerts_pw, showAlerts_tre, showAlerts_dram, showAlerts_sp, showAlerts_beat, ← dropCommands_pw s,
    ← dropCommands_dram s, ← dropCommands_sp s, ← dropCommands_beat s]
  generalize dropCommands s = u
  exact ⟨rfl, rfl, rfl, rfl, rfl⟩

theorem holdPcie_host (s : State) : (holdPcie s).host.linkUp = false ∧ (holdPcie s).host.inUse = [] ∧ (holdPcie s).host.ctrl = 0
    ∧ (holdPcie s).host.regions = [] := by
  rw [holdPcie_eq, showAlerts_linkUp, showAlerts_inUse, showAlerts_ctrl, showAlerts_regions]
  generalize dropCommands s = u
  exact ⟨rfl, rfl, rfl, rfl⟩

/-- The state that a warm reset holds, before HC_STATUS shows it. -/
theorem warmHold_left (s : State) : (warmHold s).pw.perst = s.pw.perst ∧ (warmHold s).pw.stage = .warmHeld
    ∧ (warmHold s).dram = { s.dram with selfRef := true } ∧ (warmHold s).ks = s.ks ∧ (warmHold s).beat = s.beat := by
  rw [warmHold, showAlerts_pw, showAlerts_dram, showAlerts_ks, showAlerts_beat]
  exact ⟨rfl, rfl, rfl, rfl, rfl⟩

theorem warmHold_host (s : State) : (warmHold s).host.linkUp = false ∧ (warmHold s).host.inUse = [] := by
  rw [warmHold, showAlerts_linkUp, showAlerts_inUse]
  exact ⟨rfl, rfl⟩

-- -------------------------------------------------------------------------------- the warm reset's end

/-- The channels trained again as PERST_N is released. -/
def warmTrained (s : State) (env : StartEnv) : State :=
  trainAll (updDram (updPw s fun p => { p with perst := false, faultN := false, warmEnv := none }) fun d => { d with selfRef := false }) env.weakLanes

theorem warmTrained_view (s : State) (env : StartEnv) : bootView (warmTrained s env)
    = bootView (updDram (updPw s fun p => { p with perst := false, warmEnv := none }) fun d => { d with selfRef := false }) :=
  (bootView_trainAll ..).trans rfl

theorem perstNRelease_held (hperst : s.pw.perst = true) (hheld : s.pw.stage = .warmHeld) (env : StartEnv) :
    perstNRelease s env = bootCore (settleIdle (warmTrained s env)) env := by
  rw [perstNRelease, if_neg (by rw [hperst]; decide)]
  exact if_pos hheld

theorem perstNRelease_other (hperst : s.pw.perst = true) (hheld : s.pw.stage ≠ .warmHeld) (env : StartEnv) :
    perstNRelease s env
      = { s with pw := { s.pw with perst := false, warmEnv := if s.pw.warmPending then some env else s.pw.warmEnv } } := by
  rw [perstNRelease, if_neg (by rw [hperst]; decide)]
  refine (if_neg hheld).trans ?_
  by_cases hpending : s.pw.warmPending = true
  · rw [if_pos hpending]
    exact if_pos hpending
  · rw [if_neg hpending]
    exact if_neg hpending

/-- What PERST_N's release leaves, whatever the boot comes to. -/
theorem perstNRelease_left (hperst : s.pw.perst = true) (hheld : s.pw.stage = .warmHeld) (env : StartEnv) :
    (perstNRelease s env).pw.perst = false ∧ (DramClean s → (perstNRelease s env).dram.mem = s.dram.mem)
    ∧ (perstNRelease s env).dram.selfRef = false ∧ (perstNRelease s env).beat = s.beat := by
  have hview := warmTrained_view s env
  have hboot := bootView_bootCore (settleIdle (warmTrained s env)) env
  rw [perstNRelease_held hperst hheld]
  refine ⟨?_, fun hclean => ?_, ?_, ?_⟩
  · exact (view_perst hboot).trans ((settleIdle_perst _).trans (view_perst hview))
  · have hclean' : DramClean (warmTrained s env) := view_clean hview hclean
    rw [settleIdle_of_clean hclean'] at hboot ⊢
    exact (view_mem hboot).trans (view_mem hview :)
  · exact (view_selfRef hboot).trans ((settleIdle_selfRef _).trans (view_selfRef hview))
  · exact (view_beat hboot).trans ((settleIdle_beat _).trans (view_beat hview :))

end

end Sys2Proof.Machine

-- ------------------------------------------------------------------------------------------------ hot resets and restarts

namespace Sys2Proof.Machine

section
variable {s t : State}

-- -------------------------------------------------------------------------------- a hot reset, an FLR

/-- The plan ended by a reset of the function (R425). -/
def planEnded (s : State) : State := if planState s = plNone then s else forgetPlan (applyDue (stopPlan s))

/-- Trestle and the function's host interface reset. -/
def functionCleared (s : State) : State :=
  showAlerts (updHost { s with tre := .reset } fun h => { statusField (clearHostRegs h) 4 2 plNone with regions := [] })

theorem statusField_linkUp (h : HostIf) (hi lo v : Nat) : (statusField h hi lo v).linkUp = h.linkUp := rfl
theorem statusField_err (h : HostIf) (hi lo v : Nat) : (statusField h hi lo v).err = h.err := rfl
theorem functionCleared_pw (s : State) : (functionCleared s).pw = s.pw := (showAlerts_pw _).trans (updHost_pw ..)
theorem functionCleared_beat (s : State) : (functionCleared s).beat = s.beat := (showAlerts_beat _).trans (updHost_beat ..)
theorem functionCleared_tre (s : State) : (functionCleared s).tre = .reset := (showAlerts_tre _).trans (updHost_tre ..)
theorem functionCleared_ks (s : State) : (functionCleared s).ks = s.ks := (showAlerts_ks _).trans (updHost_ks ..)
theorem functionCleared_dram (s : State) : (functionCleared s).dram = s.dram := (showAlerts_dram _).trans (updHost_dram ..)
theorem functionCleared_linkUp (s : State) : (functionCleared s).host.linkUp = s.host.linkUp := (showAlerts_linkUp _).trans
  ((statusField_linkUp (clearHostRegs s.host) 4 2 plNone).trans (clearHostRegs_linkUp _))
theorem functionCleared_inUse (s : State) : (functionCleared s).host.inUse = [] := (showAlerts_inUse _).trans
  ((statusField_inUse (clearHostRegs s.host) 4 2 plNone).trans (clearHostRegs_inUse _))
theorem functionCleared_regions (s : State) : (functionCleared s).host.regions = [] := (showAlerts_regions _).trans rfl
theorem functionCleared_ctrl (s : State) : (functionCleared s).host.ctrl = 0 := (showAlerts_ctrl _).trans
  ((statusField_ctrl (clearHostRegs s.host) 4 2 plNone).trans (clearHostRegs_ctrl _))
theorem functionCleared_err (s : State) : (functionCleared s).host.err = 0 := (showAlerts_err _).trans
  ((statusField_err (clearHostRegs s.host) 4 2 plNone).trans (clearHostRegs_err _))
theorem functionCleared_planState (s : State) : planState (functionCleared s) = plNone :=
  (planState_showAlerts _).trans ((statusField_bits (clearHostRegs s.host) plNone).trans (by decide))

theorem flrEffect_eq (s : State) : flrEffect s = settleIdle (functionCleared (planEnded (dropCommands s))) := rfl

theorem outer_pw (h : outer t = outer s) : t.pw = s.pw := (congrArg Prod.fst h :)
theorem outer_beat (h : outer t = outer s) : t.beat = s.beat := (congrArg (fun o => o.2.1) h :)
theorem outer_host (h : outer t = outer s) : t.host = s.host := (congrArg (fun o => o.2.2) h :)

theorem outer_planEnded (s : State) : outer (planEnded s) = outer s :=
  ite_keeps (g := outer) rfl ((outer_forgetPlan ..).trans ((outer_applyDue ..).trans (outer_stopPlan s)))

theorem planEnded_plan (h : s.ks.plan = none ∨ planState s ≠ plNone) : (planEnded s).ks.plan = none := by
  by_cases hnone : planState s = plNone
  · rw [planEnded, if_pos hnone]
    exact h.resolve_right (not_not_intro hnone)
  · rw [planEnded, if_neg hnone]
    exact forgetPlan_plan _

/-- What is cleared by a reset of the function, in the words of the statement. -/
def FunctionReset (s t : State) : Prop :=
  planState t = plNone ∧ t.ks.plan = none ∧ t.host.inUse = [] ∧ t.host.regions = [] ∧ t.host.ctrl = 0 ∧ t.host.err = 0
  ∧ t.tre = .reset ∧ t.beat = s.beat ∧ { t.pw with uart := s.pw.uart } = s.pw

theorem planState_dropCommands (s : State) : planState (dropCommands s) = planState s := by
  have hunstage : ∀ u : State, planState (unstage u) = planState u := fun u => by
    unfold unstage
    split
    · exact (planState_showStaged _).trans rfl
    · rfl
  exact (hunstage _ :)

/-- R425: what a reset of the function clears. -/
theorem flrEffect_resets (h : s.ks.plan = none ∨ planState s ≠ plNone) : FunctionReset s (flrEffect s) := by
  have houter := outer_planEnded (dropCommands s)
  have hplan : (planEnded (dropCommands s)).ks.plan = none :=
    planEnded_plan (h.imp (dropCommands_plan s).trans (planState_dropCommands s ▸ ·))
  rw [flrEffect_eq]
  generalize planEnded (dropCommands s) = u at houter hplan ⊢
  have hpw : (functionCleared u).pw = s.pw := (functionCleared_pw u).trans ((outer_pw houter).trans (dropCommands_pw s))
  refine ⟨?_, ?_, ?_, ?_, ?_, ?_, ?_, ?_, ?_⟩
  · exact (congrArg planStateOf (settleIdle_host _)).trans (functionCleared_planState u)
  · rw [settleIdle_ks, functionCleared_ks, hplan]
  · rw [settleIdle_host, functionCleared_inUse]
  · rw [settleIdle_host, functionCleared_regions]
  · rw [settleIdle_host, functionCleared_ctrl]
  · rw [settleIdle_host, functionCleared_err]
  · rw [settleIdle_tre, functionCleared_tre]
  · rw [settleIdle_beat, functionCleared_beat, outer_beat houter, dropCommands_beat]
  · have hleft := settleIdle_pwLeft (functionCleared u)
    rw [hpw] at hleft
    exact (congrArg (fun p : Power => { p with uart := s.pw.uart }) hleft :)

theorem flrEffect_linkUp (s : State) : (flrEffect s).host.linkUp = s.host.linkUp := by
  obtain ⟨f, st, u, g, a, h, -⟩ := dropCommands_eq s
  rw [flrEffect_eq, settleIdle_host, functionCleared_linkUp, outer_host (outer_planEnded (dropCommands s)), h]

/-- With no plan loaded a reset of the function leaves DRAM as it is. -/
theorem flrEffect_dram (hnone : planState s = plNone) (hclean : DramClean s) : (flrEffect s).dram = s.dram := by
  have hsame : planEnded (dropCommands s) = dropCommands s := if_pos ((planState_dropCommands s).trans hnone)
  have hdram : (functionCleared (planEnded (dropCommands s))).dram = s.dram := by
    rw [functionCleared_dram, hsame, dropCommands_dram]
  have hclean' : DramClean (functionCleared (planEnded (dropCommands s))) := by rw [DramClean, hdram]; exact hclean
  rw [flrEffect_eq, settleIdle_of_clean hclean', hdram]

theorem hotReset_eq (hup : s.host.linkUp = true) :
    exec .hotReset s = .next (updHost (flrEffect s) fun h => { h with linkUp := false }) :=
  congrArg Host.Outcome.next (if_neg (by rw [hup]; decide))

theorem functionLevelReset_eq (hup : s.host.linkUp = true) : exec .functionLevelReset s = .next (updHost (flrEffect s) clearConfig) :=
  congrArg Host.Outcome.next (if_neg (by rw [hup]; decide))

/-- The link going down, or configuration space being cleared, leaves what the reset has cleared. -/
theorem FunctionReset.hotReset (h : s.ks.plan = none ∨ planState s ≠ plNone) :
    FunctionReset s (updHost (flrEffect s) fun h => { h with linkUp := false }) := flrEffect_resets h

theorem FunctionReset.flr (h : s.ks.plan = none ∨ planState s ≠ plNone) : FunctionReset s (updHost (flrEffect s) clearConfig) :=
  flrEffect_resets h

-- -------------------------------------------------------------------------------- a Tollhouse reset

theorem bootView_restarting (h : bootView t = bootView s) :
    bootView (updPw t fun p => { p with restart := true, faultN := false }) = bootView (updPw s fun p => { p with restart := true }) :=
  (congrArg (fun v => (v.1, v.2.1, { v.2.2 with pw := { v.2.2.pw with restart := true } })) h :)

/-- The core restarts from a state that its reset has left (R423). -/
theorem coreRestart_eq (s : State) (env : StartEnv) : ∃ v, coreRestart s env = bootCore (settleIdle v) env
    ∧ bootView v = bootView (updPw (coreReset s) fun p => { p with restart := true }) :=
  ⟨_, rfl, (bootView_trainAll ..).trans (bootView_restarting (bootView_announce ..))⟩

theorem checkActivation_of_none (h : s.toll.actW = none) (env : StartEnv) : checkActivation s env = s := by
  unfold checkActivation
  rw [h]

/-- What a Tollhouse reset leaves: no tag in use, no completion queue, no plan, the contents of DRAM and the beat (Table 21-4). -/
structure TollhouseLeft (s t : State) : Prop where
  ctrl : t.host.ctrl = 0
  inUse : t.host.inUse = []
  planState : planState t = plNone
  plan : t.ks.plan = none
  actW : t.toll.actW = none
  beat : t.beat = s.beat
  clean : DramClean s → DramClean t ∧ t.dram.mem = s.dram.mem

theorem TollhouseLeft.of_view {u : State} (h : TollhouseLeft s t) (hview : bootView u = bootView t) : TollhouseLeft s u where
  ctrl := (view_ctrl hview).trans h.ctrl
  inUse := (view_inUse hview).trans h.inUse
  planState := (view_planState hview).trans h.planState
  plan := (view_plan hview).trans h.plan
  actW := (view_actW hview).trans h.actW
  beat := (view_beat hview).trans h.beat
  clean hs := ⟨view_clean hview (h.clean hs).1, (view_mem hview).trans (h.clean hs).2⟩

theorem TollhouseLeft.settleIdle (h : TollhouseLeft s t) : TollhouseLeft s (settleIdle t) where
  ctrl := (congrArg HostIf.ctrl (settleIdle_host t)).trans h.ctrl
  inUse := (congrArg HostIf.inUse (settleIdle_host t)).trans h.inUse
  planState := (congrArg planStateOf (settleIdle_host t)).trans h.planState
  plan := (congrArg Keystone.plan (settleIdle_ks t)).trans h.plan
  actW := (settleIdle_actW t).trans h.actW
  beat := (settleIdle_beat t).trans h.beat
  clean hs := by rw [settleIdle_of_clean (h.clean hs).1]; exact h.clean hs

theorem coreReset_clean (s : State) (hclean : DramClean s) : DramClean (coreReset s) := by
  rw [DramClean, coreReset_dram]
  exact hclean

theorem TollhouseLeft.coreReset (h : TollhouseLeft s t) : TollhouseLeft s (coreReset t) where
  ctrl := (coreReset_host t).1.trans h.ctrl
  inUse := (coreReset_host t).2.trans h.inUse
  planState := planState_coreReset t
  plan := coreReset_plan t
  actW := (congrArg Toll.actW (coreReset_toll t) :).trans h.actW
  beat := (coreReset_beat t).trans h.beat
  clean hs := ⟨coreReset_clean t (h.clean hs).1, (by rw [coreReset_dram] : (Machine.coreReset t).dram.mem = t.dram.mem).trans (h.clean hs).2⟩

theorem TollhouseLeft.restarting (h : TollhouseLeft s t) : TollhouseLeft s (updPw t fun p => { p with restart := true }) where
  ctrl := h.ctrl
  inUse := h.inUse
  planState := h.planState
  plan := h.plan
  actW := h.actW
  beat := h.beat
  clean := h.clean

theorem TollhouseLeft.coreRestart (h : TollhouseLeft s t) (env : StartEnv) : TollhouseLeft s (coreRestart t env) := by
  obtain ⟨v, heq, hview⟩ := coreRestart_eq t env
  rw [heq]
  exact (h.coreReset.restarting.of_view hview).settleIdle.of_view (bootView_bootCore ..)

/-- The code of a Tollhouse reset's cause in the log. -/
def tollCode : TollCause → Nat | .lockstep => 0 | .sramWord => 1 | .watchdog => 2

/-- The core and every command reset with no plan, as the Tollhouse's reset begins. -/
def tollDown (s : State) : State := announce (coreReset (dropCommands (setPlanState s plNone))) s

/-- The tags freed and the completion queue off. -/
def tagsFreed (s : State) : State := updHost s fun h => statusBit { clearTagsInUse h with flipped := [], ctrl := 0 } bitReady true

/-- The state after the Tollhouse has booted again, logged the cause and freed the tags. -/
def tollBooted (s : State) (cause : TollCause) : State :=
  tagsFreed (logEvent (bootToll (tollDown s)).1 (mkEvent stInternal srcToll 2 0 evFault 0 (tollCode cause)))

theorem tagsFreed_ctrl (s : State) : (tagsFreed s).host.ctrl = 0 := rfl
theorem tagsFreed_inUse (s : State) : (tagsFreed s).host.inUse = [] := rfl
theorem tagsFreed_planState (s : State) : planState (tagsFreed s) = planState s :=
  planStateOf_statusBit { clearTagsInUse s.host with flipped := [], ctrl := 0 } true (by decide)

theorem tollDown_view (s : State) : bootView (tollDown s) = bootView (coreReset (dropCommands (setPlanState s plNone))) := bootView_announce ..

theorem tollDown_left (hact : s.toll.actW = none) : planState (tollDown s) = plNone ∧ (tollDown s).ks.plan = none
    ∧ (tollDown s).toll.actW = none ∧ (tollDown s).beat = s.beat
    ∧ (DramClean s → DramClean (tollDown s) ∧ (tollDown s).dram.mem = s.dram.mem) := by
  have hview := tollDown_view s
  have hdram : (dropCommands (setPlanState s plNone)).dram = s.dram := by rw [dropCommands_dram, setPlanState_dram]
  refine ⟨(view_planState hview).trans (planState_coreReset _), (view_plan hview).trans (coreReset_plan _), ?_, ?_, fun hclean => ⟨?_, ?_⟩⟩
  · refine (view_actW hview).trans ((congrArg Toll.actW (coreReset_toll (dropCommands (setPlanState s plNone))) :).trans ?_)
    exact dropCommands_actW (by rw [setPlanState_toll, hact])
  · rw [view_beat hview, coreReset_beat, dropCommands_beat, setPlanState_beat]
  · exact view_clean hview (coreReset_clean _ (by rw [DramClean, hdram]; exact hclean))
  · rw [view_mem hview, coreReset_dram, hdram]

theorem tollBooted_left (hact : s.toll.actW = none) (cause : TollCause) : TollhouseLeft s (tollBooted s cause) := by
  have hview : bootView (logEvent (bootToll (tollDown s)).1 (mkEvent stInternal srcToll 2 0 evFault 0 (tollCode cause)))
      = bootView (tollDown s) := (bootView_logEvent ..).trans (bootView_bootToll _)
  obtain ⟨hstate, hplan, hactW, hbeat, hdram⟩ := tollDown_left hact
  unfold tollBooted
  generalize logEvent (bootToll (tollDown s)).1 _ = u at hview ⊢
  exact {
    ctrl := tagsFreed_ctrl u
    inUse := tagsFreed_inUse u
    planState := (tagsFreed_planState u).trans ((view_planState hview).trans hstate)
    plan := (view_plan hview).trans hplan
    actW := (view_actW hview).trans hactW
    beat := (view_beat hview).trans hbeat
    clean := fun hs => ⟨(view_clean hview (hdram hs).1 :), (view_mem hview).trans (hdram hs).2⟩ }

theorem tollhouseReset_eq (hrun : s.pw.stage ≠ .off) (cause : TollCause) (env : StartEnv) :
    tollhouseReset s cause env = tollBooted s cause
    ∨ tollhouseReset s cause env = checkActivation (coreRestart (tollBooted s cause) env) env := by
  have heq : tollhouseReset s cause env = (if !(bootToll (tollDown s)).2 || !s.pw.rails then tollBooted s cause
      else checkActivation (coreRestart (tollBooted s cause) env) env) := by
    unfold tollhouseReset
    rw [if_neg hrun]
    cases cause <;> rfl
  rw [heq]
  split
  · exact .inl rfl
  · exact .inr rfl

theorem tollhouseReset_left (hrun : s.pw.stage ≠ .off) (hact : s.toll.actW = none) (cause : TollCause) (env : StartEnv) :
    TollhouseLeft s (tollhouseReset s cause env) := by
  have hbooted := tollBooted_left hact cause
  obtain h | h := tollhouseReset_eq hrun cause env
  · rw [h]
    exact hbooted
  · have hrestart := hbooted.coreRestart env
    rw [h, checkActivation_of_none hrestart.actW]
    exact hrestart

theorem TollhouseLeft.cqOff (h : TollhouseLeft s t) : cqEn t.host = false := by
  rw [cqEn, h.ctrl]
  decide

end

/-- Settles O59: what every reset shares, and then what each one adds. -/
theorem resetsClearTheirPart : Obligations.ResetsClearTheirPart := by
  unfold Obligations.ResetsClearTheirPart
  refine ⟨fun s hperst => congrArg Host.Outcome.next (if_pos hperst),
    fun s hperst => ⟨fun hready => ?_, fun hready hrails => congrArg Host.Outcome.next (perstNAssert_off hperst hready hrails),
      fun hready hrails => ?_⟩,
    fun s env hperst => ⟨fun hheld => ?_, fun hheld => congrArg Host.Outcome.next (perstNRelease_other hperst hheld env)⟩,
    fun s hup => ⟨fun hplan hnone hclean => ⟨?_, ?_⟩, fun hsome => ⟨?_, ?_⟩⟩, fun s cause env hrun hact => ?_⟩
  · have h := perstNAssert_ready hperst hready
    have hfuses := (fusesAndQueueAreKept.1 .perstNAssert s _ (congrArg Host.Outcome.next h)).1
    refine ⟨_, congrArg Host.Outcome.next h, ?_⟩
    obtain ⟨hperst', hstage, hdram, hks, hbeat⟩ := warmHold_left (warmCore (updPw s fun p => { p with perst := true }))
    obtain ⟨hlink, htags⟩ := warmHold_host (warmCore (updPw s fun p => { p with perst := true }))
    rw [hperst', hstage, hdram, hks, hbeat, hlink, htags, planState_warmHold, warmCore_planState, warmCore_perst, warmCore_mem,
      warmCore_plan, warmCore_beat]
    exact ⟨rfl, rfl, rfl, rfl, rfl, rfl, rfl, rfl, rfl, hfuses⟩
  · obtain ⟨hpw, htre, hdram, hsp, hbeat⟩ := holdPcie_left (updPw s fun p => { p with perst := true, warmPending := p.restart })
    obtain ⟨hlink, htags, hctrl, hregions⟩ := holdPcie_host (updPw s fun p => { p with perst := true, warmPending := p.restart })
    exact ⟨_, congrArg Host.Outcome.next (perstNAssert_early hperst hready hrails), (congrArg Power.perst hpw :), (congrArg Power.stage hpw :),
      hlink, htags, hctrl, hregions, htre, hdram, hsp, hbeat⟩
  · obtain ⟨h1, h2, h3, h4⟩ := perstNRelease_left hperst hheld env
    exact ⟨_, rfl, h1, h2, h3, h4⟩
  · exact ⟨_, hotReset_eq hup, FunctionReset.hotReset (.inl hplan), flrEffect_dram hnone hclean, rfl⟩
  · exact ⟨_, functionLevelReset_eq hup, FunctionReset.flr (.inl hplan), flrEffect_dram hnone hclean, (flrEffect_linkUp s).trans hup, rfl⟩
  · exact ⟨_, hotReset_eq hup, FunctionReset.hotReset (.inr hsome), rfl⟩
  · exact ⟨_, functionLevelReset_eq hup, FunctionReset.flr (.inr hsome), (flrEffect_linkUp s).trans hup, rfl⟩
  · have h := tollhouseReset_left hrun hact cause env
    exact ⟨_, rfl, h.cqOff, h.inUse, h.planState, h.plan, fun hs => (h.clean hs).2, h.beat,
      (fusesAndQueueAreKept.1 (.tollhouseReset cause env) s _ rfl).1⟩

end Sys2Proof.Machine

-- ------------------------------------------------------------------------------------------------ supplies

namespace Sys2Proof.Machine

section
variable {s t : State}

-- -------------------------------------------------------------------------------- what the Tollhouse's boot keeps

theorem bootComponent_ks (s : State) (comp : Nat) : (bootComponent s comp).1.ks = s.ks := by
  unfold bootComponent
  split
  · exact logEvent_ks ..
  · split
    · rfl
    · exact (logEvent_ks ..).trans rfl

theorem bootToll_ks (s : State) : (bootToll s).1.ks = s.ks := by
  have hks : (bootComponent (romStarted s) 0).1.ks = s.ks := bootComponent_ks ..
  have heq : bootToll s = (if (bootComponent (romStarted s) 0).2 then (tollStarted (bootComponent (romStarted s) 0).1, true)
      else (updPw (bootComponent (romStarted s) 0).1 fun p => { p with faultN := true }, false)) := rfl
  rw [heq]
  split
  · exact hks
  · exact hks

theorem view_straps (h : bootView t = bootView s) : t.pw.straps = s.pw.straps := (congrArg (fun v => v.2.2.pw.straps) h :)

/-- What decides which images boot. -/
def imageKeys (t : Toll) : BitVec 384 × BitVec 128 × Tab (List Byte) := (t.keyHash, t.rollback, t.slots)

theorem boots_of_imageKeys {t u : Toll} (h : imageKeys t = imageKeys u) (comp : Nat) : boots t comp = boots u comp :=
  boots_congr (congrArg (·.1) h :) (congrArg (·.2.1) h :) (congrArg (·.2.2) h :) comp

theorem coreBoots_of_imageKeys {t u : Toll} (h : imageKeys t = imageKeys u) : coreBoots t = coreBoots u := by
  rw [coreBoots, coreBoots, boots_of_imageKeys h, boots_of_imageKeys h]

theorem view_imageKeys (h : bootView t = bootView s) : imageKeys t.toll = imageKeys s.toll :=
  (congrArg (fun v => imageKeys v.2.2.toll) h :)

theorem settleIdle_imageKeys (s : State) : imageKeys (settleIdle s).toll = imageKeys s.toll :=
  (congrArg (fun v => imageKeys v.2.2) (settleView_settleIdle s) :)

theorem coreReset_imageKeys (s : State) : imageKeys (coreReset s).toll = imageKeys s.toll := (congrArg imageKeys (coreReset_toll s) :)

-- -------------------------------------------------------------------------------- P3V3_AUX

/-- The device as P3V3_AUX rises: what the fuses and the flash hold, and nothing else (Table 21-4). -/
def coldState (s : State) (straps : Byte) : State :=
  { powerOff s with
    beat := .reset
    toll := { Toll.reset with uds := s.toll.uds, deviceId := s.toll.deviceId, keyHash := s.toll.keyHash, rollback := s.toll.rollback,
                              stepping := s.toll.stepping, spareMap := s.toll.spareMap, slots := s.toll.slots, active := s.toll.active,
                              staged := s.toll.staged, limitW := s.toll.limitW, repair := s.toll.repair, flashLog := s.toll.flashLog,
                              persistLost := s.toll.persistLost, unsaved := s.toll.unsaved, drbg := s.toll.drbg, eid := s.toll.eid,
                              dynAddr := s.toll.dynAddr, replies := s.toll.replies }
    jtag := { Jtag.reset with tdo := s.jtag.tdo }
    pw := { Power.reset with p12v := s.pw.p12v, perst := s.pw.perst, prochot := s.pw.prochot, straps := straps, uart := s.pw.uart
                             stage := .romOnly } }

theorem p3v3AuxRise_eq (hoff : s.pw.stage = .off) (straps : Byte) :
    p3v3AuxRise s straps = showAlerts (bootToll (coldState s straps)).1 := if_neg (not_not_intro hoff)

theorem boots_coldState (s : State) (straps : Byte) : boots (coldState s straps).toll 0 = boots s.toll 0 := boots_congr rfl rfl rfl 0

theorem showAlerts_toll (s : State) : (showAlerts s).toll = s.toll := rfl

theorem p3v3AuxRise_left (hoff : s.pw.stage = .off) (straps : Byte) :
    (p3v3AuxRise s straps).toll.rollback = s.toll.rollback ∧ (p3v3AuxRise s straps).pw.straps = straps
    ∧ (p3v3AuxRise s straps).pw.rails = false ∧ (p3v3AuxRise s straps).dram.mem = [] ∧ (p3v3AuxRise s straps).ks = .reset := by
  have hview := bootView_bootToll (coldState s straps)
  rw [p3v3AuxRise_eq hoff, showAlerts_toll, showAlerts_pw, showAlerts_dram, showAlerts_ks, bootToll_ks, view_straps hview,
    view_rails hview, view_mem hview]
  exact ⟨(congrArg (·.2.1) (view_imageKeys hview) :), rfl, rfl, rfl, rfl⟩

theorem p3v3AuxRise_stage (hoff : s.pw.stage = .off) (straps : Byte) :
    (bootSlot s.toll 0 = none → (p3v3AuxRise s straps).pw.stage = .romOnly ∧ (p3v3AuxRise s straps).pw.faultN = true)
    ∧ (bootSlot s.toll 0 ≠ none → (p3v3AuxRise s straps).pw.stage = .firmware ∧ (p3v3AuxRise s straps).toll.udsLocked = true) := by
  rw [Ne, bootSlot_eq_none_iff, ← boots_coldState s straps, p3v3AuxRise_eq hoff, showAlerts_toll, showAlerts_pw]
  exact ⟨bootToll_of_none, fun h => bootToll_of_boots ((Bool.not_eq_false _).mp h)⟩

theorem p3v3AuxLoss_left (hon : s.pw.stage ≠ .off) :
    (p3v3AuxLoss s).pw.stage = .off ∧ (p3v3AuxLoss s).pw.rails = false ∧ (p3v3AuxLoss s).pw.tripped = false
    ∧ (p3v3AuxLoss s).dram.mem = [] ∧ (p3v3AuxLoss s).ks = .reset ∧ (p3v3AuxLoss s).toll.flashLog = s.toll.flashLog
    ∧ (p3v3AuxLoss s).toll.sramLog = [] := by
  have hflash := powerOff_flashLog s
  have hrails : (powerOff s).pw.rails = false := (congrArg Power.rails (powerOff_pw s) :)
  have hmem := powerOff_mem s
  have hks := powerOff_ks s
  rw [p3v3AuxLoss, if_neg hon]
  generalize powerOff s = u at *
  exact ⟨rfl, hrails, rfl, hmem, hks, hflash, rfl⟩

-- -------------------------------------------------------------------------------- readiness and the loss of P12V

theorem readiness_left (hbooted : s.pw.stage = .booted) (hact : s.toll.actW = none) (hpending : s.pw.warmPending = false) :
    readiness s = raiseIrq (updHost (updPw s fun p => { p with stage := .ready, restart := false }) fun h => statusBit h bitReady false) 4 := by
  unfold readiness
  rw [if_neg (not_not_intro hbooted)]
  dsimp only
  generalize hu : raiseIrq (updHost (updPw s fun p => { p with stage := .ready, restart := false }) fun h => statusBit h bitReady false) 4 = u
  have hact' : u.toll.actW = none := by rw [← hu, raiseIrq_toll]; exact hact
  have hpending' : u.pw.warmPending = false := by rw [← hu, raiseIrq_pw]; exact hpending
  rw [hact']
  exact if_pos (by rw [hpending']; rfl)

theorem beat_endFloors (s : State) : (endFloors s).beat = s.beat :=
  foldl_keeps (g := State.beat) (fun u f => (announced_beat (dropFloor_announced u f)).trans rfl) _ _

theorem p12vLoss_left (hsupply : s.pw.p12v = true) (hrails : s.pw.rails = true) :
    (p12vLoss s).pw.p12v = false ∧ (p12vLoss s).pw.rails = false ∧ (p12vLoss s).dram.mem = [] ∧ (p12vLoss s).ks = .reset
    ∧ planState (p12vLoss s) = plNone ∧ notReady (p12vLoss s).host = true ∧ (p12vLoss s).beat.number = s.beat.number
    ∧ (p12vLoss s).beat.adopted = s.beat.adopted := by
  have heq : p12vLoss s = showAlerts (showStaged (logEvent (powerOff (endFloors (updPw s fun p => { p with p12v := false })))
      (mkEvent 0 srcToll 2 0 evState 0 0))) := by
    rw [p12vLoss, if_neg (by rw [hsupply]; decide)]
    exact if_neg (by rw [show (updPw s fun p => { p with p12v := false }).pw.rails = true from hrails]; decide)
  have hpw := pw_endFloors (updPw s fun p => { p with p12v := false })
  have hbeat := beat_endFloors (updPw s fun p => { p with p12v := false })
  generalize endFloors (updPw s fun p => { p with p12v := false }) = u at heq hpw hbeat
  have hlog := silent_logEvent (powerOff u) (mkEvent 0 srcToll 2 0 evState 0 0)
  have hsupply' : (powerOff u).pw.p12v = false := (congrArg Power.p12v (powerOff_pw u) :).trans (congrArg Power.p12v hpw :)
  have hrails' : (powerOff u).pw.rails = false := (congrArg Power.rails (powerOff_pw u) :)
  obtain ⟨hnumber, hadopted⟩ := powerOff_beat u
  have hplan := planState_powerOff u
  have hready := notReady_powerOff u
  have hks := powerOff_ks u
  have hmem := powerOff_mem u
  rw [hbeat] at hnumber hadopted
  rw [heq, planState_showAlerts, planState_showStaged, notReady_showAlerts, notReady_showStaged, showAlerts_pw, showAlerts_dram, showAlerts_ks,
    showAlerts_beat]
  generalize powerOff u = v at *
  refine ⟨?_, ?_, ?_, ?_, ?_, ?_, ?_, ?_⟩
  · exact (congrArg (fun w : State => w.pw.p12v) hlog :).trans hsupply'
  · exact (congrArg (fun w : State => w.pw.rails) hlog :).trans hrails'
  · exact (congrArg Dram.mem (logEvent_dram ..)).trans hmem
  · exact (logEvent_ks ..).trans hks
  · exact (congrArg planStateOf (logEvent_host ..)).trans hplan
  · exact (congrArg notReady (logEvent_host ..)).trans hready
  · exact (congrArg Beat.number (logEvent_beat ..)).trans hnumber
  · exact (congrArg Beat.adopted (logEvent_beat ..)).trans hadopted

-- -------------------------------------------------------------------------------- the rails start

/-- What every start from power good has: the rails on, DRAM cold and scrubbed, and the images of the flash. -/
structure Powered (p12v : Bool) (keys : BitVec 384 × BitVec 128 × Tab (List Byte)) (s : State) : Prop where
  rails : s.pw.rails = true
  p12v : s.pw.p12v = p12v
  mem : s.dram.mem = []
  clean : DramClean s
  scrubOn : s.dram.scrubOn = true
  keys : imageKeys s.toll = keys

section
variable {p12v : Bool} {keys : BitVec 384 × BitVec 128 × Tab (List Byte)} {env : StartEnv}

theorem Powered.of_view (h : Powered p12v keys s) (hview : bootView t = bootView s) : Powered p12v keys t where
  rails := (view_rails hview).trans h.rails
  p12v := (view_p12v hview).trans h.p12v
  mem := (view_mem hview).trans h.mem
  clean := view_clean hview h.clean
  scrubOn := (view_scrubOn hview).trans h.scrubOn
  keys := (view_imageKeys hview).trans h.keys

theorem Powered.coreReset (h : Powered p12v keys s) : Powered p12v keys (coreReset s) where
  rails := (congrArg Power.rails (coreReset_pw s)).trans h.rails
  p12v := (congrArg Power.p12v (coreReset_pw s)).trans h.p12v
  mem := (congrArg Dram.mem (coreReset_dram s)).trans h.mem
  clean := coreReset_clean s h.clean
  scrubOn := (congrArg Dram.scrubOn (coreReset_dram s)).trans h.scrubOn
  keys := (coreReset_imageKeys s).trans h.keys

theorem Powered.restarting (h : Powered p12v keys s) : Powered p12v keys (updPw s fun p => { p with restart := true }) where
  rails := h.rails
  p12v := h.p12v
  mem := h.mem
  clean := h.clean
  scrubOn := h.scrubOn
  keys := h.keys

/-- Where a start with the rails on stands (Table 21-2). -/
structure StoodAt (env : StartEnv) (p12v : Bool) (keys : BitVec 384 × BitVec 128 × Tab (List Byte)) (s : State) : Prop where
  powered : Powered p12v keys s
  stage : s.pw.stage = if coreBoots s.toll = false then .keystoneHeld else if env.keystoneSramOk then .booted else .sramFailed
  faultN : coreBoots s.toll = false → s.pw.faultN = true

theorem Powered.bootCore (h : Powered p12v keys s) : StoodAt env p12v keys (bootCore s env) := by
  have hview := bootView_bootCore s env
  have hboots : coreBoots (Machine.bootCore s env).toll = coreBoots s.toll := coreBoots_of_imageKeys (view_imageKeys hview)
  exact {
    powered := h.of_view hview
    stage := by rw [hboots, bootCore_stage]
    faultN := fun hnone => bootCore_faultN env (hboots ▸ hnone) }

theorem Powered.coreRestart (h : Powered p12v keys s) : StoodAt env p12v keys (coreRestart s env) := by
  obtain ⟨v, heq, hview⟩ := coreRestart_eq s env
  have hv : Powered p12v keys v := h.coreReset.restarting.of_view hview
  rw [heq, settleIdle_of_clean hv.clean]
  exact hv.bootCore

end

end

end Sys2Proof.Machine

-- ------------------------------------------------------------------------------------------------ power good

namespace Sys2Proof.Machine

section
variable {s t : State} {p12v : Bool} {keys : BitVec 384 × BitVec 128 × Tab (List Byte)} {env : StartEnv}

-- -------------------------------------------------------------------------------- an activation that fails

/-- The supplies and the Tollhouse without the log and the console. -/
def ledger (s : State) : Power × Toll := ({ s.pw with uart := [] }, noLog s.toll)

theorem ledger_of_silent (h : silent t = silent s) : ledger t = ledger s := (congrArg ledger h :)

theorem ledger_freeTag (s : State) (c : Taken) : ledger (freeTag s c) = ledger s := rfl

theorem ledger_updHost (s : State) (f : HostIf → HostIf) : ledger (updHost s f) = ledger s := rfl

theorem ledger_finishCmd (s : State) (c : Taken) (st : Nat) (rs : List Nat) : ledger (finishCmd s c st rs) = ledger s := by
  unfold finishCmd
  dsimp only
  split
  · exact (ledger_freeTag ..).trans (ledger_of_silent (silent_setErr ..))
  · exact (ledger_of_silent (silent_countRecord ..)).trans ((ledger_freeTag ..).trans ((ledger_updHost ..).trans
      (ledger_of_silent (silent_putRecord ..))))

theorem ledger_finishOpt (s : State) (c : Option Taken) (st : Nat) (rs : List Nat) : ledger (finishOpt s c st rs) = ledger s := by
  cases c with
  | none => rfl
  | some c => exact ledger_finishCmd s c st rs

section
variable (h : ledger t = ledger s)
include h
theorem ledger_pw : { t.pw with uart := [] } = { s.pw with uart := [] } := (congrArg Prod.fst h :)
theorem ledger_imageKeys : imageKeys t.toll = imageKeys s.toll := (congrArg (fun l => imageKeys l.2) h :)
end

theorem StoodAt.finishOpt (h : StoodAt env p12v keys s) (c : Option Taken) (st : Nat) (rs : List Nat) :
    StoodAt env p12v keys (finishOpt s c st rs) := by
  have hpw := ledger_pw (ledger_finishOpt s c st rs)
  have hkeys := ledger_imageKeys (ledger_finishOpt s c st rs)
  have hdram : (Machine.finishOpt s c st rs).dram = s.dram := finishOpt_dram ..
  have hboots := coreBoots_of_imageKeys hkeys
  generalize Machine.finishOpt s c st rs = u at *
  exact {
    powered :=
      { rails := (congrArg Power.rails hpw :).trans h.powered.rails
        p12v := (congrArg Power.p12v hpw :).trans h.powered.p12v
        mem := (congrArg Dram.mem hdram).trans h.powered.mem
        clean := by rw [DramClean, hdram]; exact h.powered.clean
        scrubOn := (congrArg Dram.scrubOn hdram).trans h.powered.scrubOn
        keys := hkeys.trans h.powered.keys }
    stage := by rw [hboots]; exact (congrArg Power.stage hpw :).trans h.stage
    faultN := by rw [hboots]; exact fun hnone => (congrArg Power.faultN hpw :).trans (h.faultN hnone) }

theorem Powered.activated (h : Powered p12v keys s) (active : BitVec 3) :
    Powered p12v keys (updToll s fun t => { t with active := active, actW := none }) where
  rails := h.rails
  p12v := h.p12v
  mem := h.mem
  clean := h.clean
  scrubOn := h.scrubOn
  keys := h.keys

/-- Table 20-12, step 4: the previous slots boot, and the start stands where it would have stood. -/
theorem Powered.restoreActive (h : Powered p12v keys s) (w : ActivateWork) : StoodAt env p12v keys (restoreActive s w env) := by
  have hback := h.activated w.prev
  unfold Machine.restoreActive
  dsimp only
  generalize hu : updToll s (fun t => { t with active := w.prev, actW := none }) = u at hback ⊢
  have hbooted : Powered p12v keys (if w.comps.toNat.testBit 0 then (bootToll u).1 else u) := by
    split
    · exact hback.of_view (bootView_bootToll u)
    · exact hback
  rw [if_pos hbooted.rails]
  exact hbooted.coreRestart.finishOpt ..

theorem StoodAt.checkActivation (h : StoodAt env p12v keys s) : StoodAt env p12v keys (checkActivation s env) := by
  unfold Machine.checkActivation
  split
  · exact h
  · split
    · exact h
    · exact h.powered.restoreActive _

theorem checkActivation_of_off (h : s.pw.rails = false) (env : StartEnv) : checkActivation s env = s := by
  unfold checkActivation
  split
  · rfl
  · rw [if_pos (.inr h)]

-- -------------------------------------------------------------------------------- the rails

/-- The rails on, and the floor of PROCHOT_N where it is asserted. -/
def railsOn (s : State) : State :=
  let s := updPw s fun p => { p with faultN := false }
  let s := updPw s fun p => { p with rails := true, restart := false }
  let s := { s with jtag := { s.jtag with ir := 0, driving := false, floating := false } }
  if s.pw.prochot then addFloor s prochotFloor else s

theorem startRails_ok (hok : env.railsOk = true) (again : Bool) :
    startRails s env again = bootCore (startPorts (startDram (railsOn s) env)) env := by
  rw [startRails, if_neg (by rw [hok]; decide)]
  rfl

theorem addFloor_pw (s : State) (f : Floor) : { (addFloor s f).pw with uart := [] } = { s.pw with uart := [] }
    ∧ imageKeys (addFloor s f).toll = imageKeys s.toll := by
  unfold addFloor
  split
  · exact ⟨rfl, rfl⟩
  · have h := announced_protectionEvent (withFloor s f) f.code f.unit 0 true 2 stThermal
    exact ⟨(announced_pw h :), (congrArg imageKeys (announced_toll h) :)⟩

theorem railsOn_left (s : State) : (railsOn s).pw.rails = true ∧ (railsOn s).pw.p12v = s.pw.p12v
    ∧ imageKeys (railsOn s).toll = imageKeys s.toll := by
  have hfloor := addFloor_pw { s with
    pw := { s.pw with faultN := false, rails := true, restart := false }
    jtag := { s.jtag with ir := 0, driving := false, floating := false } } prochotFloor
  unfold railsOn
  dsimp only
  split
  · exact ⟨(congrArg Power.rails hfloor.1 :), (congrArg Power.p12v hfloor.1 :), hfloor.2⟩
  · exact ⟨rfl, rfl, rfl⟩

/-- A cold DRAM before its channels are trained. -/
def dramCold (s : State) : State :=
  { s with dram := { Dram.reset with remaps := s.dram.remaps, spareRows := s.dram.spareRows, reserve := s.dram.reserve
                                     retired := s.dram.retired, scrubOn := true } }

theorem bootView_startDram (s : State) (env : StartEnv) : bootView (startDram s env) = bootView (dramCold s) := bootView_trainAll (dramCold s) env.weakLanes

theorem bootView_updPort (s : State) (p : Nat) (f : Port → Port) : bootView (updPort s p f) = bootView s := rfl

theorem bootView_startPorts (s : State) : bootView (startPorts s) = bootView s :=
  foldl_keeps (g := bootView) (fun u p => bootView_updPort u p _) _ _

theorem startRails_stands (hok : env.railsOk = true) (again : Bool) :
    StoodAt env s.pw.p12v (imageKeys s.toll) (startRails s env again) := by
  obtain ⟨hrails, hp12v, hkeys⟩ := railsOn_left s
  rw [startRails_ok hok]
  generalize railsOn s = u at hrails hp12v hkeys ⊢
  have hcold : Powered s.pw.p12v (imageKeys s.toll) (dramCold u) :=
    { rails := hrails, p12v := hp12v, mem := rfl, clean := ⟨rfl, rfl, rfl⟩, scrubOn := rfl, keys := hkeys }
  exact ((hcold.of_view (bootView_startDram u env)).of_view (bootView_startPorts _)).bootCore

/-- The rails that do not come up are switched off again (Table 21-2). -/
theorem startRails_fails (hfail : env.railsOk = false) :
    (startRails s env false).pw.stage = .railFailed ∧ (startRails s env false).pw.p12v = s.pw.p12v ∧ (startRails s env false).pw.rails = false := by
  have hlog := silent_logEvent (updPw s fun p => { p with faultN := false, rails := false, stage := .railFailed })
    (mkEvent stInternal srcToll 2 0 evState 0 0)
  have heq : startRails s env false = logEvent (updPw s fun p => { p with faultN := false, rails := false, stage := .railFailed })
      (mkEvent stInternal srcToll 2 0 evState 0 0) := by
    rw [startRails, if_pos (by rw [hfail]; rfl)]
    rfl
  rw [heq]
  exact ⟨(congrArg (fun u : State => u.pw.stage) hlog :), (congrArg (fun u : State => u.pw.p12v) hlog :),
    (congrArg (fun u : State => u.pw.rails) hlog :)⟩

theorem startRails_dead (hfail : env.railsOk = false) :
    (startRails s env true).pw.stage = .railsDead ∧ (startRails s env true).pw.faultN = true ∧ (startRails s env true).pw.rails = false := by
  have heq : startRails s env true
      = startFails (updPw (updPw s fun p => { p with faultN := false }) fun p => { p with rails := false }) .railsDead := by
    unfold startRails
    rw [if_pos (by rw [hfail]; rfl)]
    exact if_pos rfl
  have hrails := view_rails (bootView_startFails (updPw (updPw s fun p => { p with faultN := false }) fun p => { p with rails := false }) .railsDead)
  obtain ⟨hstage, hfault⟩ := startFails_pw (updPw (updPw s fun p => { p with faultN := false }) fun p => { p with rails := false }) .railsDead
  rw [heq]
  exact ⟨hstage, hfault, hrails⟩

-- -------------------------------------------------------------------------------- power good and the retry

theorem powerGood_eq (hstage : s.pw.stage = .firmware) (htrip : s.pw.tripped = false) (hrails : s.pw.rails = false) (env : StartEnv) :
    powerGood s env = checkActivation (startRails (updPw s fun p => { p with p12v := true }) env false) env :=
  if_neg (by simp [hstage, htrip, hrails])

theorem railRetry_eq (hstage : s.pw.stage = .railFailed) (env : StartEnv) :
    railRetry s env = checkActivation (startRails s env true) env := if_neg (not_not_intro hstage)

theorem coreBoots_eq_false_iff (t : Toll) : coreBoots t = false ↔ bootSlot t 1 = none ∨ bootSlot t 2 = none := by
  rw [bootSlot_eq_none_iff, bootSlot_eq_none_iff, coreBoots, Bool.and_eq_false_iff]

end

/-- Settles O58: the boots by what they leave alone, and a start by where it stands. -/
theorem suppliesStartAndStop : Obligations.SuppliesStartAndStop := by
  unfold Obligations.SuppliesStartAndStop
  refine ⟨fun s straps hoff => ?_, fun s hon => ?_, fun s env hrails htrip => ⟨fun hstage hfail => ?_, fun hstage hok => ?_,
      fun hstage hfail => ?_, fun hstage hok => ?_, fun hstage => congrArg Host.Outcome.next (if_pos hstage),
      fun hstage => congrArg Host.Outcome.next (if_pos (.inl hstage))⟩,
    fun s hbooted hact hpending => ?_, fun s hsupply hrails => ?_, fun s rate width flit cfg => ⟨fun hrails hperst => ?_, fun hno => ?_⟩⟩
  · obtain ⟨hroll, hstraps, hrails, hmem, hks⟩ := p3v3AuxRise_left hoff straps
    obtain ⟨hnone, hsome⟩ := p3v3AuxRise_stage hoff straps
    exact ⟨_, rfl, (fusesAndQueueAreKept.1 (.p3v3AuxRise straps) s _ rfl).1, hroll, hstraps, hrails, hmem, hks, hnone, hsome⟩
  · obtain ⟨hstage, hrails, htrip, hmem, hks, hflash, hlog⟩ := p3v3AuxLoss_left hon
    exact ⟨_, rfl, hstage, hrails, htrip, hmem, hks, (fusesAndQueueAreKept.1 .p3v3AuxLoss s _ rfl).1, hflash, hlog⟩
  · obtain ⟨h1, h2, h3⟩ := startRails_fails (s := updPw s fun p => { p with p12v := true }) hfail
    exact ⟨_, congrArg Host.Outcome.next ((powerGood_eq hstage htrip hrails env).trans (checkActivation_of_off h3 env)), h1, h2, h3⟩
  · have h := (startRails_stands (s := updPw s fun p => { p with p12v := true }) hok false).checkActivation
    have hboots : coreBoots (checkActivation (startRails (updPw s fun p => { p with p12v := true }) env false) env).toll = coreBoots s.toll :=
      coreBoots_of_imageKeys h.powered.keys
    refine ⟨_, congrArg Host.Outcome.next (powerGood_eq hstage htrip hrails env), h.powered.rails, h.powered.p12v, h.powered.mem,
      h.powered.scrubOn, fun hnone => ?_, fun h1 h2 => ?_⟩
    · have hheld := hboots.trans ((coreBoots_eq_false_iff _).2 hnone)
      exact ⟨h.stage.trans (if_pos hheld), h.faultN hheld⟩
    · refine h.stage.trans (if_neg fun hheld => ?_)
      exact ((coreBoots_eq_false_iff _).1 (hboots ▸ hheld)).elim h1 h2
  · obtain ⟨h1, h2, h3⟩ := startRails_dead (s := s) hfail
    exact ⟨_, congrArg Host.Outcome.next ((railRetry_eq hstage env).trans (checkActivation_of_off h3 env)), h1, h2⟩
  · have h := (startRails_stands (s := s) hok true).checkActivation
    exact ⟨_, congrArg Host.Outcome.next (railRetry_eq hstage env), h.powered.rails, h.powered.mem, h.powered.scrubOn⟩
  · have h := readiness_left hbooted hact hpending
    have hsilent := noTraffic_raiseIrq (updHost (updPw s fun p => { p with stage := .ready, restart := false }) fun h => statusBit h bitReady false) 4
    refine ⟨_, congrArg Host.Outcome.next h, ?_, ?_, ?_, ?_, ?_⟩
    · rw [raiseIrq_pw]
      rfl
    · exact (congrArg notReady hsilent :).trans (notReady_statusBit_ready s.host false)
    · exact (congrArg planStateOf hsilent :).trans (planStateOf_statusBit s.host false (by decide))
    · rw [raiseIrq_ks]
      rfl
    · rw [raiseIrq_dram]
      rfl
  · obtain ⟨h1, h2, h3, h4, h5, h6, h7, h8⟩ := p12vLoss_left hsupply hrails
    exact ⟨_, rfl, h1, h2, h3, h4, h5, h6, h7, h8, (fusesAndQueueAreKept.1 .p12vLoss s _ rfl).1⟩
  · exact ⟨_, congrArg Host.Outcome.next (if_neg (by rw [hrails, hperst]; decide)), rfl, rfl, rfl, rfl, rfl, rfl, rfl, rfl⟩
  · refine congrArg Host.Outcome.next (if_pos ?_)
    obtain h | h := hno
    · rw [h]; rfl
    · rw [h, Bool.or_true]

end Sys2Proof.Machine

-- ------------------------------------------------------------------------------------------------ the elements that MATMUL stores

namespace Sys2Proof.Machine

-- -------------------------------------------------------------------------------- words of memory

/-- Memory with `n` words written from an address on. -/
def storeWords (m : Tab Byte) (a : Nat) (v : Nat → Nat) (n : Nat) : Tab Byte :=
  (List.range n).foldl (fun m i => tabPut m (a + 4 * i) (leBytes 4 (v i))) m

section
variable {m : Tab Byte} {a : Nat} {v : Nat → Nat}

theorem storeWords_succ (m : Tab Byte) (a : Nat) (v : Nat → Nat) (n : Nat) :
    storeWords m a v (n + 1) = tabPut (storeWords m a v n) (a + 4 * n) (leBytes 4 (v n)) := by
  rw [storeWords, List.range_succ, List.foldl_append]
  rfl

theorem storeWords_wf (hm : tabWf 0 m = true) (a : Nat) (v : Nat → Nat) (n : Nat) : tabWf 0 (storeWords m a v n) = true := by
  induction n with
  | zero => exact hm
  | succ n ih =>
    rw [storeWords_succ]
    exact tabPut_wf ih

/-- A byte outside the words stays. -/
theorem tabGet_storeWords_other (hm : tabWf 0 m = true) {n x : Nat} (hx : x < a ∨ a + 4 * n ≤ x) :
    tabGet 0 (storeWords m a v n) x = tabGet 0 m x := by
  induction n with
  | zero => rfl
  | succ n ih =>
    rw [storeWords_succ, tabGet_tabPut_other (storeWords_wf hm a v n) (by rw [leBytes_length]; omega)]
    exact ih (by omega)

/-- Each word reads as it was written. -/
theorem memNat_storeWords (hm : tabWf 0 m = true) {n k : Nat} (hk : k < n) : memNat (storeWords m a v n) (a + 4 * k) 4 = v k % 2 ^ 32 := by
  induction n with
  | zero => cases hk
  | succ n ih =>
    have hwf := storeWords_wf hm a v n
    rw [storeWords_succ]
    obtain rfl | hlt := Nat.eq_or_lt_of_le (Nat.lt_succ_iff.1 hk)
    · have hread := tabBytes_tabPut (a := a + 4 * k) (b := leBytes 4 (v k)) hwf
      rw [leBytes_length] at hread
      rw [memNat, hread, leNat_leBytes]
    · rw [← ih hlt, memNat, memNat, tabBytes_eq, tabBytes_eq]
      congr 1
      refine List.map_congr_left fun j hj => tabGet_tabPut_other hwf ?_
      have := List.mem_range.1 hj
      omega

end

-- -------------------------------------------------------------------------------- elements of FP32 in a buffer

/-- An operand of whole FP32 elements in a buffer, element 0 first. -/
structure DenseFp32 (p : Plan) (o : Operand) (b : Buf) : Prop where
  fmt : fmtOf o.fmt = some .fp32
  stream : o.stream = 0
  skip : o.skip = 0
  bank : isBank o = false
  buf : p.bufs[o.handle]? = some b

section
variable {s : State} {p : Plan} {o : Operand} {b : Buf}

/-- What is not data of memory is not written. -/
theorem writeAddr_of_noBytes {t : State} (h : noBytes t = noBytes s) (b : Buf) (handle pos : Nat) :
    writeAddr t b handle pos = writeAddr s b handle pos := (congrArg (fun u => writeAddr u b handle pos) h :)

/-- Later positions of a buffer lie further on by as much. -/
theorem writeAddr_add (s : State) (b : Buf) (handle pos n : Nat) : writeAddr s b handle (pos + n) = writeAddr s b handle pos + n := by
  unfold writeAddr
  split <;> omega

theorem writeByte_mem (h : DenseFp32 p o b) (s : State) (span pos : Nat) (v : Byte) :
    (writeByte s p span o pos v).dram.mem = tabSet 0 s.dram.mem (writeAddr s b o.handle pos) v := by
  unfold writeByte
  rw [h.bank, h.buf]
  rfl

theorem writeBytes_mem (h : DenseFp32 p o b) (span : Nat) (vs : List Byte) (s : State) (pos : Nat) :
    (writeBytes s p span o pos vs).dram.mem = tabPut s.dram.mem (writeAddr s b o.handle pos) vs := by
  induction vs generalizing s pos with
  | nil => rfl
  | cons v vs ih =>
    rw [writeBytes, ih, writeByte_mem h, writeAddr_of_noBytes (noBytes_writeByte ..), writeAddr_add, tabPut]

theorem DenseFp32.elemBit (h : DenseFp32 p o b) (param : List Byte) (i : Nat) :
    elemBit param o i = (((o.offset * 8 + i * 32 : Nat) : Int), o.fmt) := by
  have hplace : placeIndex o i = i := by simp [placeIndex, h.skip]
  unfold Machine.elemBit
  rw [hplace]
  dsimp only
  rw [if_neg (not_not_intro h.stream), h.fmt]
  rfl

/-- One element: its four bytes at its place. -/
theorem writeRun_fp32_mem (h : DenseFp32 p o b) (s : State) (span i : Nat) (site : RngSite) (code : Nat) (e : Nat → Nat) (nonsat : Bool)
    (x : Num) : (writeRun s p span o i site code e nonsat [x]).dram.mem
      = tabPut s.dram.mem (writeAddr s b o.handle o.offset + 4 * i) (leBytes 4 (narrow .fp32 code (bitsFor site code (e i)) nonsat x)) := by
  have hbits : codeBits o.fmt = 32 := by rw [codeBits, h.fmt]; rfl
  have hpos : (((o.offset * 8 + i * 32 : Nat) : Int) / 8).toNat = o.offset + 4 * i := by omega
  have hone : writeRun s p span o i site code e nonsat [x] = writeElem s p span o i site code (e i) nonsat x := by
    unfold writeRun
    rw [h.fmt]
    rfl
  have hraw : writeElem s p span o i site code (e i) nonsat x
      = writeRaw s p span o i (narrow .fp32 code (bitsFor site code (e i)) nonsat x) := by
    unfold writeElem
    rw [h.fmt]
  rw [hone, hraw, writeRaw, h.elemBit, widenBits, if_pos rfl, hbits, writeBitsAt, if_neg (by omega), if_neg (by decide), hpos,
    writeBytes_mem h, writeAddr_add]

/-- Elements written one after the other are words of memory. -/
theorem foldl_writeRun_fp32 (h : DenseFp32 p o b) (span : Nat → Nat) (site : RngSite) (code : Nat) (e : Nat → Nat) (nonsat : Bool)
    (x : Nat → Num) (s : State) (n : Nat) :
    ((List.range n).foldl (fun t i => writeRun t p (span i) o i site code e nonsat [x i]) s).dram.mem
      = storeWords s.dram.mem (writeAddr s b o.handle o.offset) (fun i => narrow .fp32 code (bitsFor site code (e i)) nonsat (x i)) n := by
  induction n with
  | zero => rfl
  | succ n ih =>
    have hbytes : noBytes ((List.range n).foldl (fun t i => writeRun t p (span i) o i site code e nonsat [x i]) s) = noBytes s :=
      noBytes_foldl (fun _ _ => noBytes_writeRun ..) _ _
    rw [List.range_succ, List.foldl_append, List.foldl_cons, List.foldl_nil, writeRun_fp32_mem h, ih, writeAddr_of_noBytes hbytes,
      storeWords_succ]

theorem DenseFp32.padOutput (h : DenseFp32 p o b) (s : State) (d : Desc) (n : Nat) : padOutput s p d o n = s := by
  have hpad : ∀ x, padScales s p x o n = s := fun x => by
    unfold padScales
    rw [h.fmt]
    rfl
  unfold Machine.padOutput
  rw [h.bank]
  exact hpad _

-- -------------------------------------------------------------------------------- the run

/-- The elements of OUT, one write each. -/
def matmulElems (s : State) (p : Plan) (d : Desc) : State :=
  (List.range (mmM d * mmN d)).foldl (fun t i =>
    writeRun t p (groupSpan d (mmSplitK d) (mmBlock d (i / mmN d) (i % mmN d)).1 0) (mmOut d) i (siteOf p (stepT s p) d 0) (outRound d)
      (elemIndex p.param (mmOut d)) false [mmValue s p d (chainFirst p d.seq d) (i / mmN d) (i % mmN d)]) s

theorem matmulOutputs_fp32 (d : Desc) (h : DenseFp32 p (mmOut d) b) (hacc : mmAccOut d = 0) (s : State) (pass : Nat) :
    matmulOutputs s p d pass = matmulElems s p d := by
  have hlen : runLength (mmOut d) = 1 := by rw [runLength, h.fmt]; rfl
  have hout : matmulOutputs s p d pass
      = padOutput ((List.range (mmM d * mmN d / runLength (mmOut d))).foldl (fun t r =>
          writeRun t p (groupSpan d (mmSplitK d)
              (mmBlock d (r * runLength (mmOut d) / mmN d) (r * runLength (mmOut d) % mmN d)).1 0) (mmOut d) (r * runLength (mmOut d))
            (siteOf p (stepT s p) d 0) (outRound d) (elemIndex p.param (mmOut d)) false
            ((List.range (runLength (mmOut d))).map fun j => mmValue s p d (chainFirst p d.seq d)
              ((r * runLength (mmOut d) + j) / mmN d) ((r * runLength (mmOut d) + j) % mmN d))) s) p d (mmOut d) (mmM d * mmN d) := by
    unfold matmulOutputs
    dsimp only
    split
    case h_1 h1 => rw [hacc] at h1; cases h1
    case h_2 h2 => rw [hacc] at h2; cases h2
    case h_3 => rfl
  rw [hout, h.padOutput, hlen, Nat.div_one, matmulElems]
  simp only [Nat.mul_one, List.range_one, List.map_cons, List.map_nil, Nat.add_zero]

/-- The words that MATMUL writes. -/
theorem matmulRun_mem (d : Desc) (h : DenseFp32 p (mmOut d) b) (hacc : mmAccOut d = 0) (s : State) (pass : Nat) :
    (matmulRun s p d pass).dram.mem = storeWords s.dram.mem (writeAddr s b (mmOut d).handle (mmOut d).offset)
      (fun i => narrow .fp32 (outRound d) (bitsFor (siteOf p (stepT s p) d 0) (outRound d) (elemIndex p.param (mmOut d) i)) false
        (mmValue s p d (chainFirst p d.seq d) (i / mmN d) (i % mmN d))) (mmM d * mmN d) := by
  have hres : ∀ t : State, (noteResident t d).dram = t.dram := fun t => ite_keeps (g := State.dram) rfl rfl
  rw [matmulRun, hres, matmulOutputs_fp32 d h hacc]
  exact foldl_writeRun_fp32 h (fun i => groupSpan d (mmSplitK d) (mmBlock d (i / mmN d) (i % mmN d)).1 0) _ _ _ _
    (fun i => mmValue s p d (chainFirst p d.seq d) (i / mmN d) (i % mmN d)) s _

-- -------------------------------------------------------------------------------- before the run

theorem cacheReads_left (s : State) (p : Plan) (seq : Nat) (spans : List Nat) (us : List Use) :
    ((cacheReads s p seq spans us).dram, (cacheReads s p seq spans us).ks) = (s.dram, s.ks) := by
  unfold cacheReads
  refine foldl_keeps (g := fun s : State => (s.dram, s.ks)) (fun s u => ?_) us s
  refine ite_keeps (g := fun s : State => (s.dram, s.ks)) rfl ?_
  split
  · rfl
  · refine ite_keeps (g := fun s : State => (s.dram, s.ks)) rfl (foldl_keeps (g := fun s : State => (s.dram, s.ks)) (fun s r => ?_) _ _)
    refine foldl_keeps (g := fun s : State => (s.dram, s.ks)) (fun s j => ?_) _ _
    refine ite_keeps (g := fun s : State => (s.dram, s.ks)) rfl (foldl_keeps (g := fun s : State => (s.dram, s.ks)) (fun s q => ?_) _ _)
    exact ite_keeps (g := fun s : State => (s.dram, s.ks)) rfl (ite_keeps (g := fun s : State => (s.dram, s.ks)) rfl rfl)

/-- With no output of 4-bit elements no byte is filled in before the run. -/
theorem prefillNibbles_of_whole {us : List Use} (h : ∀ u ∈ us, u.write = false ∨ sharesBytes p.param u.o = false) :
    prefillNibbles s p us = s := by
  unfold prefillNibbles
  induction us with
  | nil => rfl
  | cons u us ih =>
    rw [List.foldl_cons, if_pos]
    · exact ih fun v hv => h v (List.mem_cons_of_mem _ hv)
    · obtain hread | hwhole := h u List.mem_cons_self
      · simp [hread]
      · simp [hwhole]

theorem matmulUses_whole (d : Desc) (h : DenseFp32 p (mmOut d) b) (hacc : mmAccOut d = 0) :
    ∀ u ∈ present (matmulUses p d), u.write = false ∨ sharesBytes p.param u.o = false := by
  have hout : sharesBytes p.param (mmOut d) = false := by
    unfold sharesBytes
    rw [if_neg (not_not_intro h.stream), codeBits, h.fmt]
    rfl
  intro u hu
  have hu := (List.mem_filter.1 hu).1
  unfold matmulUses at hu
  dsimp only at hu
  rw [hacc] at hu
  simp only [List.mem_append, List.mem_cons, List.not_mem_nil, or_false] at hu
  obtain ((rfl | rfl | rfl) | hin) | rfl := hu
  · exact .inl rfl
  · exact .inl rfl
  · exact .inl rfl
  · split at hin
    · rw [List.mem_singleton.1 hin]
      exact .inl rfl
    · cases hin
  · exact .inr hout

end

/-- Settles O40: OUT's elements are words of memory, written one after the other from values that are known before. -/
theorem matmulStoresItsProduct : Obligations.MatmulStoresItsProduct := by
  unfold Obligations.MatmulStoresItsProduct
  intro s seq p d i b hdue hwf hsplit us u howned hst out hacc hfmt hstream hskip hbank hbuf c a
  have hpart : partDesc p d 0 = d := by unfold partDesc; rw [hsplit]
  have hdense : DenseFp32 p (mmOut d) b := ⟨hfmt, hstream, hskip, hbank, hbuf⟩
  have hrow := denseAndUpdateOperators.1.1 s seq 0 p d i hdue (.inl rfl)
  rw [hpart] at hrow
  obtain ⟨t, hexec, -, hmem, -, -, -⟩ := hrow.2.2 howned hst
  have hleft := cacheReads_left u p seq (unitSpans d) us
  have hc : c = cacheReads u p seq (unitSpans d) us := prefillNibbles_of_whole (matmulUses_whole d hdense hacc)
  have hcmem : c.dram.mem = s.dram.mem := by
    rw [hc, show (cacheReads u p seq (unitSpans d) us).dram = u.dram from congrArg Prod.fst hleft]
    exact touchSectors_mem ..
  have hcks : c.ks = s.ks := by
    rw [hc, show (cacheReads u p seq (unitSpans d) us).ks = u.ks from congrArg Prod.snd hleft]
    exact touchSectors_ks ..
  have haddr : writeAddr c b (mmOut d).handle (mmOut d).offset = a := by simp only [writeAddr, workingHalf, hcks, a, out]
  have hwords := hmem.trans (matmulRun_mem d hdense hacc c 0)
  rw [haddr, hcmem] at hwords
  have hwf' : tabWf 0 s.dram.mem = true := mem_of_wf hwf
  refine ⟨t, hexec, fun k hk => ?_, fun x hx => ?_⟩
  · rw [hwords, memNat_storeWords hwf' hk]
  · rw [hwords, tabGet_storeWords_other hwf' hx]

end Sys2Proof.Machine
